-- ==== Sys2Proof/Word.lean ====
section
/-! DEFINITION. The word types of the Enwizer: a lane of 32 bits, a doubleword of 64 bits, a byte. -/

namespace Sys2Proof

/-- A byte of any memory. -/
abbrev Byte := BitVec 8

/-- A lane of a token (R13): 32 bits. -/
abbrev Lane := BitVec 32

/-- A 64-bit value: a courier register (R307), an address, a postmark (R27), a TAG (R17). -/
abbrev Dword := BitVec 64

/-- The five sticky IEEE flags NV, DZ, OF, UF, NX, high to low (R56). -/
abbrev Flags := BitVec 5

end Sys2Proof
end

