-- ==== Sys2Proof/Syntax.lean ====
section
/-! DEFINITION. The syntax: element types, code fields, the three instruction words (R67, R74, R82), and `Instr`,
one constructor for each row of spec/opcode_table.json. -/

namespace Sys2Proof

/-- Element types (R40). -/
inductive Ty where
  | i32 | u32 | i64 | u64 | f32 | f64 | bf16 | f16 | e4m3 | e5m2 | i8 | u8 | i16 | u16 | pred
  deriving DecidableEq, Repr

/-- Rounding modes (R48). -/
inductive Rnd where
  | rne | rtz | rup | rdn | rna | rsr | rto
  deriving DecidableEq, Repr

/-- Output tag rules (R72). -/
inductive TagOp where
  | same | iter | pop | zero | outer
  deriving DecidableEq, Repr

/-- The ARITY codes 00, 01 and 10 (R67). -/
inductive Arity where
  | mono | dyad | lit
  deriving DecidableEq, Repr

/-- Scopes (R73). -/
inductive Scope where
  | tile | depot | die | package | system
  deriving DecidableEq, Repr

/-- BSEL codes (R75): wB, IMM, or the firing's operand pa or pb. -/
inductive BSel where
  | reg | imm | operand
  deriving DecidableEq, Repr

/-- A node record (R67) without its opcode. -/
structure NodeRec where
  type : Ty
  rnd : Rnd
  tagop : TagOp
  arity : Arity
  ord : Bool
  modx : BitVec 5
  dsta : BitVec 19
  dstb : BitVec 19
  lit : BitVec 32
  deriving DecidableEq, Repr

/-- A block instruction (R74) without its opcode. -/
structure BlockRec where
  d : BitVec 3
  a : BitVec 3
  b : BitVec 3
  c : BitVec 3
  type : Ty
  rnd : Rnd
  bsel : BSel
  m : BitVec 3
  imm : BitVec 32
  deriving DecidableEq, Repr

/-- A shared function stands in a node record or in a block instruction (R78). -/
inductive Shared where
  | node (r : NodeRec)
  | block (b : BlockRec)
  deriving DecidableEq, Repr

/-- The host's answer to an ATS translation request (R281). -/
inductive AtsAnswer where
  | granted (frame : Nat) (r w : Bool)
  | notPresent
  | refused
  deriving DecidableEq, Repr

/-- An address space of the host (R279, R385): a PASID of a partition's function. -/
structure HostSpace where
  part : Nat
  pasid : Nat
  deriving DecidableEq, Repr

/-- What a flit under way belongs to (R250): a token, another message between tiles, a memory request or its reply, a spill write
or probe of a desk, an arrival at a barrier, or control. -/
inductive FlitOf where
  | token (id : Nat)
  | cargo (id : Nat)
  | request (id : Nat)
  | reply (id : Nat)
  | spill (vdesk : Nat)
  | barrier
  | control
  deriving DecidableEq, Repr

/-- A doorbell page of BAR2, and the function that writes it (R386). -/
structure BarPage where
  fn : Nat
  queue : Nat
  deriving DecidableEq, Repr

/-- The bytes of BAR0 that an access names (R387). -/
structure BarSpan where
  offset : Nat
  bytes : Nat
  deriving DecidableEq, Repr

/-- What an invalidation names (R283): a partition or a PASID, and an address range. -/
inductive InvalScope where
  | part (part base bytes : Nat)
  | pasid (pasid base bytes : Nat)
  deriving DecidableEq, Repr

/-- An invalidation's range, and the page table entries, by address, that Oatin changes with it (R282, R283). -/
structure Remap where
  scope : InvalScope
  entries : List (Nat × BitVec 64)
  deriving DecidableEq, Repr

/-- A partition as Oatin sets it (R375): its depots, page-table root and backfill policy. -/
structure BootPart where
  depots : List Nat
  root : Nat
  backfill : Bool
  deriving DecidableEq, Repr

/-- What Oatin's initialisation brings (R394): whether it succeeded, the bad-node register (R256), the memory layout of the
MEMORY capability (R390), stacks, couriers, links, certificate chain, versions, the partitions and the route tables (R251),
the RATE and DEPTH of the ingress meters, meter k of the region in slot n at place 4 n + k (R381), the power budget (R382), the
bytes of the certificate chain (R395), this package's domain number (R405). -/
structure BootConfig where
  ok : Bool
  badnode : List (BitVec 64)
  memBytes : Nat
  reservedBase : Nat
  reservedBytes : Nat
  undoBytes : Nat
  stackMap : Nat
  courierMap : Nat
  linkMap : Nat
  attOffset : Nat
  attLength : Nat
  version : Nat
  parts : List BootPart
  routes : List (List Nat)
  meterRate : List Nat
  meterDepth : List Nat
  budget : Nat
  chain : List (BitVec 8)
  domain : Nat
  deriving DecidableEq, Repr

/-- An uncorrectable error (R248, R398): a device memory line read for a launch, an entry owned by a launch, an unowned
structure of a die, a tile SRAM word, or a device memory line that no launch has read yet. -/
inductive MemError where
  | read (slot line : Nat)
  | owned (slot : Nat)
  | die (die : Nat)
  | sram (slot vtile word : Nat)
  | line (line : Nat)
  deriving DecidableEq, Repr

/-- A declaration that a binding handshake brings for a cross-package arc (R409, R410): its package's domain number and its
partition, the rank and the rendezvous number it names, whether it is the producer's, its launch slot and arc number there, DELAY, its
letterbox's SLOTS and SLOTB where it is the consumer's, and its rate declarations by set. -/
structure ArcPeer where
  pkg : Nat
  part : Nat
  rank : Nat
  rendezvous : Nat
  producer : Bool
  slot : Nat
  arc : Nat
  delay : Nat
  slots : Nat
  slotb : Nat
  rates : List (Nat × List Nat × List Nat)
  deriving DecidableEq, Repr

/-- One route entry of a communicator (R407). -/
structure CommEntry where
  valid : Bool
  pkg : Nat
  rpart : Nat
  planes : BitVec 18
  deriving DecidableEq, Repr

/-- What a link flit carries (R403 to R406): an arc message, a returned credit, an acknowledgement only, the demand for the stream
again, and, between the Oatin instances of the domain, a failure notice, an arc's declaration (in answer to one, or not), a
communicator's routes, an attestation relay. -/
inductive LinkKind where
  | message (slot arc msg : Nat) (bytes : List (BitVec 8))
  | credit (slot arc : Nat)
  | idle
  | again
  | notice (plane pkg : Nat)
  | declare (peer : ArcPeer) (answer : Bool)
  | routes (comm : Nat) (entries : List CommEntry)
  | relay (bytes : List (BitVec 8))
  deriving DecidableEq, Repr

/-- The instructions and events of the opcode table, one constructor for each of its rows.
A shared function stands in its node form or its block form; an event names the items of `State` it is about. -/
inductive Instr where
  /-- ADD, R160. Adds the elements of a and b modulo 2^n, as a node or as a block instruction. -/
  | add (w : Shared)
  /-- SUB, R160. Subtracts b from a modulo 2^n. -/
  | sub (w : Shared)
  /-- ADDS, R160. Adds a and b and clamps the sum to the range of TYPE. -/
  | adds (w : Shared)
  /-- SUBS, R160. Subtracts b from a and clamps the difference to the range of TYPE. -/
  | subs (w : Shared)
  /-- MUL, R160. Multiplies a by b modulo 2^n. -/
  | mul (w : Shared)
  /-- MULH, R160. Returns the high half of the product of a and b. -/
  | mulh (w : Shared)
  /-- DIV, R55. Divides a by b with truncation toward zero; division by zero sets DZ. -/
  | div (w : Shared)
  /-- REM, R55. Returns the remainder of a divided by b, with the sign of the dividend. -/
  | rem (w : Shared)
  /-- MIN, R160. Returns the lesser of a and b, compared signed or unsigned by TYPE. -/
  | min (w : Shared)
  /-- MAX, R160. Returns the greater of a and b, compared signed or unsigned by TYPE. -/
  | max (w : Shared)
  /-- ABS, R160. Returns the absolute value of a modulo 2^n. -/
  | abs (w : Shared)
  /-- NEG, R160. Returns -a modulo 2^n. -/
  | neg (w : Shared)
  /-- AND, R160. Returns the bitwise AND of a and b. -/
  | and (w : Shared)
  /-- OR, R160. Returns the bitwise OR of a and b. -/
  | or (w : Shared)
  /-- XOR, R160. Returns the bitwise exclusive OR of a and b. -/
  | xor (w : Shared)
  /-- ANDN, R160. Returns a AND NOT b. -/
  | andn (w : Shared)
  /-- NOT, R160. Returns the bitwise complement of a. -/
  | not (w : Shared)
  /-- SHL, R161. Shifts a left by the control count. -/
  | shl (w : Shared)
  /-- SHR, R161. Shifts a right by the control count, shifting in zeros. -/
  | shr (w : Shared)
  /-- SAR, R161. Shifts a right by the control count, shifting in copies of the sign bit. -/
  | sar (w : Shared)
  /-- ROL, R161. Rotates a left by the control count modulo n. -/
  | rol (w : Shared)
  /-- CLZ, R160. Counts the zero bits above the highest set bit of a. -/
  | clz (w : Shared)
  /-- CTZ, R160. Counts the zero bits below the lowest set bit of a. -/
  | ctz (w : Shared)
  /-- POPC, R160. Counts the set bits of a. -/
  | popc (w : Shared)
  /-- BREV, R160. Reverses the bit order of a. -/
  | brev (w : Shared)
  /-- BFX, R161. Extracts a bit field from a, as given by the field specification in b. -/
  | bfx (w : Shared)
  /-- BFI, R161. Inserts b into a bit field of a, as given by the field specification in c. -/
  | bfi (w : Shared)
  /-- MAD, R160. Computes a times b plus c modulo 2^n. -/
  | mad (w : Shared)
  /-- IDX, R160. Computes a plus b shifted left by sh, modulo 2^n. -/
  | idx (w : Shared)
  /-- SEL, R160. Selects b where the predicate of a is 1, and c elsewhere. -/
  | sel (w : Shared)
  /-- MOV, R160. Copies a unchanged. -/
  | mov (w : Shared)
  /-- CONST, R160. Emits the literal value in every element, on a trigger. -/
  | const (w : Shared)
  /-- CEQ, R162. Writes a predicate that is true where a equals b. -/
  | ceq (w : Shared)
  /-- CNE, R162. Writes a predicate that is true where a differs from b. -/
  | cne (w : Shared)
  /-- CLT, R162. Writes a predicate that is true where a is less than b. -/
  | clt (w : Shared)
  /-- CLE, R162. Writes a predicate that is true where a is at most b. -/
  | cle (w : Shared)
  /-- CGT, R162. Writes a predicate that is true where a is greater than b. -/
  | cgt (w : Shared)
  /-- CGE, R162. Writes a predicate that is true where a is at least b. -/
  | cge (w : Shared)
  /-- CUN, R162. Writes a predicate that is true where a or b is a NaN. -/
  | cun (w : Shared)
  /-- CLASS, R162. Writes a predicate that is true where the class of a is set in the mask b. -/
  | classify (w : Shared)
  /-- TEST, R162. Writes a predicate that is true where a AND b is not zero. -/
  | test (w : Shared)
  /-- FADD, R163. Adds a and b and rounds the sum once. -/
  | fadd (w : Shared)
  /-- FSUB, R163. Subtracts b from a and rounds the difference once. -/
  | fsub (w : Shared)
  /-- FMUL, R163. Multiplies a by b and rounds the product once. -/
  | fmul (w : Shared)
  /-- FMA, R163. Computes a times b plus c with a single rounding. -/
  | fma (w : Shared)
  /-- FMS, R163. Computes a times b minus c with a single rounding. -/
  | fms (w : Shared)
  /-- FNMA, R163. Computes c minus a times b with a single rounding. -/
  | fnma (w : Shared)
  /-- FDIV, R163. Divides a by b and rounds the quotient once. -/
  | fdiv (w : Shared)
  /-- FSQRT, R163. Takes the square root of a and rounds it once. -/
  | fsqrt (w : Shared)
  /-- FMIN, R46. Returns the IEEE 754-2019 minimum of a and b. -/
  | fmin (w : Shared)
  /-- FMAX, R46. Returns the IEEE 754-2019 maximum of a and b. -/
  | fmax (w : Shared)
  /-- FABS, R163. Returns the magnitude of a, exactly. -/
  | fabs (w : Shared)
  /-- FNEG, R163. Returns the negation of a, exactly. -/
  | fneg (w : Shared)
  /-- FCPYS, R163. Returns the magnitude of a with the sign bit of b. -/
  | fcpys (w : Shared)
  /-- FRINT, R164. Rounds a to an integral value under RND. -/
  | frint (w : Shared)
  /-- FSCALE, R163. Multiplies a by 2^k, where k is the i32 control value of b. -/
  | fscale (w : Shared)
  /-- FEXPO, R163. Returns floor(log2|a|), exactly. -/
  | fexpo (w : Shared)
  /-- FMANT, R163. Returns the significand of a, scaled into [1, 2), with the sign of a. -/
  | fmant (w : Shared)
  /-- FRAC, R163. Returns a minus trunc(a), with the sign of a. -/
  | frac (w : Shared)
  /-- CVT, R165. Converts each element from the source type in MOD[3:0] to TYPE. -/
  | cvt (w : Shared)
  /-- CVTS, R166. Converts between FP8 and a wider type, using E8M0 block scales. -/
  | cvts (w : Shared)
  /-- PKBF, R167. Packs two f32 operands into one bf16 or f16 token. -/
  | pkbf (w : Shared)
  /-- BCAST, R168. Broadcasts unit j of a to every unit. -/
  | bcast (w : Shared)
  /-- LGET, R168. Places unit j of a in unit 0 and zeroes the other units. -/
  | lget (w : Shared)
  /-- LSET, R168. Replaces unit j of a with unit 0 of b. -/
  | lset (w : Shared)
  /-- SHUF, R168. Fills each unit of the result from the unit of a that its per-lane index names. -/
  | shuf (w : Shared)
  /-- ROT, R168. Rotates the units of a toward higher unit numbers. -/
  | rot (w : Shared)
  /-- LSUM, R60. Sums the elements of a along the fixed pairwise tree. -/
  | lsum (w : Shared)
  /-- LMIN, R169. Delivers the least included element in every element. -/
  | lmin (w : Shared)
  /-- LMAX, R169. Delivers the greatest included element in every element. -/
  | lmax (w : Shared)
  /-- SCAN, R61. Forms the inclusive prefix sums of a in ascending element order. -/
  | scan (w : Shared)
  /-- COMPACT, R168. Packs the units of a whose predicate is 1 toward unit 0. -/
  | compact (w : Shared)
  /-- PUSHT, R108. Pushes a tag field of width w onto the tag. -/
  | pusht (r : NodeRec)
  /-- POPT, R109. Removes the innermost tag field. -/
  | popt (r : NodeRec)
  /-- ITER, R110. Increments tag field d and zeroes every field inside it. -/
  | iter (r : NodeRec)
  /-- SETT, R111. Sets tag field d to a value and zeroes every field inside it. -/
  | sett (r : NodeRec)
  /-- GETT, R112. Emits the value of a tag field, or the whole TAG, as data. -/
  | gett (r : NodeRec)
  /-- FRAME, R113. Creates an ordinary frame with its creator's FID and postmark. -/
  | frame (r : NodeRec)
  /-- SPAWN, R113. Creates a child frame whose FID is extended by a spawn ordinal. -/
  | spawn (r : NodeRec)
  /-- SPAWNT, R113. Creates a speculative task frame with a postmark, taking a task context and writing a spawn record. -/
  | spawnt (r : NodeRec)
  /-- FREE, R114. Releases its frame into DRAINING, or marks the end of a task. -/
  | free (r : NodeRec)
  /-- CTXW, R116. Grants a vector width, capped by the declared fold. -/
  | ctxw (r : NodeRec)
  /-- PACK, R117. Joins two equal-coloured operands into one token of twice the lanes. -/
  | pack (r : NodeRec)
  /-- UNPACK, R118. Splits an operand into two halves sent to DSTA and DSTB. -/
  | unpack (r : NodeRec)
  /-- RECOL, R119. Re-colours its operand to m lanes. -/
  | recol (r : NodeRec)
  /-- STEER, R120. Routes a whole token to DSTA or DSTB by a predicate. -/
  | steer (r : NodeRec)
  /-- MERGE, R121. Passes on every token from either port without matching. -/
  | merge (r : NodeRec)
  /-- GATE, R126. Admits at most k loop iterations at once, using credits on port b. -/
  | gate (r : NodeRec)
  /-- GATEREL, R127. Returns a credit for iteration v + k to its GATE at loop exit. -/
  | gaterel (r : NodeRec)
  /-- COPY, R122. Emits n tagged copies of a to DSTA, then a to DSTB. -/
  | copy (r : NodeRec)
  /-- SINK, R123. Consumes its operand and records root last post for the end of the launch. -/
  | sink (r : NodeRec)
  /-- LPOST, R125. Emits the data operand followed by a last post. -/
  | lpost (r : NodeRec)
  /-- WAITLP, R125. Turns a last post into an ordinary trigger token on DSTB. -/
  | waitlp (r : NodeRec)
  /-- SYNC, R115. Fires its held tokens once the frame is drained and has no unfinished child. -/
  | sync (r : NodeRec)
  /-- SEQ, R129. Launches a block of its virtual tile in a free block context. -/
  | seq (r : NodeRec)
  /-- GET, R171. Writes pa, pb, the SEQ parameter or the lane numbers into wD. -/
  | get (b : BlockRec)
  /-- EMIT, R172. Prepares a token from wA, to be sent at commit. -/
  | emit (b : BlockRec)
  /-- EMITC, R172. Prepares a token from wA when the condition in wB holds. -/
  | emitc (b : BlockRec)
  /-- LDTB, R173. Loads words from the tile SRAM into a block register. -/
  | ldtb (b : BlockRec)
  /-- STTB, R173. Records words for a tile SRAM write made at commit. -/
  | sttb (b : BlockRec)
  /-- XADD, R174. Records exact additions into an exact accumulator register, applied at commit. -/
  | xadd (b : BlockRec)
  /-- RDSYSB, R175. Writes a system value into a block register. -/
  | rdsysb (b : BlockRec)
  /-- LMASK, R176. Writes a lane mask for the range first to first + count. -/
  | lmask (b : BlockRec)
  /-- BLOCK_COMMIT, R177. When the last instruction completes, merges flags, performs the STTB writes and XADD additions, and sends the prepared tokens. -/
  | blockCommit (slot vtile ctx : Nat)
  /-- MMA, R188. Runs one panel step that adds the FIFO panel products into an accumulator bank. -/
  | mma (r : NodeRec)
  /-- MMAZ, R188. Runs one panel step that overwrites a bank with the products. -/
  | mmaz (r : NodeRec)
  /-- ACCRD, R192. Reads rows of a bank out as a stream of tokens. -/
  | accrd (r : NodeRec)
  /-- ACCZ, R193. Writes +0 to a whole bank and marks it defined. -/
  | accz (r : NodeRec)
  /-- FSKIP, R193. Removes n panels from the selected FIFOs without computing. -/
  | fskip (r : NodeRec)
  /-- TENSOR_QUEUE_START, R190. A queued tensor firing starts in the array, checks FIFO occupancy and then runs. -/
  | tensorQueueStart (slot vtile : Nat)
  /-- CORNER, R195. Transposes one panel in the tile SRAM using a corner-turn tap. -/
  | corner (r : NodeRec)
  /-- RANGE, R197. Splits each element into a reduced argument and an integer. -/
  | range (r : NodeRec)
  /-- LUT, R198. Evaluates a piecewise-linear table on the elements of a. -/
  | lut (r : NodeRec)
  /-- LUT_LOAD, R198. Copies 2,048 bytes of tile SRAM into a LUT table and marks it defined. -/
  | lutLoad (r : NodeRec)
  /-- REDUCE, R201. Adds elements, or their products, exactly into an exact accumulator register. -/
  | reduce (r : NodeRec)
  /-- XREAD, R202. Emits one rounding of an exact accumulator register. -/
  | xread (r : NodeRec)
  /-- XSEND, R203. Adds a register's value into a register of a target tile. -/
  | xsend (r : NodeRec)
  /-- XSEND_ARRIVAL, R203. At the target tile, an incoming XSEND is added exactly into the target register. -/
  | xsendArrival (slot id : Nat)
  /-- XMERGE, R204. Adds one register into another and ORs their sticky bits. -/
  | xmerge (r : NodeRec)
  /-- XCLR, R204. Clears a register and its sticky bits. -/
  | xclr (r : NodeRec)
  /-- DECODETAB, R205. Installs a code table into a decode slot of every courier of the launch. -/
  | decodetab (r : NodeRec)
  /-- LDT, R211. Reads units of tile SRAM and emits them. -/
  | ldt (r : NodeRec)
  /-- STT, R211. Writes the units of b to tile SRAM. -/
  | stt (r : NodeRec)
  /-- ATOMP, R213. Applies a posted atomic to tile SRAM or device memory. -/
  | atomp (r : NodeRec)
  /-- ATOMR, R213. Applies an atomic and returns the old elements. -/
  | atomr (r : NodeRec)
  /-- CASR, R214. Compares and swaps one element, returning the old value and a success flag. -/
  | casr (r : NodeRec)
  /-- SEND, R218. Sends a's payload as one message into a letterbox, taking one credit. -/
  | send (r : NodeRec)
  /-- MESSAGE_WRITE, R218. The target tile checks and writes a message into its slot, advances WSEQ and makes any barrier arrival. -/
  | messageWrite (slot id : Nat)
  /-- RECV, R219. Takes the next message of a letterbox, as a descriptor or as data. -/
  | recv (r : NodeRec)
  /-- FREESLOT, R220. Frees n messages of a letterbox and sends a freed-slot notice. -/
  | freeslot (r : NodeRec)
  /-- FREED_SLOT_NOTICE, R220. A freed-slot notice reaches a producer tile or courier and returns credit. -/
  | freedSlotNotice (slot id : Nat)
  /-- BARINIT, R224. Initialises a barrier object with EXPECT. -/
  | barinit (r : NodeRec)
  /-- ARRIVE, R225. Adds n bytes to a barrier object, advancing its phase when the count completes. -/
  | arrive (r : NodeRec)
  /-- WAITCNT, R226. Fires once a barrier reaches the target phase, and acquires the bytes counted. -/
  | waitcnt (r : NodeRec)
  /-- MODE, R234. At quiescence, makes a rate set active and emits its operand. -/
  | mode (r : NodeRec)
  /-- MODE_RECONF, R235. At quiescence, stages and seals a new manifest, or reports failure. -/
  | modeReconf (r : NodeRec)
  /-- QUIESCENCE_DETECTED, R234. The region unit detects that the launch is quiescent and releases the held MODE tokens. -/
  | quiescenceDetected (slot : Nat)
  /-- LDM, R269. Reads N lanes from device or host memory, with the reply sent from the home. -/
  | ldm (r : NodeRec)
  /-- STM, R271. Writes the units of b to memory. -/
  | stm (r : NodeRec)
  /-- DONE, R272. Completes as a wave member once its predecessor is performed at SCOPE. -/
  | done (r : NodeRec)
  /-- GATHER, R270. Reads one unit from each address. -/
  | gather (r : NodeRec)
  /-- SCATTER, R271. Writes one unit to each address. -/
  | scatter (r : NodeRec)
  /-- WAVE_ISSUE, R265. The region store buffer issues a request to its home once its predecessor is performed. -/
  | waveIssue (slot id : Nat)
  /-- MEMORY_PERFORM, R267. The home die memory node performs a request after the race check, and replies. -/
  | memoryPerform (slot id : Nat)
  /-- PERFORMED_NOTICE, R268. A performed notice from another die's buffer releases the waiting requests of a chain. -/
  | performedNotice (slot id : Nat)
  /-- WALK_COMPLETE, R279. A page table walk ends; the waiting frame is released and its request is made again. -/
  | walkComplete (slot id : Nat)
  /-- ATS_ANSWER, R281. The host's answer to an ATS translation request arrives. -/
  | atsAnswer (space : HostSpace) (vpn : Nat) (answer : AtsAnswer)
  /-- PRI_RESPONSE, R281. A PRI page request response arrives, either releasing or faulting the waiting requests. -/
  | priResponse (space : HostSpace) (vpn : Nat) (success : Bool)
  /-- INVALIDATION, R283. An invalidation request removes the matching translation entries. -/
  | invalidation (id : Nat) (remap : Remap)
  /-- INVALIDATION_COMPLETE, R283. Once every request translated under a removed entry is performed, the invalidation completion is posted. -/
  | invalidationComplete (id : Nat)
  /-- SEMSIG, R372. Sets or adds a semaphore after earlier accesses reach SCOPE. -/
  | semsig (r : NodeRec)
  /-- SEMWAIT, R372. Waits at the home until a semaphore reaches b, then acquires. -/
  | semwait (r : NodeRec)
  /-- SEMWAIT_HOST_POLL, R372. Every 1,024 cycles a waiting host semaphore is read again. -/
  | semwaitHostPoll (slot id : Nat)
  /-- NOP, R371. Emits its operand unchanged. -/
  | nop (r : NodeRec)
  /-- RDSYS, R371. Emits a system value selected by LIT. -/
  | rdsys (r : NodeRec)
  /-- TAILL, R373. Registers a child record for tail launch at the parent's end. -/
  | taill (r : NodeRec)
  /-- TRAP, R245. Traps USER_TRAP unconditionally or on a predicate. -/
  | trap (r : NodeRec)
  /-- BRK, R245. Traps BREAKPOINT. -/
  | brk (r : NodeRec)
  /-- RESUME_SUBSTITUTE, R246. Resolves a ticket by emitting a substitute for the faulted activation. -/
  | resumeSubstitute (r : NodeRec)
  /-- RESUME_RETRY, R246. Resolves a ticket by running the faulted firing again. -/
  | resumeRetry (r : NodeRec)
  /-- RESUME_POISON, R246. Resolves a ticket by emitting dead letters in place of the activation. -/
  | resumePoison (r : NodeRec)
  /-- KILLF, R247. Moves the ticket's frame to DRAINING and discards its tasks. -/
  | killf (r : NodeRec)
  /-- PARK_NOTICE, R240. A desk receives a park notice and withdraws the frame's tokens. -/
  | parkNotice (slot vdesk fh : Nat)
  /-- ARCOUT, R413. Sends a's payload as message q on a cross-package arc. -/
  | arcout (r : NodeRec)
  /-- ARCIN, R414. Emits an initial token, or takes the next arc message and returns credit. -/
  | arcin (r : NodeRec)
  /-- ARC_MESSAGE_ARRIVAL, R415. A cross-package message passes the meter and is checked and written into its slot. -/
  | arcMessageArrival (slot id : Nat)
  /-- ARC_CREDIT, R413. A credit returned by ARCIN reaches the ARCOUT. -/
  | arcCredit (slot arc : Nat)
  /-- ROUND, R307. Starts a round on the node's courier with registers from the parameter token. -/
  | round (r : NodeRec)
  /-- ROUNDSTOP, R308. Stops every running round with the given ROUNDID. -/
  | roundstop (r : NodeRec)
  /-- SETG, R312. Sets a round register to a sign-extended immediate. -/
  | setg (gd : BitVec 3) (imm : BitVec 48)
  /-- ADDG, R312. Adds an immediate to a round register. -/
  | addg (gd ga : BitVec 3) (imm : BitVec 48)
  /-- ADDGG, R312. Adds a shifted register to a register. -/
  | addgg (gd ga gb : BitVec 3) (sh : BitVec 6)
  /-- LOOP, R312. Enters a counted loop, or skips it when the count is zero. -/
  | loop (gd : BitVec 3) (skip : BitVec 10) (count : BitVec 32)
  /-- ENDL, R312. Decrements the loop counter and branches back while it is non-zero. -/
  | endl (gd : BitVec 3) (back : BitVec 10)
  /-- FETCH, R315. Reads rows from memory into a staging buffer. -/
  | fetch (ga gs : BitVec 3) (buf : BitVec 2) (host : Bool) (rows : BitVec 8) (rowb : BitVec 11)
  /-- WAITSLOT, R314. Waits until a target's credit holds n units. -/
  | waitslot (gt : BitVec 3) (tgt : BitVec 7) (n : BitVec 8)
  /-- DECODE, R317. Expands one compressed block between staging buffers. -/
  | decode (bi bo tab : BitVec 2)
  /-- DELIVER, R316. Sends a staging buffer to a letterbox or FIFO, taking credit and passing the meter. -/
  | deliver (gt : BitVec 3) (buf : BitVec 2) (tgt : BitVec 7)
  /-- DELIVERY_ARRIVAL, R316. A courier delivery is written at the target letterbox slot or FIFO tail. -/
  | deliveryArrival (slot id : Nat)
  /-- COURIER_ARRIVE, R318. Performs a barrier arrival of BYTES on a target tile after all earlier accesses. -/
  | courierArrive (gt : BitVec 3) (bidx : BitVec 16) (bytes : BitVec 24)
  /-- TOKEN, R319. Emits one token to a node after all earlier accesses of the round. -/
  | token (dest : BitVec 19) (ga : BitVec 3) (fill : BitVec 7)
  /-- COURIER_SEMWAIT, R320. Waits until a semaphore reaches gV, then acquires. -/
  | courierSemwait (ga gv : BitVec 3)
  /-- COURIER_SEMSIG, R320. Sets or adds a semaphore once earlier accesses reach SCOPE. -/
  | courierSemsig (ga gv : BitVec 3) (add : Bool) (scope : Scope)
  /-- COURIER_SINK, R315. Reads a letterbox message and writes its rows to memory, freeing the slot. -/
  | courierSink (ga gs gt : BitVec 3) (host : Bool) (tgt : BitVec 7) (rows : BitVec 8) (rowb : BitVec 11)
  /-- END, R321. Ends the round once its accesses are performed, and emits the status token. -/
  | endRound
  /-- TOKEN_ARRIVAL, R134. A token delivered to a desk is matched, placed, spilled, probed or discarded. -/
  | tokenArrival (slot id : Nat)
  /-- SPILL_PROBE_RETURN, R37. A spill slot read returns, and the partner is matched or a collision is trapped. -/
  | spillProbeReturn (slot vdesk : Nat)
  /-- SPILL_WRITE_DONE, R136. A queued spill write is performed in device memory, freeing its queue entry. -/
  | spillWriteDone (slot vdesk : Nat)
  /-- FIRING_AGED, R138. A firing that has been ready for 4,096 live cycles becomes aged and is served first. -/
  | firingAged (slot vdesk index : Nat)
  /-- LATCH_BLOCKED, R135. A latch held longer than 4,096 cycles marks the desk blocked. -/
  | latchBlocked (slot vdesk : Nat)
  /-- HANDLE_RETURN, R23. When TOKENS and CHILDREN reach zero, a DRAINING frame's handle and spill area return to the pools. -/
  | handleReturn (fh : Nat)
  /-- HALT_REQUEST, R150. A halt request stops service on a tile and on the region's couriers. -/
  | haltRequest (slot : Nat)
  /-- HALT_COMPLETE, R150. A tile's halt completes once its in-flight work and spill traffic are done. -/
  | haltComplete (slot vtile : Nat)
  /-- FOLD_EXCHANGE, R149. Every 4,096 cycles a folded tile halts its live bank and resumes the other. -/
  | foldExchange (slot : Nat)
  /-- FLIT_RECEIVE, R254. A port receives a flit, checks its parity and retries or passes it on. -/
  | flitReceive (slot : Nat) (of : FlitOf) (depot port flit word : Nat) (corrupt retryCorrupt : Bool)
  /-- HOPLOG_CLEAR, R257. Writing 1 to VALID clears a hop log word. -/
  | hoplogClear (depot : Nat) (value : BitVec 64)
  /-- FRONTIER_REPORT, R258. Every 256 cycles each tile reports its least unfinished task key to its depot. -/
  | frontierReport (slot vtile : Nat)
  /-- EPOCH_CLOSE, R344. The package stage closes an epoch and forms F from the reduced reports. -/
  | epochClose (slot : Nat)
  /-- FRONTIER_BROADCAST, R345. A broadcast F reaches a tile and becomes its frontier. -/
  | frontierBroadcast (slot vtile : Nat)
  /-- MAILBAG_ENTRY, R334. A speculative store, atomic or SEND enters the mailbag after the speculation table check. -/
  | mailbagEntry (slot id : Nat)
  /-- TASK_RESPAWN, R340. Re-spawns the head of an aborted subtree from its spawn record. -/
  | taskRespawn (slot id : Nat)
  /-- TASK_FRONT_ENTRY, R347. A task whose key equals F enters TASK_FRONT, performs its held work and posts its deferred faults. -/
  | taskFrontEntry (slot fh : Nat)
  /-- TASK_COMMIT, R346. A finished task below F commits its lines and SENDs in key order. -/
  | taskCommit (slot fh : Nat)
  /-- DOORBELL, R389. A doorbell write sets a queue's TAIL, or is rejected. -/
  | doorbell (page : BarPage) (value : BitVec 64)
  /-- REGISTER_WRITE, R388. A host write to a register with no row of its own, such as a queue descriptor field or REVOKECTL HEAD. -/
  | registerWrite (fn : Nat) (span : BarSpan) (value : BitVec 64)
  /-- DISPATCH, R359. Every 16 cycles the dispatcher chooses the next eligible queue's record. -/
  | dispatch
  /-- QUEUE_WAIT_POLL, R355. Every 1,024 cycles the command processor re-reads the host memory waits of its records. -/
  | queueWaitPoll
  /-- LAUNCH, R364. A LAUNCH record is placed, fetched, validated and staged. -/
  | launch (queue : Nat)
  /-- COPY_RECORD, R356. A COPY record moves bytes between device and host memory. -/
  | copyRecord (queue : Nat)
  /-- FENCE, R356. A FENCE record does nothing beyond its waits and completion. -/
  | fence (queue : Nat)
  /-- INVAL, R356. An INVAL record runs an invalidation or is refused. -/
  | inval (queue : Nat)
  /-- SEAL_WAVE, R365. A staged tile answers the seal wave. -/
  | sealWave (slot vtile : Nat)
  /-- COMMIT_WAVE, R365. Once the seal wave returns, the banks are exchanged and data, frames and seeds are placed. -/
  | commitWave (slot : Nat)
  /-- ARC_BIND, R376. At a seal, a cross-partition or cross-package arc is bound to its peer, or marked mismatched. -/
  | arcBind (slot arc : Nat) (peer : Option ArcPeer)
  /-- LAUNCH_END, R369. The launch's end conditions hold; it halts, discards what remains and writes its completion. -/
  | launchEnd (slot : Nat)
  /-- SLOT_RELEASE, R362. A launch slot returns to use once no flit carrying it remains. -/
  | slotRelease (slot : Nat)
  /-- REGION_SHRINK, R378. After the halt, a victim region's state is moved and remapped, and it resumes folded. -/
  | regionShrink (slot : Nat)
  /-- FOLD_RESTORE, R379. Oatin restores a folded launch onto freed depots. -/
  | foldRestore (slot : Nat)
  /-- METER_REFILL, R381. Every 1,024 cycles each ingress meter gains RATE bytes, up to DEPTH. -/
  | meterRefill
  /-- CLOCK_STEP, R382. The power controller steps a die's tile clock. -/
  | clockStep (die mhz : Nat)
  /-- THERMAL_TRIP, R382. A thermal trip throttles a die's meters and clock. -/
  | thermalTrip (die : Nat)
  /-- THERMAL_CLEAR, R382. A cleared trip restores the die's meters and clock. -/
  | thermalClear (die : Nat)
  /-- DEADLOCK_SAMPLE, R383. Every 4,096 cycles the detector samples the wait-for relation and traps persistent cycles. -/
  | deadlockSample
  /-- DEADLOCK_IDLE, R384. A region idle for 65,536 live cycles while holding tokens traps DEADLOCK with detail 1. -/
  | deadlockIdle (slot : Nat)
  /-- BOOTGO, R394. Writing 1 to BOOTGO starts fetching the Oatin image. -/
  | bootgo (value : BitVec 64)
  /-- BOOT_IMAGE_CHECKED, R394. When the fetched image has been checked, boot enters INIT or FAILED. -/
  | bootImageChecked (fetched : Bool)
  /-- BOOT_READY, R394. When initialisation completes, STATE becomes READY, or FAILED with code 6. -/
  | bootReady (cfg : BootConfig)
  /-- ATTEST_GO, R395. Writing GO starts building an attestation report. -/
  | attestGo (value : BitVec 64)
  /-- ATTEST_REPORT_DONE, R395. The signed report is written and DONE is set. -/
  | attestReportDone
  /-- TELEMETRY_SAMPLE, R396. Every 1 ms the telemetry counters are sampled. -/
  | telemetrySample
  /-- RECOVERY, R400. An uncorrectable error recovers the affected launches by undo, epoch, revoke record and completion. -/
  | recovery (err : MemError)
  /-- VF_FLR, R402. An FLR of a VF stops its partition's launches and resets its queues. -/
  | vfFlr (part : Nat)
  /-- PF_RESET, R402. A PF FLR, hot reset or PCIe link down loses all state except bad-node bits. -/
  | pfReset
  /-- POWER_UP, R402. Power-up loses all state and sets STATE to WAITIMG. -/
  | powerUp
  /-- LINK_FLIT_RECEIVE, R404. A Lomcel Link flit is received, checked by CRC, and acknowledged or replayed. -/
  | linkFlitReceive (port seq ack : Nat) (kind : LinkKind) (crcOk : Bool)
  /-- LINK_ACK_TIMEOUT, R404. No acknowledgement for 10 µs takes the port down. -/
  | linkAckTimeout (port : Nat)
  /-- LINK_TRAINING_FAIL, R404. Lane training fails and the port goes down. -/
  | linkTrainingFail (port : Nat)
  /-- FAILURE_NOTICE, R418. A failure notice breaks the arcs on its plane. -/
  | failureNotice (plane : Nat) (pkg : Nat)
  /-- COMMUNICATOR_REBUILD, R420. Oatin rewrites a communicator and raises CVER, breaking the old arcs. -/
  | communicatorRebuild (comm : Nat) (entries : List CommEntry)
  /-- QUEUE_PRIO_WEIGHT_CHANGE, R359. Oatin writes a queue's PART, PRIO or WEIGHT, and a change of PRIO or WEIGHT resets the queue's round-robin counter to 0. -/
  | queuePrioWeightChange (queue part prio weight : Nat)
  deriving DecidableEq, Repr

end Sys2Proof
end

