-- ==== Sys2Proof/Machine/Bits.lean ====
section
/-! DEFINITION. Bit fields, sign extension and byte order over natural numbers and lanes: the helpers every other
file of the machine uses. -/

namespace Sys2Proof.Machine

/-- Two to the power `n`. -/
def pow2 (n : Nat) : Nat := 1 <<< n

/-- The mask of `n` low bits, `mask(n)` of R107. -/
def ones (n : Nat) : Nat := (1 <<< n) - 1

/-- The low `n` bits of `x`. -/
def low (n x : Nat) : Nat := x % (1 <<< n)

/-- The field of `n` bits of `x` whose lowest bit is bit `lo`. -/
def field (x lo n : Nat) : Nat := (x >>> lo) % (1 <<< n)

/-- Bit `i` of `x`. -/
def bit (x i : Nat) : Bool := (x >>> i) % 2 == 1

/-- The number 1 for true, 0 for false. -/
def b2n (b : Bool) : Nat := if b then 1 else 0

/-- `x` of `n` bits read as two's complement. -/
def toSigned (n x : Nat) : Int :=
  if bit x (n - 1) && n != 0 then (x : Int) - (1 <<< n : Nat) else x

/-- The low `n` bits of an integer in two's complement. -/
def ofInt (n : Nat) (x : Int) : Nat := (x % (1 <<< n : Nat)).toNat

/-- `x` of `n` bits sign-extended to `k` bits. -/
def sext (n k x : Nat) : Nat := ofInt k (toSigned n x)

/-- Bytes to a number, little-endian (R66). -/
def leNat : List Byte → Nat
  | [] => 0
  | b :: bs => b.toNat + 256 * leNat bs

/-- `n` bytes of a number, little-endian (R66). -/
def leBytes : Nat → Nat → List Byte
  | 0, _ => []
  | n + 1, x => BitVec.ofNat 8 x :: leBytes n (x / 256)

/-- The bytes of a list of lanes. -/
def laneBytes (ls : List Lane) : List Byte := ls.flatMap fun l => leBytes 4 l.toNat

/-- Bytes grouped into lanes of four; a short end is padded with zeros. -/
def bytesLanes : List Byte → List Lane
  | a :: b :: c :: d :: rest => BitVec.ofNat 32 (leNat [a, b, c, d]) :: bytesLanes rest
  | [] => []
  | l => [BitVec.ofNat 32 (leNat l)]

/-- Lane `i` of a list of lanes; 0 where there is none. -/
def laneAt (ls : List Lane) (i : Nat) : Lane := ls.getD i 0

/-- Lanes 1:0 as a 64-bit value, lane 0 low (R113). -/
def lanes64 (ls : List Lane) (i : Nat) : Nat := (laneAt ls i).toNat + (laneAt ls (i + 1)).toNat <<< 32

/-- A 64-bit value in two lanes, low half in the even lane (R13). -/
def lanesOf64 (x : Nat) : List Lane := [BitVec.ofNat 32 x, BitVec.ofNat 32 (x >>> 32)]

/-- The number of 1 bits among the `n` low bits of `x`. -/
def popCount : Nat → Nat → Nat
  | 0, _ => 0
  | n + 1, x => x % 2 + popCount n (x / 2)

/-- Even parity of the 32 bits of a lane (R12). -/
def parity32 (x : Nat) : Nat := popCount 32 x % 2

/-- The first `n` numbers. -/
def upTo (n : Nat) : List Nat := List.range n

/-- Lanes cut or padded with zeros to `n`. -/
def fitLanes (n : Nat) (ls : List Lane) : List Lane := (upTo n).map (laneAt ls)

/-- The entry of a key in a list of pairs. -/
def assoc {α β : Type} [BEq α] (l : List (α × β)) (k : α) : Option β :=
  match l with
  | [] => none
  | (a, b) :: t => if a == k then some b else assoc t k

/-- The list of pairs with a key's entry replaced, or appended where there was none. -/
def assocSet {α β : Type} [BEq α] (l : List (α × β)) (k : α) (v : β) : List (α × β) :=
  match l with
  | [] => [(k, v)]
  | (a, b) :: t => if a == k then (k, v) :: t else (a, b) :: assocSet t k v

/-- The list of pairs without a key's entries. -/
def assocDel {α β : Type} [BEq α] (l : List (α × β)) (k : α) : List (α × β) :=
  l.filter fun p => !(p.1 == k)

/-- Insertion into a list sorted by `lt`, after equal entries. -/
def insertBy {α : Type} (lt : α → α → Bool) (x : α) : List α → List α
  | [] => [x]
  | y :: ys => if lt x y then x :: y :: ys else y :: insertBy lt x ys

/-- A list sorted by `lt`; equal entries keep their order. -/
def sortBy {α : Type} (lt : α → α → Bool) (l : List α) : List α := l.foldl (fun acc x => insertBy lt x acc) []

/-- The first least entry of a list by `lt`. -/
def leastBy {α : Type} (lt : α → α → Bool) : List α → Option α
  | [] => none
  | x :: xs => some (xs.foldl (fun m y => if lt y m then y else m) x)

/-- The distinct entries of a list, each at its first place. -/
def dedup {α : Type} [BEq α] : List α → List α
  | [] => []
  | x :: xs => let r := dedup xs; if r.contains x then x :: r.filter (fun y => !(y == x)) else x :: r

/-- Two lists of access numbers joined, each number once. -/
def unionNat (a b : List Nat) : List Nat := a ++ b.filter fun x => !a.contains x

end Sys2Proof.Machine
end

