-- ==== Sys2Proof/Machine/Numbers.lean ====
section
/-! DEFINITION. Floating-point formats and exact rounding (R41 to R54): values as exact numbers, one rounding. -/

namespace Sys2Proof.Machine

/-- A floating-point format: fraction width, exponent field width, bias, and whether it is IEEE shaped (all but e4m3). -/
structure Fmt where
  frac : Nat
  expw : Nat
  bias : Nat
  ieee : Bool
  deriving DecidableEq, Repr

/-- The format of a floating-point type (R41). -/
def fmtOf : Ty → Option Fmt
  | .f64 => some ⟨52, 11, 1023, true⟩
  | .f32 => some ⟨23, 8, 127, true⟩
  | .f16 => some ⟨10, 5, 15, true⟩
  | .bf16 => some ⟨7, 8, 127, true⟩
  | .e4m3 => some ⟨3, 4, 7, false⟩
  | .e5m2 => some ⟨2, 5, 15, true⟩
  | .i32 | .u32 | .i64 | .u64 | .i8 | .u8 | .i16 | .u16 | .pred => none

/-- The format of a type, f32 where it has none. -/
def fmtOrF32 (t : Ty) : Fmt := (fmtOf t).getD ⟨23, 8, 127, true⟩

/-- The flag masks of R56. -/
def flNV : Flags := 16
/-- DZ of R56. -/
def flDZ : Flags := 8
/-- OF of R56. -/
def flOF : Flags := 4
/-- UF of R56. -/
def flUF : Flags := 2
/-- NX of R56. -/
def flNX : Flags := 1

/-- The width of an element of a format in bits. -/
def fmtWidth (f : Fmt) : Nat := 1 + f.expw + f.frac

/-- The sign bit of a format as a number. -/
def fmtSign (f : Fmt) : Nat := 1 <<< (f.expw + f.frac)

/-- The bits of the largest finite magnitude (R41). -/
def fmtMax (f : Fmt) : Nat :=
  if f.ieee then (ones f.expw <<< f.frac) - 1 else (ones f.expw <<< f.frac) + ones f.frac - 1

/-- The canonical NaN (R41): the quiet bit set, or all ones of the e4m3 fraction. -/
def fmtNaN (f : Fmt) : Nat :=
  if f.ieee then (ones f.expw <<< f.frac) + 1 <<< (f.frac - 1) else (ones f.expw <<< f.frac) + ones f.frac

/-- The bits of positive infinity; e4m3 has none and answers its NaN (R50). -/
def fmtInf (f : Fmt) : Nat := if f.ieee then ones f.expw <<< f.frac else fmtNaN f

/-- The least normal exponent `emin` (R49). -/
def fmtEmin (f : Fmt) : Int := 1 - (f.bias : Int)

/-- The value of a floating-point element (R42): a finite one is `(-1)^s × m × 2^e` with `m` positive. -/
inductive Val where
  | nan (signalling : Bool)
  | inf (s : Bool)
  | zero (s : Bool)
  | fin (s : Bool) (m : Nat) (e : Int)
  deriving DecidableEq, Repr

/-- The value of the element with bits `x` (R42, R43). -/
def decodeVal (f : Fmt) (x : Nat) : Val :=
  let s := bit x (f.expw + f.frac)
  let e := field x f.frac f.expw
  let m := low f.frac x
  if e == 0 then
    if m == 0 then .zero s else .fin s m (1 - (f.bias : Int) - f.frac)
  else if e == ones f.expw && f.ieee then
    if m == 0 then .inf s else .nan (!bit m (f.frac - 1))
  else if e == ones f.expw && m == ones f.frac then .nan false
  else .fin s (1 <<< f.frac + m) ((e : Int) - f.bias - f.frac)

/-- An exact positive magnitude: `num / den × 2^e`, or `√num × 2^e`. -/
inductive Mag where
  | ratio (num den : Nat) (e : Int)
  | root (num : Nat) (e : Int)
  deriving DecidableEq, Repr

/-- One bit of an integer square root: bits `k - 1` down to 0 are tried from the top. -/
def isqrtBits (n : Nat) : Nat → Nat → Nat
  | 0, r => r
  | k + 1, r => let t := r + 1 <<< k; if t * t ≤ n then isqrtBits n k t else isqrtBits n k r

/-- The integer square root. -/
def isqrt (n : Nat) : Nat := isqrtBits n (Nat.log2 n / 2 + 1) 0

/-- `floor (num / 2^j)`, 0 at once where the shift passes every bit. -/
def shrBig (num j : Nat) : Nat := if j > Nat.log2 num then 0 else num >>> j

/-- `floor (mag × 2^k)`, and whether nothing was discarded. -/
def floorMul (m : Mag) (k : Int) : Nat × Bool :=
  match m with
  | .ratio num den e =>
    match e + k with
    | .ofNat s => let n := num <<< s; (n / den, n % den == 0)
    | .negSucc s =>
      let j := s + 1
      if j > Nat.log2 num then (0, num == 0)
      else let d := den <<< j; (num / d, num % d == 0)
  | .root num e =>
    match e + k with
    | .ofNat s => let n := num <<< (2 * s); let r := isqrt n; (r, r * r == n)
    | .negSucc s =>
      let j := s + 1
      if 2 * j > Nat.log2 num then (0, num == 0)
      else let r := isqrt (num >>> (2 * j)); (r, r * r <<< (2 * j) == num)

/-- `floor (log2 mag)` of a positive magnitude. -/
def floorLog2 (m : Mag) : Int :=
  match m with
  | .ratio num den e =>
    let d : Int := (Nat.log2 num : Int) - Nat.log2 den
    -- num / den lies in (2^(d-1), 2^(d+1))
    let below : Bool := match d with
      | .ofNat k => num < den <<< k
      | .negSucc k => num <<< (k + 1) < den
    (if below then d - 1 else d) + e
  | .root num e => (Nat.log2 num / 2 : Nat) + e

/-- One rounding of a magnitude at the last kept bit `2^ulpExp` (the `t`, `f` and `up` of R49): the kept integer after
rounding, and whether anything was discarded. `r` holds the 32 random bits of RSR. -/
def roundAt (m : Mag) (ulpExp : Int) (neg : Bool) (rnd : Rnd) (r : Nat) : Nat × Bool :=
  let q := floorMul m (32 - ulpExp)
  let t := q.1 >>> 32
  let fr := low 32 q.1
  let inexact := fr != 0 || !q.2
  let half := 1 <<< 31
  let up : Bool := match rnd with
    | .rne => fr > half || (fr == half && (!q.2 || t % 2 == 1))
    | .rna => fr ≥ half
    | .rup => inexact && !neg
    | .rdn => inexact && neg
    | .rsr => fr + r ≥ 1 <<< 32
    | .rtz | .rto => false
  let t' := if rnd == .rto && inexact then t ||| 1 else t
  (t' + b2n up, inexact)

/-- The overflowed result of R50, with OF and NX; a saturating conversion gives the largest finite value (R53). -/
def overflowBits (f : Fmt) (neg : Bool) (rnd : Rnd) (sat : Bool) : Nat :=
  let mag :=
    if sat then fmtMax f
    else match rnd with
      | .rne | .rna | .rsr => fmtInf f
      | .rtz | .rto => fmtMax f
      | .rup => if neg then fmtMax f else fmtInf f
      | .rdn => if neg then fmtInf f else fmtMax f
  -- an e4m3 NaN carries no sign (R43)
  if mag == fmtNaN f then mag else mag + b2n neg * fmtSign f

/-- `round_to` of R49 for an exact, finite, non-zero value: the bits and the flags NX, UF, OF. -/
def roundMag (f : Fmt) (neg : Bool) (m : Mag) (rnd : Rnd) (sat : Bool) (r : Nat) : Nat × Flags :=
  let fl := floorLog2 m
  let emin := fmtEmin f
  let e := if fl < emin then emin else fl
  if e > (ones f.expw : Int) - f.bias then
    (overflowBits f neg rnd sat, flOF ||| flNX)
  else
    let k := roundAt m (e - f.frac) neg rnd r
    let bits := (((e - emin).toNat) <<< f.frac) + k.1
    if bits > fmtMax f then (overflowBits f neg rnd sat, flOF ||| flNX)
    else
      let tiny : Bool :=
        if fl < emin - 1 then true
        else if fl < emin then (roundAt m (fl - f.frac) neg rnd r).1 < 1 <<< (f.frac + 1)
        else false
      let flags : Flags := if k.2 then (if tiny then flNX ||| flUF else flNX) else 0
      (bits + b2n neg * fmtSign f, flags)

/-- The canonical NaN with no flag. -/
def nanOut (f : Fmt) : Nat × Flags := (fmtNaN f, 0)

/-- A zero of sign `s`. -/
def zeroOut (f : Fmt) (s : Bool) : Nat × Flags := (b2n s * fmtSign f, 0)

/-- An exact infinity of sign `s` as a result of an operation that is not a conversion. -/
def infOut (f : Fmt) (s : Bool) : Nat × Flags :=
  if f.ieee then (fmtInf f + b2n s * fmtSign f, 0) else (fmtNaN f, 0)

/-- `round_to` of an exact integer multiple `(-1)^s × n × 2^e`; `n = 0` gives the exact zero of R45. -/
def roundDyadic (f : Fmt) (x : Int) (e : Int) (rnd : Rnd) (sat : Bool) (r : Nat) : Nat × Flags :=
  if x == 0 then zeroOut f (rnd == .rdn)
  else roundMag f (x < 0) (.ratio x.natAbs 1 e) rnd sat r

/-- The NV flag of a signalling NaN among operands (R43). -/
def snanFlag (vs : List Val) : Flags := if vs.any (· == .nan true) then flNV else 0

/-- Whether a value is a NaN. -/
def isNaN : Val → Bool
  | .nan _ => true
  | .inf _ | .zero _ | .fin _ _ _ => false

/-- Whether a value is an infinity. -/
def isInf : Val → Bool
  | .inf _ => true
  | .nan _ | .zero _ | .fin _ _ _ => false

/-- Whether a value is a zero. -/
def isZero : Val → Bool
  | .zero _ => true
  | .nan _ | .inf _ | .fin _ _ _ => false

/-- The sign of a value; a NaN has none. -/
def signOf : Val → Bool
  | .nan _ => false
  | .inf s => s
  | .zero s => s
  | .fin s _ _ => s

/-- A dyadic number `n × 2^e`. -/
structure Dyadic where
  n : Int
  e : Int
  deriving DecidableEq, Repr

/-- The dyadic number of a finite value; infinities and NaNs answer 0. -/
def dyadicOf : Val → Dyadic
  | .fin s m e => ⟨if s then -(m : Int) else m, e⟩
  | .nan _ | .inf _ | .zero _ => ⟨0, 0⟩

/-- An integer shifted left. -/
def shlInt (n : Int) (k : Nat) : Int := n * ((1 <<< k : Nat) : Int)

/-- The exact sum. -/
def dyAdd (a b : Dyadic) : Dyadic :=
  if a.n == 0 then b
  else if b.n == 0 then a
  else if a.e ≤ b.e then ⟨a.n + shlInt b.n (b.e - a.e).toNat, a.e⟩
  else ⟨shlInt a.n (a.e - b.e).toNat + b.n, b.e⟩

/-- The exact product. -/
def dyMul (a b : Dyadic) : Dyadic := ⟨a.n * b.n, a.e + b.e⟩

/-- The exact negation. -/
def dyNeg (a : Dyadic) : Dyadic := ⟨-a.n, a.e⟩

/-- Comparison of dyadic numbers. -/
def dyLt (a b : Dyadic) : Bool := (dyAdd a (dyNeg b)).n < 0

/-- The negation of a value. -/
def negVal : Val → Val
  | .nan s => .nan s
  | .inf s => .inf !s
  | .zero s => .zero !s
  | .fin s m e => .fin (!s) m e

/-- The exact product of two values, NaN for 0 × ∞ (R164), signs by exclusive OR (R163). -/
def mulVal (a b : Val) : Val :=
  if isNaN a || isNaN b then .nan false
  else if (isInf a && isZero b) || (isZero a && isInf b) then .nan false
  else
    let s := signOf a != signOf b
    if isInf a || isInf b then .inf s
    else match a, b with
      | .fin _ m e, .fin _ m' e' => .fin s (m * m') (e + e')
      | _, _ => .zero s

/-- FADD and the sum of FMA on exact values (R45, R163, R164): NaN operands give the canonical NaN, ∞ - ∞ sets NV. -/
def addRound (f : Fmt) (a b : Val) (rnd : Rnd) (r : Nat) : Nat × Flags :=
  if isNaN a || isNaN b then nanOut f
  else if isInf a && isInf b then
    if signOf a == signOf b then infOut f (signOf a) else (fmtNaN f, flNV)
  else if isInf a then infOut f (signOf a)
  else if isInf b then infOut f (signOf b)
  else if isZero a && isZero b && signOf a == signOf b then zeroOut f (signOf a)
  else
    let d := dyAdd (dyadicOf a) (dyadicOf b)
    roundDyadic f d.n d.e rnd false r

/-- An exact value rounded, for a product, a quotient's finite case aside. -/
def roundVal (f : Fmt) (v : Val) (rnd : Rnd) (sat : Bool) (r : Nat) : Nat × Flags :=
  match v with
  | .nan _ => nanOut f
  | .inf s => infOut f s
  | .zero s => zeroOut f s
  | .fin s m e => roundMag f s (.ratio m 1 e) rnd sat r

/-- Whether an operation on products meets 0 × ∞ (R164). -/
def zeroTimesInf (a b : Val) : Bool := (isInf a && isZero b) || (isZero a && isInf b)

/-- FADD (R163). -/
def fAdd (f : Fmt) (a b : Val) (rnd : Rnd) (r : Nat) : Nat × Flags :=
  let o := addRound f a b rnd r
  (o.1, o.2 ||| snanFlag [a, b])

/-- FMUL (R163, R164). -/
def fMul (f : Fmt) (a b : Val) (rnd : Rnd) (r : Nat) : Nat × Flags :=
  let o := roundVal f (mulVal a b) rnd false r
  (o.1, o.2 ||| snanFlag [a, b] ||| (if zeroTimesInf a b then flNV else 0))

/-- a × b + c rounded once (R59, R163); 0 × ∞ sets NV whatever c is (R164). -/
def fFma (f : Fmt) (a b c : Val) (rnd : Rnd) (r : Nat) : Nat × Flags :=
  let p := mulVal a b
  let o := if isNaN p then nanOut f else addRound f p c rnd r
  (o.1, o.2 ||| snanFlag [a, b, c] ||| (if zeroTimesInf a b then flNV else 0))

/-- FDIV (R163, R164). -/
def fDiv (f : Fmt) (a b : Val) (rnd : Rnd) (r : Nat) : Nat × Flags :=
  if isNaN a || isNaN b then (fmtNaN f, snanFlag [a, b])
  else
    let s := signOf a != signOf b
    match a, b with
    | .inf _, .inf _ => (fmtNaN f, flNV)
    | .zero _, .zero _ => (fmtNaN f, flNV)
    | .inf _, _ => infOut f s
    | _, .inf _ => zeroOut f s
    | .zero _, _ => zeroOut f s
    | .fin _ _ _, .zero _ => ((infOut f s).1, flDZ)
    | .fin _ m e, .fin _ m' e' => roundMag f s (.ratio m m' (e - e')) rnd false r
    | _, _ => nanOut f

/-- FSQRT (R163, R164): the magnitude is brought to an even exponent first. -/
def fSqrt (f : Fmt) (a : Val) (rnd : Rnd) (r : Nat) : Nat × Flags :=
  match a with
  | .nan _ => (fmtNaN f, snanFlag [a])
  | .zero s => zeroOut f s
  | .inf true => (fmtNaN f, flNV)
  | .inf false => infOut f false
  | .fin true _ _ => (fmtNaN f, flNV)
  | .fin false m e =>
    if e % 2 == 0 then roundMag f false (.root m (e / 2)) rnd false r
    else roundMag f false (.root (2 * m) ((e - 1) / 2)) rnd false r

/-- The order of values that are not NaNs, with -0 equal to +0: is `a` below `b`? -/
def valLt (a b : Val) : Bool :=
  match a, b with
  | .nan _, _ => false
  | _, .nan _ => false
  | .inf s, .inf t => s && !t
  | .inf s, _ => s
  | _, .inf t => !t
  | x, y => dyLt (dyadicOf x) (dyadicOf y)

/-- Equality of values that are not NaNs, with -0 equal to +0 (R162). -/
def valEq (a b : Val) : Bool := !isNaN a && !isNaN b && !valLt a b && !valLt b a

/-- The bits of a value that its format holds exactly. -/
def exactBits (f : Fmt) (v : Val) : Nat := (roundVal f v .rtz false 0).1

/-- FMIN or FMAX of R46: NaN to the canonical NaN, -0 below +0, NV for a signalling NaN. -/
def fMinMax (f : Fmt) (wantMax : Bool) (a b : Val) : Nat × Flags :=
  if isNaN a || isNaN b then (fmtNaN f, snanFlag [a, b])
  else
    let aLess : Bool := valLt a b || (isZero a && isZero b && signOf a && !signOf b)
    (exactBits f (if aLess != wantMax then a else b), 0)

/-- Rounding of a finite value to an integer magnitude under `rnd`, and whether it was inexact. -/
def roundInt (neg : Bool) (m : Nat) (e : Int) (rnd : Rnd) (r : Nat) : Nat × Bool :=
  roundAt (.ratio m 1 e) 0 neg rnd r

/-- FRINT (R164): the weight of the last kept bit is 1, only NX is raised, a zero result keeps the sign. -/
def fRint (f : Fmt) (a : Val) (rnd : Rnd) (r : Nat) : Nat × Flags :=
  match a with
  | .nan _ => (fmtNaN f, snanFlag [a])
  | .inf s => infOut f s
  | .zero s => zeroOut f s
  | .fin s m e =>
    -- a value of exponent 0 or more is already integral
    if e ≥ 0 then (exactBits f a, 0)
    else
      let k := roundInt s m e rnd r
      let v : Val := if k.1 == 0 then .zero s else .fin s k.1 0
      (exactBits f v, if k.2 then flNX else 0)

/-- FSCALE: a × 2^k rounded once (R163). -/
def fScale (f : Fmt) (a : Val) (k : Int) (rnd : Rnd) (r : Nat) : Nat × Flags :=
  match a with
  | .nan _ => (fmtNaN f, snanFlag [a])
  | .inf s => infOut f s
  | .zero s => zeroOut f s
  | .fin s m e => roundMag f s (.ratio m 1 (e + k)) rnd false r

/-- FEXPO: floor(log2 |a|) as a value of the format (R163, R164). -/
def fExpo (f : Fmt) (a : Val) : Nat × Flags :=
  match a with
  | .nan _ => (fmtNaN f, snanFlag [a])
  | .inf _ => infOut f false
  | .zero _ => ((infOut f true).1, flDZ)
  | .fin _ m e =>
    let k : Int := (Nat.log2 m : Int) + e
    (exactBits f (if k == 0 then .zero false else .fin (k < 0) k.natAbs 0), 0)

/-- FMANT: a × 2^(-FEXPO a), in [1, 2) with a's sign (R163, R164). -/
def fMant (f : Fmt) (a : Val) : Nat × Flags :=
  match a with
  | .nan _ => (fmtNaN f, snanFlag [a])
  | .inf _ => (fmtNaN f, flNV)
  | .zero s => zeroOut f s
  | .fin s m _ => (exactBits f (.fin s m (-(Nat.log2 m : Int))), 0)

/-- FRAC: a - trunc(a), with a's sign (R163, R164). -/
def fFrac (f : Fmt) (a : Val) : Nat × Flags :=
  match a with
  | .nan _ => (fmtNaN f, snanFlag [a])
  | .inf _ => (fmtNaN f, flNV)
  | .zero s => zeroOut f s
  | .fin s m e =>
    match e with
    | .ofNat _ => zeroOut f s
    | .negSucc k =>
      let rest := low (k + 1) m
      (exactBits f (if rest == 0 then .zero s else .fin s rest e), 0)

/-- The class of CLASS (R162). -/
def classOf (f : Fmt) (a : Val) : Nat :=
  match a with
  | .nan true => 0
  | .nan false => 1
  | .inf true => 2
  | .inf false => 9
  | .zero true => 5
  | .zero false => 6
  | .fin s m e =>
    let normal : Bool := (Nat.log2 m : Int) + e ≥ fmtEmin f
    if s then (if normal then 3 else 4) else (if normal then 8 else 7)

/-- Conversion between floating-point formats (R52, R53), with SAT. -/
def fConvert (f : Fmt) (v : Val) (rnd : Rnd) (sat : Bool) (r : Nat) : Nat × Flags :=
  match v with
  | .nan _ => (fmtNaN f, snanFlag [v])
  | .zero s => zeroOut f s
  | .inf s =>
    if f.ieee then (fmtInf f + b2n s * fmtSign f, 0)
    else if sat then (fmtMax f + b2n s * fmtSign f, flOF ||| flNX)
    else (fmtNaN f, flNV)
  | .fin s m e => roundMag f s (.ratio m 1 e) rnd sat r

end Sys2Proof.Machine
end

