-- ==== Sys2Proof/Machine/Operands.lean ====
section
/-! DEFINITION. Operand forms: elements in lanes (R13), literals (R70), predicate words (R155), control values (R154). -/

namespace Sys2Proof.Machine

/-- The width of an element in bits (R40); a pred element is held in a lane of its own (R13). -/
def tyWidth : Ty → Nat
  | .i64 | .u64 | .f64 => 64
  | .i32 | .u32 | .f32 => 32
  | .i16 | .u16 | .f16 | .bf16 => 16
  | .i8 | .u8 | .e4m3 | .e5m2 => 8
  | .pred => 1

/-- Whether a type is 64 bits wide (R14). -/
def wide (t : Ty) : Bool := tyWidth t == 64

/-- Whether a type is a signed integer (R40). -/
def signedTy : Ty → Bool
  | .i8 | .i16 | .i32 | .i64 => true
  | .u8 | .u16 | .u32 | .u64 | .f64 | .f32 | .bf16 | .f16 | .e4m3 | .e5m2 | .pred => false

/-- Whether a type is an integer, `Int` of R79. -/
def intTy : Ty → Bool
  | .i8 | .u8 | .i16 | .u16 | .i32 | .u32 | .i64 | .u64 => true
  | .f64 | .f32 | .bf16 | .f16 | .e4m3 | .e5m2 | .pred => false

/-- Whether a type is `Float` of R79. -/
def floatTy : Ty → Bool
  | .f64 | .f32 | .bf16 | .f16 => true
  | .i8 | .u8 | .i16 | .u16 | .i32 | .u32 | .i64 | .u64 | .e4m3 | .e5m2 | .pred => false

/-- Elements packed in one lane (R155); a 64-bit element takes two lanes. -/
def perLane (t : Ty) : Nat :=
  match tyWidth t with
  | 16 => 2
  | 8 => 4
  | _ => 1

/-- The number of elements of `t` in `n` lanes (R13). -/
def elemCount (t : Ty) (n : Nat) : Nat := if wide t then n / 2 else n * perLane t

/-- The lane that holds element `e`; the lower lane of a pair (R58). -/
def laneOf (t : Ty) (e : Nat) : Nat := if wide t then 2 * e else e / perLane t

/-- The position of element `e` within its lane (R58). -/
def posOf (t : Ty) (e : Nat) : Nat := if wide t then 0 else e % perLane t

/-- The elements of one lane. -/
def elemsOfLane (t : Ty) (l : Lane) : List Nat :=
  let x := l.toNat
  match tyWidth t with
  | 16 => [low 16 x, x >>> 16]
  | 8 => [low 8 x, field x 8 8, field x 16 8, x >>> 24]
  | 1 => [x % 2]
  | _ => [x]

/-- Lanes taken in pairs as 64-bit elements; an odd last lane holds none. -/
def pairs64 : List Lane → List Nat
  | a :: b :: rest => (a.toNat + b.toNat <<< 32) :: pairs64 rest
  | _ => []

/-- The elements of a payload (R13). -/
def elems (t : Ty) (ls : List Lane) : List Nat :=
  if wide t then pairs64 ls else ls.flatMap (elemsOfLane t)

/-- Elements of 16 bits packed in lanes. -/
def pack16 : List Nat → List Lane
  | a :: b :: rest => BitVec.ofNat 32 (low 16 a + low 16 b <<< 16) :: pack16 rest
  | [a] => [BitVec.ofNat 32 (low 16 a)]
  | [] => []

/-- Elements of 8 bits packed in lanes. -/
def pack8 : List Nat → List Lane
  | a :: b :: c :: d :: rest =>
    BitVec.ofNat 32 (low 8 a + low 8 b <<< 8 + low 8 c <<< 16 + low 8 d <<< 24) :: pack8 rest
  | a :: b :: c :: [] => [BitVec.ofNat 32 (low 8 a + low 8 b <<< 8 + low 8 c <<< 16)]
  | a :: b :: [] => [BitVec.ofNat 32 (low 8 a + low 8 b <<< 8)]
  | a :: [] => [BitVec.ofNat 32 (low 8 a)]
  | [] => []

/-- Elements packed in lanes (R13); pred writes bits 31:1 as zero. -/
def packElems (t : Ty) (xs : List Nat) : List Lane :=
  match tyWidth t with
  | 64 => xs.flatMap lanesOf64
  | 16 => pack16 xs
  | 8 => pack8 xs
  | 1 => xs.map fun x => BitVec.ofNat 32 (x % 2)
  | _ => xs.map fun x => BitVec.ofNat 32 x

/-- One element taken from a literal (R70); f64 widens LIT as an f32, a NaN to the canonical NaN with no flag. -/
def litElem (t : Ty) (lit : Nat) : Nat :=
  match t with
  | .i64 => sext 32 64 lit
  | .u64 => low 32 lit
  | .f64 =>
    let v := decodeVal (fmtOrF32 .f32) (low 32 lit)
    (roundVal (fmtOrF32 .f64) v .rtz false 0).1
  | .i32 | .u32 | .f32 => low 32 lit
  | .i16 | .u16 | .f16 | .bf16 => low 16 lit
  | .i8 | .u8 | .e4m3 | .e5m2 => low 8 lit
  | .pred => lit % 2

/-- Whether the bits of LIT that R70 requires to be zero are zero. -/
def litClean (t : Ty) (lit : Nat) : Bool :=
  match tyWidth t with
  | 16 => lit >>> 16 == 0
  | 8 => lit >>> 8 == 0
  | 1 => lit >>> 1 == 0
  | _ => true

/-- A literal broadcast to every element of `n` lanes (R70). -/
def litLanes (t : Ty) (n lit : Nat) : List Lane :=
  packElems t (List.replicate (elemCount t n) (litElem t lit))

/-- The control value of element `e` (R154): that of its lane, the lower lane of a pair. -/
def controlOf (t : Ty) (ctl : List Lane) (e : Nat) : Nat := (laneAt ctl (laneOf t e)).toNat

/-- The predicate of element `e` in a predicate word (R155). -/
def predOf (t : Ty) (p : List Lane) (e : Nat) : Bool := bit (laneAt p (laneOf t e)).toNat (posOf t e)

/-- A predicate word of `n` lanes from one truth value for each element (R155). -/
def predWord (t : Ty) (n : Nat) (bs : List Nat) : List Lane :=
  if wide t then bs.flatMap fun x => [BitVec.ofNat 32 (x % 2), BitVec.ofNat 32 (x % 2)]
  else
    (upTo n).map fun k =>
      let g (j : Nat) : Nat := bs.getD (k * perLane t + j) 0 % 2
      match perLane t with
      | 2 => BitVec.ofNat 32 (g 0 + 2 * g 1)
      | 4 => BitVec.ofNat 32 (g 0 + 2 * g 1 + 4 * g 2 + 8 * g 3)
      | _ => BitVec.ofNat 32 (g 0)

end Sys2Proof.Machine
end

