-- ==== Sys2Proof/Machine/Flags.lean ====
section
/-! DEFINITION. The flags of a firing and the place an ARITH trap reports (R56 to R58). -/

namespace Sys2Proof.Machine

/-- What one firing or block instruction raised: element index and flags, in the order an ARITH report looks at them. -/
abbrev Raised := List (Nat × Flags)

/-- The flags of a firing: the OR over every element (R57). -/
def allFlags (r : Raised) : Flags := r.foldl (fun a p => a ||| p.2) 0

/-- The first entry that raised a flag of the enable mask (R58). -/
def firstEnabled (mask : Flags) (r : Raised) : Option Nat :=
  (r.find? fun p => p.2 &&& mask != 0).map (·.1)

/-- Bits 4:0 and 9:8 of an ARITH trap's detail, and its lane (R58), where the mask enables a raised flag. -/
def arithReport (mask : Flags) (t : Ty) (r : Raised) : Option (Nat × Nat) :=
  (firstEnabled mask r).map fun e => ((allFlags r).toNat + posOf t e <<< 8, laneOf t e)

end Sys2Proof.Machine
end

