-- ==== Sys2Proof/Machine/Arith.lean ====
section
/-! DEFINITION. The shared functions as pure functions of their operands (R153 to R169): what an element, a predicate
word or a lane move is, with inclusion (R156) and the flags each element raises. -/

namespace Sys2Proof.Machine

/-- Where the random bits of RSR come from (R51): the three terms before the element index, and the index of the
block instruction. -/
structure RsrSeed where
  base : Dword
  instr : Nat
  deriving DecidableEq, Repr

/-- The seed of a firing: FID, TAG and node address (R51). -/
def rsrSeed (fid tag : Dword) (nodeaddr instr : Nat) : RsrSeed :=
  ⟨fid ^^^ tag.rotateLeft 17 ^^^ (BitVec.ofNat 64 nodeaddr * 0x9E3779B97F4A7C15#64), instr⟩

/-- `rsr_bits` of R51 for element `e`. -/
def rsrBits (s : RsrSeed) (e : Nat) : Nat :=
  let z := s.base ^^^ BitVec.ofNat 64 (e + 256 * s.instr)
  let z := (z ^^^ (z >>> 30)) * 0xBF58476D1CE4E5B9#64
  let z := (z ^^^ (z >>> 27)) * 0x94D049BB133111EB#64
  let z := z ^^^ (z >>> 31)
  z.toNat >>> 32

/-- The operands of a shared function (R153): each of `a`, `b`, `c` has `n` lanes; `incl` and `prev` are the lane mask
and the previous wD of a block (R156). `sh` is the shift of class X. -/
structure ShArgs where
  type : Ty
  rnd : Rnd
  modx : Nat
  sh : Nat
  n : Nat
  a : List Lane
  b : List Lane
  c : List Lane
  incl : List Bool
  prev : List Lane
  seed : RsrSeed
  deriving DecidableEq, Repr

/-- The result lanes and the flags raised, in the order of an ARITH report (R58, R169). -/
structure ShOut where
  lanes : List Lane
  raised : Raised
  deriving DecidableEq, Repr

/-- Whether lane `k` is included (R156). -/
def included (x : ShArgs) (k : Nat) : Bool := x.incl.getD k true

/-- Computed lanes kept where included and the previous lanes elsewhere; a 64-bit pair goes by its lower lane (R156). -/
def mergeLanes (x : ShArgs) (new : List Lane) : List Lane :=
  (upTo x.n).map fun k =>
    if included x (if wide x.type then k - k % 2 else k) then laneAt new k else laneAt x.prev k

/-- A function of the element index over every included element of `t` in the result (R154, R156). -/
def mapElems (x : ShArgs) (f : Nat → Nat × Flags) : ShOut :=
  let rs := (upTo (elemCount x.type x.n)).map fun e =>
    if included x (laneOf x.type e) then f e else (0, 0)
  ⟨mergeLanes x (packElems x.type (rs.map (·.1))), (upTo rs.length).zip (rs.map (·.2))⟩

/-- A unary function of elements. -/
def unary (x : ShArgs) (f : Nat → Nat × Flags) : ShOut :=
  let a := elems x.type x.a
  mapElems x fun e => f (a.getD e 0)

/-- A binary function of elements. -/
def binary (x : ShArgs) (f : Nat → Nat → Nat × Flags) : ShOut :=
  let a := elems x.type x.a
  let b := elems x.type x.b
  mapElems x fun e => f (a.getD e 0) (b.getD e 0)

/-- A function of an element and a control value (R154). -/
def controlled (x : ShArgs) (f : Nat → Nat → Nat × Flags) : ShOut :=
  let a := elems x.type x.a
  mapElems x fun e => f (a.getD e 0) (controlOf x.type x.b e)

/-- An element read as an integer by the signedness of its type (R47). -/
def intOf (t : Ty) (x : Nat) : Int := if signedTy t then toSigned (tyWidth t) x else x

/-- The least value of an integer type. -/
def intMin (t : Ty) : Int := if signedTy t then -((1 <<< (tyWidth t - 1) : Nat) : Int) else 0

/-- The greatest value of an integer type. -/
def intMax (t : Ty) : Int :=
  if signedTy t then ((1 <<< (tyWidth t - 1) : Nat) : Int) - 1 else ((1 <<< tyWidth t : Nat) : Int) - 1

/-- A value clamped to an integer type's range. -/
def clampInt (t : Ty) (v : Int) : Int := max (intMin t) (min (intMax t) v)

/-- An integer function of two elements, reduced modulo 2^n, with no flag (R160). -/
def intBinary (f : Ty → Int → Int → Int) (x : ShArgs) : ShOut :=
  binary x fun a b => (ofInt (tyWidth x.type) (f x.type (intOf x.type a) (intOf x.type b)), 0)

/-- A function of two bit patterns (R157). -/
def bitBinary (f : Nat → Nat → Nat) (x : ShArgs) : ShOut :=
  binary x fun a b => (low (tyWidth x.type) (f a b), 0)

/-- A function of one bit pattern of the type's width. -/
def bitUnary (f : Nat → Nat → Nat) (x : ShArgs) : ShOut :=
  unary x fun a => (low (tyWidth x.type) (f (tyWidth x.type) a), 0)

/-- ADD (R160). -/
def fnAdd : ShArgs → ShOut := intBinary fun _ a b => a + b
/-- SUB (R160). -/
def fnSub : ShArgs → ShOut := intBinary fun _ a b => a - b
/-- ADDS (R160). -/
def fnAdds : ShArgs → ShOut := intBinary fun t a b => clampInt t (a + b)
/-- SUBS (R160). -/
def fnSubs : ShArgs → ShOut := intBinary fun t a b => clampInt t (a - b)
/-- MUL (R160). -/
def fnMul : ShArgs → ShOut := intBinary fun _ a b => a * b
/-- MULH (R160): floor of a × b / 2^n. -/
def fnMulh : ShArgs → ShOut := intBinary fun t a b => (a * b).fdiv ((1 <<< tyWidth t : Nat) : Int)
/-- MIN (R160). -/
def fnMin : ShArgs → ShOut := intBinary fun _ a b => if b < a then b else a
/-- MAX (R160). -/
def fnMax : ShArgs → ShOut := intBinary fun _ a b => if a < b then b else a

/-- DIV (R55): truncation toward zero; by zero all ones and DZ; the most negative by -1 wraps to itself. -/
def fnDiv (x : ShArgs) : ShOut :=
  binary x fun a b =>
    if b == 0 then (ones (tyWidth x.type), flDZ)
    else (ofInt (tyWidth x.type) ((intOf x.type a).tdiv (intOf x.type b)), 0)

/-- REM (R55): the sign of the dividend; by zero the dividend and DZ. -/
def fnRem (x : ShArgs) : ShOut :=
  binary x fun a b =>
    if b == 0 then (a, flDZ)
    else (ofInt (tyWidth x.type) ((intOf x.type a).tmod (intOf x.type b)), 0)

/-- ABS (R160). -/
def fnAbs (x : ShArgs) : ShOut :=
  unary x fun a => (ofInt (tyWidth x.type) (Int.natAbs (intOf x.type a)), 0)

/-- NEG (R160). -/
def fnNeg (x : ShArgs) : ShOut := unary x fun a => (ofInt (tyWidth x.type) (-(a : Int)), 0)

/-- AND (R160). -/
def fnAnd : ShArgs → ShOut := bitBinary fun a b => a &&& b
/-- OR (R160). -/
def fnOr : ShArgs → ShOut := bitBinary fun a b => a ||| b
/-- XOR (R160). -/
def fnXor : ShArgs → ShOut := bitBinary fun a b => a ^^^ b
/-- ANDN (R160): a & ~b. -/
def fnAndn : ShArgs → ShOut := bitBinary fun a b => a ^^^ (a &&& b)
/-- NOT (R160). -/
def fnNot : ShArgs → ShOut := bitUnary fun n a => ones n - a

/-- SHL on bits of width `n` (R161). -/
def shlBits (n a c : Nat) : Nat := if c ≥ n then 0 else low n (a <<< c)
/-- SHR (R161). -/
def shrBits (n a c : Nat) : Nat := if c ≥ n then 0 else a >>> c
/-- SAR (R161): copies of the top bit, for every TYPE. -/
def sarBits (n a c : Nat) : Nat :=
  if c ≥ n then (if bit a (n - 1) then ones n else 0)
  else a >>> c + (if bit a (n - 1) then ones n - ones (n - c) else 0)
/-- ROL (R161). -/
def rolBits (n a c : Nat) : Nat := let k := c % n; low n (a <<< k ||| a >>> (n - k))

/-- SHL (R161). -/
def fnShl (x : ShArgs) : ShOut := controlled x fun a c => (shlBits (tyWidth x.type) a c, 0)
/-- SHR (R161). -/
def fnShr (x : ShArgs) : ShOut := controlled x fun a c => (shrBits (tyWidth x.type) a c, 0)
/-- SAR (R161). -/
def fnSar (x : ShArgs) : ShOut := controlled x fun a c => (sarBits (tyWidth x.type) a c, 0)
/-- ROL (R161). -/
def fnRol (x : ShArgs) : ShOut := controlled x fun a c => (rolBits (tyWidth x.type) a c, 0)

/-- Zero bits above the highest 1 of `n` bits (R160). -/
def clzBits (n a : Nat) : Nat := if a == 0 then n else n - 1 - Nat.log2 a
/-- Zero bits below the lowest 1, looking at `k` bits. -/
def ctzBits : Nat → Nat → Nat
  | 0, _ => 0
  | k + 1, a => if a % 2 == 1 then 0 else 1 + ctzBits k (a / 2)
/-- The `k` low bits reversed. -/
def brevBits : Nat → Nat → Nat
  | 0, _ => 0
  | k + 1, a => (a % 2) <<< k + brevBits k (a / 2)

/-- CLZ (R160). -/
def fnClz : ShArgs → ShOut := bitUnary clzBits
/-- CTZ (R160). -/
def fnCtz : ShArgs → ShOut := bitUnary ctzBits
/-- POPC (R160). -/
def fnPopc : ShArgs → ShOut := bitUnary popCount
/-- BREV (R160). -/
def fnBrev : ShArgs → ShOut := bitUnary brevBits

/-- BFX of R161 on `n` bits. -/
def bfxBits (signed : Bool) (n a spec : Nat) : Nat :=
  let pos := field spec 0 6
  let len := min (field spec 8 7) n
  let f := if pos ≥ n then 0 else low len (a >>> pos)
  if signed && len > 0 && bit f (len - 1) then f + (ones n - ones len) else f

/-- BFI of R161 on `n` bits. -/
def bfiBits (n a b spec : Nat) : Nat :=
  let pos := field spec 0 6
  let len := min (field spec 8 7) n
  let m := low n (ones len <<< pos)
  (a ^^^ (a &&& m)) ||| ((b <<< pos) &&& m)

/-- BFX (R161). -/
def fnBfx (x : ShArgs) : ShOut :=
  controlled x fun a c => (bfxBits (signedTy x.type) (tyWidth x.type) a c, 0)

/-- BFI (R161): the field specification is c. -/
def fnBfi (x : ShArgs) : ShOut :=
  let a := elems x.type x.a
  let b := elems x.type x.b
  mapElems x fun e => (bfiBits (tyWidth x.type) (a.getD e 0) (b.getD e 0) (controlOf x.type x.c e), 0)

/-- A ternary function of elements. -/
def ternary (x : ShArgs) (f : Nat → Nat → Nat → Nat → Nat × Flags) : ShOut :=
  let a := elems x.type x.a
  let b := elems x.type x.b
  let c := elems x.type x.c
  mapElems x fun e => f e (a.getD e 0) (b.getD e 0) (c.getD e 0)

/-- MAD (R160). -/
def fnMad (x : ShArgs) : ShOut := ternary x fun _ a b c => (low (tyWidth x.type) (a * b + c), 0)

/-- IDX (R160). -/
def fnIdx (x : ShArgs) : ShOut :=
  binary x fun a b => (if x.sh ≥ tyWidth x.type then a else low (tyWidth x.type) (a + b <<< x.sh), 0)

/-- SEL (R160): b where a's predicate is 1, c elsewhere. -/
def fnSel (x : ShArgs) : ShOut :=
  let b := elems x.type x.b
  let c := elems x.type x.c
  mapElems x fun e => (if predOf x.type x.a e then b.getD e 0 else c.getD e 0, 0)

/-- MOV (R160). -/
def fnMov (x : ShArgs) : ShOut := unary x fun a => (a, 0)

/-- CONST (R160): the literal, which stands in `b`. -/
def fnConst (x : ShArgs) : ShOut :=
  let b := elems x.type x.b
  mapElems x fun e => (b.getD e 0, 0)

/-- Truth values of elements written as a predicate word (R155, R162), with inclusion. -/
def predResult (x : ShArgs) (f : Nat → Nat × Flags) : ShOut :=
  let rs := (upTo (elemCount x.type x.n)).map fun e =>
    if included x (laneOf x.type e) then f e else (0, 0)
  ⟨mergeLanes x (predWord x.type x.n (rs.map (·.1))), (upTo rs.length).zip (rs.map (·.2))⟩

/-- A compare (R162): on floats `fl` of the two values, on integers `fi`; `quiet` compares signal on a signalling NaN
only, the others on any NaN. -/
def compare (fi : Int → Int → Bool) (fl : Val → Val → Bool) (quiet : Bool) (x : ShArgs) : ShOut :=
  let a := elems x.type x.a
  let b := elems x.type x.b
  predResult x fun e =>
    match fmtOf x.type with
    | some f =>
      let u := decodeVal f (a.getD e 0)
      let v := decodeVal f (b.getD e 0)
      (b2n (fl u v), if quiet then snanFlag [u, v] else if isNaN u || isNaN v then flNV else 0)
    | none => (b2n (fi (intOf x.type (a.getD e 0)) (intOf x.type (b.getD e 0))), 0)

/-- CEQ (R162). -/
def fnCeq : ShArgs → ShOut := compare (fun a b => a == b) valEq true
/-- CNE (R162). -/
def fnCne : ShArgs → ShOut := compare (fun a b => a != b) (fun a b => !valEq a b) true
/-- CLT (R162). -/
def fnClt : ShArgs → ShOut := compare (fun a b => decide (a < b)) valLt false
/-- CLE (R162). -/
def fnCle : ShArgs → ShOut := compare (fun a b => decide (a ≤ b)) (fun a b => valLt a b || valEq a b) false
/-- CGT (R162). -/
def fnCgt : ShArgs → ShOut := compare (fun a b => decide (b < a)) (fun a b => valLt b a) false
/-- CGE (R162). -/
def fnCge : ShArgs → ShOut := compare (fun a b => decide (b ≤ a)) (fun a b => valLt b a || valEq a b) false
/-- CUN (R162). -/
def fnCun : ShArgs → ShOut := compare (fun _ _ => false) (fun a b => isNaN a || isNaN b) true

/-- CLASS (R162). -/
def fnClass (x : ShArgs) : ShOut :=
  let a := elems x.type x.a
  predResult x fun e =>
    let f := fmtOrF32 x.type
    (b2n (bit (controlOf x.type x.b e) (classOf f (decodeVal f (a.getD e 0)))), 0)

/-- TEST (R162). -/
def fnTest (x : ShArgs) : ShOut :=
  let a := elems x.type x.a
  let b := elems x.type x.b
  predResult x fun e => (b2n ((a.getD e 0) &&& (b.getD e 0) != 0), 0)

/-- A floating-point function of one value. -/
def fltUnary (f : Fmt → Val → Rnd → Nat → Nat × Flags) (x : ShArgs) : ShOut :=
  let a := elems x.type x.a
  let t := fmtOrF32 x.type
  mapElems x fun e => f t (decodeVal t (a.getD e 0)) x.rnd (rsrBits x.seed e)

/-- A floating-point function of two values. -/
def fltBinary (f : Fmt → Val → Val → Rnd → Nat → Nat × Flags) (x : ShArgs) : ShOut :=
  let a := elems x.type x.a
  let b := elems x.type x.b
  let t := fmtOrF32 x.type
  mapElems x fun e =>
    f t (decodeVal t (a.getD e 0)) (decodeVal t (b.getD e 0)) x.rnd (rsrBits x.seed e)

/-- A floating-point function of three values. -/
def fltTernary (f : Fmt → Val → Val → Val → Rnd → Nat → Nat × Flags) (x : ShArgs) : ShOut :=
  let t := fmtOrF32 x.type
  ternary x fun e a b c => f t (decodeVal t a) (decodeVal t b) (decodeVal t c) x.rnd (rsrBits x.seed e)

/-- FADD (R163). -/
def fnFadd : ShArgs → ShOut := fltBinary fAdd
/-- FSUB (R163). -/
def fnFsub : ShArgs → ShOut := fltBinary fun f a b => fAdd f a (negVal b)
/-- FMUL (R163). -/
def fnFmul : ShArgs → ShOut := fltBinary fMul
/-- FMA (R163). -/
def fnFma : ShArgs → ShOut := fltTernary fFma
/-- FMS (R163): a × b - c. -/
def fnFms : ShArgs → ShOut := fltTernary fun f a b c => fFma f a b (negVal c)
/-- FNMA (R163): c - a × b. -/
def fnFnma : ShArgs → ShOut := fltTernary fun f a b c => fFma f (negVal a) b c
/-- FDIV (R163). -/
def fnFdiv : ShArgs → ShOut := fltBinary fDiv
/-- FSQRT (R163). -/
def fnFsqrt : ShArgs → ShOut := fltUnary fSqrt
/-- FMIN (R46). -/
def fnFmin : ShArgs → ShOut := fltBinary fun f a b _ _ => fMinMax f false a b
/-- FMAX (R46). -/
def fnFmax : ShArgs → ShOut := fltBinary fun f a b _ _ => fMinMax f true a b

/-- |a|, -a or a with another sign: a NaN is delivered canonical with NV when signalling (R163). -/
def signed (f : Fmt) (bits : Nat) (s : Bool) : Nat × Flags :=
  let v := decodeVal f bits
  if isNaN v then (fmtNaN f, snanFlag [v])
  else (low (f.expw + f.frac) bits + b2n s * fmtSign f, 0)

/-- FABS (R163). -/
def fnFabs (x : ShArgs) : ShOut := unary x fun a => signed (fmtOrF32 x.type) a false
/-- FNEG (R163). -/
def fnFneg (x : ShArgs) : ShOut :=
  let f := fmtOrF32 x.type
  unary x fun a => signed f a (!bit a (f.expw + f.frac))
/-- FCPYS (R163): only the sign bit of b is read. -/
def fnFcpys (x : ShArgs) : ShOut :=
  let f := fmtOrF32 x.type
  binary x fun a b => signed f a (bit b (f.expw + f.frac))

/-- FRINT (R164). -/
def fnFrint : ShArgs → ShOut := fltUnary fRint
/-- FSCALE (R163): the exponent is the i32 control value. -/
def fnFscale (x : ShArgs) : ShOut :=
  let a := elems x.type x.a
  let f := fmtOrF32 x.type
  mapElems x fun e =>
    fScale f (decodeVal f (a.getD e 0)) (toSigned 32 (controlOf x.type x.b e)) x.rnd (rsrBits x.seed e)
/-- FEXPO (R163). -/
def fnFexpo : ShArgs → ShOut := fltUnary fun f a _ _ => fExpo f a
/-- FMANT (R163). -/
def fnFmant : ShArgs → ShOut := fltUnary fun f a _ _ => fMant f a
/-- FRAC (R163). -/
def fnFrac : ShArgs → ShOut := fltUnary fun f a _ _ => fFrac f a

/-- A floating value converted to an integer type (R52): rounded, then clamped; NV for NaN, ∞ and values out of range,
NX for any other inexact value. -/
def floatToInt (t : Ty) (v : Val) (rnd : Rnd) (r : Nat) : Nat × Flags :=
  let n := tyWidth t
  match v with
  | .nan _ => (0, flNV)
  | .inf s => (ofInt n (if s then intMin t else intMax t), flNV)
  | .zero _ => (0, 0)
  | .fin s m e =>
    let k := roundInt s m e rnd r
    let x : Int := if s then -(k.1 : Int) else k.1
    let y := clampInt t x
    (ofInt n y, if y != x then flNV else if k.2 then flNX else 0)

/-- One element converted from type `s` to type `t` (R52, R53). -/
def convertElem (s t : Ty) (x : Nat) (rnd : Rnd) (sat : Bool) (r : Nat) : Nat × Flags :=
  match fmtOf s, fmtOf t with
  | some fs, some ft => fConvert ft (decodeVal fs x) rnd sat r
  | some fs, none =>
    let v := decodeVal fs x
    if t == .pred then (b2n (!isZero v), snanFlag [v]) else floatToInt t v rnd r
  | none, some ft =>
    let v := intOf s x
    if v == 0 then zeroOut ft false else roundDyadic ft v 0 rnd sat r
  | none, none =>
    if t == .pred then (b2n (x != 0), 0)
    else
      let v := intOf s x
      (ofInt (tyWidth t) (if sat then clampInt t v else v), 0)

/-- The type a code of MOD[3:0] names (R40); code 0xF names none. -/
def tyOfCode (c : Nat) : Option Ty :=
  [Ty.i32, .u32, .i64, .u64, .f32, .f64, .bf16, .f16, .e4m3, .e5m2, .i8, .u8, .i16, .u16, .pred][c]?

/-- CVT (R165): elements below both counts are converted, the rest of the result is zero. -/
def fnCvt (x : ShArgs) : ShOut :=
  let s := (tyOfCode (low 4 x.modx)).getD x.type
  let src := elems s x.a
  mapElems x fun e =>
    if e < src.length then convertElem s x.type (src.getD e 0) x.rnd (bit x.modx 4) (rsrBits x.seed e) else (0, 0)

/-- floor(log2) of a finite non-zero value, none for any other (R54). -/
def magLog2 : Val → Option Int
  | .fin _ m e => some ((Nat.log2 m : Int) + e)
  | .nan _ | .inf _ | .zero _ => none

/-- The E8M0 scale code of a block of values (R54). -/
def scaleOf (t : Ty) (vs : List Val) : Nat :=
  let m : Int := if t == .e4m3 then 8 else 15
  match vs.filterMap magLog2 with
  | [] => 127
  | k :: ks => (max 0 (min 254 (ks.foldl max k - m + 127))).toNat

/-- A value times 2^k. -/
def scaleVal (v : Val) (k : Int) : Val :=
  match v with
  | .fin s m e => .fin s m (e + k)
  | .nan _ | .inf _ | .zero _ => v

/-- Bytes of a result set at one place. -/
def setAt (l : List Nat) (i v : Nat) : List Nat := l.set i v

/-- CVTS encoding (R54, R166): elements in bytes from lane 0, scale byte k in byte 3 - k of lane n - 1. -/
def cvtsEncode (x : ShArgs) (s : Ty) : ShOut :=
  let fs := fmtOrF32 s
  let ft := fmtOrF32 x.type
  let vs := (elems s x.a).map (decodeVal fs)
  let scales := (upTo ((vs.length + 31) / 32)).map fun k => scaleOf x.type ((vs.drop (32 * k)).take 32)
  let rs := (upTo vs.length).map fun e =>
    if included x (e / 4) then
      fConvert ft (scaleVal (vs.getD e (.zero false)) (127 - (scales.getD (e / 32) 127 : Int))) x.rnd (bit x.modx 4)
        (rsrBits x.seed e)
    else (0, 0)
  let body := rs.map (·.1) ++ List.replicate (4 * x.n - rs.length) 0
  let full := (upTo scales.length).foldl (fun l k => setAt l (4 * x.n - 1 - k) (scales.getD k 127)) body
  ⟨mergeLanes x (pack8 full), (upTo rs.length).zip (rs.map (·.2))⟩

/-- A value under an E8M0 scale (R54, R189): code 0xFF makes it a NaN. A NaN element stays itself, and one that is signalling sets NV as
everywhere else (R43), where R54 says only that the scale raises no flag (DESIGN CHOICE, log entry 48). -/
def scaledVal (v : Val) (code : Nat) : Val :=
  if code == 255 then (match v with | .nan s => .nan s | _ => .nan false) else scaleVal v ((code : Int) - 127)

/-- CVTS decoding (R166): each element under its scale, as in MMA (R189). -/
def cvtsDecode (x : ShArgs) (s : Ty) : ShOut :=
  let fs := fmtOrF32 s
  let ft := fmtOrF32 x.type
  let bytes := elems s x.a
  mapElems x fun e =>
    fConvert ft (scaledVal (decodeVal fs (bytes.getD e 0)) (bytes.getD (4 * x.n - 1 - e / 32) 0)) x.rnd (bit x.modx 4)
      (rsrBits x.seed e)

/-- CVTS (R166). -/
def fnCvts (x : ShArgs) : ShOut :=
  let s := (tyOfCode (low 4 x.modx)).getD .f32
  if x.type == .e4m3 || x.type == .e5m2 then cvtsEncode x s else cvtsDecode x s

/-- PKBF (R167): lane k of a in bits 15:0 and lane k of b in bits 31:16, each an f32 element k of its operand (R51). -/
def fnPkbf (x : ShArgs) : ShOut :=
  let f32 := fmtOrF32 .f32
  mapElems x fun e =>
    let src := laneAt (if e % 2 == 0 then x.a else x.b) (e / 2)
    fConvert (fmtOrF32 x.type) (decodeVal f32 src.toNat) x.rnd (bit x.modx 4) (rsrBits x.seed (e / 2))

/-- The number of units of `n` lanes (R168). -/
def unitCount (x : ShArgs) : Nat := if wide x.type then x.n / 2 else x.n

/-- Unit `k` of a list of lanes (R168). -/
def unitAt (x : ShArgs) (ls : List Lane) (k : Nat) : List Lane :=
  if wide x.type then [laneAt ls (2 * k), laneAt ls (2 * k + 1)] else [laneAt ls k]

/-- A zero unit. -/
def zeroUnit (x : ShArgs) : List Lane := if wide x.type then [0, 0] else [0]

/-- A lane move: each result unit from its number (R168), with inclusion. -/
def moveUnits (x : ShArgs) (f : Nat → List Lane) : ShOut :=
  ⟨mergeLanes x ((upTo (unitCount x)).flatMap f), []⟩

/-- A unit of a, zero where the index selects nothing (R168). -/
def pickUnit (x : ShArgs) (j : Nat) : List Lane := if j < unitCount x then unitAt x x.a j else zeroUnit x

/-- BCAST (R168). -/
def fnBcast (x : ShArgs) : ShOut := moveUnits x fun _ => pickUnit x (laneAt x.b 0).toNat
/-- LGET (R168). -/
def fnLget (x : ShArgs) : ShOut :=
  moveUnits x fun k => if k == 0 then pickUnit x (laneAt x.b 0).toNat else zeroUnit x
/-- LSET (R168). -/
def fnLset (x : ShArgs) : ShOut :=
  moveUnits x fun k => if k == (laneAt x.c 0).toNat then unitAt x x.b 0 else unitAt x x.a k
/-- SHUF (R168). -/
def fnShuf (x : ShArgs) : ShOut :=
  moveUnits x fun k => pickUnit x (laneAt x.b (if wide x.type then 2 * k else k)).toNat
/-- ROT (R168). -/
def fnRot (x : ShArgs) : ShOut :=
  let n := unitCount x
  moveUnits x fun k => unitAt x x.a ((k + n - (laneAt x.b 0).toNat % n) % n)
/-- COMPACT (R156, R168): an excluded unit is not kept, and every lane of the result is written. -/
def fnCompact (x : ShArgs) : ShOut :=
  let n := unitCount x
  let lowLane (k : Nat) := if wide x.type then 2 * k else k
  let kept := (upTo n).filter fun k => included x (lowLane k) && bit (laneAt x.b (lowLane k)).toNat 0
  ⟨fitLanes x.n (kept.flatMap (unitAt x x.a)), []⟩

/-- One addition of LSUM or SCAN (R60, R61): wrapping for integers, rounded for floats. -/
def addElem (t : Ty) (a b : Nat) (rnd : Rnd) (r : Nat) : Nat × Flags :=
  match fmtOf t with
  | some f => fAdd f (decodeVal f a) (decodeVal f b) rnd r
  | none => (low (tyWidth t) (a + b), 0)

/-- One level of the tree of R60: the additions of neighbours, the first of index `base`; each raises flags reported at
the lowest leaf under it. -/
def sumLevel (x : ShArgs) (base leaf : Nat) : List Nat → Nat → List Nat × Raised
  | a :: b :: rest, k =>
    let o := addElem x.type a b x.rnd (rsrBits x.seed (base + k))
    let r := sumLevel x base leaf rest (k + 1)
    (o.1 :: r.1, (k * leaf, o.2) :: r.2)
  | l, _ => (l, [])

/-- The pairwise tree of R60, level by level. -/
def sumTree (x : ShArgs) : Nat → Nat → Nat → List Nat → Raised → Nat × Raised
  | 0, _, _, v, r => (v.headD 0, r)
  | fuel + 1, half, leaf, v, r =>
    match v with
    | _ :: _ :: _ =>
      let o := sumLevel x half leaf v 0
      sumTree x fuel (half / 2) (leaf * 2) o.1 (r ++ o.2)
    | _ => (v.headD 0, r)

/-- The smallest power of two at or above `n`. -/
def ceilPow2 (n : Nat) : Nat := if n ≤ 1 then 1 else 1 <<< (Nat.log2 (n - 1) + 1)

/-- An element as a reduction delivers it: a NaN is canonical (R43, R157). -/
def canonElem (t : Ty) (x : Nat) : Nat :=
  match fmtOf t with
  | some f => if isNaN (decodeVal f x) then fmtNaN f else x
  | none => x

/-- An element, or +0 where its lane is excluded (R156). -/
def orZero (x : ShArgs) (a : List Nat) (e : Nat) : Nat :=
  if included x (laneOf x.type e) then a.getD e 0 else 0

/-- LSUM (R60, R169). -/
def fnLsum (x : ShArgs) : ShOut :=
  let a := elems x.type x.a
  let np := ceilPow2 a.length
  let v := (upTo np).map fun k => if k < a.length then orZero x a k else 0
  let o := sumTree x 10 (np / 2) 2 v []
  let s := canonElem x.type o.1
  ⟨packElems x.type (List.replicate a.length s), o.2⟩

/-- The prefix sums of SCAN after element `i - 1` (R61). -/
def scanFrom (x : ShArgs) : List Nat → Nat → Nat → List Nat × Raised
  | [], _, _ => ([], [])
  | b :: rest, i, s =>
    let o := addElem x.type s b x.rnd (rsrBits x.seed i)
    let r := scanFrom x rest (i + 1) o.1
    (o.1 :: r.1, (i, o.2) :: r.2)

/-- SCAN (R61, R169): element 0 is delivered with no addition. -/
def fnScan (x : ShArgs) : ShOut :=
  let a := elems x.type x.a
  let v := (upTo a.length).map (orZero x a)
  match v with
  | [] => ⟨[], []⟩
  | s :: rest =>
    let o := scanFrom x rest 1 s
    ⟨packElems x.type (canonElem x.type s :: o.1), o.2⟩

/-- LMIN and LMAX (R169). -/
def laneMinMax (wantMax : Bool) (x : ShArgs) : ShOut :=
  let a := elems x.type x.a
  let es := (upTo a.length).filter fun e => included x (laneOf x.type e)
  match fmtOf x.type with
  | some f =>
    let vals := es.map fun e => decodeVal f (a.getD e 0)
    let start := fmtInf f + b2n wantMax * fmtSign f
    let res := vals.foldl (fun acc v => (fMinMax f wantMax (decodeVal f acc) v).1) start
    ⟨packElems x.type (List.replicate a.length res), es.zip (vals.map fun v => snanFlag [v])⟩
  | none =>
    let start := if wantMax then intMin x.type else intMax x.type
    let res := es.foldl (fun acc e =>
      let v := intOf x.type (a.getD e 0)
      if wantMax then max acc v else min acc v) start
    ⟨packElems x.type (List.replicate a.length (ofInt (tyWidth x.type) res)), []⟩

/-- LMIN (R169). -/
def fnLmin : ShArgs → ShOut := laneMinMax false
/-- LMAX (R169). -/
def fnLmax : ShArgs → ShOut := laneMinMax true

end Sys2Proof.Machine
end

