-- ==== Sys2Proof/Machine/Opcodes.lean ====
section
/-! DEFINITION. The opcode maps (R79 to R82): each instruction as the form it is written in, and back. -/

namespace Sys2Proof.Machine

/-- How an instruction is written: a node record, a block instruction or a round instruction with its opcode, or not at
all (an event). A round instruction's fields are listed from bit 0 upward, a width and a value each, zero gaps included. -/
inductive Form where
  | node (opc : Nat) (r : NodeRec)
  | block (opc : Nat) (b : BlockRec)
  | round (opc : Nat) (fields : List (Nat × Nat))
  | event
  deriving DecidableEq, Repr

/-- The code of a scope (R73). -/
def scopeCode : Scope → Nat
  | .tile => 0
  | .depot => 1
  | .die => 2
  | .package => 3
  | .system => 4

/-- The scope of a code; codes 5 to 7 are reserved (R73). -/
def scopeOf (c : Nat) : Option Scope := [Scope.tile, .depot, .die, .package, .system][c]?

/-- The form of a shared function (R78). -/
def sharedForm (opc : Nat) : Shared → Form
  | .node r => .node opc r
  | .block b => .block opc b

/-- The form of an instruction (R79 to R82). -/
def formOf : Instr → Form
  | .add w => sharedForm 0x00 w
  | .sub w => sharedForm 0x01 w
  | .adds w => sharedForm 0x02 w
  | .subs w => sharedForm 0x03 w
  | .mul w => sharedForm 0x04 w
  | .mulh w => sharedForm 0x05 w
  | .div w => sharedForm 0x06 w
  | .rem w => sharedForm 0x07 w
  | .min w => sharedForm 0x08 w
  | .max w => sharedForm 0x09 w
  | .abs w => sharedForm 0x0A w
  | .neg w => sharedForm 0x0B w
  | .and w => sharedForm 0x0C w
  | .or w => sharedForm 0x0D w
  | .xor w => sharedForm 0x0E w
  | .andn w => sharedForm 0x0F w
  | .not w => sharedForm 0x10 w
  | .shl w => sharedForm 0x11 w
  | .shr w => sharedForm 0x12 w
  | .sar w => sharedForm 0x13 w
  | .rol w => sharedForm 0x14 w
  | .clz w => sharedForm 0x15 w
  | .ctz w => sharedForm 0x16 w
  | .popc w => sharedForm 0x17 w
  | .brev w => sharedForm 0x18 w
  | .bfx w => sharedForm 0x19 w
  | .bfi w => sharedForm 0x1A w
  | .mad w => sharedForm 0x1B w
  | .idx w => sharedForm 0x1C w
  | .sel w => sharedForm 0x1D w
  | .mov w => sharedForm 0x1E w
  | .const w => sharedForm 0x1F w
  | .ceq w => sharedForm 0x20 w
  | .cne w => sharedForm 0x21 w
  | .clt w => sharedForm 0x22 w
  | .cle w => sharedForm 0x23 w
  | .cgt w => sharedForm 0x24 w
  | .cge w => sharedForm 0x25 w
  | .cun w => sharedForm 0x26 w
  | .classify w => sharedForm 0x27 w
  | .test w => sharedForm 0x28 w
  | .fadd w => sharedForm 0x30 w
  | .fsub w => sharedForm 0x31 w
  | .fmul w => sharedForm 0x32 w
  | .fma w => sharedForm 0x33 w
  | .fms w => sharedForm 0x34 w
  | .fnma w => sharedForm 0x35 w
  | .fdiv w => sharedForm 0x36 w
  | .fsqrt w => sharedForm 0x37 w
  | .fmin w => sharedForm 0x38 w
  | .fmax w => sharedForm 0x39 w
  | .fabs w => sharedForm 0x3A w
  | .fneg w => sharedForm 0x3B w
  | .fcpys w => sharedForm 0x3C w
  | .frint w => sharedForm 0x3D w
  | .fscale w => sharedForm 0x3E w
  | .fexpo w => sharedForm 0x3F w
  | .fmant w => sharedForm 0x40 w
  | .frac w => sharedForm 0x41 w
  | .cvt w => sharedForm 0x50 w
  | .cvts w => sharedForm 0x51 w
  | .pkbf w => sharedForm 0x52 w
  | .bcast w => sharedForm 0x60 w
  | .lget w => sharedForm 0x61 w
  | .lset w => sharedForm 0x62 w
  | .shuf w => sharedForm 0x63 w
  | .rot w => sharedForm 0x64 w
  | .lsum w => sharedForm 0x65 w
  | .lmin w => sharedForm 0x66 w
  | .lmax w => sharedForm 0x67 w
  | .scan w => sharedForm 0x68 w
  | .compact w => sharedForm 0x69 w
  | .pusht r => .node 0x80 r
  | .popt r => .node 0x81 r
  | .iter r => .node 0x82 r
  | .sett r => .node 0x83 r
  | .gett r => .node 0x84 r
  | .frame r => .node 0x85 r
  | .spawn r => .node 0x86 r
  | .spawnt r => .node 0x87 r
  | .free r => .node 0x88 r
  | .ctxw r => .node 0x89 r
  | .pack r => .node 0x8A r
  | .unpack r => .node 0x8B r
  | .recol r => .node 0x8C r
  | .steer r => .node 0x90 r
  | .merge r => .node 0x91 r
  | .gate r => .node 0x92 r
  | .gaterel r => .node 0x93 r
  | .copy r => .node 0x94 r
  | .sink r => .node 0x95 r
  | .lpost r => .node 0x96 r
  | .waitlp r => .node 0x97 r
  | .sync r => .node 0x98 r
  | .seq r => .node 0x99 r
  | .get b => .block 0x80 b
  | .emit b => .block 0x81 b
  | .emitc b => .block 0x82 b
  | .ldtb b => .block 0x83 b
  | .sttb b => .block 0x84 b
  | .xadd b => .block 0x85 b
  | .rdsysb b => .block 0x86 b
  | .lmask b => .block 0x87 b
  | .blockCommit _ _ _ => .event
  | .mma r => .node 0xC0 r
  | .mmaz r => .node 0xC1 r
  | .accrd r => .node 0xC2 r
  | .accz r => .node 0xC3 r
  | .fskip r => .node 0xC4 r
  | .tensorQueueStart _ _ => .event
  | .corner r => .node 0xC5 r
  | .range r => .node 0xC6 r
  | .lut r => .node 0xC7 r
  | .lutLoad r => .node 0xC7 r
  | .reduce r => .node 0xC8 r
  | .xread r => .node 0xC9 r
  | .xsend r => .node 0xCA r
  | .xsendArrival _ _ => .event
  | .xmerge r => .node 0xCB r
  | .xclr r => .node 0xCC r
  | .decodetab r => .node 0xD2 r
  | .ldt r => .node 0xA0 r
  | .stt r => .node 0xA1 r
  | .atomp r => .node 0xA4 r
  | .atomr r => .node 0xA5 r
  | .casr r => .node 0xA6 r
  | .send r => .node 0xB0 r
  | .messageWrite _ _ => .event
  | .recv r => .node 0xB1 r
  | .freeslot r => .node 0xB2 r
  | .freedSlotNotice _ _ => .event
  | .barinit r => .node 0xB3 r
  | .arrive r => .node 0xB4 r
  | .waitcnt r => .node 0xB5 r
  | .mode r => .node 0xB6 r
  | .modeReconf r => .node 0xB6 r
  | .quiescenceDetected _ => .event
  | .ldm r => .node 0xA2 r
  | .stm r => .node 0xA3 r
  | .done r => .node 0xA7 r
  | .gather r => .node 0xA8 r
  | .scatter r => .node 0xA9 r
  | .waveIssue _ _ => .event
  | .memoryPerform _ _ => .event
  | .performedNotice _ _ => .event
  | .walkComplete _ _ => .event
  | .atsAnswer _ _ _ => .event
  | .priResponse _ _ _ => .event
  | .invalidation _ _ => .event
  | .invalidationComplete _ => .event
  | .semsig r => .node 0xB9 r
  | .semwait r => .node 0xBA r
  | .semwaitHostPoll _ _ => .event
  | .nop r => .node 0xE0 r
  | .rdsys r => .node 0xE1 r
  | .taill r => .node 0xE6 r
  | .trap r => .node 0xE2 r
  | .brk r => .node 0xE3 r
  | .resumeSubstitute r => .node 0xE4 r
  | .resumeRetry r => .node 0xE4 r
  | .resumePoison r => .node 0xE4 r
  | .killf r => .node 0xE5 r
  | .parkNotice _ _ _ => .event
  | .arcout r => .node 0xB7 r
  | .arcin r => .node 0xB8 r
  | .arcMessageArrival _ _ => .event
  | .arcCredit _ _ => .event
  | .round r => .node 0xD0 r
  | .roundstop r => .node 0xD1 r
  | .setg gd imm => .round 0x01 [(48, imm.toNat), (7, 0), (3, gd.toNat)]
  | .addg gd ga imm => .round 0x02 [(48, imm.toNat), (4, 0), (3, ga.toNat), (3, gd.toNat)]
  | .addgg gd ga gb sh => .round 0x03 [(43, 0), (6, sh.toNat), (3, gb.toNat), (3, ga.toNat), (3, gd.toNat)]
  | .loop gd skip count => .round 0x04 [(32, count.toNat), (10, skip.toNat), (13, 0), (3, gd.toNat)]
  | .endl gd back => .round 0x05 [(10, back.toNat), (45, 0), (3, gd.toNat)]
  | .fetch ga gs buf host rows rowb => .round 0x08 [(22, 0), (11, rowb.toNat), (8, rows.toNat), (7, 0), (1, b2n host), (1, 0), (2, buf.toNat), (3, gs.toNat), (3, ga.toNat)]
  | .waitslot gt tgt n => .round 0x09 [(8, n.toNat), (33, 0), (7, tgt.toNat), (7, 0), (3, gt.toNat)]
  | .decode bi bo tab => .round 0x0A [(46, 0), (2, tab.toNat), (2, bo.toNat), (2, bi.toNat), (6, 0)]
  | .deliver gt buf tgt => .round 0x0B [(41, 0), (7, tgt.toNat), (2, 0), (2, buf.toNat), (3, 0), (3, gt.toNat)]
  | .deliveryArrival _ _ => .event
  | .courierArrive gt bidx bytes => .round 0x0C [(24, bytes.toNat), (16, bidx.toNat), (15, 0), (3, gt.toNat)]
  | .token dest ga fill => .round 0x0D [(29, 0), (7, fill.toNat), (3, ga.toNat), (19, dest.toNat)]
  | .courierSemwait ga gv => .round 0x10 [(52, 0), (3, gv.toNat), (3, ga.toNat)]
  | .courierSemsig ga gv add scope => .round 0x11 [(48, 0), (3, scopeCode scope), (1, b2n add), (3, gv.toNat), (3, ga.toNat)]
  | .courierSink ga gs gt host tgt rows rowb => .round 0x12 [(22, 0), (11, rowb.toNat), (8, rows.toNat), (7, tgt.toNat), (1, b2n host), (3, gt.toNat), (3, gs.toNat), (3, ga.toNat)]
  | .endRound => .round 0x3F [(58, 0)]
  | .tokenArrival _ _ => .event
  | .spillProbeReturn _ _ => .event
  | .spillWriteDone _ _ => .event
  | .firingAged _ _ _ => .event
  | .latchBlocked _ _ => .event
  | .handleReturn _ => .event
  | .haltRequest _ => .event
  | .haltComplete _ _ => .event
  | .foldExchange _ => .event
  | .flitReceive _ _ _ _ _ _ _ _ => .event
  | .hoplogClear _ _ => .event
  | .frontierReport _ _ => .event
  | .epochClose _ => .event
  | .frontierBroadcast _ _ => .event
  | .mailbagEntry _ _ => .event
  | .taskRespawn _ _ => .event
  | .taskFrontEntry _ _ => .event
  | .taskCommit _ _ => .event
  | .doorbell _ _ => .event
  | .registerWrite _ _ _ => .event
  | .dispatch => .event
  | .queueWaitPoll => .event
  | .launch _ => .event
  | .copyRecord _ => .event
  | .fence _ => .event
  | .inval _ => .event
  | .sealWave _ _ => .event
  | .commitWave _ => .event
  | .arcBind _ _ _ => .event
  | .launchEnd _ => .event
  | .slotRelease _ => .event
  | .regionShrink _ => .event
  | .foldRestore _ => .event
  | .meterRefill => .event
  | .clockStep _ _ => .event
  | .thermalTrip _ => .event
  | .thermalClear _ => .event
  | .deadlockSample => .event
  | .deadlockIdle _ => .event
  | .bootgo _ => .event
  | .bootImageChecked _ => .event
  | .bootReady _ => .event
  | .attestGo _ => .event
  | .attestReportDone => .event
  | .telemetrySample => .event
  | .recovery _ => .event
  | .vfFlr _ => .event
  | .pfReset => .event
  | .powerUp => .event
  | .linkFlitReceive _ _ _ _ _ => .event
  | .linkAckTimeout _ => .event
  | .linkTrainingFail _ => .event
  | .failureNotice _ _ => .event
  | .communicatorRebuild _ _ => .event
  | .queuePrioWeightChange _ _ _ _ => .event

/-- The shared function of an opcode (R79); the codes R79 does not list are reserved. -/
def sharedOf (opc : Nat) (w : Shared) : Option Instr :=
  match opc with
  | 0x00 => some (.add w)
  | 0x01 => some (.sub w)
  | 0x02 => some (.adds w)
  | 0x03 => some (.subs w)
  | 0x04 => some (.mul w)
  | 0x05 => some (.mulh w)
  | 0x06 => some (.div w)
  | 0x07 => some (.rem w)
  | 0x08 => some (.min w)
  | 0x09 => some (.max w)
  | 0x0A => some (.abs w)
  | 0x0B => some (.neg w)
  | 0x0C => some (.and w)
  | 0x0D => some (.or w)
  | 0x0E => some (.xor w)
  | 0x0F => some (.andn w)
  | 0x10 => some (.not w)
  | 0x11 => some (.shl w)
  | 0x12 => some (.shr w)
  | 0x13 => some (.sar w)
  | 0x14 => some (.rol w)
  | 0x15 => some (.clz w)
  | 0x16 => some (.ctz w)
  | 0x17 => some (.popc w)
  | 0x18 => some (.brev w)
  | 0x19 => some (.bfx w)
  | 0x1A => some (.bfi w)
  | 0x1B => some (.mad w)
  | 0x1C => some (.idx w)
  | 0x1D => some (.sel w)
  | 0x1E => some (.mov w)
  | 0x1F => some (.const w)
  | 0x20 => some (.ceq w)
  | 0x21 => some (.cne w)
  | 0x22 => some (.clt w)
  | 0x23 => some (.cle w)
  | 0x24 => some (.cgt w)
  | 0x25 => some (.cge w)
  | 0x26 => some (.cun w)
  | 0x27 => some (.classify w)
  | 0x28 => some (.test w)
  | 0x30 => some (.fadd w)
  | 0x31 => some (.fsub w)
  | 0x32 => some (.fmul w)
  | 0x33 => some (.fma w)
  | 0x34 => some (.fms w)
  | 0x35 => some (.fnma w)
  | 0x36 => some (.fdiv w)
  | 0x37 => some (.fsqrt w)
  | 0x38 => some (.fmin w)
  | 0x39 => some (.fmax w)
  | 0x3A => some (.fabs w)
  | 0x3B => some (.fneg w)
  | 0x3C => some (.fcpys w)
  | 0x3D => some (.frint w)
  | 0x3E => some (.fscale w)
  | 0x3F => some (.fexpo w)
  | 0x40 => some (.fmant w)
  | 0x41 => some (.frac w)
  | 0x50 => some (.cvt w)
  | 0x51 => some (.cvts w)
  | 0x52 => some (.pkbf w)
  | 0x60 => some (.bcast w)
  | 0x61 => some (.lget w)
  | 0x62 => some (.lset w)
  | 0x63 => some (.shuf w)
  | 0x64 => some (.rot w)
  | 0x65 => some (.lsum w)
  | 0x66 => some (.lmin w)
  | 0x67 => some (.lmax w)
  | 0x68 => some (.scan w)
  | 0x69 => some (.compact w)
  | _ => none

/-- The node instruction of an opcode (R79, R80). LUT and LUT.load differ in MODX[4] (R180), MODE and reconfiguring MODE
in LIT[4] (R207), and RESUME's forms in MODX[1:0] (R244); FORM 3 is reserved. -/
def nodeOf (opc : Nat) (r : NodeRec) : Option Instr :=
  match opc with
  | 0x80 => some (.pusht r)
  | 0x81 => some (.popt r)
  | 0x82 => some (.iter r)
  | 0x83 => some (.sett r)
  | 0x84 => some (.gett r)
  | 0x85 => some (.frame r)
  | 0x86 => some (.spawn r)
  | 0x87 => some (.spawnt r)
  | 0x88 => some (.free r)
  | 0x89 => some (.ctxw r)
  | 0x8A => some (.pack r)
  | 0x8B => some (.unpack r)
  | 0x8C => some (.recol r)
  | 0x90 => some (.steer r)
  | 0x91 => some (.merge r)
  | 0x92 => some (.gate r)
  | 0x93 => some (.gaterel r)
  | 0x94 => some (.copy r)
  | 0x95 => some (.sink r)
  | 0x96 => some (.lpost r)
  | 0x97 => some (.waitlp r)
  | 0x98 => some (.sync r)
  | 0x99 => some (.seq r)
  | 0xC0 => some (.mma r)
  | 0xC1 => some (.mmaz r)
  | 0xC2 => some (.accrd r)
  | 0xC3 => some (.accz r)
  | 0xC4 => some (.fskip r)
  | 0xC5 => some (.corner r)
  | 0xC6 => some (.range r)
  | 0xC8 => some (.reduce r)
  | 0xC9 => some (.xread r)
  | 0xCA => some (.xsend r)
  | 0xCB => some (.xmerge r)
  | 0xCC => some (.xclr r)
  | 0xD2 => some (.decodetab r)
  | 0xA0 => some (.ldt r)
  | 0xA1 => some (.stt r)
  | 0xA4 => some (.atomp r)
  | 0xA5 => some (.atomr r)
  | 0xA6 => some (.casr r)
  | 0xB0 => some (.send r)
  | 0xB1 => some (.recv r)
  | 0xB2 => some (.freeslot r)
  | 0xB3 => some (.barinit r)
  | 0xB4 => some (.arrive r)
  | 0xB5 => some (.waitcnt r)
  | 0xA2 => some (.ldm r)
  | 0xA3 => some (.stm r)
  | 0xA7 => some (.done r)
  | 0xA8 => some (.gather r)
  | 0xA9 => some (.scatter r)
  | 0xB9 => some (.semsig r)
  | 0xBA => some (.semwait r)
  | 0xE0 => some (.nop r)
  | 0xE1 => some (.rdsys r)
  | 0xE6 => some (.taill r)
  | 0xE2 => some (.trap r)
  | 0xE3 => some (.brk r)
  | 0xE5 => some (.killf r)
  | 0xB7 => some (.arcout r)
  | 0xB8 => some (.arcin r)
  | 0xD0 => some (.round r)
  | 0xD1 => some (.roundstop r)
  | 0xC7 => some (if bit r.modx.toNat 4 then .lutLoad r else .lut r)
  | 0xB6 => some (if bit r.lit.toNat 4 then .modeReconf r else .mode r)
  | 0xE4 =>
    match low 2 r.modx.toNat with
    | 0 => some (.resumeSubstitute r)
    | 1 => some (.resumeRetry r)
    | 2 => some (.resumePoison r)
    | _ => none
  | _ => sharedOf opc (.node r)

/-- The block instruction of an opcode (R81). -/
def blockOf (opc : Nat) (b : BlockRec) : Option Instr :=
  match opc with
  | 0x80 => some (.get b)
  | 0x81 => some (.emit b)
  | 0x82 => some (.emitc b)
  | 0x83 => some (.ldtb b)
  | 0x84 => some (.sttb b)
  | 0x85 => some (.xadd b)
  | 0x86 => some (.rdsysb b)
  | 0x87 => some (.lmask b)
  | _ => sharedOf opc (.block b)

/-- The widths of a round instruction's fields below its opcode, from bit 0 upward (R82); none for a reserved opcode. -/
def roundLayout (opc : Nat) : Option (List Nat) :=
  match opc with
  | 0x01 => some [48, 7, 3]
  | 0x02 => some [48, 4, 3, 3]
  | 0x03 => some [43, 6, 3, 3, 3]
  | 0x04 => some [32, 10, 13, 3]
  | 0x05 => some [10, 45, 3]
  | 0x08 => some [22, 11, 8, 7, 1, 1, 2, 3, 3]
  | 0x09 => some [8, 33, 7, 7, 3]
  | 0x0A => some [46, 2, 2, 2, 6]
  | 0x0B => some [41, 7, 2, 2, 3, 3]
  | 0x0C => some [24, 16, 15, 3]
  | 0x0D => some [29, 7, 3, 19]
  | 0x10 => some [52, 3, 3]
  | 0x11 => some [48, 3, 1, 3, 3]
  | 0x12 => some [22, 11, 8, 7, 1, 3, 3, 3]
  | 0x3F => some [58]
  | _ => none

/-- The round instruction of an opcode and its field values (R82); a reserved scope names none. -/
def roundOf (opc : Nat) (fields : List Nat) : Option Instr :=
  match opc, fields with
  | 0x01, [imm, _, gd] => some (.setg (BitVec.ofNat 3 gd) (BitVec.ofNat 48 imm))
  | 0x02, [imm, _, ga, gd] => some (.addg (BitVec.ofNat 3 gd) (BitVec.ofNat 3 ga) (BitVec.ofNat 48 imm))
  | 0x03, [_, sh, gb, ga, gd] => some (.addgg (BitVec.ofNat 3 gd) (BitVec.ofNat 3 ga) (BitVec.ofNat 3 gb) (BitVec.ofNat 6 sh))
  | 0x04, [count, skip, _, gd] => some (.loop (BitVec.ofNat 3 gd) (BitVec.ofNat 10 skip) (BitVec.ofNat 32 count))
  | 0x05, [back, _, gd] => some (.endl (BitVec.ofNat 3 gd) (BitVec.ofNat 10 back))
  | 0x08, [_, rowb, rows, _, host, _, buf, gs, ga] => some (.fetch (BitVec.ofNat 3 ga) (BitVec.ofNat 3 gs) (BitVec.ofNat 2 buf) (host == 1) (BitVec.ofNat 8 rows) (BitVec.ofNat 11 rowb))
  | 0x09, [n, _, tgt, _, gt] => some (.waitslot (BitVec.ofNat 3 gt) (BitVec.ofNat 7 tgt) (BitVec.ofNat 8 n))
  | 0x0A, [_, tab, bo, bi, _] => some (.decode (BitVec.ofNat 2 bi) (BitVec.ofNat 2 bo) (BitVec.ofNat 2 tab))
  | 0x0B, [_, tgt, _, buf, _, gt] => some (.deliver (BitVec.ofNat 3 gt) (BitVec.ofNat 2 buf) (BitVec.ofNat 7 tgt))
  | 0x0C, [bytes, bidx, _, gt] => some (.courierArrive (BitVec.ofNat 3 gt) (BitVec.ofNat 16 bidx) (BitVec.ofNat 24 bytes))
  | 0x0D, [_, fill, ga, dest] => some (.token (BitVec.ofNat 19 dest) (BitVec.ofNat 3 ga) (BitVec.ofNat 7 fill))
  | 0x10, [_, gv, ga] => some (.courierSemwait (BitVec.ofNat 3 ga) (BitVec.ofNat 3 gv))
  | 0x11, [_, scope, add, gv, ga] => (scopeOf scope).map fun sc => .courierSemsig (BitVec.ofNat 3 ga) (BitVec.ofNat 3 gv) (add == 1) sc
  | 0x12, [_, rowb, rows, tgt, host, gt, gs, ga] => some (.courierSink (BitVec.ofNat 3 ga) (BitVec.ofNat 3 gs) (BitVec.ofNat 3 gt) (host == 1) (BitVec.ofNat 7 tgt) (BitVec.ofNat 8 rows) (BitVec.ofNat 11 rowb))
  | 0x3F, [_] => some (.endRound)
  | _, _ => none

end Sys2Proof.Machine
end

