-- ==== Sys2Proof/Machine/Checks.lean ====
section
/-! DEFINITION. The static checks of one instruction word (R69 to R84 and the encoding table of each chapter): the list
of the reasons of R93 a word is rejected with; a word with none is well formed. Checks that need the rest of the
manifest stand in Machine/Manifest.lean. -/

namespace Sys2Proof.Machine

/-- Operand classes of the shared functions (R69). -/
inductive OpClass where
  | unary | binary | ternary | index | const
  deriving DecidableEq, Repr

/-- How the literal operand of a shared function is read (R69, R70, R161, R162, R167). -/
inductive LitKind where
  | value | control | fieldSpec | classMask | f32Bits
  deriving DecidableEq, Repr

/-- Which types a shared function accepts (R79). -/
inductive TyClass where
  | int | intPred | int3264 | any | intFloatPred | intFloat | float | fp8 | pk
  deriving DecidableEq, Repr

/-- Class, literal reading, types and MODX use of a shared function (R79). -/
structure ShInfo where
  cls : OpClass
  lit : LitKind
  types : TyClass
  modx : Bool
  deriving DecidableEq, Repr

/-- The row of R79 an opcode belongs to. -/
def shInfo (opc : Nat) : ShInfo :=
  if opc ≤ 0x09 then ⟨.binary, .value, .int, false⟩
  else if opc ≤ 0x0B then ⟨.unary, .value, .int, false⟩
  else if opc ≤ 0x0F then ⟨.binary, .value, .intPred, false⟩
  else if opc == 0x10 then ⟨.unary, .value, .intPred, false⟩
  else if opc ≤ 0x14 then ⟨.binary, .control, .int, false⟩
  else if opc ≤ 0x18 then ⟨.unary, .value, .int, false⟩
  else if opc == 0x19 then ⟨.binary, .fieldSpec, .int3264, false⟩
  else if opc == 0x1A then ⟨.ternary, .fieldSpec, .int3264, false⟩
  else if opc == 0x1B then ⟨.ternary, .value, .int, false⟩
  else if opc == 0x1C then ⟨.index, .value, .int3264, false⟩
  else if opc == 0x1D then ⟨.ternary, .value, .any, false⟩
  else if opc == 0x1E then ⟨.unary, .value, .any, false⟩
  else if opc == 0x1F then ⟨.const, .value, .any, false⟩
  else if opc ≤ 0x21 then ⟨.binary, .value, .intFloatPred, false⟩
  else if opc ≤ 0x25 then ⟨.binary, .value, .intFloat, false⟩
  else if opc == 0x26 then ⟨.binary, .value, .float, false⟩
  else if opc == 0x27 then ⟨.binary, .classMask, .float, false⟩
  else if opc == 0x28 then ⟨.binary, .value, .intPred, false⟩
  else if opc ≤ 0x32 then ⟨.binary, .value, .float, false⟩
  else if opc ≤ 0x35 then ⟨.ternary, .value, .float, false⟩
  else if opc == 0x36 then ⟨.binary, .value, .float, false⟩
  else if opc == 0x37 then ⟨.unary, .value, .float, false⟩
  else if opc ≤ 0x39 then ⟨.binary, .value, .float, false⟩
  else if opc ≤ 0x3B then ⟨.unary, .value, .float, false⟩
  else if opc == 0x3C then ⟨.binary, .value, .float, false⟩
  else if opc == 0x3D then ⟨.unary, .value, .float, false⟩
  else if opc == 0x3E then ⟨.binary, .control, .float, false⟩
  else if opc ≤ 0x41 then ⟨.unary, .value, .float, false⟩
  else if opc == 0x50 then ⟨.unary, .value, .any, true⟩
  else if opc == 0x51 then ⟨.unary, .value, .fp8, true⟩
  else if opc == 0x52 then ⟨.binary, .f32Bits, .pk, true⟩
  else if opc ≤ 0x61 then ⟨.binary, .control, .any, false⟩
  else if opc == 0x62 then ⟨.ternary, .control, .any, false⟩
  else if opc ≤ 0x64 then ⟨.binary, .control, .any, false⟩
  else if opc ≤ 0x68 then ⟨.unary, .value, .intFloat, false⟩
  else ⟨.binary, .value, .any, false⟩

/-- Whether a type is accepted (R79); CVTS pairs the type with its source. -/
def tyAccepted (c : TyClass) (t : Ty) (modx : Nat) : Bool :=
  match c with
  | .int => intTy t
  | .intPred => intTy t || t == .pred
  | .int3264 => t == .i32 || t == .u32 || t == .i64 || t == .u64
  | .any => true
  | .intFloatPred => intTy t || floatTy t || t == .pred
  | .intFloat => intTy t || floatTy t
  | .float => floatTy t
  | .fp8 =>
    let narrow (u : Ty) : Bool := u == .f32 || u == .bf16 || u == .f16
    let fp8 (u : Ty) : Bool := u == .e4m3 || u == .e5m2
    match tyOfCode (low 4 modx) with
    | some s => (fp8 t && narrow s) || (narrow t && fp8 s)
    | none => false
  | .pk => t == .bf16 || t == .f16

/-- Whether a literal's must-be-zero bits are zero (R70, R161, R162). -/
def litOk (k : LitKind) (t : Ty) (lit : Nat) : Bool :=
  match k with
  | .value => litClean t lit
  | .control | .f32Bits => true
  | .fieldSpec => field lit 6 2 == 0 && lit >>> 15 == 0
  | .classMask => lit >>> 10 == 0

/-- A reason, where a condition holds. -/
def why (c : Bool) (reason : Nat) : List Nat := if c then [reason] else []

/-- The reasons of MODX of a class-M function (R71). -/
def modxReasons (opc modx : Nat) : List Nat :=
  if opc == 0x52 then why (low 4 modx != 0) 5
  else why (low 4 modx == 15) 4

/-- The all-ones destination, none (R67). -/
def noDest : BitVec 19 := 0x7FFFF

/-- The reasons of a shared function in node form (R69 to R71). -/
def sharedNodeReasons (opc : Nat) (r : NodeRec) : List Nat :=
  let i := shInfo opc
  let lit := r.lit.toNat
  let modx := r.modx.toNat
  (if i.modx then modxReasons opc modx else why (modx != 0) 5) ++
  why (!tyAccepted i.types r.type modx) 6 ++
  match i.cls with
  | .unary => why (r.arity != .mono) 4 ++ why (lit != 0) 5
  | .binary =>
    match r.arity with
    | .mono => [4]
    | .dyad => why (lit != 0) 5
    | .lit => why (!litOk i.lit r.type lit) 5
  | .ternary => why (r.arity != .dyad) 4 ++ why (!litOk i.lit r.type lit) 5
  | .index => why (r.arity != .dyad) 4 ++ why (lit >>> 6 != 0) 5
  | .const => why (r.arity != .mono) 4 ++ why (!litOk .value r.type lit) 5

/-- The reasons of a shared function in block form (R69 to R71, R75). -/
def sharedBlockReasons (opc : Nat) (b : BlockRec) : List Nat :=
  let i := shInfo opc
  let imm := b.imm.toNat
  let modx := low 5 imm
  let immRest := if i.modx then imm >>> 5 != 0 else imm != 0
  let selReasons (immOk : Bool) : List Nat :=
    match b.bsel with
    | .reg => why immRest 5
    | .imm => if i.modx then [4] else why (b.b != 0) 5 ++ why (!immOk) 5
    | .operand => why (field b.b.toNat 1 2 != 0) 5 ++ why immRest 5
  (if i.modx then modxReasons opc modx else []) ++
  why (!tyAccepted i.types b.type modx) 6 ++
  match i.cls with
  | .unary => why (b.bsel != .reg) 4 ++ why (b.b != 0 || b.c != 0 || immRest) 5
  | .binary => selReasons (litOk i.lit b.type imm) ++ why (b.c != 0) 5
  | .ternary => selReasons (litClean b.type imm)
  | .index =>
    why (b.bsel == .imm) 4 ++ why (b.bsel == .operand && field b.b.toNat 1 2 != 0) 5 ++
      why (imm >>> 6 != 0 || b.c != 0) 5
  | .const =>
    why (b.bsel != .imm) 4 ++ why (b.a != 0 || b.b != 0 || b.c != 0) 5 ++ why (!litOk .value b.type imm) 5

/-- A word type of R207: every defined type but pred. -/
def wordTy (t : Ty) : Bool := t != .pred

/-- The types of the tensor array (R180). -/
def mmaTy (t : Ty) : Bool :=
  t == .bf16 || t == .f16 || t == .f32 || t == .f64 || t == .e4m3 || t == .e5m2

/-- Whether a type is one of the FP8 formats. -/
def fp8Ty (t : Ty) : Bool := t == .e4m3 || t == .e5m2

/-- The static demands on a node-only record: types, own tag rule, arities, MODX and LIT bits that may be set, ORD. -/
structure NodeSpec where
  types : Bool
  ownTag : Bool
  arities : List Arity
  modMask : Nat
  litMask : Nat
  ordReq : Bool
  deriving DecidableEq, Repr

/-- The reasons a node-only record breaks its demands with. -/
def specReasons (s : NodeSpec) (r : NodeRec) : List Nat :=
  why (!s.arities.contains r.arity) 4 ++ why (s.ownTag && r.tagop != .same) 5 ++
  why (r.modx.toNat ||| s.modMask != s.modMask) 5 ++ why (r.lit.toNat ||| s.litMask != s.litMask) 5 ++
  why (!s.types) 6 ++ why (s.ordReq && !r.ord) 8

/-- All 32 bits of LIT where the arity is 10, none elsewhere (R103). -/
def litIfLit (r : NodeRec) : Nat := if r.arity == .lit then 0xFFFFFFFF else 0

/-- The wave numbers of LIT (R207, R262): WAVE 0x3FF with another PRED or SUCC, or the other way. -/
def waveReasons (lit : Nat) : List Nat :=
  let p := field lit 20 10
  let w := field lit 10 10
  let s := field lit 0 10
  why (if w == 0x3FF then p != 0x3FF || s != 0x3FF else p == 0x3FF || s == 0x3FF) 5

/-- The types an atomic accepts by its OP (R213). -/
def atomTy (op : Nat) (t : Ty) : Bool :=
  let i := t == .i32 || t == .u32 || t == .i64 || t == .u64
  match op with
  | 1 | 2 | 6 => i || t == .f32 || t == .f64
  | _ => i

/-- The scope reasons of STM and SCATTER (R262, R263). -/
def scopeReasons (modx : Nat) : List Nat :=
  why (low 3 modx > 4) 4 ++ why (!bit modx 3 && low 3 modx != 0) 5

/-- The number of tokens an ACCRD emits (R192). -/
def accrdTokens (t : Ty) (rows : Nat) : Nat := if t == .bf16 || t == .f16 then rows else 2 * rows

/-- The reasons of a node-only record (R103, R104, R180, R181, R207, R208, R244, R262, R263, R306, R370, R411) that the
record alone decides. -/
def nodeOnlyReasons (opc : Nat) (r : NodeRec) : List Nat :=
  let lit := r.lit.toNat
  let modx := r.modx.toNat
  let w := modx + 1
  let ty0 := r.type == .i32
  let isLit := r.arity == .lit
  let a3 : List Arity := [.mono, .dyad, .lit]
  let m1 : List Arity := [.mono]
  let d1 : List Arity := [.dyad]
  let md : List Arity := [.mono, .dyad]
  let dl : List Arity := [.dyad, .lit]
  match opc with
  | 0x80 => specReasons ⟨ty0, true, a3, 31, litIfLit r, false⟩ r ++ why (isLit && lit ≥ 1 <<< w) 9
  | 0x81 => specReasons ⟨ty0, true, m1, 0, 0, false⟩ r
  | 0x82 => specReasons ⟨ty0, true, m1, 31, 0, false⟩ r
  | 0x83 => specReasons ⟨ty0, true, dl, 31, litIfLit r, false⟩ r
  | 0x84 => specReasons ⟨r.type == .u32 || (r.type == .u64 && modx == 31), false, m1, 31, 0, false⟩ r
  | 0x85 => specReasons ⟨ty0, false, m1, 0, 0, false⟩ r ++ why (r.dsta == noDest) 7
  | 0x86 => specReasons ⟨ty0, false, a3, 31, litIfLit r, false⟩ r ++ why (r.dsta == noDest) 7 ++
      why (isLit && lit ≥ 1 <<< w) 9
  | 0x87 => specReasons ⟨ty0, false, dl, 31, litIfLit r, false⟩ r ++ why (r.dsta == noDest) 7
  | 0x88 => specReasons ⟨ty0, true, m1, 0, 0, false⟩ r ++ why (r.dsta != noDest || r.dstb != noDest) 7
  | 0x89 => specReasons ⟨true, false, dl, 0, litIfLit r, false⟩ r ++ why (isLit && (lit == 0 || lit > 32)) 9
  | 0x8A => specReasons ⟨true, false, d1, 0, 0, false⟩ r
  | 0x8B => specReasons ⟨true, false, m1, 0, 0, false⟩ r
  | 0x8C => specReasons ⟨true, false, [.lit], 0, 0xFFFFFFFF, false⟩ r ++
      why (lit == 0 || lit > 32 || (wide r.type && lit % 2 == 1)) 9
  | 0x90 => specReasons ⟨true, false, d1, 15, 0, false⟩ r ++ why (low 3 modx > 4) 4
  | 0x91 => specReasons ⟨true, false, m1, 1, 0, false⟩ r
  | 0x92 => specReasons ⟨true, false, [.lit], 0, 0xFF, false⟩ r
  | 0x93 => specReasons ⟨true, false, m1, 0, 0, false⟩ r ++ why (r.dsta == noDest) 7
  | 0x94 => specReasons ⟨true, false, [.lit], 31, 0xFFFFFFFF, false⟩ r ++ why (lit > 1 <<< w) 9
  | 0x95 => specReasons ⟨ty0, true, m1, 0, 0, false⟩ r ++ why (r.dsta != noDest || r.dstb != noDest) 7
  | 0x96 => specReasons ⟨true, false, m1, 1, 0, false⟩ r
  | 0x97 => specReasons ⟨true, false, m1, 1, 0, false⟩ r
  | 0x98 => specReasons ⟨true, false, m1, 0, 0, false⟩ r
  | 0x99 => specReasons ⟨ty0, false, a3, 0, 0xFFFFFFFF, false⟩ r
  | 0xA0 => specReasons ⟨wordTy r.type, false, m1, 1, 0x3FFFFFFF, false⟩ r ++ waveReasons lit
  | 0xA1 => specReasons ⟨wordTy r.type, false, d1, 1, 0x3FFFFFFF, false⟩ r ++ waveReasons lit
  | 0xA2 => specReasons ⟨wordTy r.type, false, m1, 31, 0x7FFFFFFF, false⟩ r ++ waveReasons lit ++
      why (wide r.type && w % 2 == 1) 9
  | 0xA3 => specReasons ⟨wordTy r.type, false, d1, 15, 0x7FFFFFFF, false⟩ r ++ waveReasons lit ++ scopeReasons modx
  | 0xA4 => specReasons ⟨atomTy (low 3 modx) r.type, false, d1, 31, 0x3FFFFFFF, false⟩ r ++ waveReasons lit ++
      why (low 3 modx > 5) 4 ++ why (bit modx 3 && !bit modx 4) 5
  | 0xA5 => specReasons ⟨atomTy (low 3 modx) r.type, false, d1, 0x17, 0x3FFFFFFF, false⟩ r ++ waveReasons lit ++
      why (low 3 modx > 6) 4
  | 0xA6 => specReasons ⟨atomTy 6 r.type, false, d1, 0x10, 0x3FFFFFFF, false⟩ r ++ waveReasons lit
  | 0xA7 => specReasons ⟨ty0, false, m1, 7, 0x3FFFFFFF, false⟩ r ++ waveReasons lit ++ why (low 3 modx > 4) 4 ++
      why (field lit 10 10 == 0x3FF) 8
  | 0xA8 => specReasons ⟨wordTy r.type, false, m1, 0, 0x7FFFFFFF, false⟩ r ++ waveReasons lit
  | 0xA9 => specReasons ⟨wordTy r.type, false, d1, 15, 0x7FFFFFFF, false⟩ r ++ waveReasons lit ++ scopeReasons modx
  | 0xB0 => specReasons ⟨wordTy r.type, false, m1, 1, if bit modx 0 then 0x7FFFFFFF else 0x7FFF, true⟩ r
  | 0xB1 => specReasons ⟨if bit modx 0 then wordTy r.type else r.type == .u32, false, m1, 3, 63, true⟩ r
  | 0xB2 => specReasons ⟨ty0, false, m1, 0, 0x1FF3F, true⟩ r ++ why (field lit 8 9 > 256) 9
  | 0xB3 => specReasons ⟨ty0, false, m1, 0, 0xFFFF, false⟩ r
  | 0xB4 => specReasons ⟨ty0, false, m1, 0, 0xFFFFFFFF, false⟩ r
  | 0xB5 => specReasons ⟨ty0, false, md, 0, 0xFFFF, false⟩ r
  | 0xB6 => specReasons ⟨ty0, false, md, 0, 31, false⟩ r ++ why ((r.arity == .dyad) != bit lit 4) 4 ++
      why (bit lit 4 && r.dstb == noDest) 7 ++ why (bit lit 4 && low 4 lit != 0) 9
  | 0xB7 => specReasons ⟨wordTy r.type, false, m1, 0, 0xFFFF, true⟩ r
  | 0xB8 => specReasons ⟨wordTy r.type, false, m1, 0, 0xFFFF, true⟩ r
  | 0xB9 => specReasons ⟨ty0, false, d1, 15, 0, false⟩ r ++ why (low 3 modx > 4) 4
  | 0xBA => specReasons ⟨ty0, false, d1, 0, 0, false⟩ r
  | 0xC0 | 0xC1 => specReasons ⟨mmaTy r.type, false, md, 15, 3, true⟩ r ++
      why (field modx 2 2 != 0 && !fp8Ty r.type) 5
  | 0xC2 => specReasons ⟨floatTy r.type, false, m1, 16, 0x1FFFF, false⟩ r ++
      why (modx != 0 && r.type != .bf16 && r.type != .f16) 5 ++
      why (field lit 2 6 + field lit 8 6 + 1 > (if r.type == .f64 then 32 else 64) ||
        1 <<< (field lit 14 3 + 1) < accrdTokens r.type (field lit 8 6 + 1)) 9
  | 0xC3 => specReasons ⟨ty0, false, m1, 0, 3, false⟩ r
  | 0xC4 => specReasons ⟨mmaTy r.type, false, m1, 7, 15, false⟩ r ++ why (bit modx 2 && !fp8Ty r.type) 5 ++
      why (low 2 modx == 0) 5
  | 0xC5 => specReasons ⟨floatTy r.type, false, m1, 0, 0, false⟩ r
  | 0xC6 => specReasons ⟨r.type == .f32 || r.type == .f64, false, m1, 15, if low 3 modx == 3 then 255 else 0, false⟩ r ++
      why (low 3 modx > 4) 4 ++ why (bit modx 3 && low 3 modx != 1 && low 3 modx != 4) 5
  | 0xC7 => specReasons ⟨r.type == .f32, false, m1, 16, 15, false⟩ r
  | 0xC8 | 0xC9 => specReasons ⟨r.type == .f64 || r.type == .f32 || r.type == .bf16, false, md, 0, 3, false⟩ r
  | 0xCA => specReasons ⟨ty0, false, md, 0, if r.arity == .mono then 0x1FFF else 15, false⟩ r
  | 0xCB => specReasons ⟨ty0, false, m1, 0, 15, false⟩ r
  | 0xCC => specReasons ⟨ty0, false, m1, 0, 3, false⟩ r
  | 0xD0 => specReasons ⟨ty0, false, m1, 0, 0xFFFF, true⟩ r
  | 0xD1 => specReasons ⟨ty0, false, m1, 0, 0xFFFF, false⟩ r
  | 0xD2 => specReasons ⟨ty0, false, m1, 0, 0x3FF, false⟩ r
  | 0xE0 => specReasons ⟨ty0, false, m1, 0, 0, false⟩ r
  | 0xE1 => specReasons ⟨ty0, false, m1, 0, 0xFF, false⟩ r ++ why (low 8 lit > 8) 4
  | 0xE2 => specReasons ⟨ty0, false, md, 0, 0xFFFFFFFF, false⟩ r
  | 0xE3 => specReasons ⟨ty0, false, m1, 0, 0xFFFFFFFF, false⟩ r
  | 0xE4 => specReasons ⟨ty0, false, if low 2 modx == 0 then d1 else m1, 3, 0, false⟩ r ++ why (low 2 modx == 3) 4
  | 0xE5 => specReasons ⟨ty0, false, m1, 0, 0, false⟩ r
  | 0xE6 => specReasons ⟨ty0, false, m1, 0, 0, false⟩ r
  | _ => [3]

/-- The reasons of a node record with a given opcode. -/
def nodeReasons (opc : Nat) (r : NodeRec) : List Nat :=
  if (sharedOf opc (.node r)).isSome then sharedNodeReasons opc r else nodeOnlyReasons opc r

/-- The static demands on a block-only instruction (R170): the register fields, the mask and the immediate bits. -/
structure BlockSpec where
  d : Bool
  a : Bool
  b : Bool
  types : Bool
  masked : Bool
  immMask : Nat
  deriving DecidableEq, Repr

/-- The reasons a block-only instruction breaks its demands with (R170). The reason for a BSEL other than 00 there is not stated:
it is 0x04 (DESIGN CHOICE, log entry 41). -/
def blockSpecReasons (s : BlockSpec) (b : BlockRec) : List Nat :=
  why (b.bsel != .reg) 4 ++
  why ((!s.d && b.d != 0) || (!s.a && b.a != 0) || (!s.b && b.b != 0) || b.c != 0 || (!s.masked && b.m != 0)) 5 ++
  why (b.imm.toNat ||| s.immMask != s.immMask) 5 ++ why (!s.types) 6

/-- The reasons of a block-only instruction (R170). -/
def blockOnlyReasons (opc : Nat) (b : BlockRec) : List Nat :=
  let imm := b.imm.toNat
  let ty0 := b.type == .i32
  match opc with
  | 0x80 => blockSpecReasons ⟨true, false, false, ty0, true, 3⟩ b
  | 0x81 => blockSpecReasons ⟨false, true, false, ty0, false, 3⟩ b ++ why (low 2 imm == 0) 9
  | 0x82 => blockSpecReasons ⟨false, true, true, ty0, false, 3⟩ b ++ why (low 2 imm == 0) 9
  | 0x83 => blockSpecReasons ⟨true, true, false, true, true, 0x3FFFFF⟩ b
  | 0x84 => blockSpecReasons ⟨false, true, true, true, true, 0x3FFFFF⟩ b
  | 0x85 => blockSpecReasons ⟨true, true, bit imm 0, b.type == .f64 || b.type == .f32 || b.type == .bf16, true, 1⟩ b ++
      why (bit b.d.toNat 2) 5
  | 0x86 => blockSpecReasons ⟨true, false, false, ty0, true, 0xFF⟩ b ++ why (low 8 imm > 8) 4
  | 0x87 => blockSpecReasons ⟨true, false, false, ty0, false, 0x3F1F⟩ b ++ why (field imm 8 6 > 32) 9
  | _ => [3]

/-- The reasons of a block instruction with a given opcode. -/
def blockReasons (opc : Nat) (b : BlockRec) : List Nat :=
  if (sharedOf opc (.block b)).isSome then sharedBlockReasons opc b else blockOnlyReasons opc b

/-- The reasons of a round instruction that its word alone decides (R82 to R84). -/
def roundReasons (i : Instr) : List Nat :=
  match i with
  | .waitslot _ tgt n => why (tgt.toNat > 65) 4 ++ why (n == 0) 9
  | .deliver _ _ tgt => why (tgt.toNat > 65) 4
  | .fetch _ _ _ _ rows rowb => why ((rows.toNat + 1) * (rowb.toNat + 1) * 4 > 8192) 9
  | .courierSink _ _ _ _ tgt rows rowb =>
    why (tgt.toNat > 63) 4 ++ why ((rows.toNat + 1) * (rowb.toNat + 1) * 4 > 8192) 9
  | .decode bi bo _ => why (bi == bo) 8
  | .courierArrive _ _ bytes => why (bytes == 0) 9
  | .token dest _ fill => why (dest == noDest) 7 ++ why (fill.toNat > 64) 9
  | _ => []

/-- The reasons of R93 an instruction's word is rejected with by itself; an event has no word and no reason. A node row
that shares its opcode with another (LUT, MODE, RESUME) must hold its own form bits. -/
def reasonsOf (i : Instr) : List Nat :=
  match formOf i with
  | .node opc r => nodeReasons opc r ++ why (nodeOf opc r != some i) 4
  | .block opc b => blockReasons opc b
  | .round _ _ => roundReasons i
  | .event => []

/-- The least of a list of reasons (R93). -/
def leastReason (l : List Nat) : Option Nat := leastBy (fun a b => decide (a < b)) l

end Sys2Proof.Machine
end

