-- ==== Sys2Proof/WellFormed.lean ====
section
/-! DEFINITION. Well-formedness of one instruction: what the loader's word checks (R92) ask of it by itself. -/

namespace Sys2Proof

/-- An instruction whose word the loader's word checks reject for no reason (R92, R93). -/
def wellFormed (i : Instr) : Bool := (Machine.reasonsOf i).isEmpty

end Sys2Proof
end

