-- ==== Sys2Proof/Decode.lean ====
section
/-! DEFINITION. The decoder of the three instruction words (R66, R67, R74, R82), total on any bytes, rejecting with a
reason of R93; the encoder written from the same layouts; and the decoder on an opcode-table word. -/

namespace Sys2Proof

open Machine

/-- Fields packed from bit 0 upward: a width and a value each. -/
def packFields : List (Nat × Nat) → Nat
  | [] => 0
  | (w, v) :: t => v % 2 ^ w + 2 ^ w * packFields t

/-- The values of consecutive fields of the given widths, from bit 0 upward. -/
def takeFields : List Nat → Nat → List Nat
  | [], _ => []
  | w :: t, x => x % 2 ^ w :: takeFields t (x / 2 ^ w)

/-- The TYPE code of a type (R40). -/
def tyCode : Ty → Nat
  | .i32 => 0 | .u32 => 1 | .i64 => 2 | .u64 => 3 | .f32 => 4 | .f64 => 5 | .bf16 => 6 | .f16 => 7
  | .e4m3 => 8 | .e5m2 => 9 | .i8 => 10 | .u8 => 11 | .i16 => 12 | .u16 => 13 | .pred => 14

/-- The RND code of a mode (R48). -/
def rndCode : Rnd → Nat
  | .rne => 0 | .rtz => 1 | .rup => 2 | .rdn => 3 | .rna => 4 | .rsr => 5 | .rto => 6

/-- The mode of a RND code (R48). -/
def rndOf (c : Nat) : Option Rnd := [Rnd.rne, .rtz, .rup, .rdn, .rna, .rsr, .rto][c]?

/-- The TAGOP code of a rule (R72). -/
def tagopCode : TagOp → Nat
  | .same => 0 | .iter => 1 | .pop => 2 | .zero => 3 | .outer => 4

/-- The rule of a TAGOP code (R72). -/
def tagopOf (c : Nat) : Option TagOp := [TagOp.same, .iter, .pop, .zero, .outer][c]?

/-- The ARITY code (R67). -/
def arityCode : Arity → Nat
  | .mono => 0 | .dyad => 1 | .lit => 2

/-- The arity of a code (R67). -/
def arityOf (c : Nat) : Option Arity := [Arity.mono, .dyad, .lit][c]?

/-- The BSEL code (R75). -/
def bselCode : BSel → Nat
  | .reg => 0 | .imm => 1 | .operand => 2

/-- The operand source of a BSEL code (R75). -/
def bselOf (c : Nat) : Option BSel := [BSel.reg, .imm, .operand][c]?

/-- The layout of a node record from bit 0 upward (R67). -/
def nodeLayout : List Nat := [32, 19, 19, 5, 1, 2, 3, 3, 4, 8]

/-- The layout of a block instruction from bit 0 upward (R74). -/
def blockLayout : List Nat := [32, 3, 2, 3, 4, 3, 3, 3, 3, 8]

/-- The field values of a node record, in the order of its layout. -/
def nodeFields (opc : Nat) (r : NodeRec) : List Nat :=
  [r.lit.toNat, r.dstb.toNat, r.dsta.toNat, r.modx.toNat, b2n r.ord, arityCode r.arity, tagopCode r.tagop,
    rndCode r.rnd, tyCode r.type, opc]

/-- The field values of a block instruction, in the order of its layout. -/
def blockFields (opc : Nat) (b : BlockRec) : List Nat :=
  [b.imm.toNat, b.m.toNat, bselCode b.bsel, rndCode b.rnd, tyCode b.type, b.c.toNat, b.b.toNat, b.a.toNat, b.d.toNat, opc]

/-- The word of an instruction: its width in bits and its value; an event has none (R67, R74, R82). -/
def encode (i : Instr) : Option (Nat × Nat) :=
  match formOf i with
  | .node opc r => some (96, packFields (nodeLayout.zip (nodeFields opc r)))
  | .block opc b => some (64, packFields (blockLayout.zip (blockFields opc b)))
  | .round opc fs => some (64, packFields (fs ++ [(6, opc)]))
  | .event => none

/-- A node record's opcode and fields, where every code field holds a defined code. -/
def parseNode (w : Nat) : Option (Nat × NodeRec) :=
  match takeFields nodeLayout w with
  | [lit, dstb, dsta, modx, ord, ar, tg, rn, ty, opc] =>
    match arityOf ar, tagopOf tg, rndOf rn, tyOfCode ty with
    | some ar, some tg, some rn, some ty =>
      some (opc, ⟨ty, rn, tg, ar, ord == 1, BitVec.ofNat 5 modx, BitVec.ofNat 19 dsta, BitVec.ofNat 19 dstb,
        BitVec.ofNat 32 lit⟩)
    | _, _, _, _ => none
  | _ => none

/-- A block instruction's opcode and fields, where every code field holds a defined code. -/
def parseBlock (w : Nat) : Option (Nat × BlockRec) :=
  match takeFields blockLayout w with
  | [imm, m, bs, rn, ty, c, b, a, d, opc] =>
    match bselOf bs, rndOf rn, tyOfCode ty with
    | some bs, some rn, some ty =>
      some (opc, ⟨BitVec.ofNat 3 d, BitVec.ofNat 3 a, BitVec.ofNat 3 b, BitVec.ofNat 3 c, ty, rn, bs, BitVec.ofNat 3 m,
        BitVec.ofNat 32 imm⟩)
    | _, _, _ => none
  | _ => none

/-- The opcode of a node or block word: its top byte, given the word's width. -/
def opcodeOf (nbits w : Nat) : Nat := field w (nbits - 8) 8

/-- The answer of the word checks: the instruction, or the least reason (R93). -/
def checked (i : Instr) : Except Nat Instr :=
  match leastReason (reasonsOf i) with
  | none => .ok i
  | some r => .error r

/-- The node opcodes that are defined (R79, R80). -/
def nodeOpcode (opc : Nat) : Bool :=
  (nodeOf opc ⟨.i32, .rne, .same, .mono, false, 0, 0, 0, 0⟩).isSome

/-- The block opcodes that are defined (R79, R81). -/
def blockOpcode (opc : Nat) : Bool :=
  (blockOf opc ⟨0, 0, 0, 0, .i32, .rne, .reg, 0, 0⟩).isSome

/-- A node record decoded (R67, R92): a reserved opcode is reason 3, a reserved code in a code field reason 4. -/
def decodeNode (w : Nat) : Except Nat Instr :=
  if !nodeOpcode (opcodeOf 96 w) then .error 3
  else
    match parseNode w with
    | none => .error 4
    | some (opc, r) =>
      match nodeOf opc r with
      | none => .error 4
      | some i => checked i

/-- A block instruction decoded (R74, R92). -/
def decodeBlock (w : Nat) : Except Nat Instr :=
  if !blockOpcode (opcodeOf 64 w) then .error 3
  else
    match parseBlock w with
    | none => .error 4
    | some (opc, b) =>
      match blockOf opc b with
      | none => .error 3
      | some i => checked i

/-- Whether the bits of a round word outside its named fields are zero: packing its instruction again gives the word. -/
def roundClean (i : Instr) (w : Nat) : Bool := encode i == some (64, w)

/-- A round instruction decoded (R82, R92): reserved opcodes are reason 3, a reserved scope reason 4, bits outside the
named fields reason 5. -/
def decodeRound (w : Nat) : Except Nat Instr :=
  let opc := field w 58 6
  match roundLayout opc with
  | none => .error 3
  | some l =>
    match roundOf opc (takeFields l w) with
    | none => .error 4
    | some i =>
      match leastReason (reasonsOf i ++ why (!roundClean i (low 64 w)) 5) with
      | none => .ok i
      | some r => .error r

/-- The bytes of an instruction's word, in the order they are stored (R66). -/
def encodeBytes (i : Instr) : Option (List Byte) := (encode i).map fun p => leBytes (p.1 / 8) p.2

/-- A node record decoded from its 12 bytes (R66). -/
def decodeNodeBytes (bs : List Byte) : Except Nat Instr := decodeNode (leNat bs)

/-- A block instruction decoded from its 8 bytes (R66). -/
def decodeBlockBytes (bs : List Byte) : Except Nat Instr := decodeBlock (leNat bs)

/-- A round instruction decoded from its 8 bytes (R66). -/
def decodeRoundBytes (bs : List Byte) : Except Nat Instr := decodeRound (leNat bs)

/-- The instruction an `Except` holds. -/
def okInstr : Except Nat Instr → Option Instr
  | .ok i => some i
  | .error _ => none

/-- The decoder on a word of the opcode table: a node record where the table gives it more than 64 bits, else a block
instruction, or a round instruction where the word is no block instruction. Words are laid out in bytes and decoded
from them (R66); bits above `nbits` are zero. -/
def decodeTableWord (nbits w : Nat) : Option Instr :=
  let x := low nbits w
  if nbits > 64 then okInstr (decodeNodeBytes (leBytes 12 x))
  else
    match okInstr (decodeBlockBytes (leBytes 8 x)) with
    | some i => some i
    | none => okInstr (decodeRoundBytes (leBytes 8 x))

end Sys2Proof
end

