-- ==== Sys2Proof/Config.lean ====
section
/-! DEFINITION. What the specification leaves to the implementation or to the outside: free values, opaque constants with
no body, and the fixed figures of R4. -/

namespace Sys2Proof.Config

/-- Which of several enabled actions comes first, by step number: timing decides it (log entry 1). -/
opaque choice : Nat → Nat

/-- w0 to w7 at a block's start are undefined (R129): lane `l` of register `r`, by step number (log entry 3). -/
opaque blockReg : Nat → Nat → Nat → Lane

/-- Which free handle the allocator issues next, by step number (R20, log entry 6). -/
opaque handle : Nat → Nat

/-- Which free place the allocator takes for the next spill area, by step number (R21, R24, log entry 6). -/
opaque spillArea : Nat → Nat

/-- Where Oatin places a region: a number for each choice, by step number (R361, log entry 15). -/
opaque placement : Nat → Nat → Nat

/-- What a copy reads from a byte of a line that is lost, by step number and address (R356, R400, log entry 16). -/
opaque lostByte : Nat → Nat → Byte

/-- How many spill areas a launch's spill pool holds beside those of its root and office frames (R24, log entry 6). -/
opaque spillAreas : Nat

/-- Which free place the next spawn record takes, by step number (R332, log entry 6). -/
opaque spawnArea : Nat → Nat

/-- Which entry a full translation cache gives up, by step number (R279, log entry 13). -/
opaque evict : Nat → Nat

/-- The lane that XREAD of a 64-bit TYPE leaves over in an odd colour, by step number (R202, log entry 44). -/
opaque oddLane : Nat → Lane

/-- The stack that holds a 64-byte line of device memory (R274, log entry 13). -/
opaque home : Nat → Nat

/-- The header of what a link flit carries, from the numbers it holds: its layout is not stated (R403, R405, log entry 37). -/
opaque linkHeader : List Nat → List Byte

/-- The CRC-64 of a link flit's bytes 0 to 247: its polynomial is not stated (R403, log entry 37). -/
opaque crc64 : List Byte → BitVec 64

/-- CODE of a launch that a discarded message ends, by step number (R260, log entry 39). -/
opaque discardCode : Nat → Nat

/-- RDSYS CYCLES: the live cycles of a tile, which timing decides (R175, log entry 9). -/
opaque cycles : Nat → Dword

/-- SHAKE256 with 64 bytes of output (R392, R395, log entry 8). -/
opaque shake256 : List Byte → List Byte

/-- Whether a Falcon-1024 signature of a digest verifies under a key (R392, log entry 8). -/
opaque falconVerify : List Byte → List Byte → List Byte → Bool

/-- The device identity key's signature of a digest, 1,280 bytes (R395, log entry 8). -/
opaque falconSign : List Byte → List Byte

/-- The fused key of a key slot and its fused hash, and whether the slot is revoked (R394, log entry 8). -/
opaque fusedKey : Nat → List Byte

/-- The fused hash of a key slot (R394, log entry 8). -/
opaque fusedHash : Nat → List Byte

/-- Whether a key slot is revoked (R393, log entry 8). -/
opaque keyRevoked : Nat → Bool

/-- The fused minimum security version number (R392, log entry 8). -/
opaque minSvn : Nat

/-- The 16-byte device identity (R395, log entry 8). -/
opaque deviceId : List Byte

/-- Microseconds since READY of a log entry (R397): timing (log entry 10). -/
opaque timestamp : Nat → Dword

/-- What a sensor reads at a sample, or an error counter gains by it, by step number and place (R396, log entry 20). -/
opaque sensor : Nat → Nat → Dword

/-- What a read of a doorbell page gives, by step number (R386, log entry 46). -/
opaque doorbellRead : Nat → Dword

/-- Depots of a package (R4). -/
def depots : Nat := 36

/-- Bytes of one HBM4 stack (R4): 48 GiB. -/
def stackBytes : Nat := 48 * 2 ^ 30

/-- Frame handles that may be issued (R20). -/
def handles : Nat := 1048574

end Sys2Proof.Config
end

