-- ==== Sys2Proof/Machine/Memory.lean ====
section
/-! DEFINITION. A memory as the list of its bytes that are not zero, addresses strictly rising; an unlisted address reads
as 0 (log entry 2). -/

namespace Sys2Proof.Machine

/-- A memory in canonical form: addresses strictly rising, no byte 0 listed. -/
abbrev Memory := List Host.Cell

/-- The byte at an address; 0 where nothing is listed. DESIGN CHOICE (log entry 2). -/
def readByte (m : Memory) (a : Nat) : Byte :=
  match m with
  | [] => 0
  | (k, v) :: t => if k == a then v else readByte t a

/-- A cell placed before the first cell of a higher address. -/
def placeCell (m : Memory) (a : Nat) (v : Byte) : Memory :=
  match m with
  | [] => [(a, v)]
  | (k, w) :: t => if a < k then (a, v) :: (k, w) :: t else (k, w) :: placeCell t a v

/-- One byte written, keeping the canonical form: writing 0 removes the entry. -/
def writeByte (m : Memory) (a : Nat) (v : Byte) : Memory :=
  let rest := m.filter fun c => c.1 != a
  if v == 0 then rest else placeCell rest a v

/-- `n` consecutive bytes from an address. -/
def readBytes (m : Memory) (a n : Nat) : List Byte := (upTo n).map fun i => readByte m (a + i)

/-- Consecutive bytes written from an address, in ascending order. -/
def writeBytes (m : Memory) (a : Nat) (bs : List Byte) : Memory :=
  match bs with
  | [] => m
  | b :: t => writeBytes (writeByte m a b) (a + 1) t

/-- A little-endian number of `n` bytes (R66). -/
def readNat (m : Memory) (a n : Nat) : Nat := leNat (readBytes m a n)

/-- A number written as `n` bytes, little-endian (R66). -/
def writeNat (m : Memory) (a n x : Nat) : Memory := writeBytes m a (leBytes n x)

/-- Consecutive bytes from an address, read in one pass. -/
def readRun : Memory → Nat → Nat → List Byte
  | _, _, 0 => []
  | m, a, n + 1 =>
    match m.dropWhile fun c => decide (c.1 < a) with
    | [] => 0 :: readRun [] (a + 1) n
    | (k, v) :: t => if k == a then v :: readRun t (a + 1) n else 0 :: readRun ((k, v) :: t) (a + 1) n

/-- A memory that holds given bytes from an address on and nothing else. -/
def memOfBytes : Nat → List Byte → Memory
  | _, [] => []
  | a, b :: t => if b == 0 then memOfBytes (a + 1) t else (a, b) :: memOfBytes (a + 1) t

/-- The canonical form. -/
def Memory.wf : Memory → Bool
  | [] => true
  | [(_, v)] => v != 0
  | (a, v) :: (b, w) :: t => v != 0 && decide (a < b) && Memory.wf ((b, w) :: t)

end Sys2Proof.Machine
end

