-- ==== Sys2Proof/Machine/State.lean ====
section
/-! DEFINITION. The state of the machine as plain data: the package, its memories, its launches with their desks, tiles,
couriers and requests, and what is under way between them. Every list keyed by a number holds each key once. -/

namespace Sys2Proof.Machine

/-! ### Tokens and frames (R10 to R38) -/

/-- A token (R10): header fields, lanes with their parity (R12). `dest` holds the placed destination. `src` names the
flow it travels in and `hb` the accesses that happen before its emission (R290, log entry 4). -/
structure Token where
  dest : BitVec 19
  fh : Nat
  tag : Dword
  fill : Nat
  dl : Bool
  lp : Bool
  sp : Bool
  lanes : List Lane
  lpar : BitVec 32
  hp : BitVec 4
  src : Nat
  hb : List Nat
  deriving DecidableEq, Repr

/-- STATE of a frame table entry (R22). -/
inductive FrameState where
  | free | live | parkedFault | parkedWait | taskSpec | taskDone | taskFront | draining
  deriving DecidableEq, Repr

/-- KIND of a frame table entry (R21). -/
inductive FrameKind where
  | root | ordinary | task
  deriving DecidableEq, Repr

/-- A frame table entry (R21); TCTILE is kept as the virtual tile `vtile` of the context, from which `tctile` computes the
global one. `home` is the state a release returns to (R241), `opens` its unresolved tickets, `defers` its deferred faults
(R343), `waits` its pending waits of PARKED_WAIT (R279, R281, R338), `freed` whether FREE has fired for a task (R329),
`replaced` whether a re-spawn holds its place in its parent's CHILDREN (R340), `hb` what its children's FREE firings (R290)
and commits (R348) carry to its SYNC. -/
structure Frame where
  fh : Nat
  fid : Dword
  ffill : Nat
  parent : Nat
  slot : Nat
  part : Nat
  state : FrameState
  kind : FrameKind
  flags : Flags
  fcode : Nat
  tokens : Nat
  postmark : Dword
  children : Nat
  spillbase : BitVec 44
  spilld : Nat
  spawnrec : BitVec 46
  vtile : Nat
  tcidx : Nat
  home : FrameState
  opens : List Nat
  defers : Nat
  waits : Nat
  freed : Bool
  replaced : Bool
  hb : List Nat
  deriving DecidableEq, Repr

/-- A spawn record (R332): `id` numbers it, `fh` is the task frame it stands for, `pending` marks a re-spawn that waits for
a context (R340), `hb` is what its first token carries. -/
structure SpawnRec where
  id : Nat
  slot : Nat
  fh : Nat
  pending : Bool
  addr : BitVec 46
  respawn : Nat
  parent : Nat
  fid : Dword
  ffill : Nat
  postmark : Dword
  dest : BitVec 19
  lanes : List Lane
  lpar : BitVec 32
  hb : List Nat
  deriving DecidableEq, Repr

/-- A waiting token in its spill slot (R35, R36); `withdrawn` marks one that the parking of its frame put there (R240). -/
structure SpillSlot where
  fh : Nat
  slot : Nat
  tok : Token
  withdrawn : Bool := false
  deriving DecidableEq, Repr

/-! ### Desks (R131 to R141) -/

/-- A firing: its node and its operands (R31); `port` is the port of a single operand, `since` numbers firings in the order
they became ready (R138), and `made` counts the copies that a COPY in progress has emitted (R122). -/
structure Firing where
  since : Nat
  slot : Nat
  vdesk : Nat
  node : Nat
  port : Nat
  a : Token
  b : Option Token
  made : Nat := 0
  deriving DecidableEq, Repr

/-- A ready-queue entry: its firing, the mark of R138, and the hold of R139. -/
structure Ready where
  firing : Firing
  aged : Bool
  held : Bool
  deriving DecidableEq, Repr

/-- An entry of the ORD table (R140). -/
structure OrdCtr where
  node : Nat
  fh : Nat
  next : Nat
  deriving DecidableEq, Repr

/-- An operation of a desk's spill path (R136): the write of a token, the probe for an arriving token's partner, or the
reading back of a held token whose condition holds (R439). -/
inductive SpillOp where
  | write (t : Token)
  | probe (t : Token)
  | back (t : Token)
  deriving DecidableEq, Repr

/-- What the spill path has brought back and no way takes yet (R37, R134, R439): a token with its partner, a token to be placed
READY alone, or one to be placed WAITING. -/
structure Aside where
  tok : Token
  partner : Option Token
  ready : Bool
  deriving DecidableEq, Repr

/-- A desk by virtual number (R131 to R140): waiting ways, ready queue, arrival latch (with the number of the token's arrival),
ORD table, spill path, what the path brought back and waits for a way, spilled-token counts of the 16 sets (R37), park pool
entries and the frames whose park notice has come (R240), blocked mark (R135), the COPY in progress (R122). -/
structure Desk where
  vdesk : Nat
  waiting : List Token
  ready : List Ready
  latch : Option (Nat × Token)
  ord : List OrdCtr
  spill : List SpillOp
  counts : List Nat
  park : List Token
  blocked : Bool
  aside : List Aside
  noticed : List Nat
  copying : Option Firing
  deriving DecidableEq, Repr

/-! ### Tiles (R142 to R152) -/

/-- An exact accumulator register (R63). -/
structure Xacc where
  v : BitVec 4352
  nan : Bool
  pinf : Bool
  ninf : Bool
  deriving DecidableEq, Repr

/-- A held STTB of a block (R173): its instruction's index, its offset, whether its units are 64 bits wide, its lanes, none
where excluded. -/
structure BlockStore where
  index : Nat
  offset : Nat
  wide : Bool
  lanes : List (Option Lane)
  deriving DecidableEq, Repr

/-- A running block (R142, R170 to R177): w0 to w7, the SEQ firing, the index of the next instruction, the start order,
the accesses' group, held stores, exact additions (index and register), prepared tokens (destination mask and lanes) and
flags. -/
structure BlockCtx where
  idx : Nat
  firing : Firing
  pc : Nat
  started : Nat
  group : Nat
  w : List (List Lane)
  stores : List BlockStore
  adds : List (Nat × Nat × Xacc)
  emits : List (Nat × List Lane)
  flags : Flags
  deriving DecidableEq, Repr

/-- An accumulator bank (R187): 16 KiB of bytes and its defined bit (R185). -/
structure Bank where
  bytes : Memory
  defined : Bool
  deriving DecidableEq, Repr

/-- Bytes of one delivery in a FIFO and the ROUND node whose courier delivered them (R190). -/
structure FifoSeg where
  courier : Nat
  bytes : List Byte
  deriving DecidableEq, Repr

/-- A LUT table (R198, R199): 2,048 bytes and its defined bit (R185). -/
structure LutTable where
  bytes : Memory
  defined : Bool
  deriving DecidableEq, Repr

/-- A letterbox table entry (R216); `wrote` and `freedHb` carry the edges of R221 by message number. -/
structure Letterbox where
  wseq : BitVec 16
  rseq : BitVec 16
  fseq : BitVec 16
  arc : Nat
  slots : Nat
  slotb : Nat
  base : Nat
  valid : Bool
  wrote : List (Nat × List Nat)
  deriving DecidableEq, Repr

/-- A rate monitor slot (R232). -/
structure Monitor where
  count : BitVec 32
  firings : BitVec 32
  fh : Nat
  phases : Nat
  role : Nat
  arc : Nat
  kind : Nat
  node : Nat
  deriving DecidableEq, Repr

/-- A mailbag line (R335); kinds 1 store, 2 atomic, 3 SEND part. `order` numbers entries of the mailbag and `vas` and
`acc` are the virtual addresses and the access numbers of what the entry holds (R283, R294). -/
structure Line where
  ctx : Nat
  kind : Nat
  aop : Nat
  type : Ty
  addr : Nat
  bmask : BitVec 64
  data : List Byte
  order : Nat
  vas : List Nat
  acc : List Nat
  deriving DecidableEq, Repr

/-- A held SEND of a task (R334): its firing and message. -/
structure HeldSend where
  ctx : Nat
  order : Nat
  firing : Firing
  deriving DecidableEq, Repr

/-- PHASE of a task context (R331). -/
inductive TaskPhase where
  | free | spec | finished | front
  deriving DecidableEq, Repr

/-- A task context (R331). -/
structure TaskCtx where
  fh : Nat
  phase : TaskPhase
  lines : Nat
  sends : Nat
  defer : Nat
  unf : BitVec 16
  deriving DecidableEq, Repr

/-- Arrivals counted at a barrier object: phase, the accesses each releases (R226). -/
structure BarrierEdge where
  bidx : Nat
  phase : Nat
  hb : List Nat
  deriving DecidableEq, Repr

/-- Tile states (R148). -/
inductive TileState where
  | offline | idle | staging | running | halting | halted | folded
  deriving DecidableEq, Repr

/-- A task key (R27): postmark, FID, FFILL. -/
structure Key where
  postmark : Dword
  fid : Dword
  ffill : Nat
  deriving DecidableEq, Repr

/-- A tile by virtual number: SRAM (R146), data units (R144), block contexts, letterbox table, monitors, mailbag,
frontier (R345), the least key of a task that has finished since its last report (R344), the state of the physical tile under
it (R148) and its staging answer (R365). `bad` marks 64-bit SRAM words that hold an uncorrectable error (R248), `bound` the
frame, or the postmark domain, of each node that fires in one frame only (R217, R229). -/
structure Tile where
  vtile : Nat
  state : TileState
  answered : Bool
  sram : Memory
  bad : List Nat
  banks : List Bank
  fifoA : List FifoSeg
  fifoB : List FifoSeg
  luts : List LutTable
  xacc : List Xacc
  tq : List Firing
  ctxs : List BlockCtx
  lbs : List Letterbox
  monitors : List Monitor
  lines : List Line
  sends : List HeldSend
  tasks : List TaskCtx
  report : Option Key
  frontier : Option Key
  least : Option Key
  barriers : List BarrierEdge
  bound : List (Nat × Nat)
  deriving DecidableEq, Repr

/-! ### Couriers (R304 to R326) -/

/-- A courier's states (R309). -/
inductive CourierState where
  | free | idle | running | waiting | halted | faulted
  deriving DecidableEq, Repr

/-- A credit table entry (R313): units left of those it started with, and units that notices returned, in order, with what
each notice carries (R322). -/
structure Credit where
  vtile : Nat
  tgt : Nat
  fresh : Nat
  returns : List (Nat × List Nat)
  deriving DecidableEq, Repr

/-- A courier bound to a ROUND node (R304): registers, buffers, decode slots, credits, the round it runs (R307, R311), the
deliveries and SINKs counted (R322), the accesses of the round so far, deliveries under way, the die it stands on (R304). `held` passes over one that
has found its instruction waiting, and `ending` marks a round that a ROUNDSTOP has stopped while a delivery is under way (R308). -/
structure Courier where
  node : Nat
  die : Nat
  state : CourierState
  resume : CourierState
  held : Bool
  g : List Dword
  pc : Nat
  round : Nat
  firing : Option Firing
  bufs : List (List Byte)
  slots : List (Option Nat)
  credits : List Credit
  delivered : List (Nat × Nat)
  sunk : List (Nat × Nat)
  hb : List Nat
  pending : Nat
  ending : Bool := false
  deriving DecidableEq, Repr

/-! ### Manifests (R85 to R91) -/

/-- A rate declaration (R91, kind 1). -/
structure RateDecl where
  set : Nat
  arc : Nat
  prod : List Nat
  cons : List Nat
  deriving DecidableEq, Repr

/-- An arc declaration (R91, kind 2). -/
structure ArcDecl where
  arc : Nat
  kind : Nat
  src : Nat
  dst : Nat
  lb : Nat
  delay : Nat
  peer : Nat
  deriving DecidableEq, Repr

/-- A letterbox declaration (R91, kind 3). -/
structure LbDecl where
  vtile : Nat
  lb : Nat
  base : Nat
  slotb : Nat
  slots : Nat
  deriving DecidableEq, Repr

/-- A tensor declaration (R91, kind 5), with its record's offset. -/
structure TensorDecl where
  tensor : Nat
  access : Nat
  base : Nat
  bytes : Nat
  off : Nat
  deriving DecidableEq, Repr

/-- A seed (R91, kind 7). -/
structure SeedDecl where
  dest : Nat
  fill : Nat
  lp : Bool
  tag : Nat
  lanes : List Lane
  deriving DecidableEq, Repr

/-- A data placement (R91, kind 10), with its bytes. -/
structure DataDecl where
  tensor : Option Nat
  vtile : Nat
  offset : Nat
  bytes : List Byte
  deriving DecidableEq, Repr

/-- A manifest as validated (R92): header fields, node records by address (vdesk × 32 + node), blocks by virtual tile and
index, rounds by id, declarations, and the tag shape of every node, innermost width first (R106). -/
structure Manifest where
  depots : Nat
  pinned : Bool
  pin : List Nat
  rsets : Nat
  opens : Bool
  spilld : Nat
  fold2 : Bool
  fold4 : Bool
  size : Nat
  nodes : List (Nat × Nat)
  blocks : List (Nat × Nat × List Nat)
  rounds : List (Nat × List Nat)
  rates : List RateDecl
  arcs : List ArcDecl
  lbs : List LbDecl
  actors : List (Nat × Nat × Nat × Nat)
  tensors : List TensorDecl
  codetabs : List (Nat × List Nat)
  seeds : List SeedDecl
  sinks : List (Nat × Nat)
  handler : Option Nat
  data : List DataDecl
  feeds : List (Nat × Nat × Nat)
  shapes : List (Nat × List Nat)
  deriving DecidableEq, Repr

/-! ### Requests, messages, accesses -/

/-- Spaces of an access (R287, R296). -/
inductive Space where
  | device | sram | unit | host
  deriving DecidableEq, Repr

/-- Kinds of access (R288); a class carries its OP (R213). -/
inductive AccKind where
  | read | sync | write | cls (op : Nat)
  deriving DecidableEq, Repr

/-- Who made an access: enough of its firing to charge it and to describe it in a companion (R296), with its task and that
task's key (R294). -/
structure Party where
  slot : Nat
  vdesk : Nat
  node : Nat
  fh : Nat
  fid : Dword
  ffill : Nat
  tag : Dword
  fill : Nat
  postmark : Dword
  round : Option Nat
  task : Option Nat
  key : Key
  deriving DecidableEq, Repr

/-- One access to one location (R287): the step in which it reached its check (R296), location, kind, party, lane, the address its
instruction used and that of the granule itself (R300), the block instruction index, and its happens-before set (R290). `group` joins
the accesses of one firing or block commit. -/
structure Access where
  id : Nat
  group : Nat
  space : Space
  place : Nat
  loc : Nat
  kind : AccKind
  party : Party
  lane : Nat
  va : Nat
  gva : Nat
  index : Nat
  hb : List Nat
  deriving DecidableEq, Repr

/-- What a memory request does at its home. -/
inductive ReqOp where
  | read | write | atomP (op : Nat) | atomR (op : Nat) | cas | done | semSet | semAdd | semWait
  deriving DecidableEq, Repr

/-- Where a memory request stands: waiting for its predecessor (R265), issued, in a table walk or an ATS translation (R279,
R281), in a page request, waiting for a semaphore or an older task (R372, R338), held for the frontier or a mailbag line
(R236, R336), performed and not yet announced (R268). -/
inductive ReqState where
  | buffered | issued | walking | paging | waiting | held | performed
  deriving DecidableEq, Repr

/-- A memory request (R265 to R273, R372): the firing that made it, its space, its units' addresses and data lanes, wave
numbers, whether its node has emitted, what its wave's order puts before it, of one that waits at its home, the places it
was translated to (R372), and of one in a page request, the page it asked for (R281). -/
structure Req where
  id : Nat
  op : ReqOp
  firing : Firing
  space : Space
  addrs : List Nat
  unit : Nat
  data : List Lane
  pred : Nat
  wave : Nat
  succ : Nat
  state : ReqState
  emitted : Bool
  hb : List Nat
  places : List Nat := []
  page : Option Nat := none
  deriving DecidableEq, Repr

/-- Where an agent stands in the package (R279, R292): its die, and its physical tile; a courier and the command processor have
none. -/
structure Port where
  die : Nat
  tile : Option Nat
  deriving DecidableEq, Repr

/-- A signal made on a semaphore (R292): host or device, address (physical for device memory), set or add, scope, where the
signaller stands (nowhere for a queue), what it releases. -/
structure Signal where
  host : Bool
  addr : Nat
  isSet : Bool
  scope : Scope
  port : Option Port
  hb : List Nat
  deriving DecidableEq, Repr

/-- A chain member performed and announced (R265, R268): frame, tag, fill, wave, successor. -/
structure Performed where
  fh : Nat
  tag : Dword
  fill : Nat
  wave : Nat
  succ : Nat
  acc : List Nat
  deriving DecidableEq, Repr

/-- What travels between tiles and is not a token: SEND messages, XSENDs, courier deliveries, cross-package messages. -/
inductive Cargo where
  | send (f : Firing) (lb vtile : Nat) (bytes : List Byte) (bar : Option Nat) (held : Bool) (hb : List Nat)
  | xsend (f : Firing) (reg vtile : Nat) (x : Xacc) (acc : List Nat) (hb : List Nat)
  | deliver (node vtile tgt : Nat) (f : Firing) (round pc : Nat) (bytes : List Byte) (taken : Credit) (hb : List Nat)
  | freed (slot arc n : Nat) (hb : List Nat)
  | popped (node vtile tgt n : Nat) (hb : List Nat)
  | arcMsg (arc msg : Nat) (bytes : List Byte)
  | sendHeld (f : Firing) (parked : Bool)
  deriving DecidableEq, Repr

/-- A fault record (R238); the fields of one ticket, with what its resolution needs (R246): the activation's firing, the
tokens of an arrival fault kept with it (the first `carry` of them follow the record), a request or a round to resume, whether the
ticket is open, and whether the operands it keeps have their entries of their desk's park pool (R240). -/
structure FaultRec where
  ticket : Nat
  code : Nat
  vdesk : Nat
  node : Nat
  port : Nat
  lane : Nat
  colour : Nat
  carry : Nat
  defer : Bool
  dlout : Bool
  detail : Nat
  fid : Dword
  ffill : Nat
  fill : Nat
  fh : Nat
  tag : Dword
  postmark : Dword
  opa : Dword
  opb : Dword
  firing : Option Firing
  carried : List Token
  req : Option Req
  round : Option Nat
  deadlock : Bool
  arrival : Bool
  opens : Bool
  pooled : Bool := false
  deriving DecidableEq, Repr

/-- How an arc of KIND 2 or 3 stands (R376, R410, R418). -/
inductive ArcBind where
  | unbound | bound | mismatch | ended | delay (detail : Nat) | broken (detail : Nat)
  deriving DecidableEq, Repr

/-- An outgoing or incoming arc of a launch: credit (R218, R413), binding, the letterbox's SLOTS and SLOTB, the peer's slot
of R362, its arc number and the global tile of its letterbox, the plane and CVER (R408, R410), messages numbered and taken, what frees carry by message (R221). -/
structure Arc where
  arc : Nat
  credit : Nat
  bind : ArcBind
  slots : Nat
  slotb : Nat
  peerSlot : Nat
  peerArc : Nat
  peerTile : Nat
  plane : Nat
  cver : Nat
  sent : Nat
  fired : Nat
  frees : List (List Nat)
  deriving DecidableEq, Repr

/-! ### Launches (R352 to R379) -/

/-- A record (R354): its fields, whether R354 finds it bad, its ring index, and whether it is tail-launched (R374). -/
structure Rec where
  kind : Nat
  crec : Nat
  sigv : Dword
  siga : Nat
  w1v : Nat
  w1a : Nat
  w0v : Nat
  w0a : Nat
  user : Dword
  pasid : Nat
  pasidv : Bool
  maxfold : Nat
  permissive : Bool
  sigadd : Bool
  arithen : Flags
  hostinv : Bool
  body0 : Nat
  body1 : Nat
  body2 : Nat
  bad : Bool
  index : Nat
  tailed : Bool
  deriving DecidableEq, Repr

/-- Phases of a launch: `ended` once its effects have stopped (R369), `closed` once its completion is written. -/
inductive Phase where
  | staging | sealed | running | halting | halted | ended | closed
  deriving DecidableEq, Repr

/-- A TAILL registration (R373, R374): the place of its firing, its frame's handle among it (R26), and the record's address. -/
structure Tail where
  fh : Nat
  fid : Dword
  ffill : Nat
  tag : Dword
  fill : Nat
  node : Nat
  addr : Nat
  deriving DecidableEq, Repr

/-- A wait held by an older writer (R338): the parked request and the tasks it waits for. -/
structure OlderWait where
  req : Nat
  fh : Nat
  tasks : List Nat
  deriving DecidableEq, Repr

/-- An entry of the speculation table (R337); its TCTILE is kept as a virtual tile, as a frame's is. -/
structure SpecEntry where
  line : Nat
  fh : Nat
  vtile : Nat
  tcidx : Nat
  wmask : BitVec 16
  rmask : BitVec 16
  deriving DecidableEq, Repr

/-- A leaky bucket (R381). -/
structure Meter where
  rate : Nat
  depth : Nat
  level : Nat
  deriving DecidableEq, Repr

/-- A launch (R354 to R369): its record, slot, region and fold, the fold a shrink brings it to (R378), the folds and depots before its
shrinks, the last first (R379), manifest and staged manifest, desks, tiles, couriers, what
is in flight, its requests, races and faults (a deferred fault stands behind its companions), who stood behind a handle that
has returned while a request or a held SEND of it goes on (R23), the slots of the launches it is flagged against (R300), the tokens of MODE nodes and of SYNC
nodes that fire next, in order (R115, R234), its tasks' domain (registered keys by tile, the last F formed and the tiles it
has not reached, R344), the placement buffer (physical address, virtual address, bytes) and the seeds not yet injected (R364, R365), the
arcs of the manifests it has replaced with the messages delivered on each (R401), its end. -/
structure Launch where
  slot : Nat
  queue : Nat
  rcd : Rec
  part : Nat
  phase : Phase
  live : Nat
  depots : List Nat
  fold : Nat
  target : Nat
  before : List (Nat × List Nat)
  man : Manifest
  staged : Option Manifest
  reconf : Option Firing
  root : Nat
  office : Nat
  active : Nat
  desks : List Desk
  tiles : List Tile
  couriers : List Courier
  arcs : List Arc
  past : List (ArcDecl × Nat) := []
  flights : List (Nat × Token)
  cargo : List (Nat × Cargo)
  reqs : List Req
  performed : List Performed
  olders : List OlderWait
  accesses : List Access
  faults : List FaultRec
  deferred : List (List FaultRec × FaultRec)
  gone : List Party
  tickets : Nat
  faulted : Bool
  stopped : Bool
  range : Option Nat
  joint : List Nat
  tails : List Tail
  posted : List Nat
  modeQueue : List Token
  syncQueue : List Token := []
  spill : List SpillSlot
  spec : List SpecEntry
  horizon : Option Key
  regs : List (Nat × Key)
  epoch : Nat
  formed : Option Key
  bcast : List Nat
  undo : List (Nat × List Byte)
  undoFull : Bool
  meters : List Meter
  placed : List (Nat × Nat × List Byte)
  seedsLeft : List SeedDecl
  code : Nat
  detail : Nat
  moffset : Nat
  fault : Option FaultRec
  hb : List Nat
  deriving DecidableEq, Repr

/-! ### The package -/

/-- DEVSTAT.STATE (R393). -/
inductive DevState where
  | waitImg | loading | init | ready | failed | recovering
  deriving DecidableEq, Repr

/-- A queue (R352, R353): descriptor fields, head list, the dispatcher's counter (R359), whether it is blocked (R360), whether
the host memory waits of its next record, and its device memory waits, were found satisfied at the last reading, whether a
reading of the latter is due (R355), its record that runs, and what happens before its next record (R292, R293). -/
structure Queue where
  q : Nat
  base : Dword
  logn : Nat
  weight : Nat
  head : BitVec 32
  tail : BitVec 32
  done : BitVec 32
  part : Nat
  prio : Nat
  err : Bool
  pause : Bool
  en : Bool
  headList : List Rec
  cnt : Int
  blocked : Bool
  hostOk : Bool
  devOk : Bool
  devDue : Bool
  running : Option Rec
  hb : List Nat
  deriving DecidableEq, Repr

/-- A translation cache entry (R279): partition, PASID (of a host entry), virtual page, physical or bus page, permissions. -/
structure TlbEntry where
  host : Bool
  part : Nat
  pasid : Nat
  vpn : Nat
  frame : Nat
  r : Bool
  w : Bool
  deriving DecidableEq, Repr

/-- A host error log entry (R397). -/
structure LogEntry where
  kind : Nat
  part : Nat
  queue : Nat
  lslot : Nat
  value : Dword
  user : Dword
  deriving DecidableEq, Repr

/-- A communicator (R407): CVER and its route entries. -/
structure Comm where
  cver : BitVec 32
  entries : List CommEntry
  deriving DecidableEq, Repr

/-- A link flit (R403, R405): SEQ, ACK, the destination package's domain number, and what it carries, from which its virtual channel
follows. -/
structure LinkFlit where
  seq : Nat
  ack : Nat
  pkg : Nat
  kind : LinkKind
  deriving DecidableEq, Repr

/-- A Lomcel Link port (R403, R404): up or down, next SEQ, next SEQ expected, failed attempts of the flit expected and of
the oldest flit sent, the replay buffer and how many of its flits have gone out since the stream was last asked for again, the buffers
of the three virtual channels (what waits there, with its package), the retries that succeeded, and the flit last put on the lanes. -/
structure LinkPort where
  up : Bool
  seq : BitVec 16
  rcvd : BitVec 16
  attempts : Nat
  resends : Nat
  replay : List LinkFlit
  out : Nat
  buffers : List (List (Nat × LinkKind))
  retries : Dword
  lanes : Option LinkFlit
  deriving DecidableEq, Repr

/-- The deadlock detector (R383, R384): the members of the cycle seen at the last sample, and firings issued since. -/
structure Detector where
  cycle : List Nat
  issued : List Nat
  deriving DecidableEq, Repr

/-- A partition (R375): the depots it owns, its page-table root, its backfill policy (R360). -/
structure Partition where
  depots : List Nat
  root : Nat
  backfill : Bool
  deriving DecidableEq, Repr

/-- An invalidation in progress (R283) and the requests it waits for. -/
structure Inval where
  id : Nat
  scope : InvalScope
  waits : List (Nat × Nat)
  queue : Option Nat
  deriving DecidableEq, Repr

/-- A validated image kept by the command processor (R367): partition, address, size. -/
structure Cached where
  part : Nat
  addr : Nat
  size : Nat
  man : Manifest
  deriving DecidableEq, Repr

/-- A channel of the agenda: what travels in one channel arrives in order (R33, R136, R252, R389). -/
structure Chan where
  kind : Nat
  a : Nat
  b : Nat
  c : Nat
  deriving DecidableEq, Repr

/-- Something under way: its channel and the event it will be (log entry 1). -/
structure Pend where
  chan : Chan
  act : Instr
  deriving DecidableEq, Repr

/-- What a unit is running in this step: the operands of the word that `exec` is given (R137, R143, R311). -/
inductive Issue where
  | none
  | node (f : Firing)
  | block (slot vtile ctx : Nat)
  | round (slot node : Nat)
  deriving DecidableEq, Repr

/-- The state of a package and of what is under way in it. -/
structure State where
  -- host interface (R387, R393 to R401)
  dev : DevState
  failcode : Nat
  bootaddr : Dword
  bootlen : BitVec 32
  epoch : Dword
  revokebase : Dword
  revLogn : Nat
  revHead : BitVec 16
  revTail : BitVec 16
  badnode : List (BitVec 64)
  hoplog : List (BitVec 64)
  log : List LogEntry
  logCount : Dword
  nonce : List Byte
  attBusy : Bool
  attDone : Bool
  report : List Byte
  image : List Byte
  telemetry : List Dword
  sampled : List Dword
  cfg : BootConfig
  -- package (R352 to R384, R403 to R420)
  queues : List Queue
  rotation : Nat
  parts : List Partition
  routes : List (List Nat)
  routed : List (BitVec 64)
  comms : List Comm
  ports : List LinkPort
  clocks : List Nat
  trips : List Bool
  budget : Nat
  detector : Detector
  cache : List Cached
  invals : List Inval
  pages : List (Nat × Nat × Nat)
  recovering : List (Nat × Option Nat)
  -- frames and launches
  frames : List Frame
  spawns : List SpawnRec
  launches : List Launch
  sramLeft : List (Nat × Memory × List Nat)
  signals : List Signal
  -- memories (R274, R280)
  mem : Memory
  bus : Memory
  lost : List Nat
  dieTlb : List (Nat × TlbEntry)
  tileTlb : List (Nat × TlbEntry)
  -- the model's own (log entries 1, 3, 4)
  agenda : List Pend
  issue : Issue
  nextId : Nat
  tick : Nat
  deriving DecidableEq, Repr

/-- Why the machine stops with a fault. -/
inductive Fault where
  /-- Raised by a meaning that is run while its unit has not issued it (no operands exist): an internal mismatch that no
  step makes. Safe. -/
  | notIssued
  deriving DecidableEq, Repr

/-- Why the machine refuses. -/
inductive Refusal where
  /-- Raised by an arm of `exec` for an instruction the model has no meaning for. Safe. -/
  | notModelled (mnemonic : String)
  /-- Raised by `step` when a staged word decodes to no instruction; R94 says that none is ever staged. Safe. -/
  | illegalWord (word : Nat)
  deriving DecidableEq, Repr

/-- An outcome of a step. -/
abbrev Out := Host.Outcome State Fault Refusal

/-- A queue after boot (R352). -/
def queueReset (q : Nat) : Queue :=
  { q := q, base := 0, logn := 0, weight := 1, head := 0, tail := 0, done := 0, part := 0, prio := 0, err := false,
    pause := false, en := false, headList := [], cnt := 0, blocked := false, hostOk := false, devOk := false, devDue := true,
    running := none, hb := [] }

/-- A communicator after boot (R407). -/
def commReset : Comm := { cver := 0, entries := [] }

/-- A link port at reset (log entry 5). -/
def portReset : LinkPort :=
  { up := true, seq := 0, rcvd := 0, attempts := 0, resends := 0, replay := [], out := 0, buffers := [[], [], []], retries := 0,
    lanes := none }

/-- What Oatin has published before boot: nothing (R390). -/
def cfgReset : BootConfig :=
  { ok := false, badnode := List.replicate 36 0, memBytes := 0, reservedBase := 0, reservedBytes := 0, undoBytes := 0,
    stackMap := 0, courierMap := 0, linkMap := 0, attOffset := 0, attLength := 0, version := 0, parts := [], routes := [],
    meterRate := [], meterDepth := [], budget := 0, chain := [], domain := 0 }

/-- A partition before Oatin sets it (R375): it owns no depot and has no page-table root. -/
def partReset : Partition := { depots := [], root := 0, backfill := false }

/-- The machine at power-up (R402): WAITIMG, all state lost; values the spec does not state are those of log entry 5. -/
def State.reset : State :=
  { dev := .waitImg, failcode := 0, bootaddr := 0, bootlen := 0, epoch := 0, revokebase := 0, revLogn := 0, revHead := 0,
    revTail := 0, badnode := List.replicate 36 0, hoplog := List.replicate 36 0, log := [], logCount := 0,
    nonce := List.replicate 32 0, attBusy := false, attDone := false, report := [], image := [],
    telemetry := List.replicate 65 0, sampled := List.replicate 65 0, cfg := cfgReset, queues := [], rotation := 0,
    parts := List.replicate 8 partReset, routes := [], routed := [], comms := List.replicate 8 commReset,
    ports := List.replicate 18 portReset, clocks := List.replicate 4 2400, trips := List.replicate 4 false, budget := 2400,
    detector := { cycle := [], issued := [] }, cache := [], invals := [], pages := [], recovering := [], frames := [], spawns := [],
    launches := [], sramLeft := [], signals := [], mem := [], bus := [], lost := [], dieTlb := [], tileTlb := [], agenda := [], issue := .none, nextId := 0,
    tick := 0 }

end Sys2Proof.Machine
end

