-- ==== Sys2Proof/Machine/Ops.lean ====
section
/-! DEFINITION. The named operations over the state: launches, frames, desks, tiles and couriers by number, tokens and the
agenda, happens-before and the race check, taking a trap and releasing a frame. -/

namespace Sys2Proof.Machine

/-! ### Items by number -/

/-- The launch in a slot (R362). -/
def findLaunch (s : State) (slot : Nat) : Option Launch := s.launches.find? fun l => l.slot == slot

/-- A launch changed in place. -/
def setLaunch (s : State) (l : Launch) : State :=
  { s with launches := s.launches.map fun x => if x.slot == l.slot then l else x }

/-- A launch changed by a function. -/
def modLaunch (s : State) (slot : Nat) (f : Launch → Launch) : State :=
  { s with launches := s.launches.map fun x => if x.slot == slot then f x else x }

/-- The frame table entry of a handle (R20); none for a free handle. -/
def findFrame (s : State) (fh : Nat) : Option Frame := s.frames.find? fun f => f.fh == fh

/-- A frame changed by a function. -/
def modFrame (s : State) (fh : Nat) (f : Frame → Frame) : State :=
  { s with frames := s.frames.map fun x => if x.fh == fh then f x else x }

/-- A desk at the seal: every way free, every counter 0 (R131 to R140). -/
def emptyDesk (v : Nat) : Desk :=
  { vdesk := v, waiting := [], ready := [], latch := none, ord := [], spill := [], counts := List.replicate 16 0,
    park := [], blocked := false, aside := [], noticed := [], copying := none }

/-- An undeclared letterbox entry (R216). -/
def emptyLb : Letterbox :=
  { wseq := 0, rseq := 0, fseq := 0, arc := 0, slots := 0, slotb := 0, base := 0, valid := false, wrote := [] }

/-- An exact accumulator register at the seal (R63, R144). -/
def emptyXacc : Xacc := { v := 0, nan := false, pinf := false, ninf := false }

/-- A tile at the seal (R144, R185, R216, R331). -/
def emptyTile (v : Nat) : Tile :=
  { vtile := v, state := .idle, answered := false, sram := [], bad := [],
    banks := List.replicate 4 { bytes := [], defined := false }, fifoA := [], fifoB := [],
    luts := List.replicate 16 { bytes := [], defined := false }, xacc := List.replicate 4 emptyXacc, tq := [], ctxs := [],
    lbs := List.replicate 64 emptyLb, monitors := [], lines := [], sends := [], tasks := [], report := none,
    frontier := none, least := none, barriers := [], bound := [] }

/-- The desk of a virtual number; one that holds nothing yet is empty. -/
def deskOf (l : Launch) (v : Nat) : Desk := (l.desks.find? fun d => d.vdesk == v).getD (emptyDesk v)

/-- A desk changed by a function, entered where it was empty. -/
def modDesk (l : Launch) (v : Nat) (f : Desk → Desk) : Launch :=
  if l.desks.any fun d => d.vdesk == v then { l with desks := l.desks.map fun d => if d.vdesk == v then f d else d }
  else { l with desks := l.desks ++ [f (emptyDesk v)] }

/-- The tile of a virtual number. -/
def tileOf (l : Launch) (v : Nat) : Tile := (l.tiles.find? fun t => t.vtile == v).getD (emptyTile v)

/-- A tile changed by a function, entered where it was not listed. -/
def modTile (l : Launch) (v : Nat) (f : Tile → Tile) : Launch :=
  if l.tiles.any fun t => t.vtile == v then { l with tiles := l.tiles.map fun t => if t.vtile == v then f t else t }
  else { l with tiles := l.tiles ++ [f (emptyTile v)] }

/-- The courier bound to a ROUND node (R304). -/
def courierOf (l : Launch) (node : Nat) : Option Courier := l.couriers.find? fun c => c.node == node

/-- A courier changed by a function. -/
def modCourier (l : Launch) (node : Nat) (f : Courier → Courier) : Launch :=
  { l with couriers := l.couriers.map fun c => if c.node == node then f c else c }

/-- The arc of a number. -/
def arcOf (l : Launch) (a : Nat) : Option Arc := l.arcs.find? fun x => x.arc == a

/-- An arc changed by a function. -/
def modArc (l : Launch) (a : Nat) (f : Arc → Arc) : Launch :=
  { l with arcs := l.arcs.map fun x => if x.arc == a then f x else x }

/-- The queue of a number (R352). -/
def queueOf (s : State) (q : Nat) : Queue := (s.queues.find? fun x => x.q == q).getD (queueReset q)

/-- A queue changed by a function. -/
def modQueue (s : State) (q : Nat) (f : Queue → Queue) : State :=
  if s.queues.any fun x => x.q == q then { s with queues := s.queues.map fun x => if x.q == q then f x else x }
  else { s with queues := s.queues ++ [f (queueReset q)] }

/-- An element of a list changed by a function. -/
def modAt {α : Type} (l : List α) (i : Nat) (f : α → α) : List α := l.mapIdx fun k x => if k == i then f x else x

/-! ### Addresses (R5, R68) -/

/-- The placed desk address of a virtual desk (R5, R361): virtual depot j carries the nominal label die j / 9, depot
j mod 9. DESIGN CHOICE (log entry 12). -/
def placeDesk (v : Nat) : Nat := let j := v / 128; (j / 9) <<< 11 + (j % 9) <<< 7 + v % 128

/-- The virtual desk of a placed desk address. -/
def virtDesk (p : Nat) : Nat := (field p 11 2 * 9 + field p 7 4) * 128 + low 7 p

/-- A manifest destination placed (R68); none stays none. -/
def placeDest (d : BitVec 19) : BitVec 19 :=
  if d == 0x7FFFF then d else BitVec.ofNat 19 (placeDesk (d.toNat >>> 6) <<< 6 + low 6 d.toNat)

/-- The virtual desk a placed destination names. -/
def destDesk (d : BitVec 19) : Nat := virtDesk (d.toNat >>> 6)

/-- The node a destination names (R10). -/
def destNode (d : BitVec 19) : Nat := field d.toNat 1 5

/-- The port a destination names (R10). -/
def destPort (d : BitVec 19) : Nat := d.toNat % 2

/-- The address of a node: vdesk × 32 + node (R51). -/
def nodeAddr (vdesk node : Nat) : Nat := vdesk * 32 + node

/-- The staged word of a node (R132); none where the desk holds no such node. -/
def nodeWord (l : Launch) (addr : Nat) : Option Nat := assoc l.man.nodes addr

/-- The tag shape of a node, innermost width first (R106). -/
def shapeOf (l : Launch) (addr : Nat) : List Nat := (assoc l.man.shapes addr).getD []

/-- The declared fold of a manifest (R145): 1, 2 or 4. -/
def declFold (m : Manifest) : Nat := if m.fold4 then 4 else if m.fold2 then 2 else 1

/-- The SRAM limit of the declared fold (R145). -/
def sramLimit (m : Manifest) : Nat := 0x400000 / declFold m

/-- The byte limit of a FIFO under the declared fold (R145). -/
def fifoLimit (m : Manifest) : Nat := 65536 / declFold m

/-- The physical depot of a virtual depot (R363). -/
def depotOf (l : Launch) (j : Nat) : Nat := l.depots.getD (j / l.fold) 0

/-- The global number of the physical tile under a virtual tile (R5, R330). -/
def globalTile (l : Launch) (v : Nat) : Nat := depotOf l (v / 8) * 8 + v % 8

/-- TCTILE of a task frame (R21, R330). -/
def tctile (l : Launch) (f : Frame) : Nat := globalTile l f.vtile

/-! ### The agenda -/

/-- An event added to the agenda in a channel. -/
def push (s : State) (c : Chan) (i : Instr) : State := { s with agenda := s.agenda ++ [⟨c, i⟩] }

/-- An event added in a channel of its own: it waits for nothing else. -/
def pushAlone (s : State) (i : Instr) : State :=
  { s with agenda := s.agenda ++ [⟨⟨0, s.nextId, 0, 0⟩, i⟩], nextId := s.nextId + 1 }

/-- Events added one after another, each in a channel of its own. -/
def pushAll (s : State) (is : List Instr) : State := is.foldl pushAlone s

/-- The channel of SENDs and XSENDs from a tile to a tile of a launch: flits of one class on one path, which arrive in order (R250,
R252). -/
def messageChan (slot tile peer target : Nat) : Chan := ⟨5, 4096 * slot + tile, peer, target⟩

/-! ### Frames and tasks (R20 to R28, R328, R329) -/

/-- The state a frame has when it is not parked (R331). -/
def standing (f : Frame) : FrameState :=
  match f.state with
  | .parkedFault | .parkedWait => f.home
  | .free | .live | .taskSpec | .taskDone | .taskFront | .draining => f.state

/-- Whether a frame is parked (R38). -/
def parked (f : Frame) : Bool := f.state == .parkedFault || f.state == .parkedWait

/-- The task a frame belongs to (R328): itself, or the one its creators lead to, looking `fuel` parents up. -/
def taskFrom (s : State) : Nat → Nat → Option Nat
  | 0, _ => none
  | fuel + 1, fh =>
    match findFrame s fh with
    | none => none
    | some f =>
      match f.kind with
      | .task => some fh
      | .root => none
      | .ordinary => taskFrom s fuel f.parent

/-- The task a frame belongs to (R328). -/
def taskOf (s : State) (fh : Nat) : Option Nat := taskFrom s (s.frames.length + 1) fh

/-- Whether a frame belongs to a task that runs speculatively (R29). -/
def speculative (s : State) (fh : Nat) : Bool :=
  match taskOf s fh with
  | none => false
  | some t => match findFrame s t with
    | none => false
    | some f => standing f == .taskSpec

/-- The key of a task frame (R27). -/
def keyOf (f : Frame) : Key := ⟨f.postmark, f.fid, f.ffill⟩

/-- The order of FIDs (R26). -/
def fidLt (a : Dword) (m : Nat) (b : Dword) (n : Nat) : Bool := a.toNat < b.toNat || (a == b && m < n)

/-- The order of task keys (R27). -/
def keyLt (a b : Key) : Bool :=
  a.postmark.toNat < b.postmark.toNat || (a.postmark == b.postmark && fidLt a.fid a.ffill b.fid b.ffill)

/-- The all-ones key (R329). -/
def keyTop : Key := ⟨BitVec.allOnes 64, BitVec.allOnes 64, 64⟩

/-- The order of tasks (R27): by key, and for equal FIDs by handle (R26). -/
def taskLt (f g : Frame) : Bool := if keyLt (keyOf f) (keyOf g) then true else keyOf f == keyOf g && decide (f.fh < g.fh)

/-- The frames that belong to a task (R328). -/
def members (s : State) (t : Nat) : List Frame := s.frames.filter fun f => taskOf s f.fh == some t

/-- Whether a DRAINING frame's handle may return (R23): no token and no child. -/
def returnable (f : Frame) : Bool := f.state == .draining && f.tokens == 0 && f.children == 0

/-- The lesser of two keys, where none is above every key. -/
def keyMin (a : Option Key) (k : Key) : Option Key :=
  match a with
  | none => some k
  | some j => if keyLt k j then some k else some j

/-- Whether a task's frames show it finished (R329): FREE has fired, no frame of it holds a token or is parked. -/
def taskOver (s : State) (f : Frame) : Bool :=
  f.freed && (members s f.fh).all fun g => g.tokens == 0 && !parked g

/-- A task frame that FREE has marked and whose frames hold no token becomes finished (R329): STATE and PHASE; its key still
counts in its tile's next report (R344). -/
def settleTask (s : State) (t : Nat) : State :=
  match findFrame s t with
  | none => s
  | some f =>
    if f.state == .taskSpec && taskOver s f then
      modLaunch (modFrame s t fun g => { g with state := .taskDone, home := .taskDone }) f.slot fun l =>
        modTile l f.vtile fun tl =>
          { tl with
            least := keyMin tl.least (keyOf f)
            tasks := modAt tl.tasks f.tcidx fun c => { c with phase := .finished, unf := BitVec.ofNat 16 l.epoch } }
    else s

/-- `n` tokens of a frame consumed or discarded (R21): its task may finish by it. -/
def consume (s : State) (fh n : Nat) : State :=
  let s1 := modFrame s fh fun f => { f with tokens := f.tokens - n }
  match taskOf s fh with
  | none => s1
  | some t => settleTask s1 t

/-! ### Tokens -/

/-- Lane parity bits (R12). -/
def laneParity (ls : List Lane) : BitVec 32 :=
  BitVec.ofNat 32 ((upTo ls.length).foldl (fun acc i => acc + parity32 (laneAt ls i).toNat <<< i) 0)

/-- The four header words without parity, as one number (R10). -/
def headerBits (dest : BitVec 19) (fh : Nat) (tag : Dword) (fill colour : Nat) (dl lp sp : Bool) : Nat :=
  dest.toNat <<< 109 + low 20 fh <<< 89 + tag.toNat <<< 25 + fill <<< 18 + colour <<< 13 + b2n dl <<< 12 +
    b2n lp <<< 11 + b2n sp <<< 10

/-- Header parity HP (R12). -/
def headerParity (h : Nat) : BitVec 4 :=
  BitVec.ofNat 4 (parity32 (field h 0 32) + 2 * parity32 (field h 32 32) + 4 * parity32 (field h 64 32) +
    8 * parity32 (field h 96 32))

/-- A token with its parity computed (R12). -/
def makeToken (dest : BitVec 19) (fh : Nat) (tag : Dword) (fill : Nat) (dl lp sp : Bool) (lanes : List Lane) (src : Nat)
    (hb : List Nat) : Token :=
  { dest, fh, tag, fill, dl, lp, sp, lanes, lpar := laneParity lanes,
    hp := headerParity (headerBits dest fh tag fill (lanes.length - 1) dl lp sp), src, hb }

/-- The header of a token as a number, parity included (R10). -/
def headerOf (t : Token) : Nat :=
  headerBits t.dest t.fh t.tag t.fill (t.lanes.length - 1) t.dl t.lp t.sp + t.hp.toNat

/-- Whether a token's header parity is right (R12). -/
def headerOk (t : Token) : Bool :=
  t.hp == headerParity (headerBits t.dest t.fh t.tag t.fill (t.lanes.length - 1) t.dl t.lp t.sp)

/-- Whether a token's lane parity is right (R12). -/
def payloadOk (t : Token) : Bool := t.lpar == laneParity t.lanes

/-- The flow of a token (R33, R252): tokens from one tile, or from one other source, to one desk keep their order. -/
def tokenChan (slot : Nat) (t : Token) : Chan :=
  ⟨1, slot, if t.src < 1 <<< 18 then t.src / 512 else t.src, t.dest.toNat >>> 6⟩

/-- A token sent towards its desk (R33): it joins its source's flow. -/
def sendToken (s : State) (slot : Nat) (t : Token) : State :=
  let id := s.nextId
  push (modLaunch { s with nextId := id + 1 } slot fun l => { l with flights := l.flights ++ [(id, t)] })
    (tokenChan slot t) (.tokenArrival slot id)

/-- A token emitted in a frame: TOKENS rises, SP is set under R29, and it leaves. Nothing is emitted to none. -/
def emitToken (s : State) (slot : Nat) (t : Token) : State :=
  if t.dest == 0x7FFFF then s
  else
    sendToken (modFrame s t.fh fun f => { f with tokens := f.tokens + 1 }) slot
      (makeToken t.dest t.fh t.tag t.fill t.dl t.lp (speculative s t.fh) t.lanes t.src t.hb)

/-- Tokens emitted in order. -/
def emitTokens (s : State) (slot : Nat) (ts : List Token) : State := ts.foldl (fun s t => emitToken s slot t) s

/-- The order of tags of one frame (R19). -/
def tagLt (a : Dword) (m : Nat) (b : Dword) (n : Nat) : Bool := a.toNat < b.toNat || (a == b && m < n)

/-- The order of (FID, tag) of two tokens (R26, R34): equal FIDs follow the handles, before the tag is compared. -/
def tokenLt (s : State) (t u : Token) : Bool :=
  if t.fh == u.fh then tagLt t.tag t.fill u.tag u.fill
  else
    match findFrame s t.fh, findFrame s u.fh with
    | some f, some g =>
      if fidLt f.fid f.ffill g.fid g.ffill then true
      else if fidLt g.fid g.ffill f.fid f.ffill then false
      else t.fh < u.fh
    | _, _ => t.fh < u.fh

/-- What happens before a firing's issue: everything its operands carry (R290). -/
def firingHb (f : Firing) : List Nat :=
  match f.b with
  | none => f.a.hb
  | some b => unionNat f.a.hb b.hb

/-- The number of tokens a firing holds. -/
def operandCount (f : Firing) : Nat := if f.b.isSome then 2 else 1

/-! ### Races (R287 to R297) -/

/-- The location code of a barrier object (R296), with its line above it. -/
def barrierLoc (line : Nat) : Nat := 0x40 + line <<< 16

/-- Whether a unit location is a barrier object, and which line of SRAM it covers (R223). -/
def barrierLine (loc : Nat) : Option Nat := if low 16 loc == 0x40 then some (loc >>> 16) else none

/-- Whether two accesses touch one location (R287), a barrier object and the granules of its line included (R223). -/
def sameLocation (a b : Access) : Bool :=
  a.place == b.place &&
    ((a.space == b.space && a.loc == b.loc) ||
      match a.space, b.space with
      | .unit, .sram => barrierLine a.loc == some (b.loc / 16)
      | .sram, .unit => barrierLine b.loc == some (a.loc / 16)
      | _, _ => false)

/-- The table of R289. -/
def kindsConflict (a b : AccKind) : Bool :=
  match a, b with
  | .read, .read | .read, .sync | .sync, .read | .sync, .sync => false
  | .read, _ | _, .read => true
  | .sync, .write | .write, .sync => true
  | .sync, .cls _ | .cls _, .sync => false
  | .cls c, .cls d => c != d
  | .write, _ | _, .write => true

/-- Whether two accesses are device accesses of two tasks of one domain (R289, R328): tasks of one launch. -/
def taskPair (a b : Access) : Bool :=
  a.space == .device && b.space == .device && a.party.slot == b.party.slot && a.party.task.isSome && b.party.task.isSome &&
    a.party.task != b.party.task

/-- Whether an access is a device access of a task of a launch. -/
def taskDevice (slot : Nat) (a : Access) : Bool := a.space == .device && a.party.slot == slot && a.party.task.isSome

/-- Whether every access of one task's party stands before every access of another's (R294): the lower key, and of equal keys
the lower handle (R26, R27). -/
def keyBefore (a b : Access) : Bool :=
  let p := a.party
  let q := b.party
  p.task != q.task &&
    (keyLt p.key q.key || (p.key == q.key && decide (low 20 (p.task.getD 0) < low 20 (q.task.getD 0))))

/-- What happens before an access by the key order of tasks (R294), with what happens before it already: the device accesses of
every task below its own, or below one that made an access of the set, with what happens before those. -/
def closeTasks (l : Launch) (x : Access) (hb : List Nat) : List Nat :=
  let ts := l.accesses.filter (taskDevice l.slot)
  let mine := [x].filter (taskDevice l.slot) ++ ts.filter fun b => hb.contains b.group
  (ts.filter fun a => mine.any (keyBefore a)).foldl (fun h a => unionNat h (a.group :: a.hb)) hb

/-- Whether an earlier access conflicts with a later one (R289): unordered, of other groups, kinds marked "yes". -/
def conflict (earlier later : Access) : Bool :=
  earlier.group != later.group && sameLocation earlier later && kindsConflict earlier.kind later.kind &&
    !later.hb.contains earlier.group && !taskPair earlier later

/-- Whether an address lies in a declared range of a launch (R299). -/
def inRanges (l : Launch) (va : Nat) : Bool := l.man.tensors.any fun t => decide (t.base ≤ va) && decide (va < t.base + t.bytes)

/-- Whether a declared range may be written (R91): ACCESS 10 or 11. -/
def rangeWrites (t : TensorDecl) : Bool := t.access == 2 || t.access == 3

/-- Whether a byte lies in overlapping ranges of two launches, one of them a writer's (R299, R300). -/
def sharedByte (l o : Launch) (va : Nat) : Bool :=
  let holds (t : TensorDecl) : Bool := decide (t.base ≤ va) && decide (va < t.base + t.bytes)
  l.man.tensors.any fun t => holds t && o.man.tensors.any fun u => holds u && (rangeWrites t || rangeWrites u)

/-- Whether a launch's access to a granule is tracked jointly with another's (R300): it is flagged against the other, and a
byte of the granule is shared, or outside its own ranges. -/
def tracked (l o : Launch) (gva : Nat) : Bool :=
  l.joint.contains o.slot && (upTo 4).any fun i => sharedByte l o (gva + i) || !inRanges l (gva + i)

/-- The accesses that a launch's access may conflict with (R289, R300): its launch's, and the device accesses of launches of
its partition that are tracked jointly with it. -/
def accessPool (s : State) (l : Launch) (x : Access) : List Access :=
  l.accesses ++
    (s.launches.filter fun o => o.slot != l.slot && o.part == l.part && x.space == .device).flatMap fun o =>
      o.accesses.filter fun e => e.space == .device && (tracked l o x.gva || tracked o l e.gva)

/-- Whether an access reached its check before another (R296): in an earlier step, or in the same one by the lower
(FID, TAG, FILL, node). -/
def checkedBefore (a b : Access) : Bool :=
  let p := a.party
  let q := b.party
  if a.id != b.id then decide (a.id < b.id)
  else if fidLt p.fid p.ffill q.fid q.ffill then true
  else if fidLt q.fid q.ffill p.fid p.ffill then false
  else if low 20 p.fh != low 20 q.fh then decide (low 20 p.fh < low 20 q.fh)
  else if tagLt p.tag p.fill q.tag q.fill then true
  else if tagLt q.tag q.fill p.tag p.fill then false
  else decide (nodeAddr p.vdesk p.node < nodeAddr q.vdesk q.node)

/-- The first conflicting pair of a list of accesses, in order, with the earlier access that reached its check first (R295,
R296). -/
def firstRace (pool : Access → List Access) : List Access → Option (Access × Access)
  | [] => none
  | x :: xs =>
    match leastBy checkedBefore ((pool x).filter fun e => conflict e x) with
    | some e => some (e, x)
    | none => firstRace pool xs

/-- An access to a launch's locations with all that happens before it (R290, R294): what its seal placed and what its record
waited for among that (R293). -/
def closeAccess (l : Launch) (x : Access) : Access := { x with hb := closeTasks l x (unionNat l.hb x.hb) }

/-- Accesses checked and recorded together (R295): the conflicting pair, or the state with them recorded. -/
def checkAccesses (s : State) (slot : Nat) (xs : List Access) : Except (Access × Access) State :=
  match findLaunch s slot with
  | none => .ok s
  | some l =>
    let ys := xs.map (closeAccess l)
    match firstRace (accessPool s l) ys with
    | some p => .error p
    | none => .ok (modLaunch s slot fun l => { l with accesses := l.accesses ++ ys })

/-- The key of a task by its handle (R27); none has the all-ones key. -/
def taskKey (s : State) (t : Option Nat) : Key :=
  match t.bind (findFrame s) with
  | some f => keyOf f
  | none => keyTop

/-- Who a firing is (R296). A request or a held SEND may outlive its frame's handle (R23): its launch keeps who it was. -/
def partyOf (s : State) (f : Firing) : Party :=
  let blank : Party :=
    { slot := f.slot, vdesk := f.vdesk, node := f.node, fh := f.a.fh, fid := 0, ffill := 0, tag := f.a.tag,
      fill := f.a.fill, postmark := 0, round := none, task := none, key := keyTop }
  match findFrame s f.a.fh with
  | some g =>
    let t := taskOf s f.a.fh
    { blank with fid := g.fid, ffill := g.ffill, postmark := g.postmark, task := t, key := taskKey s t }
  | none =>
    match (findLaunch s f.slot).bind fun l => l.gone.find? fun p => p.fh == f.a.fh with
    | some p => { blank with fid := p.fid, ffill := p.ffill, postmark := p.postmark, task := p.task, key := p.key }
    | none => blank

/-- REL of a pair, seen from the later access (R296). -/
def raceRel (e x : Access) : Nat :=
  match x.kind, e.kind with
  | .read, _ | .sync, _ => 2
  | _, .read | _, .sync => 1
  | _, _ => 0

/-- DETAIL's fields of one access of a pair (R296): REL of the pair, and its own SPACE, INDEX and LOC. -/
def sideDetail (rel : Nat) (x : Access) : Nat :=
  let sp := match x.space with
    | .device => 0
    | .sram => 1
    | .unit => 2
    | .host => 3
  rel <<< 29 + sp <<< 27 + x.index <<< 16 + (if x.space == .unit then low 16 x.loc else 0)

/-- The RACE detail of a trapping access (R296). -/
def raceDetail (e x : Access) : Nat := sideDetail (raceRel e x) x

/-- The place of the decode slots of the courier of a ROUND node (R296, R317), above those of every tile. -/
def courierPlace (node : Nat) : Nat := 0x100000 + node

/-- The virtual tile of a unit location (R296): of a courier's decode slot, that of its ROUND node (DEDUCED, log entry 14). -/
def unitTile (place : Nat) : Nat := if place < courierPlace 0 then place else (place - courierPlace 0) / 512

/-- The location of a companion's OPA (R296). -/
def companionOpa (e : Access) : Nat :=
  match e.space with
  | .unit => low 9 (unitTile e.place) + (match barrierLine e.loc with | some n => (n * 64) <<< 32 | none => 0)
  | .device | .sram | .host => e.va

/-! ### Traps and parking (R237 to R243) -/

/-- A trap: code and detail of R237, the lane of R238. -/
structure Trap where
  code : Nat
  detail : Nat
  lane : Nat
  deriving DecidableEq, Repr

/-- The record of a trap of a firing (R238), its ticket not yet assigned. -/
def recordOf (s : State) (f : Firing) (t : Trap) : FaultRec :=
  let p := partyOf s f
  { ticket := 0, code := t.code, vdesk := f.vdesk, node := f.node, port := 0, lane := t.lane,
    colour := f.a.lanes.length - 1, carry := 0, defer := false, dlout := false, detail := t.detail, fid := p.fid,
    ffill := p.ffill, fill := f.a.fill, fh := f.a.fh, tag := f.a.tag, postmark := p.postmark,
    opa := BitVec.ofNat 64 (lanes64 f.a.lanes 0),
    opb := BitVec.ofNat 64 (match f.b with | some b => lanes64 b.lanes 0 | none => 0),
    firing := some f, carried := [], req := none, round := none, deadlock := false, arrival := false, opens := true }

/-- The 16 lanes of a record (R238). -/
def recordBits (r : FaultRec) : Nat :=
  r.opb.toNat + r.opa.toNat <<< 64 + r.postmark.toNat <<< 128 + r.tag.toNat <<< 192 + low 20 r.fh <<< 286 +
    r.fill <<< 306 + r.ffill <<< 313 + r.fid.toNat <<< 320 + low 32 r.ticket <<< 384 + low 32 r.detail <<< 416 +
    b2n r.dlout <<< 471 + b2n r.defer <<< 472 + r.carry <<< 473 + low 5 r.colour <<< 475 + low 5 r.lane <<< 480 +
    r.port <<< 485 + low 5 r.node <<< 486 + low 13 r.vdesk <<< 491 + r.code <<< 504

/-- The lanes of a record as its token carries them (R238). -/
def recordLanes (r : FaultRec) : List Lane := (upTo 16).map fun i => BitVec.ofNat 32 (recordBits r >>> (32 * i))

/-- The companion record of a race (R296): the access that reached the check first. -/
def companionOf (e x : Access) : FaultRec :=
  { ticket := 0, code := 0x09, vdesk := if e.party.round.isSome then 0x1FFF else e.party.vdesk, node := e.party.node,
    port := 0, lane := e.lane, colour := 0, carry := 0, defer := false, dlout := false,
    detail := 1 <<< 31 + sideDetail (raceRel e x) e, fid := e.party.fid,
    ffill := e.party.ffill, fill := e.party.fill, fh := 0xFFFFF, tag := e.party.tag, postmark := e.party.postmark,
    opa := BitVec.ofNat 64 (companionOpa e), opb := BitVec.ofNat 64 (e.party.round.getD 0), firing := none, carried := [],
    req := none, round := none, deadlock := false, arrival := false, opens := false }

/-- A launch that ends with fault status stops at once (R369): CODE, DETAIL and the record of its completion, and the
event that ends it. FAULTED tells tickets and KILLF alone (R357). -/
def endFault (s : State) (slot code detail : Nat) (r : Option FaultRec) : State :=
  match findLaunch s slot with
  | none => s
  | some l =>
    if l.phase == .ended then s
    else
      pushAlone (setLaunch s { l with phase := .ended, code := code, detail := detail, fault := r })
        (.launchEnd slot)

/-- The tokens of a record for the office (R242): the record, then each carried token, in the office frame. -/
def officeTokens (l : Launch) (r : FaultRec) : List Token :=
  match l.man.handler with
  | none => []
  | some h =>
    let dest := placeDest (BitVec.ofNat 19 (h * 2))
    let tag (k : Nat) : Dword := BitVec.ofNat 64 (r.ticket <<< 2 + k)
    makeToken dest l.office (tag 0) 34 false false false (recordLanes r) (1 <<< 20) [] ::
      (upTo r.carry).filterMap fun k => (r.carried[k]?).map fun t =>
        makeToken dest l.office (tag (k + 1)) 34 false false false t.lanes (1 <<< 20) []

/-- A record posted (R239, R242): its ticket, the poison table, the office's tokens; a full table, a launch with no handler
or a trap of the office frame itself ends the launch. -/
def postRecord (s : State) (slot : Nat) (r0 : FaultRec) : State :=
  match findLaunch s slot with
  | none => s
  | some l =>
    if l.tickets ≥ 65536 then endFault s slot r0.code r0.detail (some r0)
    else
      let r := { r0 with ticket := l.tickets }
      let s1 := setLaunch s { l with tickets := l.tickets + 1, faulted := true, faults := l.faults ++ [r] }
      if r.opens || r.dlout then
        if l.man.handler.isNone || (r.opens && r.fh == l.office) then endFault s1 slot r.code r.detail (some r)
        else emitTokens s1 slot (officeTokens l r)
      else emitTokens s1 slot (officeTokens l r)

/-- A record that ends its launch (R242, R297, R346): its companions and then the record itself are posted, and the completion
carries it as it was posted. -/
def postEnd (s : State) (slot : Nat) (companions : List FaultRec) (r0 : FaultRec) : State :=
  let s1 := companions.foldl (fun s c => postRecord s slot c) s
  match findLaunch s1 slot with
  | none => s1
  | some l =>
    let r := { r0 with ticket := l.tickets, opens := false }
    endFault (postRecord s1 slot r) slot r.code r.detail (some r)

/-- The virtual desks of a launch that hold a node: no other desk ever holds a token. -/
def nodeDesks (l : Launch) : List Nat := l.man.nodes.foldl (fun vs p => unionNat vs [p.1 / 32]) []

/-- The park notices of a frame to every desk of its region (R240). -/
def parkNotices (s : State) (slot fh : Nat) : State :=
  match findLaunch s slot with
  | none => s
  | some l => (nodeDesks l).foldl (fun s v => push s ⟨2, slot, v, fh⟩ (.parkNotice slot v fh)) s

/-- A frame parked by a fault (R240): STATE, FCODE, and where a release returns it. -/
def parkFault (s : State) (slot fh code : Nat) : State :=
  parkNotices (modFrame s fh fun f =>
    if f.state == .draining then f else { f with home := standing f, state := .parkedFault, fcode := code }) slot fh

/-- A frame parked to wait (R279, R281, R336, R338): PARKED_WAIT unless a fault already parks it. -/
def parkWait (s : State) (slot fh : Nat) : State :=
  parkNotices (modFrame s fh fun f =>
    if f.state == .draining then f
    else if f.state == .parkedFault then { f with waits := f.waits + 1 }
    else { f with home := standing f, state := .parkedWait, waits := f.waits + 1 }) slot fh

/-- A token that a desk delivers again to itself (R241): it follows the tokens that its desk delivered again before it. -/
def sendAgain (s : State) (slot vdesk : Nat) (t : Token) : State :=
  let id := s.nextId
  push (modLaunch { s with nextId := id + 1 } slot fun l => { l with flights := l.flights ++ [(id, t)] })
    ⟨9, slot, vdesk, 0⟩ (.tokenArrival slot id)

/-- The park pool entries of a frame delivered again by each desk as arrivals, in pool order (R241); its notices are over. -/
def redeliver (s : State) (slot fh : Nat) : State :=
  match findLaunch s slot with
  | none => s
  | some l =>
    let toks := l.desks.flatMap fun d => (d.park.filter fun t => t.fh == fh).map fun t => (d.vdesk, t)
    let s1 := modLaunch s slot fun l =>
      { l with desks := l.desks.map fun d =>
          { d with park := d.park.filter fun t => t.fh != fh, noticed := d.noticed.filter fun n => n != fh } }
    toks.foldl (fun s p => sendAgain s slot p.1 p.2) s1

/-- A frame released where nothing parks it any longer (R241): it returns to the state it held. One whose tickets are all
resolved while a wait goes on returns to PARKED_WAIT. -/
def releaseFrame (s : State) (slot fh : Nat) : State :=
  match findFrame s fh with
  | none => s
  | some f =>
    if !(parked f && f.opens.isEmpty && f.defers == 0) then s
    else if f.waits != 0 then modFrame s fh fun g => { g with state := .parkedWait, fcode := 0 }
    else
      let s1 := redeliver (modFrame s fh fun g => { g with state := g.home, fcode := 0 }) slot fh
      match taskOf s1 fh with
      | none => s1
      | some t => settleTask s1 t

/-- One wait of a frame ended (R279, R281, R338). -/
def endWait (s : State) (slot fh : Nat) : State :=
  releaseFrame (modFrame s fh fun f => { f with waits := f.waits - 1 }) slot fh

/-- A deferred fault of a speculative task (R343): the frame parks, no record is posted, DEFER counts it. -/
def deferFault (s : State) (slot : Nat) (task : Nat) (rs : List FaultRec) (r : FaultRec) : State :=
  let s1 := modLaunch s slot fun l =>
    let l1 := { l with deferred := l.deferred ++ [(rs, { r with defer := true })] }
    match findFrame s task with
    | none => l1
    | some f => modTile l1 f.vtile fun tl => { tl with tasks := modAt tl.tasks f.tcidx fun c => { c with defer := c.defer + 1 } }
  parkFault (modFrame s1 r.fh fun f => { f with defers := f.defers + 1 }) slot r.fh r.code

/-- A trap taken (R237 to R243, R343), the one operation every trap goes through: companions first, then the record; the
frame parks and the ticket stays open, or, in a speculative task, the fault is deferred (SPEC_ILLEGAL detail 5 is not). -/
def takeTrap (s : State) (slot : Nat) (companions : List FaultRec) (r : FaultRec) : State :=
  let deferred := speculative s r.fh && !(r.code == 0x0B && r.detail == 5)
  match deferred, taskOf s r.fh with
  | true, some t => deferFault s slot t companions r
  | _, _ =>
    let s1 := companions.foldl (fun s c => postRecord s slot c) s
    match findLaunch s1 slot with
    | none => s1
    | some l =>
      let ticket := l.tickets
      let s2 := postRecord s1 slot r
      if r.opens then parkFault (modFrame s2 r.fh fun f => { f with opens := f.opens ++ [ticket] }) slot r.fh r.code
      else s2

/-- A trap of a firing (R240): it changes nothing else, and its operands are kept with the ticket. -/
def trapFiring (s : State) (f : Firing) (t : Trap) : State := takeTrap s f.slot [] (recordOf s f t)

/-- A race of a firing (R296, R297): the companion, then the firing's record. -/
def raceFiring (s : State) (f : Firing) (p : Access × Access) : State :=
  takeTrap s f.slot [companionOf p.1 p.2] (recordOf s f ⟨0x09, raceDetail p.1 p.2, p.2.lane⟩)

end Sys2Proof.Machine
end

