-- ==== Sys2Proof/Machine/Mesh.lean ====
section
/-! DEFINITION. The depots and their switches (R249 to R257): ports, the die mesh, gateways, route tables, arbitration, the
bad-node register and the hop log, and the host error log (R397). -/

namespace Sys2Proof.Machine

/-! ### Ports (R249, R257) -/

/-- Column of a depot on its die (R249). -/
def depotCol (d : Nat) : Nat := d % 9 % 3

/-- Row of a depot on its die (R249). -/
def depotRow (d : Nat) : Nat := d % 9 / 3

/-- i XOR j of the die-to-die link at a depot (R249); none where it has none. -/
def gatewayXor (d : Nat) : Option Nat :=
  match d % 9 with
  | 2 => some 1
  | 6 => some 2
  | 8 => some 3
  | _ => none

/-- The gateway depot of die `i` for the link to die `j` (R249). -/
def gatewayOf (i j : Nat) : Nat :=
  9 * i + match i ^^^ j with
    | 1 => 2
    | 2 => 6
    | _ => 8

/-- The depot that a port leads to (R249), ports numbered as R257 does; none for a tile's port and for an absent one. -/
def neighbour (d port : Nat) : Option Nat :=
  match port with
  | 8 => if depotRow d > 0 then some (d - 3) else none
  | 9 => if depotCol d < 2 then some (d + 1) else none
  | 10 => if depotRow d < 2 then some (d + 3) else none
  | 11 => if depotCol d > 0 then some (d - 1) else none
  | 12 => (gatewayXor d).map fun x => 9 * (d / 9 ^^^ x) + d % 9
  | _ => none

/-- Whether a depot has a port (R249). -/
def portExists (d port : Nat) : Bool := decide (d < Config.depots) && (decide (port < 8) || (neighbour d port).isSome)

/-- The port at the other end of a link. -/
def farPort (port : Nat) : Nat :=
  match port with
  | 8 => 10
  | 9 => 11
  | 10 => 8
  | 11 => 9
  | _ => 12

/-! ### The bad-node register (R255, R256) -/

/-- A word of one of the lists of 36 depot words changed. -/
def modWord (ws : List (BitVec 64)) (k : Nat) (f : Nat → Nat) : List (BitVec 64) := modAt ws k fun w => BitVec.ofNat 64 (f w.toNat)

/-- The bits of a depot's bad-node word that it has (R256): TILE, the mesh links, GLINK where it has a die-to-die link, DEPOT. -/
def badnodeMask (d : Nat) : Nat := 0x10FFF + if (gatewayXor d).isSome then 1 <<< 12 else 0

/-- The bad-node bit of a receiving port (R255, R256). -/
def portBit (port : Nat) : Nat :=
  if port < 8 then 1 <<< port else if port == 12 then 1 <<< 12 else 1 <<< (11 - (port - 8))

/-- A depot's bad-node word. -/
def badWord (s : State) (d : Nat) : Nat := (s.badnode.getD d 0).toNat

/-- Whether a link works: its bit is set at neither end, and neither switch is unusable. -/
def linkWorks (s : State) (d port : Nat) : Bool :=
  match neighbour d port with
  | none => false
  | some e =>
    badWord s d &&& portBit port == 0 && badWord s e &&& portBit (farPort port) == 0 && !bit (badWord s d) 16 &&
      !bit (badWord s e) 16

/-! ### Routes (R251) -/

/-- The port of the default route within a die (R251): by column first, then by row. -/
def meshPort (d e : Nat) : Nat :=
  if depotCol d < depotCol e then 9 else if depotCol e < depotCol d then 11 else if depotRow d < depotRow e then 10 else 8

/-- The port of the default route from a depot to another (R251): on its die, or by the gateway of the link to the other's. -/
def defaultPort (d e : Nat) : Nat :=
  if d / 9 == e / 9 then meshPort d e
  else
    let g := gatewayOf (d / 9) (e / 9)
    if d == g then 12 else meshPort d g

/-- The hops of a route (R251): each depot with the port it leaves by, following a table for at most `fuel` hops. -/
def routeHops (port : Nat → Nat → Nat) (e : Nat) : Nat → Nat → List (Nat × Nat)
  | 0, _ => []
  | fuel + 1, d =>
    if d == e then []
    else
      let p := port d e
      (d, p) :: match neighbour d p with
        | none => []
        | some n => routeHops port e fuel n

/-- Whether every link of the default route works. -/
def defaultWorks (s : State) (d e : Nat) : Bool := (routeHops defaultPort e 16 d).all fun h => linkWorks s h.1 h.2

/-- The depots whose switch is usable (R256). -/
def goodDepots (s : State) : List Nat := (upTo Config.depots).filter fun d => !bit (badWord s d) 16

/-- A tree over working links grown by one round: each depot beside one of the tree joins it below the first such (depot, parent). -/
def growTree (s : State) (t : List (Nat × Nat)) : List (Nat × Nat) :=
  t ++ ((goodDepots s).filter fun d => !t.any fun p => p.1 == d).filterMap fun d =>
    ((upTo 5).map (· + 8)).findSome? fun p =>
      match neighbour d p with
      | some e => if linkWorks s d p && t.any (fun x => x.1 == e) then some (d, e) else none
      | none => none

/-- The tree of the working links, from the lowest usable depot on. -/
def routeTree (s : State) : List (Nat × Nat) :=
  (upTo Config.depots).foldl (fun t _ => growTree s t) (((goodDepots s).take 1).map fun d => (d, d))

/-- A depot's way to the root of a tree, itself first. -/
def treePath (t : List (Nat × Nat)) : Nat → Nat → List Nat
  | 0, _ => []
  | fuel + 1, d =>
    match t.find? fun p => p.1 == d with
    | some p => if p.2 == d then [d] else d :: treePath t fuel p.2
    | none => []

/-- The next depot on the way along a tree: down where the destination stands below, else up. Turns from down to up never occur, so
the routes are free of cycles (R251). -/
def treeNext (t : List (Nat × Nat)) (d e : Nat) : Option Nat :=
  let ps := treePath t Config.depots e
  match ps.findIdx? (· == d) with
  | some k => if k == 0 then none else ps[k - 1]?
  | none => (treePath t Config.depots d)[1]?

/-- A depot's port on the way along a tree. -/
def treePort (t : List (Nat × Nat)) (d e : Nat) : Nat :=
  match treeNext t d e with
  | some n => (((upTo 5).map (· + 8)).find? fun p => neighbour d p == some n).getD (defaultPort d e)
  | none => defaultPort d e

/-- The pairs of links that follow one another on some route of a table. -/
def routeTurns (port : Nat → Nat → Nat) (ds : List Nat) : List ((Nat × Nat) × (Nat × Nat)) :=
  dedup (ds.flatMap fun d => ds.flatMap fun e =>
    let hs := routeHops port e Config.depots d
    hs.zip (hs.drop 1))

/-- Whether turns are free of cycles: links that nothing follows are taken away until none is left. -/
def turnsFree : Nat → List ((Nat × Nat) × (Nat × Nat)) → Bool
  | 0, ts => ts.isEmpty
  | fuel + 1, ts => ts.isEmpty || turnsFree fuel (ts.filter fun x => ts.any fun y => y.1 == x.2)

/-- Whether a route table serves the usable depots (R251): every route takes working links to its end, and together they are free of
cycles. -/
def routesSound (s : State) (port : Nat → Nat → Nat) : Bool :=
  let ds := goodDepots s
  (ds.all fun d => ds.all fun e => (routeHops port e Config.depots d).all (fun h => linkWorks s h.1 h.2) &&
    (d == e || ((routeHops port e Config.depots d).getLast?.bind fun h => neighbour h.1 h.2) == some e)) &&
    turnsFree 200 (routeTurns port ds)

/-- The routes around failures (R251): those that firmware brings where they serve, else those along a tree of the working links, in
which a route never turns from down to up. The turn rule is not stated (DESIGN CHOICE, log entry 7). -/
def failurePort (s : State) : Nat → Nat → Nat :=
  let given (d e : Nat) : Nat := (s.cfg.routes.getD d []).getD e (defaultPort d e)
  if routesSound s given then given else treePort (routeTree s)

/-- A route table's entries by depot and destination; a depot's entry for itself is not used. -/
def tableOf (port : Nat → Nat → Nat) : List (List Nat) :=
  (upTo Config.depots).map fun d => (upTo Config.depots).map fun e => if d == e then 0 else port d e

/-- The route tables as firmware builds them from the bad-node register (R251): the default routes, or, where a failure lies on one of
them, routes around it. -/
def routeTables (s : State) : List (List Nat) :=
  if (goodDepots s).all fun d => (goodDepots s).all fun e => defaultWorks s d e then tableOf defaultPort else tableOf (failurePort s)

/-- The bits of a bad-node word that routes depend on (R251): its switch and its links. -/
def linkBits (w : BitVec 64) : Nat := w.toNat &&& 0x11F00

/-- Whether the route tables are those of the bad-node register (R251, R255): of the word each was built from. -/
def routesFresh (s : State) : Bool := s.routed.map linkBits == s.badnode.map linkBits

/-- The route tables written by Oatin from the bad-node register (R251). -/
def writeRoutes (s : State) : State := { s with routes := routeTables s, routed := s.badnode }

/-- The entry of the route tables that stand. -/
def routeEntry (s : State) (d e : Nat) : Nat := (s.routes.getD d []).getD e 0

/-- The port by which the flits of a tile reach the switch of a depot (R251, R257). -/
def receivingPort (s : State) (tile d : Nat) : Nat :=
  match (routeHops (routeEntry s) d 40 (tile / 8)).getLast? with
  | none => tile % 8
  | some h => farPort h.2

/-! ### Flits and arbitration (R250, R252) -/

/-- The class of what a flit belongs to (R250); `cargo` is the message between tiles that it names. -/
def flitClass (of : FlitOf) (cargo : Option Cargo) : Nat :=
  match of with
  | .token _ => 0
  | .request _ | .spill _ => 1
  | .reply _ | .barrier => 2
  | .control => 3
  | .cargo _ => match cargo with
    | some (.deliver _ _ _ _ _ _ _ _ _) | some (.freed _ _ _ _) | some (.popped _ _ _ _ _) => 2
    | _ => 1

/-- The flits of a token of `n` lanes (R250): the header and 12 lanes, then 16 lanes each. -/
def tokenFlits (n : Nat) : Nat := 1 + (n - 12 + 15) / 16

/-- The order in which an output grants inputs of a class (R252): T0 to T7, N, E, S, W, G, from the one after the last. -/
def grantOrder (last : Nat) : List Nat := (upTo 13).map fun k => (last + 1 + k) % 13

/-- What an output port grants (R252): of the classes and inputs that wait, class 3 first, then 2, 1 and 0, and within a class
the first input in its order; `last` is the input that each class last granted, `run` the input whose message has started. -/
def granted (last : Nat → Nat) (run : Nat → Option Nat) (waiting : List (Nat × Nat)) : Option (Nat × Nat) :=
  [3, 2, 1, 0].findSome? fun c =>
    if !waiting.any fun w => w.1 == c then none
    else
      match run c with
      | some i => some (c, i)
      | none => ((grantOrder (last c)).find? fun i => waiting.contains (c, i)).map fun i => (c, i)

/-! ### Lomcel Link ports (R403 to R406) -/

/-- A port changed. -/
def modPort (s : State) (p : Nat) (f : LinkPort → LinkPort) : State := { s with ports := modAt s.ports p f }

/-- The virtual channel that carries something (R403, R406): arc messages; credits and acknowledgements; the management flow. -/
def linkVc (k : LinkKind) : Nat :=
  match k with
  | .message _ _ _ _ => 0
  | .credit _ _ | .idle | .again => 1
  | .notice _ _ | .declare _ _ | .routes _ _ | .relay _ => 2

/-- Something for a package put in the buffer of its virtual channel at a port (R403, R405); a port that is down takes nothing. -/
def sendFlit (s : State) (p pkg : Nat) (k : LinkKind) : State :=
  modPort s p fun q => if q.up then { q with buffers := modAt q.buffers (linkVc k) (· ++ [(pkg, k)]) } else q

/-- Whether a port has a flit to put on its lanes (R404): one of the stream that goes out again, else the first of a virtual channel,
while the replay buffer has room. -/
def portSends (q : LinkPort) (vc : Nat) : Bool :=
  q.up && if q.out < q.replay.length then vc == 0 else !(q.buffers.getD vc []).isEmpty && decide (q.replay.length < 1024)

/-- A port's next flit put on its lanes (R403, R404): one of the stream that goes out again, in its original order, or the first of a
virtual channel's buffer, which takes the next SEQ and stays in the replay buffer until it is acknowledged. -/
def portSend (q : LinkPort) (vc : Nat) : LinkPort :=
  let ack := (q.rcvd - 1).toNat
  match q.replay[q.out]?, q.buffers.getD vc [] with
  | some f, _ => { q with out := q.out + 1, lanes := some { f with ack } }
  | none, [] => q
  | none, x :: rest =>
    let f : LinkFlit := { seq := q.seq.toNat, ack, pkg := x.1, kind := x.2 }
    { q with seq := q.seq + 1, replay := q.replay ++ [f], out := q.out + 1, buffers := q.buffers.set vc rest, lanes := some f }

/-! ### Hop logs and the host error log (R254 to R257, R397) -/

/-- A retry that arrived intact counted (R254, R257, R396). -/
def countRetry (s : State) (depot : Nat) : State :=
  { s with
    hoplog := modWord s.hoplog depot fun w => if field w 48 8 == 255 then w else w + 1 <<< 48
    telemetry := modAt s.telemetry (16 + depot / 9) (· + 1) }

/-- A persistent failure in the hop log (R255, R257). -/
def logHop (w port cls word : Nat) : Nat :=
  if bit w 63 then w ||| 1 <<< 62 else low 56 (w >>> 48 <<< 48) ||| 1 <<< 63 ||| port <<< 12 ||| cls <<< 10 ||| word <<< 4

/-- A persistent failure (R255): the hop log, and the failing side in the bad-node register. -/
def failHop (s : State) (depot port cls word : Nat) : State :=
  { s with
    hoplog := modWord s.hoplog depot fun w => logHop w port cls word
    badnode := modWord s.badnode depot fun w => w ||| portBit port }

/-- An entry added to the host error log (R397): the newest 255 are held, the count goes on. -/
def logEntry (s : State) (e : LogEntry) : State :=
  { s with log := (s.log ++ [e]).drop ((s.log.length + 1) - 255), logCount := s.logCount + 1 }

end Sys2Proof.Machine
end

