-- ==== Sys2Proof/Machine/Node.lean ====
section
/-! DEFINITION. What every node firing goes through: parity (R12), the tag rules (R107), last posts and dead letters (R30, R124),
the speculation, ORD, one-frame and rate checks (R140, R217, R229, R342), and the completion that emits and consumes. -/

namespace Sys2Proof.Machine

/-- A trap with lane 0. -/
def mkTrap (code detail : Nat) : Trap := ⟨code, detail, 0⟩

/-- The innermost widths of a shape below field `d` summed: `off(d)` of R107. -/
def tagOff (shape : List Nat) (d : Nat) : Nat := (shape.take d).foldl (· + ·) 0

/-- `bump` of R107. -/
def tagBump (shape : List Nat) (t f d : Nat) : Except Trap (Nat × Nat) :=
  let o := tagOff shape d
  let w := shape.getD d 0
  if f < o + w then .error (mkTrap 0x01 2)
  else
    let v := field t o w
    if v == ones w then .error (mkTrap 0x01 0)
    else .ok (t >>> (o + w) <<< (o + w) + (v + 1) <<< o, f)

/-- `tag_rule` of R107. -/
def tagRule (shape : List Nat) (t f : Nat) (op : TagOp) : Except Trap (Nat × Nat) :=
  let w := shape.getD 0 0
  match op with
  | .same => .ok (t, f)
  | .iter => tagBump shape t f 0
  | .outer => tagBump shape t f 1
  | .zero => if f < w then .error (mkTrap 0x01 2) else .ok (t >>> w <<< w, f)
  | .pop => if f < w then .error (mkTrap 0x01 2) else .ok (t >>> w, f - w)

/-- A token about to leave a firing: its destination port, lanes, tag, flags, frame, and what it carries. -/
structure Emission where
  port : Nat
  lanes : List Lane
  tag : Nat
  fill : Nat
  dl : Bool
  lp : Bool
  fh : Nat
  hb : List Nat
  deriving DecidableEq, Repr

/-- What a node sees of its firing. -/
structure Ctx where
  f : Firing
  l : Launch
  r : NodeRec
  fr : Frame
  shape : List Nat
  deriving DecidableEq, Repr

/-- What a node's firing comes to: a trap, a race, a hold (R139), its completion, or a start whose completion comes later. -/
inductive Res where
  | trap (t : Trap)
  | race (e x : Access)
  | hold
  | done (s : State) (es : List Emission) (flags : Flags)
  | later (s : State)
  deriving DecidableEq, Repr

/-- The lanes of operand b; none reads as no lanes. -/
def bLanes (c : Ctx) : List Lane :=
  match c.f.b with
  | some b => b.lanes
  | none => []

/-- The lane count of operand a. -/
def laneCount (c : Ctx) : Nat := c.f.a.lanes.length

/-- The TAG of the activation. -/
def ctxTag (c : Ctx) : Nat := c.f.a.tag.toNat

/-- The innermost field of the activation's tag, 0 for an empty shape. -/
def innermost (c : Ctx) : Nat := low (c.shape.getD 0 0) (ctxTag c)

/-- The virtual tile of a firing. -/
def fTile (f : Firing) : Nat := f.vdesk / 16

/-- The address of a firing's node. -/
def fNode (f : Firing) : Nat := nodeAddr f.vdesk f.node

/-- The order of a pair of poison indices: the lowest (FID, tag) origin (R30). Of two records whose FID and tag are equal, R30 gives no
order: the first operand's is taken (DESIGN CHOICE, log entry 48). -/
def poisonMin (l : Launch) (i j : Nat) : Nat :=
  match l.faults.find? (fun r => r.ticket == i), l.faults.find? (fun r => r.ticket == j) with
  | some p, some q =>
    if fidLt q.fid q.ffill p.fid p.ffill then j
    else if fidLt p.fid p.ffill q.fid q.ffill then i
    else if tagLt q.tag q.fill p.tag p.fill then j else i
  | _, _ => min i j

/-- The poison index of a dead letter: lane 0 (R29). -/
def poisonIdx (t : Token) : Nat := (laneAt t.lanes 0).toNat

/-- The poison index a firing with a dead operand emits (R30). -/
def poisonOf (c : Ctx) : Nat :=
  match c.f.b with
  | some b =>
    if c.f.a.dl && b.dl then poisonMin c.l (poisonIdx c.f.a) (poisonIdx b)
    else if b.dl then poisonIdx b else poisonIdx c.f.a
  | none => poisonIdx c.f.a

/-- The payload of a dead letter of `n` lanes (R29). -/
def poisonLanes (n idx : Nat) : List Lane := fitLanes n [BitVec.ofNat 32 idx]

/-- The destination word of an emission port. -/
def portDest (c : Ctx) (port : Nat) : BitVec 19 := if port == 0 then c.r.dsta else c.r.dstb

/-- An emission of given lanes to one port under one tag, in the firing's frame, carrying what the firing carries. -/
def emission (c : Ctx) (port : Nat) (lanes : List Lane) (tf : Nat × Nat) (dl lp : Bool) (hb : List Nat) : Emission :=
  { port, lanes, tag := tf.1, fill := tf.2, dl, lp, fh := c.f.a.fh, hb := unionNat (firingHb c.f) hb }

/-- The same lanes to those of the given ports that name a node, under a tag rule; the rule applies to tokens emitted only
(R107), so it is not run where none is. -/
def outPorts (c : Ctx) (ports : List Nat) (lanes : List Lane) (op : TagOp) (dl lp : Bool) (hb : List Nat) :
    Except Trap (List Emission) :=
  let ps := ports.filter fun p => portDest c p != 0x7FFFF
  if ps.isEmpty then .ok []
  else
    match tagRule c.shape (ctxTag c) c.f.a.fill op with
    | .error t => .error t
    | .ok tf => .ok (ps.map fun p => emission c p lanes tf dl lp hb)

/-- The same lanes to both destinations under TAGOP (R153). -/
def outBoth (c : Ctx) (lanes : List Lane) (dl lp : Bool) (hb : List Nat) : Except Trap (List Emission) :=
  outPorts c [0, 1] lanes c.r.tagop dl lp hb

/-- The same lanes to both destinations under a tag formed already. -/
def outTag (c : Ctx) (lanes : List Lane) (tf : Nat × Nat) (dl lp : Bool) (hb : List Nat) : List Emission :=
  [emission c 0 lanes tf dl lp hb, emission c 1 lanes tf dl lp hb]

/-- Two lists of emissions, or the first trap. -/
def outAppend (x y : Except Trap (List Emission)) : Except Trap (List Emission) :=
  match x, y with
  | .error t, _ => .error t
  | _, .error t => .error t
  | .ok a, .ok b => .ok (a ++ b)

/-- The lanes of a last post (R29), of a colour-0 token with a zero payload. -/
def oneZero : List Lane := [0]

/-- A completion from emissions or their trap. -/
def doneWith (s : State) (es : Except Trap (List Emission)) (flags : Flags) : Res :=
  match es with
  | .error t => .trap t
  | .ok es => .done s es flags

/-- Whether an operand of a firing is a dead letter. -/
def anyDl (f : Firing) : Bool := f.a.dl || (match f.b with | some b => b.dl | none => false)

/-- The payload of a last post that leaves (R29). A dead credit or trigger makes it a dead letter too (R126, R183): it keeps LP,
and lane 0 holds the poison index (DEDUCED, log entry 25). -/
def lpLanes (c : Ctx) : List Lane := if anyDl c.f then poisonLanes 1 (poisonOf c) else oneZero

/-- Last post to the given ports under a tag rule (R124). -/
def outLp (c : Ctx) (ports : List Nat) (op : TagOp) (hb : List Nat) : Except Trap (List Emission) :=
  outPorts c ports (lpLanes c) op (anyDl c.f) true hb

/-- Last post out of every destination (R124). -/
def lpOut (s : State) (c : Ctx) : Res := doneWith s (outLp c [0, 1] c.r.tagop []) 0

/-- Dead letters out of every destination (R30). -/
def dlOut (s : State) (c : Ctx) : Res :=
  doneWith s (outBoth c (poisonLanes (laneCount c) (poisonOf c)) true false []) 0

/-- What a family of nodes demands before its own effect: the SPEC_ILLEGAL detail (R342), whether the node fires in one
frame only (R217), whether port b is a trigger, a credit or a control operand (R126, R183), whether a first firing in a task's
frame binds the node to the postmark domain (R217). -/
structure Policy where
  spec : Option Nat
  stream : Bool
  trigger : Bool
  domain : Bool := false
  deriving DecidableEq, Repr

/-- The policy of a node that only computes. -/
def plain : Policy := { spec := none, stream := false, trigger := false }

/-- Whether the firing is a last post (R124, R183). -/
def isLp (p : Policy) (f : Firing) : Bool :=
  f.a.lp && (p.trigger || match f.b with | some b => b.lp | none => true)

/-- The ORD counter of a node in a frame (R140); 0 before its first firing. -/
def ordNext (d : Desk) (node fh : Nat) : Nat :=
  ((d.ord.find? fun o => o.node == node && o.fh == fh).map (·.next)).getD 0

/-- Whether a node has its ORD counter in a frame. -/
def ordHas (d : Desk) (node fh : Nat) : Bool := d.ord.any fun o => o.node == node && o.fh == fh

/-- The ORD counter created at the node's first firing in a frame (R140). -/
def ordCreate (d : Desk) (node fh : Nat) : Desk := if ordHas d node fh then d else { d with ord := d.ord ++ [⟨node, fh, 0⟩] }

/-- The ORD counter advanced (R140); one that its frame's draining has released stays released. -/
def ordAdvance (d : Desk) (node fh : Nat) : Desk :=
  { d with ord := d.ord.map fun o => if o.node == node && o.fh == fh then { o with next := o.next + 1 } else o }

/-- The entry of the monitor slot of a node on an arc, in both roles (R232). -/
def monitorsOf (l : Launch) (f : Firing) : List Monitor :=
  (tileOf l (fTile f)).monitors.filter fun m => m.node == fNode f

/-- The mark of the postmark domain in a monitor slot (R217, R232). -/
def domainMark : Nat := 0xFFFFE

/-- What a node's first firing binds it to (R217): its frame, or, for a SEND in a task's frame, the postmark domain. -/
def bindTag (s : State) (p : Policy) (fh : Nat) : Nat := if p.domain && (taskOf s fh).isSome then domainMark else fh

/-- Whether a firing stands in the frame its node is bound to (R217). -/
def boundOk (s : State) (l : Launch) (f : Firing) : Bool :=
  match assoc (tileOf l (fTile f)).bound (fNode f) with
  | none => true
  | some n => if n == domainMark then (taskOf s f.a.fh).isSome else n == f.a.fh

/-- The node bound by its first firing (R217, R229), and the frame entered in its slots (R232). -/
def bindNode (s : State) (p : Policy) (f : Firing) (l : Launch) : Launch :=
  if (assoc (tileOf l (fTile f)).bound (fNode f)).isSome then l
  else
    let t := bindTag s p f.a.fh
    modTile l (fTile f) fun tl =>
      { tl with
        bound := tl.bound ++ [(fNode f, t)]
        monitors := tl.monitors.map fun m => if m.kind == 2 && m.node == fNode f then { m with fh := t } else m }

/-- The declaration of an arc in the active rate set (R228). -/
def rateOf (l : Launch) (arc : Nat) : Option RateDecl := l.man.rates.find? fun d => d.set == l.active && d.arc == arc

/-- The count a rate monitor compares (R229): messages for a letterbox arc, tokens to the destination port for a direct
arc, one firing at a direct consumer. -/
def rateCount (c : Ctx) (m : Monitor) (es : List Emission) (msgs : Nat) : Nat :=
  match c.l.man.arcs.find? fun a => a.arc == m.arc with
  | none => 0
  | some a =>
    if a.kind == 0 then
      if m.role == 0 then (es.filter fun e => portDest c e.port == placeDest (BitVec.ofNat 19 a.dst)).length else 1
    else msgs

/-- The rate of a firing's phase (R228). -/
def rateDue (l : Launch) (m : Monitor) (v : Nat) : Option Nat :=
  (rateOf l m.arc).map fun d =>
    let xs := if m.role == 0 then d.prod else d.cons
    xs.getD (v % xs.length) 0

/-- The rate mismatch of a firing (R229): detail 0 at a producer, 1 at a consumer. -/
def rateTrap (c : Ctx) (es : List Emission) (msgs : Nat) : Option Trap :=
  ((monitorsOf c.l c.f).find? fun m => m.kind == 2 &&
      match rateDue c.l m (innermost c) with
      | none => false
      | some n => rateCount c m es msgs != n).map fun m => mkTrap 0x03 m.role

/-- The monitors of a node advanced by a firing (R232). -/
def rateAdvance (s : State) (c : Ctx) (es : List Emission) (msgs : Nat) : State :=
  modLaunch s c.f.slot fun l => modTile l (fTile c.f) fun tl =>
    { tl with monitors := tl.monitors.map fun m =>
        if m.node == fNode c.f && m.kind == 2 && (rateDue c.l m 0).isSome then
          { m with count := m.count + BitVec.ofNat 32 (rateCount c m es msgs), firings := m.firings + 1 }
        else m }

/-- A firing's emissions sent, in order (R31, R33). -/
def sendEmissions (s : State) (c : Ctx) (es : List Emission) : State :=
  emitTokens s c.f.slot (es.map fun e =>
    { dest := portDest c e.port, fh := e.fh, tag := BitVec.ofNat 64 e.tag, fill := e.fill, dl := e.dl, lp := e.lp,
      sp := false, lanes := e.lanes, lpar := 0, hp := 0, src := fNode c.f, hb := e.hb })

/-- A firing completed (R31, R57, R140): flags merged, tokens sent, the ORD counter advanced for a data or dead-letter
firing, operands consumed. -/
def complete (s : State) (c : Ctx) (es : List Emission) (flags : Flags) : State :=
  let s1 := modFrame s c.f.a.fh fun f => { f with flags := f.flags ||| flags }
  let s2 := sendEmissions s1 c es
  let s3 := if c.r.ord && !c.f.a.lp then
      modLaunch s2 c.f.slot fun l => modDesk l c.f.vdesk fun d => ordAdvance d c.f.node c.f.a.fh
    else s2
  consume s3 c.f.a.fh (operandCount c.f)

/-- A firing held (R139): it keeps its ready ways and is passed over. -/
def holdFiring (s : State) (f : Firing) : State :=
  modLaunch s f.slot fun l => modDesk l f.vdesk fun d => { d with ready := d.ready ++ [⟨f, false, true⟩] }

/-- What a firing sees; none where its launch or frame is gone. -/
def ctxOf (s : State) (f : Firing) (r : NodeRec) : Option Ctx :=
  match findLaunch s f.slot, findFrame s f.a.fh with
  | some l, some fr => some { f, l, r, fr, shape := shapeOf l (fNode f) }
  | _, _ => none

/-- The one-frame rule (R217, R229): a stream node or an endpoint of a rate-checked arc, fired in another frame. -/
def frameTrap (s : State) (p : Policy) (c : Ctx) : Option Trap :=
  if (p.stream || (monitorsOf c.l c.f).any fun m => m.kind == 2 && (rateOf c.l m.arc).isSome) && !boundOk s c.l c.f then
    some (mkTrap 0x03 5)
  else none

/-- The checks before a data firing's own effect: SPEC_ILLEGAL (R342), then the one-frame rule. -/
def preTrap (s : State) (p : Policy) (c : Ctx) : Option Trap :=
  match p.spec, speculative s c.f.a.fh with
  | some d, true => some (mkTrap 0x0B d)
  | _, _ => frameTrap s p c

/-- What an ORD node demands (R140): a TAG below the counter is misuse, one above it waits, and so does a
firing that finds the table of 16 counters full; a last post is always due. -/
def ordRes (c : Ctx) (isLast : Bool) (d : Desk) : Option Res :=
  let next := ordNext d c.f.node c.f.a.fh
  if !c.r.ord || isLast then none
  else if d.ord.length ≥ 16 && !ordHas d c.f.node c.f.a.fh then some .hold
  else if ctxTag c < next then some (.trap (mkTrap 0x03 3))
  else if ctxTag c > next then some .hold
  else none

/-- The result of a firing turned into the next state. -/
def settle (s : State) (c : Ctx) (msgs : Nat) (data : Bool) (res : Res) : State :=
  match res with
  | .trap t => trapFiring s c.f t
  | .race e x => raceFiring s c.f (e, x)
  | .hold => holdFiring s c.f
  | .later s1 => s1
  | .done s1 es flags =>
    if data then
      match rateTrap c es msgs with
      | some t => trapFiring s c.f t
      | none => complete (rateAdvance s1 c es msgs) c es flags
    else complete s1 c es flags

/-! ### Parity (R12) -/

/-- The record of a fault found at an arrival (R238): the offending token, and the tokens kept with the ticket, of which the
first `carry` follow the record. -/
def arrivalRecord (s : State) (slot : Nat) (t : Token) (kept : List Token) (carry : Nat) (trap : Trap) : FaultRec :=
  let f : Firing := { since := 0, slot, vdesk := destDesk t.dest, node := destNode t.dest, port := destPort t.dest, a := t, b := none }
  let lanes (port : Nat) : List Lane :=
    match (t :: kept).find? fun u => destPort u.dest == port with
    | some u => u.lanes
    | none => []
  { recordOf s f trap with
    port := destPort t.dest, carry, firing := none, carried := kept, arrival := true,
    opa := BitVec.ofNat 64 (lanes64 (lanes 0) 0), opb := BitVec.ofNat 64 (lanes64 (lanes 1) 0) }

/-- An arrival fault taken. -/
def trapArrival (s : State) (slot : Nat) (t : Token) (kept : List Token) (carry : Nat) (trap : Trap) : State :=
  takeTrap s slot [] (arrivalRecord s slot t kept carry trap)

/-- A header parity error (R12): the token is discarded and the launch ends. R12 gives the record's FH only: its FID, FFILL and
POSTMARK are those of the frame that the damaged header names (DESIGN CHOICE, log entry 38). -/
def headerFault (s : State) (slot : Nat) (t : Token) : State :=
  postEnd s slot [] { arrivalRecord s slot t [] 0 (mkTrap 0x05 1) with fh := 0xFFFFF, arrival := false }

/-- A token written to or read from a pigeonhole or a spill slot (R12): a bad header ends the launch, a bad payload traps with
the token kept; none where its parity is right. -/
def parityFault (s : State) (slot : Nat) (t : Token) : Option State :=
  if !headerOk t then some (headerFault s slot t)
  else if !payloadOk t then some (trapArrival s slot t [t] 0 (mkTrap 0x05 0))
  else none

/-- The operands of a firing. -/
def operands (f : Firing) : List Token := f.a :: f.b.toList

/-- What the firing unit's parity check comes to (R12); none where both operands are right. -/
def firingFault (s : State) (f : Firing) : Option State :=
  match (operands f).find? fun t => !headerOk t with
  | some t => some (headerFault s f.slot t)
  | none => if (operands f).all payloadOk then none else some (trapFiring s f (mkTrap 0x05 0))

/-- The state of a firing that its desk has found due: its ORD counter exists (R140). A last post that is its node's first firing
in a frame needs no counter and creates none (DESIGN CHOICE, log entry 48). -/
def counted (s : State) (c : Ctx) (p : Policy) : State :=
  if c.r.ord && !isLp p c.f then
    modLaunch s c.f.slot fun l => modDesk l c.f.vdesk fun d => ordCreate d c.f.node c.f.a.fh
  else s

/-- The state in which a due firing starts: a stream node or an endpoint of an arc is bound to its frame (R217, R229). -/
def started (s : State) (c : Ctx) (p : Policy) : State :=
  let s1 := counted s c p
  if p.stream || (monitorsOf c.l c.f).any fun m => m.kind == 2 then modLaunch s1 c.f.slot (bindNode s p c.f) else s1

/-- What a firing sees of its launch where it started. -/
def startedCtx (s : State) (c : Ctx) : Ctx := { c with l := (findLaunch s c.f.slot).getD c.l }

/-- What a due firing's own effect comes to: one that must be held has not fired, and one that traps binds nothing (R217, R239). -/
def settleFrom (s : State) (c : Ctx) (p : Policy) (msgs : Nat) (data : Bool) (res : Res) : State :=
  match res with
  | .hold => holdFiring s c.f
  | .trap _ | .race _ _ | .done _ _ _ | .later _ => settle (counted s c p) c msgs data res

/-- A node firing run: discarded where its frame drains (R23), else last posts by `lp`, dead letters by `dl`, data by
`body` after the checks of `preTrap` and R140; `msgs` counts its messages for R229. -/
def runNode (s : State) (r : NodeRec) (p : Policy) (msgs : Ctx → Nat) (lp dl body : State → Ctx → Res) : Out :=
  match s.issue with
  | .node f =>
    match ctxOf s f r with
    | none => .next s
    | some c =>
      if c.fr.state == .draining then .next (consume s f.a.fh (operandCount f))
      else
        match firingFault s f with
        | some s1 => .next s1
        | none =>
          match ordRes c (isLp p f) (deskOf c.l f.vdesk) with
          | some res => .next (settle s c 0 false res)
          | none =>
            let s0 := started s c p
            let c0 := startedCtx s0 c
            if isLp p f || anyDl f then
              match frameTrap s p c with
              | some t => .next (trapFiring (counted s c p) f t)
              | none => .next (settleFrom s c p 0 false (if isLp p f then lp s0 c0 else dl s0 c0))
            else
              match preTrap s p c with
              | some t => .next (trapFiring (counted s c p) f t)
              | none => .next (settleFrom s c p (msgs c) true (body s0 c0))
  | .none | .block _ _ _ | .round _ _ => .fault .notIssued

/-- A node with the standard treatment of last posts and dead letters and no messages. -/
def runPlain (s : State) (r : NodeRec) (p : Policy) (body : State → Ctx → Res) : Out :=
  runNode s r p (fun _ => 0) lpOut dlOut body

/-- The ARITH trap of a firing whose flags the launch enables (R58). -/
def arithTrap (l : Launch) (t : Ty) (raised : Raised) : Option Trap :=
  (arithReport l.rcd.arithen t raised).map fun p => ⟨0x12, p.1, p.2⟩

end Sys2Proof.Machine
end

