-- ==== Sys2Proof/Machine/Access.lean ====
section
/-! DEFINITION. Accesses of firings to the tile's SRAM and units (R184, R287, R288): how they are described, checked and
made; the bytes of SRAM and the errors of R248. -/

namespace Sys2Proof.Machine

/-- An access of a firing (R287, R288): its group, the block index, space, place, location, kind, lane and address. -/
def accessBy (s : State) (f : Firing) (group index : Nat) (space : Space) (place loc : Nat) (kind : AccKind) (lane va : Nat) :
    Access :=
  { id := s.tick, group, space, place, loc, kind, party := partyOf s f, lane, va, gva := va, index,
    hb := firingHb f }

/-- A new access group. -/
def newGroup (s : State) : State × Nat := ({ s with nextId := s.nextId + 1 }, s.nextId)

/-- The granules that `n` bytes from `a` touch (R287). -/
def granules (a n : Nat) : List Nat := if n == 0 then [] else (upTo ((a + n - 1) / 4 - a / 4 + 1)).map (· + a / 4)

/-- The accesses of a firing to a range of its tile's SRAM. -/
def sramBy (s : State) (f : Firing) (group index : Nat) (kind : AccKind) (o n lane : Nat) : List Access :=
  (granules o n).map fun g => accessBy s f group index .sram (fTile f) g kind lane (4 * g)

/-- The access of a firing to a unit location of its tile (R184, R296). -/
def unitBy (s : State) (f : Firing) (group : Nat) (kind : AccKind) (loc : Nat) : Access :=
  accessBy s f group 0 .unit (fTile f) loc kind 0 0

/-- The OP of the add class (R288). -/
def addClass : AccKind := .cls 0

/-- LOC codes of R296. -/
def locAcc (k : Nat) : Nat := k
/-- The head of FIFO A. -/
def locFifoA : Nat := 4
/-- The head of FIFO B. -/
def locFifoB : Nat := 5
/-- A LUT table, by unit and table. -/
def locLut (unit table : Nat) : Nat := 0x10 + 4 * unit + table
/-- An exact accumulator register. -/
def locXacc (k : Nat) : Nat := 0x20 + k
/-- A courier decode slot. -/
def locSlot (k : Nat) : Nat := 0x80 + k

/-- Accesses made at once by a firing: a race, or what the body answers in the state that records them. -/
def withAccesses (s : State) (slot : Nat) (xs : List Access) (k : State → Res) : Res :=
  match checkAccesses s slot xs with
  | .error p => .race p.1 p.2
  | .ok s1 => k s1

/-- The tile of a firing changed. -/
def modFTile (s : State) (f : Firing) (g : Tile → Tile) : State :=
  modLaunch s f.slot fun l => modTile l (fTile f) g

/-- Whether a range of SRAM touches a word with an uncorrectable error (R248). -/
def badRange (t : Tile) (o n : Nat) : Bool := t.bad.any fun w => decide (8 * w < o + n) && decide (o < 8 * w + 8)

/-- Whether a write covers a bad 64-bit word only in part (R248), so that it must read it. -/
def badPartial (t : Tile) (o n : Nat) : Bool :=
  t.bad.any fun w => decide (8 * w < o + n) && decide (o < 8 * w + 8) && !(decide (o ≤ 8 * w) && decide (8 * w + 8 ≤ o + n))

/-- The lowest 4-byte part of a write that lies in a bad 64-bit word it covers only in part (R238, R248). -/
def badPart (t : Tile) (o n : Nat) : Nat :=
  ((upTo ((n + 3) / 4)).find? fun k => badPartial t o n && t.bad.any fun w =>
    decide (8 * w < o + 4 * k + 4) && decide (o + 4 * k < 8 * w + 8) && !(decide (o ≤ 8 * w) && decide (8 * w + 8 ≤ o + n))).getD 0

/-- Bytes written into a tile's SRAM: a word written whole is good again (R248). -/
def writeSram (t : Tile) (o : Nat) (bs : List Byte) : Tile :=
  { t with
    sram := writeBytes t.sram o bs
    bad := t.bad.filter fun w => !(decide (o ≤ 8 * w) && decide (8 * w + 8 ≤ o + bs.length)) }

/-- The place of a unit's register in a tile. -/
def xaccOf (t : Tile) (k : Nat) : Xacc := t.xacc.getD k emptyXacc

/-- An addition made to a register. -/
def addToXacc (t : Tile) (k : Nat) (x : Xacc) : Xacc :=
  let v := xaccOf t k
  { v := v.v + x.v, nan := v.nan || x.nan, pinf := v.pinf || x.pinf, ninf := v.ninf || x.ninf }

/-- A tile with a register set. -/
def setXacc (t : Tile) (k : Nat) (x : Xacc) : Tile := { t with xacc := t.xacc.set k x }

/-- A system value of R175 and whether it is 64 bits wide: the tile's frontier, the frame's names and flags, the firing's tag,
the lane count, tile, fold and cycles. -/
def sysValue (s : State) (l : Launch) (fr : Frame) (vtile tag lanes sel : Nat) : Nat × Bool :=
  match sel with
  | 0 => (match (tileOf l vtile).frontier with | some k => k.postmark.toNat | none => 0, true)
  | 1 => (fr.fid.toNat, true)
  | 2 => (tag, true)
  | 3 => (fr.postmark.toNat, true)
  | 4 => (fr.flags.toNat, false)
  | 5 => (lanes, false)
  | 6 => (vtile, false)
  | 7 => (l.fold, false)
  | _ => ((Config.cycles s.tick).toNat, true)

/-- Lane `k` of a system value (R175). -/
def sysLane (v : Nat × Bool) (k : Nat) : Lane :=
  BitVec.ofNat 32 (if v.2 && k % 2 == 1 then v.1 >>> 32 else v.1)

end Sys2Proof.Machine
end

