-- ==== Sys2Proof/Machine/Exact.lean ====
section
/-! DEFINITION. The exact accumulator (R63, R64): a term, a product of two terms, additions of registers, and the one
rounding of a read. -/

namespace Sys2Proof.Machine

/-- A register that holds nothing (R63, R144). -/
def xaccZero : Xacc := { v := 0, nan := false, pinf := false, ninf := false }

/-- Two registers added: V modulo 2^4352, which R63 says is never left, and the sticky bits ORed. -/
def xaccAdd (a b : Xacc) : Xacc :=
  { v := a.v + b.v, nan := a.nan || b.nan, pinf := a.pinf || b.pinf, ninf := a.ninf || b.ninf }

/-- A value as an addition to a register (R63). -/
def xaccTerm (v : Val) : Xacc × Flags :=
  match v with
  | .nan s => ({ xaccZero with nan := true }, if s then flNV else 0)
  | .inf s => (if s then { xaccZero with ninf := true } else { xaccZero with pinf := true }, 0)
  | .zero _ => (xaccZero, 0)
  | .fin s m e =>
    let x := BitVec.ofNat 4352 (m <<< (e + 2176).toNat)
    ({ xaccZero with v := if s then -x else x }, 0)

/-- The exact product of two values as an addition to a register (R63). -/
def xaccProduct (a b : Val) : Xacc × Flags :=
  if isNaN a || isNaN b then ({ xaccZero with nan := true }, snanFlag [a, b])
  else if zeroTimesInf a b then ({ xaccZero with nan := true }, flNV)
  else xaccTerm (mulVal a b)

/-- The included elements of one or two operands as terms (R174, R201): their sum, and the flags by element. -/
def xaccTerms (t : Ty) (a b : List Lane) (prod : Bool) (incl : Nat → Bool) : Xacc × Raised :=
  let f := fmtOrF32 t
  let xs := elems t a
  let ys := elems t b
  let es := (upTo xs.length).filter fun e => incl (laneOf t e)
  let ts := es.map fun e =>
    let x := decodeVal f (xs.getD e 0)
    if prod then xaccProduct x (decodeVal f (ys.getD e 0)) else xaccTerm x
  (ts.foldl (fun acc t => xaccAdd acc t.1) xaccZero, es.zip (ts.map (·.2)))

/-- One rounding of a register (R64). -/
def xaccRead (x : Xacc) (t : Ty) (rnd : Rnd) (r : Nat) : Nat × Flags :=
  let f := fmtOrF32 t
  if x.nan then nanOut f
  else if x.pinf && x.ninf then (fmtNaN f, flNV)
  else if x.pinf then infOut f false
  else if x.ninf then infOut f true
  else if x.v == 0 then zeroOut f false
  else roundDyadic f x.v.toInt (-2176) rnd false r

end Sys2Proof.Machine
end

