-- ==== Sys2Proof/Machine/Shared.lean ====
section
/-! DEFINITION. The shared functions (R153 to R169) in both forms: the operands a node or a block instruction gives a
function, and what becomes of its result; then one meaning for each of the functions. -/

namespace Sys2Proof.Machine

/-! ### Node form -/

/-- Whether a firing of a shared function meets a 64-bit type, its own or CVT's source, on an odd lane count (R14, R154,
R165). -/
def oddLanes (opc : Nat) (t : Ty) (modx n : Nat) : Bool :=
  n % 2 == 1 && (wide t || (opc == 0x50 && match tyOfCode (low 4 modx) with | some s => wide s | none => false))

/-- A literal as the operand it stands for, `n` lanes (R69, R70, R167). -/
def literalLanes (opc : Nat) (t : Ty) (n : Nat) (lit : BitVec 32) : List Lane :=
  match (shInfo opc).lit with
  | .value => litLanes t n lit.toNat
  | .control | .fieldSpec | .classMask | .f32Bits => List.replicate n lit

/-- The operands of a shared function in a node (R153): b from port b or LIT, c and the shift from LIT. -/
def nodeArgs (opc : Nat) (c : Ctx) : ShArgs :=
  let n := laneCount c
  let lit := literalLanes opc c.r.type n c.r.lit
  let b := match (shInfo opc).cls, c.r.arity with
    | .const, _ | _, .lit => lit
    | _, _ => bLanes c
  { type := c.r.type, rnd := c.r.rnd, modx := c.r.modx.toNat, sh := low 6 c.r.lit.toNat, n := n, a := c.f.a.lanes, b := b,
    c := lit, incl := List.replicate n true, prev := [],
    seed := rsrSeed c.fr.fid c.f.a.tag (fNode c.f) 0 }

/-- A shared function as a node: R14, ARITH (R58), then the result to both destinations. -/
def sharedNode (opc : Nat) (fn : ShArgs → ShOut) (s : State) (c : Ctx) : Res :=
  if oddLanes opc c.r.type c.r.modx.toNat (laneCount c) then .trap (mkTrap 0x04 1)
  else
    let o := fn (nodeArgs opc c)
    match arithTrap c.l c.r.type o.raised with
    | some t => .trap t
    | none => doneWith s (outBoth c o.lanes false false []) (allFlags o.raised)

/-! ### Block form (R142, R143, R156, R178) -/

/-- What a block instruction sees: its launch, tile, context, operands pa and pb, width, the SEQ firing's frame. -/
structure BCtx where
  l : Launch
  slot : Nat
  vtile : Nat
  k : BlockCtx
  b : BlockRec
  fr : Frame
  pa : List Lane
  pb : List Lane
  n : Nat
  incl : List Bool
  deriving DecidableEq, Repr

/-- What a block instruction comes to: a trap, a race of LDTB, or its context changed. -/
inductive BRes where
  | trap (t : Trap)
  | race (e x : Access)
  | next (s : State) (k : BlockCtx)
  deriving DecidableEq, Repr

/-- Register wR of a context. -/
def wreg (k : BlockCtx) (r : BitVec 3) : List Lane := k.w.getD r.toNat []

/-- Register wR written in all 32 lanes, those past the width with zero (R153). -/
def setReg (k : BlockCtx) (r : BitVec 3) (ls : List Lane) : BlockCtx := { k with w := k.w.set r.toNat (fitLanes 32 ls) }

/-- Register wD written in its included lanes below the width, keeping the others, zero past the width (R153, R156). -/
def setIncluded (c : BCtx) (r : BitVec 3) (f : Nat → Lane) : BlockCtx :=
  setReg c.k r ((upTo c.n).map fun i => if c.incl.getD i true then f i else laneAt (wreg c.k r) i)

/-- The context of a tile by its number. -/
def findCtx (l : Launch) (vtile ctx : Nat) : Option BlockCtx := (tileOf l vtile).ctxs.find? fun k => k.idx == ctx

/-- A context changed in place. -/
def putCtx (s : State) (slot vtile : Nat) (k : BlockCtx) : State :=
  modLaunch s slot fun l => modTile l vtile fun t =>
    { t with ctxs := t.ctxs.map fun x => if x.idx == k.idx then k else x }

/-- A context freed (R142, R177, R178). -/
def dropCtx (s : State) (slot vtile ctx : Nat) : State :=
  modLaunch s slot fun l => modTile l vtile fun t => { t with ctxs := t.ctxs.filter fun x => x.idx != ctx }

/-- The words of a SEQ firing's block (R88, R129). -/
def blockWords (l : Launch) (f : Firing) : List Nat :=
  match nodeWord l (fNode f) with
  | none => []
  | some w =>
    match l.man.blocks.find? fun b => b.1 == fTile f && b.2.1 == low 8 w with
    | some b => b.2.2
    | none => []

/-- What a block instruction sees; none where its context, launch or frame is gone. -/
def bctxOf (s : State) (slot vtile ctx : Nat) (b : BlockRec) : Option BCtx :=
  match findLaunch s slot with
  | none => none
  | some l =>
    match findCtx l vtile ctx with
    | none => none
    | some k =>
      match findFrame s k.firing.a.fh with
      | none => none
      | some fr =>
        let n := k.firing.a.lanes.length
        let pb := match k.firing.b with
          | some t => t.lanes
          | none => List.replicate n 0
        let mask := (k.w.getD b.m.toNat [])
        some { l, slot, vtile, k, b, fr, pa := k.firing.a.lanes, pb, n,
               incl := (upTo n).map fun i => b.m == 0 || bit (laneAt mask i).toNat 0 }

/-- A trap of a block (R178): the context is freed, nothing is committed, and the SEQ activation traps with the
instruction's index in detail bits 20:16. -/
def trapBlock (s : State) (c : BCtx) (t : Trap) : State :=
  trapFiring (dropCtx s c.slot c.vtile c.k.idx) c.k.firing { t with detail := t.detail + c.k.pc <<< 16 }

/-- A race of a block (R297): the block is not trapped; both records are posted and the launch ends with fault status. -/
def raceBlock (s : State) (slot : Nat) (f : Firing) (e x : Access) : State :=
  postEnd s slot [companionOf e x] (recordOf s f ⟨0x09, raceDetail e x, x.lane⟩)

/-- A completed instruction: the next one is due, or the block is to commit (R177). -/
def stepBlock (s : State) (c : BCtx) (k : BlockCtx) : State :=
  let s1 := putCtx s c.slot c.vtile { k with pc := k.pc + 1 }
  if k.pc + 1 ≥ (blockWords c.l k.firing).length then pushAlone s1 (.blockCommit c.slot c.vtile k.idx) else s1

/-- A block instruction run in the context its engine issued it for (R143). -/
def runBlock (s : State) (b : BlockRec) (body : State → BCtx → BRes) : Out :=
  match s.issue with
  | .block slot vtile ctx =>
    match bctxOf s slot vtile ctx b with
    | none => .next s
    | some c =>
      match body s c with
      | .trap t => .next (trapBlock s c t)
      | .race e x => .next (raceBlock s slot c.k.firing e x)
      | .next s1 k => .next (stepBlock s1 c k)
  | .none | .node _ | .round _ _ => .fault .notIssued

/-- Operand b of a shared function in a block (R75). -/
def blockB (opc : Nat) (c : BCtx) : List Lane :=
  match c.b.bsel with
  | .reg => wreg c.k c.b.b
  | .imm => literalLanes (if opc == 0x1A || opc == 0x62 then 0x1D else opc) c.b.type c.n c.b.imm
  | .operand => if bit c.b.b.toNat 0 then c.pb else c.pa

/-- The operands of a shared function in a block (R153, R156). -/
def blockArgs (opc : Nat) (c : BCtx) : ShArgs :=
  { type := c.b.type, rnd := c.b.rnd, modx := low 5 c.b.imm.toNat, sh := low 6 c.b.imm.toNat, n := c.n,
    a := fitLanes c.n (wreg c.k c.b.a), b := fitLanes c.n (blockB opc c), c := fitLanes c.n (wreg c.k c.b.c),
    incl := c.incl, prev := wreg c.k c.b.d,
    seed := rsrSeed c.fr.fid c.k.firing.a.tag (fNode c.k.firing) c.k.pc }

/-- A shared function as a block instruction: R154, ARITH at the instruction (R58), then wD written and flags kept. -/
def sharedBlock (opc : Nat) (fn : ShArgs → ShOut) (s : State) (c : BCtx) : BRes :=
  if oddLanes opc c.b.type (low 5 c.b.imm.toNat) c.n then .trap (mkTrap 0x04 1)
  else
    let o := fn (blockArgs opc c)
    match arithTrap c.l c.b.type o.raised with
    | some t => .trap t
    | none => .next s { setReg c.k c.b.d o.lanes with flags := c.k.flags ||| allFlags o.raised }

/-- A shared function in either form (R78). -/
def runShared (opc : Nat) (fn : ShArgs → ShOut) (w : Shared) (s : State) : Out :=
  match w with
  | .node r => runPlain s r plain (sharedNode opc fn)
  | .block b => runBlock s b (sharedBlock opc fn)

/-! ### The functions -/

/-- ADD (R160). -/
def execAdd (w : Shared) (s : State) : Out := runShared 0x00 fnAdd w s

/-- SUB (R160). -/
def execSub (w : Shared) (s : State) : Out := runShared 0x01 fnSub w s

/-- ADDS (R160). -/
def execAdds (w : Shared) (s : State) : Out := runShared 0x02 fnAdds w s

/-- SUBS (R160). -/
def execSubs (w : Shared) (s : State) : Out := runShared 0x03 fnSubs w s

/-- MUL (R160). -/
def execMul (w : Shared) (s : State) : Out := runShared 0x04 fnMul w s

/-- MULH (R160). -/
def execMulh (w : Shared) (s : State) : Out := runShared 0x05 fnMulh w s

/-- DIV (R55). -/
def execDiv (w : Shared) (s : State) : Out := runShared 0x06 fnDiv w s

/-- REM (R55). -/
def execRem (w : Shared) (s : State) : Out := runShared 0x07 fnRem w s

/-- MIN (R160). -/
def execMin (w : Shared) (s : State) : Out := runShared 0x08 fnMin w s

/-- MAX (R160). -/
def execMax (w : Shared) (s : State) : Out := runShared 0x09 fnMax w s

/-- ABS (R160). -/
def execAbs (w : Shared) (s : State) : Out := runShared 0x0A fnAbs w s

/-- NEG (R160). -/
def execNeg (w : Shared) (s : State) : Out := runShared 0x0B fnNeg w s

/-- AND (R160). -/
def execAnd (w : Shared) (s : State) : Out := runShared 0x0C fnAnd w s

/-- OR (R160). -/
def execOr (w : Shared) (s : State) : Out := runShared 0x0D fnOr w s

/-- XOR (R160). -/
def execXor (w : Shared) (s : State) : Out := runShared 0x0E fnXor w s

/-- ANDN (R160). -/
def execAndn (w : Shared) (s : State) : Out := runShared 0x0F fnAndn w s

/-- NOT (R160). -/
def execNot (w : Shared) (s : State) : Out := runShared 0x10 fnNot w s

/-- SHL (R161). -/
def execShl (w : Shared) (s : State) : Out := runShared 0x11 fnShl w s

/-- SHR (R161). -/
def execShr (w : Shared) (s : State) : Out := runShared 0x12 fnShr w s

/-- SAR (R161). -/
def execSar (w : Shared) (s : State) : Out := runShared 0x13 fnSar w s

/-- ROL (R161). -/
def execRol (w : Shared) (s : State) : Out := runShared 0x14 fnRol w s

/-- CLZ (R160). -/
def execClz (w : Shared) (s : State) : Out := runShared 0x15 fnClz w s

/-- CTZ (R160). -/
def execCtz (w : Shared) (s : State) : Out := runShared 0x16 fnCtz w s

/-- POPC (R160). -/
def execPopc (w : Shared) (s : State) : Out := runShared 0x17 fnPopc w s

/-- BREV (R160). -/
def execBrev (w : Shared) (s : State) : Out := runShared 0x18 fnBrev w s

/-- BFX (R161). -/
def execBfx (w : Shared) (s : State) : Out := runShared 0x19 fnBfx w s

/-- BFI (R161). -/
def execBfi (w : Shared) (s : State) : Out := runShared 0x1A fnBfi w s

/-- MAD (R160). -/
def execMad (w : Shared) (s : State) : Out := runShared 0x1B fnMad w s

/-- IDX (R160). -/
def execIdx (w : Shared) (s : State) : Out := runShared 0x1C fnIdx w s

/-- SEL (R160). -/
def execSel (w : Shared) (s : State) : Out := runShared 0x1D fnSel w s

/-- MOV (R160). -/
def execMov (w : Shared) (s : State) : Out := runShared 0x1E fnMov w s

/-- CONST (R160). -/
def execConst (w : Shared) (s : State) : Out := runShared 0x1F fnConst w s

/-- CEQ (R162). -/
def execCeq (w : Shared) (s : State) : Out := runShared 0x20 fnCeq w s

/-- CNE (R162). -/
def execCne (w : Shared) (s : State) : Out := runShared 0x21 fnCne w s

/-- CLT (R162). -/
def execClt (w : Shared) (s : State) : Out := runShared 0x22 fnClt w s

/-- CLE (R162). -/
def execCle (w : Shared) (s : State) : Out := runShared 0x23 fnCle w s

/-- CGT (R162). -/
def execCgt (w : Shared) (s : State) : Out := runShared 0x24 fnCgt w s

/-- CGE (R162). -/
def execCge (w : Shared) (s : State) : Out := runShared 0x25 fnCge w s

/-- CUN (R162). -/
def execCun (w : Shared) (s : State) : Out := runShared 0x26 fnCun w s

/-- CLASS (R162). -/
def execClassify (w : Shared) (s : State) : Out := runShared 0x27 fnClass w s

/-- TEST (R162). -/
def execTest (w : Shared) (s : State) : Out := runShared 0x28 fnTest w s

/-- FADD (R163). -/
def execFadd (w : Shared) (s : State) : Out := runShared 0x30 fnFadd w s

/-- FSUB (R163). -/
def execFsub (w : Shared) (s : State) : Out := runShared 0x31 fnFsub w s

/-- FMUL (R163). -/
def execFmul (w : Shared) (s : State) : Out := runShared 0x32 fnFmul w s

/-- FMA (R163). -/
def execFma (w : Shared) (s : State) : Out := runShared 0x33 fnFma w s

/-- FMS (R163). -/
def execFms (w : Shared) (s : State) : Out := runShared 0x34 fnFms w s

/-- FNMA (R163). -/
def execFnma (w : Shared) (s : State) : Out := runShared 0x35 fnFnma w s

/-- FDIV (R163). -/
def execFdiv (w : Shared) (s : State) : Out := runShared 0x36 fnFdiv w s

/-- FSQRT (R163). -/
def execFsqrt (w : Shared) (s : State) : Out := runShared 0x37 fnFsqrt w s

/-- FMIN (R46). -/
def execFmin (w : Shared) (s : State) : Out := runShared 0x38 fnFmin w s

/-- FMAX (R46). -/
def execFmax (w : Shared) (s : State) : Out := runShared 0x39 fnFmax w s

/-- FABS (R163). -/
def execFabs (w : Shared) (s : State) : Out := runShared 0x3A fnFabs w s

/-- FNEG (R163). -/
def execFneg (w : Shared) (s : State) : Out := runShared 0x3B fnFneg w s

/-- FCPYS (R163). -/
def execFcpys (w : Shared) (s : State) : Out := runShared 0x3C fnFcpys w s

/-- FRINT (R164). -/
def execFrint (w : Shared) (s : State) : Out := runShared 0x3D fnFrint w s

/-- FSCALE (R163). -/
def execFscale (w : Shared) (s : State) : Out := runShared 0x3E fnFscale w s

/-- FEXPO (R163). -/
def execFexpo (w : Shared) (s : State) : Out := runShared 0x3F fnFexpo w s

/-- FMANT (R163). -/
def execFmant (w : Shared) (s : State) : Out := runShared 0x40 fnFmant w s

/-- FRAC (R163). -/
def execFrac (w : Shared) (s : State) : Out := runShared 0x41 fnFrac w s

/-- CVT (R165). -/
def execCvt (w : Shared) (s : State) : Out := runShared 0x50 fnCvt w s

/-- CVTS (R166). -/
def execCvts (w : Shared) (s : State) : Out := runShared 0x51 fnCvts w s

/-- PKBF (R167). -/
def execPkbf (w : Shared) (s : State) : Out := runShared 0x52 fnPkbf w s

/-- BCAST (R168). -/
def execBcast (w : Shared) (s : State) : Out := runShared 0x60 fnBcast w s

/-- LGET (R168). -/
def execLget (w : Shared) (s : State) : Out := runShared 0x61 fnLget w s

/-- LSET (R168). -/
def execLset (w : Shared) (s : State) : Out := runShared 0x62 fnLset w s

/-- SHUF (R168). -/
def execShuf (w : Shared) (s : State) : Out := runShared 0x63 fnShuf w s

/-- ROT (R168). -/
def execRot (w : Shared) (s : State) : Out := runShared 0x64 fnRot w s

/-- LSUM (R60). -/
def execLsum (w : Shared) (s : State) : Out := runShared 0x65 fnLsum w s

/-- LMIN (R169). -/
def execLmin (w : Shared) (s : State) : Out := runShared 0x66 fnLmin w s

/-- LMAX (R169). -/
def execLmax (w : Shared) (s : State) : Out := runShared 0x67 fnLmax w s

/-- SCAN (R61). -/
def execScan (w : Shared) (s : State) : Out := runShared 0x68 fnScan w s

/-- COMPACT (R168). -/
def execCompact (w : Shared) (s : State) : Out := runShared 0x69 fnCompact w s

end Sys2Proof.Machine
end

