-- ==== Sys2Proof/Machine/Block.lean ====
section
/-! DEFINITION. The block-only instructions (R170 to R176) and the commit of a block (R177, R178). -/

namespace Sys2Proof.Machine

/-- GET (R171). -/
def execGet (b : BlockRec) (s : State) : Out :=
  runBlock s b fun s c =>
    let param := match nodeWord c.l (fNode c.k.firing) with
      | some w => field w 8 24
      | none => 0
    .next s (setIncluded c c.b.d fun i =>
      match low 2 c.b.imm.toNat with
      | 0 => laneAt c.pa i
      | 1 => laneAt c.pb i
      | 2 => BitVec.ofNat 32 param
      | _ => BitVec.ofNat 32 i)

/-- A prepared token (R172). -/
def prepare (c : BCtx) : BlockCtx :=
  { c.k with emits := c.k.emits ++ [(low 2 c.b.imm.toNat, fitLanes c.n (wreg c.k c.b.a))] }

/-- EMIT (R172). -/
def execEmit (b : BlockRec) (s : State) : Out := runBlock s b fun s c => .next s (prepare c)

/-- EMITC (R172). -/
def execEmitc (b : BlockRec) (s : State) : Out :=
  runBlock s b fun s c => .next s (if bit (laneAt (wreg c.k c.b.b) 0).toNat 0 then prepare c else c.k)

/-- Whether a lane takes part in LDTB or STTB: a 64-bit pair goes by its lower lane (R156, R173). -/
def wordIncluded (c : BCtx) (k : Nat) : Bool := c.incl.getD (if wide c.b.type then k - k % 2 else k) true

/-- The SRAM offset of LDTB and STTB, or its trap, in the order of R173; a speculative task may make neither (R179). No rule orders
SPEC_ILLEGAL and these traps, nor says which lane the PERMISSION trap of a range names: the first comes before the others, and the lane
is 0, at which the range is tested (DESIGN CHOICE, log entry 48). -/
def blockOffset (s : State) (c : BCtx) (reg : BitVec 3) : Except Trap Nat :=
  let o := low 32 ((laneAt (wreg c.k reg) 0).toNat + c.b.imm.toNat)
  if speculative s c.k.firing.a.fh then .error (mkTrap 0x0B 0)
  else if o % (if wide c.b.type then 8 else 4) != 0 then .error (mkTrap 0x0E 0)
  else if o + 4 * c.n > sramLimit c.l.man then .error (mkTrap 0x08 0)
  else if wide c.b.type && c.n % 2 == 1 then .error (mkTrap 0x04 1)
  else .ok o

/-- The lane an earlier STTB of the block holds for an offset (R173): the latest one. -/
def heldLane (k : BlockCtx) (o : Nat) : Option Lane :=
  k.stores.foldl (fun acc st => if st.offset ≤ o && (o - st.offset) % 4 == 0 then
    match st.lanes[(o - st.offset) / 4]? with
    | some (some v) => some v
    | _ => acc
    else acc) none

/-- LDTB (R173). -/
def execLdtb (b : BlockRec) (s : State) : Out :=
  runBlock s b fun s c =>
    match blockOffset s c c.b.a with
    | .error t => .trap t
    | .ok o =>
      let t := tileOf c.l c.vtile
      let ks := (upTo c.n).filter fun k => wordIncluded c k
      let xs := ks.flatMap fun k => sramBy s c.k.firing c.k.group c.k.pc .read (o + 4 * k) 4 k
      match ks.find? fun k => (heldLane c.k (o + 4 * k)).isNone && badRange t (o + 4 * k) 4 with
      | some k => .trap ⟨0x06, 0, k⟩
      | none =>
        match checkAccesses s c.slot xs with
        | .error p => .race p.1 p.2
        | .ok s1 =>
          .next s1 (setReg c.k c.b.d ((upTo c.n).map fun k =>
            if wordIncluded c k then
              match heldLane c.k (o + 4 * k) with
              | some v => v
              | none => BitVec.ofNat 32 (readNat t.sram (o + 4 * k) 4)
            else laneAt (wreg c.k c.b.d) k))

/-- STTB (R173): the write is held until commit. -/
def execSttb (b : BlockRec) (s : State) : Out :=
  runBlock s b fun s c =>
    match blockOffset s c c.b.b with
    | .error t => .trap t
    | .ok o =>
      let lanes := (upTo c.n).map fun k => if wordIncluded c k then some (laneAt (wreg c.k c.b.a) k) else none
      .next s { c.k with stores := c.k.stores ++ [⟨c.k.pc, o, wide c.b.type, lanes⟩] }

/-- XADD (R174): the terms are added at commit; NV may trap ARITH here. -/
def execXadd (b : BlockRec) (s : State) : Out :=
  runBlock s b fun s c =>
    if speculative s c.k.firing.a.fh then .trap (mkTrap 0x0B 1)
    else if wide c.b.type && c.n % 2 == 1 then .trap (mkTrap 0x04 1)
    else
      let x := xaccTerms c.b.type (fitLanes c.n (wreg c.k c.b.a)) (fitLanes c.n (wreg c.k c.b.b)) (bit c.b.imm.toNat 0)
        fun k => c.incl.getD k true
      match arithTrap c.l c.b.type x.2 with
      | some t => .trap t
      | none =>
        .next s { c.k with adds := c.k.adds ++ [(c.k.pc, low 2 c.b.d.toNat, x.1)], flags := c.k.flags ||| allFlags x.2 }

/-- RDSYSB (R175). FLAGS is what the frame's FLAGS hold as the instruction runs, whichever other firings have merged by then: R175 does
not say when it is read (DESIGN CHOICE, log entry 48). -/
def execRdsysb (b : BlockRec) (s : State) : Out :=
  runBlock s b fun s c =>
    let v := sysValue s c.l c.fr c.vtile c.k.firing.a.tag.toNat c.n (low 8 c.b.imm.toNat)
    .next s (setIncluded c c.b.d (sysLane v))

/-- LMASK (R176). -/
def execLmask (b : BlockRec) (s : State) : Out :=
  runBlock s b fun s c =>
    let first := low 5 c.b.imm.toNat
    let count := field c.b.imm.toNat 8 6
    .next s (setReg c.k c.b.d ((upTo c.n).map fun k => if first ≤ k && k < first + count then 1 else 0))

/-! ### Commit (R177, R178) -/

/-- The node record a firing's node holds. -/
def recOf (l : Launch) (f : Firing) : Option NodeRec :=
  match nodeWord l (fNode f) with
  | none => none
  | some w => (parseNode w).map (·.2)

/-- The tokens a block prepared, under the SEQ node's tag rule (R172, R178), carrying its accesses (R291). -/
def blockOut (c : Ctx) (k : BlockCtx) : Except Trap (List Emission) :=
  k.emits.foldl (fun acc e => outAppend acc
    (outPorts c ((if bit e.1 0 then [0] else []) ++ (if bit e.1 1 then [1] else [])) e.2 c.r.tagop false false [k.group]))
    (.ok [])

/-- The units that a held STTB writes (R173): the first lane, the offset and the bytes of each. -/
def storeUnits (st : BlockStore) : List (Nat × Nat × List Byte) :=
  let n := if st.wide then 2 else 1
  (upTo (st.lanes.length / n)).filterMap fun u =>
    let ls := ((st.lanes.drop (n * u)).take n).filterMap id
    if ls.length == n then some (n * u, st.offset + 4 * n * u, laneBytes ls) else none

/-- The accesses of a commit: STTB writes and XADD additions (R287, R288). -/
def commitAccesses (s : State) (k : BlockCtx) : List Access :=
  (k.stores.flatMap fun st => (storeUnits st).flatMap fun u =>
    sramBy s k.firing k.group st.index .write u.2.1 u.2.2.length u.1) ++
  k.adds.map fun a => { unitBy s k.firing k.group addClass (locXacc a.2.1) with index := a.1 }

/-- The STTB writes of a commit, in instruction order (R177). -/
def commitStores (t : Tile) (k : BlockCtx) : Tile :=
  k.stores.foldl (fun t st => (storeUnits st).foldl (fun t u => writeSram t u.2.1 u.2.2) t) t

/-- The XADD additions of a commit (R177). -/
def commitAdds (t : Tile) (k : BlockCtx) : Tile :=
  k.adds.foldl (fun t a => setXacc t a.2.1 (addToXacc t a.2.1 a.2.2)) t

/-- A failure at the block's end (R178): the last instruction's index above the code's detail. -/
def trapCommit (s : State) (c : Ctx) (vtile : Nat) (k : BlockCtx) (t : Trap) : State :=
  trapFiring (dropCtx s c.f.slot vtile k.idx) c.f { t with detail := t.detail + (k.pc - 1) <<< 16 }

/-- The first held write of less than a bad word (R248): its instruction's index and its lane (R178). Each unit is judged by itself, on the
tile as it stands before the commit; no rule says whether writes of one block together cover a word (DESIGN CHOICE, log entry 48). -/
def commitBad (t : Tile) (k : BlockCtx) : Option (Nat × Nat) :=
  k.stores.findSome? fun st => ((storeUnits st).find? fun u => badPartial t u.2.1 u.2.2.length).map fun u => (st.index, u.1)

/-- A block's commit, made in one step (R177), for a context found at the end of its block. -/
def commitBlock (s : State) (c : Ctx) (vtile : Nat) (k : BlockCtx) : State :=
  match blockOut c k with
  | .error t => trapCommit s c vtile k t
  | .ok es =>
    match rateTrap c es 0 with
    | some t => trapCommit s c vtile k t
    | none =>
      match commitBad (tileOf c.l vtile) k with
      | some u => trapFiring (dropCtx s c.f.slot vtile k.idx) c.f ⟨0x06, 1 + u.1 <<< 16, u.2⟩
      | none =>
        match checkAccesses s c.f.slot (commitAccesses s k) with
        | .error p => raceBlock s c.f.slot c.f p.1 p.2
        | .ok s1 =>
          let s2 := modLaunch (dropCtx s1 c.f.slot vtile k.idx) c.f.slot fun l =>
            modTile l vtile fun t => commitAdds (commitStores t k) k
          complete (rateAdvance s2 c es 0) c es k.flags

/-- BLOCK_COMMIT (R177): acts on a context whose last instruction has completed. -/
def execBlockCommit (slot vtile ctx : Nat) (s : State) : Out :=
  match findLaunch s slot with
  | none => .next s
  | some l =>
    match findCtx l vtile ctx with
    | none => .next s
    | some k =>
      match recOf l k.firing with
      | none => .next s
      | some r =>
        match ctxOf s k.firing r with
        | none => .next s
        | some c =>
          if k.pc < (blockWords l k.firing).length then .next s
          else .next (commitBlock s c vtile k)

end Sys2Proof.Machine
end

