-- ==== Sys2Proof/Machine/Frames.lean ====
section
/-! DEFINITION. The life of frames (R20 to R28): allocation, spill areas (R24), creation, draining, return; pigeonhole sets and
spill slots by token (R35, R133); SYNC's condition (R115); task contexts, aborts and re-spawns (R330 to R341). -/

namespace Sys2Proof.Machine

/-! ### Sets and slots -/

/-- The pigeonhole set of a token (R133). -/
def setOf (t : Token) : Nat := (low 4 t.tag.toNat + destNode t.dest + low 4 t.fh) % 16

/-- The spill slot of a waiting token (R35), with D = 2^SPILLD. -/
def slotOf (spilld : Nat) (t : Token) : Nat :=
  ((destDesk t.dest <<< spilld) + low spilld t.tag.toNat) * 32 + destNode t.dest

/-- The address of a spill slot (R35), each of 256 bytes. -/
def slotAddr (f : Frame) (t : Token) : Nat := f.spillbase.toNat <<< 8 + slotOf f.spilld t * 256

/-- A desk's spilled-token count of a set changed (R37). -/
def setCount (d : Desk) (set : Nat) (f : Nat → Nat) : Desk := { d with counts := modAt d.counts set f }

/-! ### Allocation (R20, R23) -/

/-- The `h`-th number that a rising list does not use. -/
def nthFree (used : List Nat) (h : Nat) : Nat := used.foldl (fun h u => if u ≤ h then h + 1 else h) h

/-- A free handle, which one the allocator decides (R20, log entry 6). -/
def freeHandle (s : State) : Nat :=
  let used := sortBy (fun a b => decide (a < b)) (s.frames.map (·.fh))
  nthFree used (Config.handle s.tick % (Config.handles - used.length))

/-- The bytes of a frame's spill area (R24): V × D × 8 KiB for V virtual desks of the unfolded region and D = 2^SPILLD. -/
def areaBytes (m : Manifest) (spilld : Nat) : Nat := m.depots * 128 * 2 ^ spilld * 8192

/-- What frames and spawn records hold of reserved device memory, each with its bytes (R24, R332). -/
def reservedUse (s : State) : List (Nat × Nat) :=
  (s.frames.map fun f =>
    (f.spillbase.toNat <<< 8, ((findLaunch s f.slot).map fun l => areaBytes l.man f.spilld).getD 0)) ++
    s.spawns.map fun r => (r.addr.toNat <<< 6, 256)

/-- The next address aligned to 256 bytes. -/
def align256 (a : Nat) : Nat := (a + 255) / 256 * 256

/-- Whether `n` bytes at an address lie in reserved device memory and meet nothing held there. -/
def reservedFits (s : State) (n a : Nat) : Bool :=
  decide (s.cfg.reservedBase ≤ a) && decide (a + n ≤ s.cfg.reservedBase + s.cfg.reservedBytes) &&
    (reservedUse s).all fun u => decide (a + n ≤ u.1) || decide (u.1 + u.2 ≤ a)

/-- The places in reserved device memory at which `n` bytes may be put next (R24, R332): behind what is held, or at its base. -/
def reservedPlaces (s : State) (n : Nat) : List Nat :=
  ((align256 s.cfg.reservedBase) :: (reservedUse s).map fun u => align256 (u.1 + u.2)).filter (reservedFits s n)

/-- The place that the allocator takes for `n` bytes (R21, R332, log entry 6); the base where there is none. -/
def reservedPlace (s : State) (n choice : Nat) : Nat :=
  let ps := reservedPlaces s n
  ps.getD (choice % ps.length) (align256 s.cfg.reservedBase)

/-- Whether a handle and a spill area are free for a launch (R23); root and office frames always have theirs. -/
def poolFree (s : State) (slot : Nat) : Bool :=
  decide (s.frames.length < Config.handles) &&
    decide ((s.frames.filter fun f => f.slot == slot).length < Config.spillAreas + 2) &&
    match findLaunch s slot with
    | none => true
    | some l => !(reservedPlaces s (areaBytes l.man l.man.spilld)).isEmpty

/-- A frame entered in the table, its CHILDREN 0 and every field at its value at creation (R21, R25). -/
def addFrame (s : State) (f : Frame) : State := { s with frames := s.frames ++ [f] }

/-- A new frame table entry of a launch (R21), its spill area chosen by the allocator (R24). -/
def makeFrame (s : State) (l : Launch) (fh parent : Nat) (kind : FrameKind) (fid : Dword) (ffill : Nat) (pm : Dword) : Frame :=
  { fh, fid, ffill, parent, slot := l.slot, part := l.part, state := .live, kind, flags := 0, fcode := 0, tokens := 0,
    postmark := pm, children := 0,
    spillbase := BitVec.ofNat 44 (reservedPlace s (areaBytes l.man l.man.spilld) (Config.spillArea s.tick) >>> 8),
    spilld := l.man.spilld, spawnrec := 0, vtile := 0, tcidx := 0, home := .live, opens := [], defers := 0, waits := 0,
    freed := false, replaced := false, hb := [] }

/-! ### Draining and return (R23, R114) -/

/-- A desk without the tokens of a frame: ways, park pool and ORD counters (R114, R140); spilled tokens are taken from its
set counts. -/
def clearDesk (d : Desk) (fh : Nat) (gone : List SpillSlot) : Desk :=
  let d1 := (gone.filter fun p => destDesk p.tok.dest == d.vdesk).foldl
    (fun d p => setCount d (setOf p.tok) (· - 1)) d
  { d1 with
    waiting := d1.waiting.filter fun t => t.fh != fh
    park := d1.park.filter fun t => t.fh != fh
    noticed := d1.noticed.filter fun n => n != fh
    ord := d1.ord.filter fun o => o.fh != fh
    ready := d1.ready.map fun r => if r.firing.a.fh == fh then { r with held := false } else r }

/-- The waiting, held, spilled and withdrawn tokens of a frame discarded (R114, R247, R339). -/
def discardTokens (s : State) (slot fh : Nat) : State :=
  match findLaunch s slot with
  | none => s
  | some l =>
    let gone := l.spill.filter fun p => p.fh == fh
    let n := gone.length + (l.desks.map fun d =>
      (d.waiting.filter fun t => t.fh == fh).length + (d.park.filter fun t => t.fh == fh).length).sum
    consume (setLaunch s { l with
      spill := l.spill.filter fun p => p.fh != fh
      desks := l.desks.map fun d => clearDesk d fh gone }) fh n

/-- A frame moved to DRAINING (R23): its waiting tokens are discarded, its tickets no longer hold it. -/
def drainFrame (s : State) (slot fh : Nat) : State :=
  discardTokens (modFrame s fh fun f => { f with state := .draining, home := .draining, fcode := 0, opens := [], defers := 0, waits := 0 })
    slot fh

/-- The handles of a firing's operands replaced. -/
def renameFiring (fh name : Nat) (f : Firing) : Firing :=
  if f.a.fh == fh then { f with a := { f.a with fh := name }, b := f.b.map fun t => { t with fh := name } } else f

/-- The handle of a fault record replaced, with that of its firing. -/
def renameRecord (fh name : Nat) (r : FaultRec) : FaultRec :=
  { r with fh := if r.fh == fh then name else r.fh, firing := r.firing.map (renameFiring fh name) }

/-- The handle of a released SEND replaced. -/
def renameCargo (fh name : Nat) (g : Cargo) : Cargo :=
  match g with
  | .send f lb v bs bar held hb => .send (renameFiring fh name f) lb v bs bar held hb
  | _ => g

/-- Who an access was made by, under another handle. -/
def renameParty (fh name : Nat) (p : Party) : Party :=
  { p with fh := if p.fh == fh then name else p.fh, task := if p.task == some fh then some name else p.task }

/-- Whether a request, an open ticket of one, or a held or released SEND goes on under a handle. -/
def usesHandle (fh : Nat) (l : Launch) : Bool :=
  (l.reqs.any fun q => q.firing.a.fh == fh) || (l.faults.any fun r => r.opens && r.fh == fh) ||
    (l.tiles.any fun t => t.sends.any fun h => h.firing.a.fh == fh) ||
    l.cargo.any fun p => match p.2 with
      | .send f _ _ _ _ _ _ => f.a.fh == fh
      | _ => false

/-- What outlives a handle (R23) kept apart from the frame that takes it next: requests, performed members of chains, held and
released SENDs, open tickets, bindings and recorded accesses carry a name whose low 20 bits are the handle's. -/
def renameHandle (fh name : Nat) (who : Party) (l : Launch) : Launch :=
  { l with
    reqs := l.reqs.map fun q => { q with firing := renameFiring fh name q.firing }
    performed := l.performed.map fun p => if p.fh == fh then { p with fh := name } else p
    olders := l.olders.map fun o => if o.fh == fh then { o with fh := name } else o
    tiles := l.tiles.map fun t => { t with
      sends := t.sends.map fun h => { h with firing := renameFiring fh name h.firing }
      bound := t.bound.map fun p => if p.2 == fh then (p.1, name) else p }
    cargo := l.cargo.map fun p => (p.1, renameCargo fh name p.2)
    faults := l.faults.map (renameRecord fh name)
    accesses := l.accesses.map fun a => { a with party := renameParty fh name a.party }
    gone := l.gone.map (renameParty fh name) ++ (if usesHandle fh l then [who] else []) }

/-- Who stands behind a frame's handle (R296). -/
def frameParty (s : State) (f : Frame) : Party :=
  let t := taskOf s f.fh
  { slot := f.slot, vdesk := 0, node := 0, fh := f.fh, fid := f.fid, ffill := f.ffill, tag := 0, fill := 0,
    postmark := f.postmark, round := none, task := t, key := taskKey s t }

/-- A handle returned to the pools with its spill area (R23): its parent's CHILDREN falls, unless a re-spawn has taken the
frame's place there (R340). -/
def returnHandle (s : State) (fh : Nat) : State :=
  match findFrame s fh with
  | none => s
  | some f =>
    let name := fh + (s.nextId + 1) <<< 20
    let s1 := modLaunch { s with nextId := s.nextId + 1 } f.slot (renameHandle fh name { frameParty s f with fh := name })
    let s2 := { s1 with frames := s1.frames.filter fun g => g.fh != fh }
    if f.replaced then s2 else modFrame s2 f.parent fun g => { g with children := g.children - 1 }

/-! ### SYNC (R115, R348) -/

/-- Whether a child is unfinished for its parent's SYNC (R115, R348): an ordinary child until its handle returns; a task
child of a task until it has finished; another task child until it has committed. -/
def childBusy (inTask : Bool) (c : Frame) : Bool :=
  match c.kind with
  | .task => c.state != .draining && !(inTask && standing c == .taskDone)
  | .ordinary | .root => true

/-- Whether a frame has an unfinished child, one whose re-spawn is due included. -/
def hasBusyChild (s : State) (fh : Nat) : Bool :=
  let inTask := (taskOf s fh).isSome
  (s.frames.any fun c => c.parent == fh && childBusy inTask c) || s.spawns.any fun r => r.parent == fh && r.pending

/-- The node record word's opcode of the node a token goes to. -/
def destOpcode (l : Launch) (t : Token) : Nat :=
  match nodeWord l (nodeAddr (destDesk t.dest) (destNode t.dest)) with
  | some w => field w 88 8
  | none => 0

/-- The tokens of a frame that a SYNC node holds, in ways and in spill slots (R439). -/
def syncHeld (l : Launch) (fh : Nat) : List Token :=
  let ts := l.desks.flatMap (·.waiting) ++ l.spill.map (·.tok)
  ts.filter fun t => t.fh == fh && destOpcode l t == 0x98

/-- Whether a frame's SYNC tokens may fire (R115): every token of it is held by a SYNC node and no child is unfinished. A
parked frame keeps its tokens (R241). -/
def syncDue (s : State) (l : Launch) (f : Frame) : Bool :=
  let h := syncHeld l f.fh
  !h.isEmpty && h.length == f.tokens && !parked f && f.state != .draining && !hasBusyChild s f.fh

/-! ### Task contexts (R330, R331) -/

/-- Task contexts and mailbag lines of a virtual tile under the declared fold (R145). -/
def ctxLimit (m : Manifest) : Nat := 128 / declFold m

/-- Mailbag lines of a virtual tile under the declared fold (R145). -/
def lineLimit (m : Manifest) : Nat := 512 / declFold m

/-- A context that is free (R331). -/
def emptyTask : TaskCtx := { fh := 0, phase := .free, lines := 0, sends := 0, defer := 0, unf := 0 }

/-- The lowest free task context of a tile. -/
def freeTaskCtx (m : Manifest) (t : Tile) : Option Nat :=
  (upTo (ctxLimit m)).find? fun i => (t.tasks.getD i emptyTask).phase == .free

/-- A task context set. -/
def setTaskCtx (t : Tile) (i : Nat) (c : TaskCtx) : Tile :=
  { t with tasks := ((upTo (max t.tasks.length (i + 1))).map fun k => t.tasks.getD k emptyTask).set i c }

/-- The context of a task frame changed. -/
def modTaskCtx (s : State) (f : Frame) (g : TaskCtx → TaskCtx) : State :=
  modLaunch s f.slot fun l => modTile l f.vtile fun t => { t with tasks := modAt t.tasks f.tcidx g }

/-! ### Aborts (R339 to R341) -/

/-- Whether a frame is a task's own or was created under it, looking `fuel` parents up (R328). -/
def underTask (s : State) (t : Nat) : Nat → Nat → Bool
  | 0, _ => false
  | fuel + 1, fh =>
    fh == t || match findFrame s fh with
      | none => false
      | some f => underTask s t fuel f.parent

/-- The frames an abort or a kill of a task covers (R339): its own, its descendants', every frame that belongs to them, those
that drain included. -/
def covered (s : State) (t : Nat) : List Frame := s.frames.filter fun f => underTask s t (s.frames.length + 1) f.fh

/-- The lines and held SENDs of a task freed, its context with them (R339). -/
def dropTaskCtx (s : State) (f : Frame) : State :=
  let s1 := modLaunch s f.slot fun l => modTile l f.vtile fun t =>
    { setTaskCtx t f.tcidx emptyTask with
      lines := t.lines.filter fun x => x.ctx != f.tcidx
      sends := t.sends.filter fun x => x.ctx != f.tcidx }
  modLaunch s1 f.slot fun l => { l with spec := l.spec.filter fun e => e.fh != f.fh }

/-- The tokens an open ticket or a deferred fault keeps. -/
def keptTokens (rec : FaultRec) : Nat :=
  match rec.firing with
  | some f => if rec.req.isSome || rec.deadlock then 0 else operandCount f
  | none => rec.carried.length

/-- Whether a request works for a frame, or for the task of a task frame though its own frame's handle has returned. -/
def worksFor (s : State) (f : Frame) (q : Req) : Bool :=
  q.firing.a.fh == f.fh ||
    (f.kind == .task && (findFrame s q.firing.a.fh).isNone && (partyOf s q.firing).task == some f.fh)

/-- The operands of a request that its frame's TOKENS still counts: those of one whose node has emitted, or whose access is
performed, are consumed. -/
def reqKeeps (q : Req) : Nat := if q.emitted || q.state == .performed then 0 else operandCount q.firing

/-- What is under way for a covered frame dropped: its requests, deferred faults and accesses (R339). -/
def dropWork (s : State) (slot : Nat) (f : Frame) : State :=
  match findLaunch s slot with
  | none => s
  | some l =>
    let task := taskOf s f.fh
    let spec := match task.bind (findFrame s) with
      | some t => standing t != .taskFront
      | none => false
    let reqs := l.reqs.filter (worksFor s f)
    let n := (reqs.map reqKeeps).sum +
      ((l.deferred.filter fun p => p.2.fh == f.fh).map fun p => keptTokens p.2).sum
    let mine (a : Access) : Bool := a.party.fh == f.fh || (f.kind == .task && a.party.task == some f.fh)
    consume (setLaunch s { l with
      reqs := l.reqs.filter fun q => !worksFor s f q
      deferred := l.deferred.filter fun p => p.2.fh != f.fh
      olders := l.olders.filter fun o => o.fh != f.fh
      accesses := l.accesses.filter fun a => !(mine a && a.space == .device && spec) }) f.fh n

/-- The waits of older-writer parking that end when tasks leave (R338): a request with no task left to wait for is issued
again and its frame released. -/
def endOlders (s : State) (slot : Nat) (gone : List Nat) : State :=
  match findLaunch s slot with
  | none => s
  | some l =>
    let left := l.olders.map fun o => { o with tasks := o.tasks.filter fun t => !gone.contains t }
    let free := left.filter fun o => o.tasks.isEmpty
    let s1 := setLaunch s { l with
      olders := left.filter fun o => !o.tasks.isEmpty
      reqs := l.reqs.map fun r => if free.any fun o => o.req == r.id then { r with state := .issued } else r }
    free.foldl (fun s o => pushAlone (endWait s slot o.fh) (.memoryPerform slot o.req)) s1

/-- A spawn record that is never used again (R340): one whose re-spawn was due gives up its place in CHILDREN. -/
def dropRecord (s : State) (r : SpawnRec) : State :=
  let s1 := { s with spawns := s.spawns.filter fun x => x.id != r.id }
  if r.pending then modFrame s1 r.parent fun g => { g with children := g.children - 1 } else s1

/-- Tasks discarded (R247, R339): frames drain, lines, SENDs, entries, contexts and deferred faults go, and so do the spawn
records of the descendants, which the new run spawns afresh (R340). -/
def discardTasks (s : State) (slot t : Nat) : State :=
  let fs := covered s t
  let recs := s.spawns.filter fun r => if r.pending then fs.any fun f => f.fh == r.parent else r.fh != t && fs.any fun f => f.fh == r.fh
  let s1 := fs.foldl (fun s f => dropWork s slot f) s
  let s2 := fs.foldl (fun s f => if f.kind == .task && f.state != .draining then dropTaskCtx s f else s) s1
  let s3 := fs.foldl (fun s f => drainFrame s slot f.fh) s2
  endOlders (recs.foldl dropRecord s3) slot (fs.map (·.fh))

/-- The handle that a spawn record names while its re-spawn is due: none. -/
def noHandle : Nat := 0xFFFFF

/-- An abort of a task (R339, R340): it and its descendants are discarded, its spawn record waits for its re-spawn, which will
take its place in the parent's CHILDREN. -/
def abortTask (s : State) (slot t : Nat) : State :=
  let s1 := discardTasks s slot t
  match s1.spawns.find? fun r => r.fh == t with
  | none => s1
  | some r =>
    pushAlone (modFrame
      { s1 with spawns := s1.spawns.map fun x => if x.id == r.id then { x with pending := true, fh := noHandle } else x } t
      fun f => { f with replaced := true }) (.taskRespawn slot r.id)

/-- The uncommitted task with the highest key on a tile, other than one of them (R341). -/
def youngestTask (s : State) (slot vtile except : Nat) : Option Frame :=
  leastBy (fun a b => taskLt b a) (s.frames.filter fun f =>
    f.kind == .task && f.slot == slot && f.vtile == vtile && f.fh != except &&
      (standing f == .taskSpec || standing f == .taskDone))

/-- A task frame made with its context, its spawn record's address and its first token (R113, R330, R332). -/
def startTask (s : State) (l : Launch) (vtile ctx parent : Nat) (fid : Dword) (ffill : Nat) (pm : Dword)
    (rid : Nat) (addr : BitVec 46) : State × Nat :=
  let fh := freeHandle s
  let f := makeFrame s l fh parent .task fid ffill pm
  let s1 := addFrame s { f with state := .taskSpec, home := .taskSpec, spawnrec := addr, vtile := vtile, tcidx := ctx }
  let s2 := { s1 with spawns := s1.spawns.map fun r => if r.id == rid then { r with fh := fh, pending := false } else r }
  (modLaunch s2 l.slot fun l => modTile l vtile fun t =>
    setTaskCtx t ctx { emptyTask with fh := fh, phase := .spec }, fh)

end Sys2Proof.Machine
end

