-- ==== Sys2Proof/Machine/Requests.lean ====
section
/-! DEFINITION. Memory requests as the tile memory node, the region store buffer and the home nodes treat them (R210 to
R215, R265 to R284): units, wave order, translation, the checks of R273, the speculation table, and performing. -/

namespace Sys2Proof.Machine

/-! ### Fields and units (R207, R210, R269) -/

/-- PRED of a record (R207). -/
def wavePred (r : NodeRec) : Nat := field r.lit.toNat 20 10

/-- WAVE of a record (R207). -/
def waveNum (r : NodeRec) : Nat := field r.lit.toNat 10 10

/-- SUCC of a record (R207). -/
def waveSucc (r : NodeRec) : Nat := low 10 r.lit.toNat

/-- HOST of a record (R262). -/
def hostBit (r : NodeRec) : Bool := bit r.lit.toNat 30

/-- Bytes of a unit (R210). -/
def unitSize (t : Ty) : Nat := if wide t then 8 else 4

/-- The first lane of unit `u` (R210). -/
def unitLane (t : Ty) (u : Nat) : Nat := if wide t then 2 * u else u

/-- The number of units in `n` lanes. -/
def unitsIn (t : Ty) (n : Nat) : Nat := if wide t then n / 2 else n

/-- The value of unit `u`. -/
def unitVal (t : Ty) (ls : List Lane) (u : Nat) : Nat := if wide t then lanes64 ls (2 * u) else (laneAt ls u).toNat

/-- Units as lanes. -/
def unitLanes (t : Ty) (vs : List Nat) : List Lane :=
  vs.flatMap fun v => if wide t then lanesOf64 v else [BitVec.ofNat 32 v]

/-- A row cut at page boundaries: the address and length of each piece. -/
def rowPieces (bits a n : Nat) : List (Nat × Nat) :=
  let p := 1 <<< bits
  (upTo ((a % p + n + p - 1) / p)).map fun k =>
    let lo := if k == 0 then a else (a / p + k) * p
    let hi := min (a + n) ((a / p + k + 1) * p)
    (lo, hi - lo)

/-- The new element of an atomic (R213): `m` in memory, `v` of the operand. -/
def atomNew (op : Nat) (t : Ty) (m v : Nat) : Nat :=
  let n := tyWidth t
  let pick (wantMax : Bool) : Nat :=
    if floatTy t then
      let f := fmtOrF32 t
      (fMinMax f wantMax (decodeVal f m) (decodeVal f v)).1
    else if signedTy t then
      if wantMax then (if toSigned n m < toSigned n v then v else m) else (if toSigned n v < toSigned n m then v else m)
    else if wantMax then max m v else min m v
  match op with
  | 0 => low n (m + v)
  | 1 => pick false
  | 2 => pick true
  | 3 => m &&& v
  | 4 => m ||| v
  | 5 => m ^^^ v
  | _ => v

/-- What a request writes to unit `u` where `m` stands (R211, R213, R214, R372); none where it writes nothing. -/
def reqNew (t : Ty) (q : Req) (u m : Nat) : Option Nat :=
  match q.op with
  | .read | .done | .semWait => none
  | .write => some (unitVal t q.data u)
  | .atomP op | .atomR op => some (atomNew op t m (unitVal t q.data u))
  | .cas => if m == unitVal t q.data 0 then some (unitVal t q.data 1) else none
  | .semSet => some (lanes64 q.data 0)
  | .semAdd => some (low 64 (m + lanes64 q.data 0))

/-- The kind of a request's accesses (R288). -/
def reqKind (op : ReqOp) : AccKind :=
  match op with
  | .read | .done => .read
  | .write | .atomR _ | .cas | .semSet => .write
  | .atomP op => .cls op
  | .semAdd => addClass
  | .semWait => .sync

/-- What a request's node emits when it is performed (R211 to R214, R269 to R272, R372), given the old elements. -/
def reqOut (c : Ctx) (q : Req) (olds : List Nat) (carry : List Nat) : Except Trap (List Emission) :=
  let t := c.r.type
  match q.op with
  | .read => outBoth c (unitLanes t olds) false false carry
  | .atomR _ => outBoth c (fitLanes (laneCount c) (unitLanes t olds)) false false carry
  | .write | .atomP _ | .semSet | .semAdd | .semWait => outBoth c oneZero false false carry
  | .done => outBoth c c.f.a.lanes false false carry
  | .cas =>
    let m := olds.headD 0
    let ok : Lane := if m == unitVal t q.data 0 then 1 else 0
    outAppend (outPorts c [0] (fitLanes (laneCount c) (unitLanes t [m])) c.r.tagop false false carry)
      (outPorts c [1] (fitLanes (laneCount c) (if wide t then [ok, ok] else [ok])) c.r.tagop false false carry)

/-- Whether a request's output carries its own access (R291): that of a semaphore instruction does not. -/
def carriesOwn (op : ReqOp) : Bool :=
  match op with
  | .semSet | .semAdd | .semWait => false
  | .read | .write | .atomP _ | .atomR _ | .cas | .done => true

/-- The precise traps of a firing's output, made before its access (R107, R229): the tag rule, then the rates. -/
def outputTrap (c : Ctx) (msgs : Nat) : Option Trap :=
  match outBoth c oneZero false false [] with
  | .error t => some t
  | .ok es => rateTrap c es msgs

/-! ### Wave order (R265 to R268) -/

/-- What happens before a request that its predecessors allow to issue (R265, R290); none while it waits. -/
def waveReady (l : Launch) (q : Req) : Option (List Nat) :=
  let mine := l.performed.filter fun p => p.fh == q.firing.a.fh && p.tag == q.firing.a.tag && p.fill == q.firing.a.fill
  if q.wave == 0x3FF || q.pred == 0x3FE then some []
  else
    let ps := mine.filter fun p =>
      if q.pred == 0x3FD then p.succ == q.wave || (p.succ == 0x3FD && p.wave < q.wave) else p.wave == q.pred
    if ps.isEmpty then none else some (ps.foldl (fun a p => unionNat a p.acc) [])

/-- A request changed in place. -/
def setReq (s : State) (slot : Nat) (q : Req) : State :=
  modLaunch s slot fun l => { l with reqs := l.reqs.map fun r => if r.id == q.id then q else r }

/-- A request removed. -/
def dropReq (s : State) (slot id : Nat) : State :=
  modLaunch s slot fun l => { l with reqs := l.reqs.filter fun r => r.id != id }

/-- The frame that a firing whose frame's handle has returned stood in (R23): what its launch keeps of it. It takes nothing. -/
def goneFrame (l : Launch) (p : Party) : Frame :=
  { fh := p.fh, fid := p.fid, ffill := p.ffill, parent := noHandle, slot := l.slot, part := l.part, state := .free, kind := .ordinary,
    flags := 0, fcode := 0, tokens := 0, postmark := p.postmark, children := 0, spillbase := 0, spilld := 0, spawnrec := 0,
    vtile := 0, tcidx := 0, home := .free, opens := [], defers := 0, waits := 0, freed := true, replaced := false, hb := [] }

/-- What a request's node sees of its firing; a request whose frame's handle has returned goes on (R23). -/
def reqCtx (s : State) (f : Firing) (r : NodeRec) : Option Ctx :=
  match ctxOf s f r with
  | some c => some c
  | none =>
    match findLaunch s f.slot with
    | none => none
    | some l => some { f, l, r, fr := goneFrame l (partyOf s f), shape := shapeOf l (fNode f) }

/-- The frame of the task that a firing works for (R328); none outside tasks. -/
def taskFrame (s : State) (f : Firing) : Option Frame := (partyOf s f).task.bind (findFrame s)

/-- The task frame that a firing works for speculatively (R29); none where it does not. -/
def specTask (s : State) (f : Firing) : Option Frame :=
  match taskFrame s f with
  | some t => if standing t == .taskSpec then some t else none
  | none => none

/-- A request by number. -/
def findReq (l : Launch) (id : Nat) : Option Req := l.reqs.find? fun r => r.id == id

/-- A performed request: one of no wave leaves the buffer, a chain member is announced (R268) with all that happens
before it. -/
def markPerformed (s : State) (slot : Nat) (q : Req) (hb : List Nat) : State :=
  if q.wave == 0x3FF then dropReq s slot q.id
  else pushAlone (setReq s slot { q with state := .performed, hb := hb }) (.performedNotice slot q.id)

/-- PERFORMED_NOTICE (R268): the chain's waiting requests may now issue. -/
def execPerformedNotice (slot id : Nat) (s : State) : Out :=
  match findLaunch s slot with
  | none => .next s
  | some l =>
    match findReq l id with
    | none => .next s
    | some q =>
      if q.state != .performed then .next s
      else
        .next (modLaunch s slot fun l =>
          { l with
            reqs := l.reqs.filter fun r => r.id != id
            performed := l.performed ++
              [{ fh := q.firing.a.fh, tag := q.firing.a.tag, fill := q.firing.a.fill, wave := q.wave, succ := q.succ, acc := q.hb }] })

/-- A new request of a firing (R265); `data` are the lanes it writes. -/
def newReq (s : State) (c : Ctx) (op : ReqOp) (space : Space) (addrs : List Nat) (unit : Nat) (data : List Lane)
    (waved emitted : Bool) : Req :=
  { id := s.nextId, op, firing := c.f, space, addrs, unit, data,
    pred := if waved then wavePred c.r else 0x3FF, wave := if waved then waveNum c.r else 0x3FF,
    succ := if waved then waveSucc c.r else 0x3FF, state := .buffered, emitted, hb := [] }

/-- A request accepted by a buffer (R265, R268). -/
def acceptReq (s : State) (slot : Nat) (q : Req) : State :=
  modLaunch { s with nextId := s.nextId + 1 } slot fun l => { l with reqs := l.reqs ++ [q] }

/-- The place in its chain that a member without an access takes (R272, R284): it is performed when its turn comes and emits
nothing. -/
def passChain (s : State) (f : Firing) (r : NodeRec) : State :=
  acceptReq s f.slot
    { id := s.nextId, op := .done, firing := f, space := .device, addrs := [], unit := 4, data := [], pred := wavePred r,
      wave := waveNum r, succ := waveSucc r, state := .buffered, emitted := true, hb := [] }

/-- Dead letters of a memory node (R30): emitted, no access made; a chain member's place passes. -/
def memDl (s : State) (c : Ctx) : Res :=
  doneWith (if waveNum c.r != 0x3FF then passChain s c.f c.r else s)
    (outBoth c (poisonLanes (laneCount c) (poisonOf c)) true false []) 0

/-! ### Traps of requests (R240, R284) -/

/-- The record of a request's trap: one whose node has emitted keeps its request (R246). -/
def reqRecord (s : State) (q : Req) (t : Trap) : FaultRec :=
  { recordOf s q.firing t with req := if q.emitted then some q else none }

/-- A request that traps: it leaves the buffer, its younger chain members wait (R284). -/
def trapReq (s : State) (slot : Nat) (q : Req) (t : Trap) : State := takeTrap (dropReq s slot q.id) slot [] (reqRecord s q t)

/-- A request that meets a race (R295 to R297). -/
def raceReq (s : State) (slot : Nat) (q : Req) (p : Access × Access) : State :=
  takeTrap (dropReq s slot q.id) slot [companionOf p.1 p.2] (reqRecord s q ⟨0x09, raceDetail p.1 p.2, p.2.lane⟩)

/-! ### Translation (R275 to R281) -/

/-- The port of a firing's tile. -/
def portOf (l : Launch) (f : Firing) : Port := let t := globalTile l (fTile f); ⟨t / 72, some t⟩

/-- The port of the command processor, which stands with the host interface on D0 (R295; DEDUCED, log entry 13). -/
def hostPort : Port := ⟨0, none⟩

/-- What translating a page comes to. -/
inductive Trans where
  | ok (frame : Nat) (r w : Bool)
  | trap (code detail : Nat)
  | lost (line : Nat)
  deriving DecidableEq, Repr

/-- The page of 64 KiB that a leaf maps (R277): beyond working memory, or in the reserved area, it traps. -/
def leafOk (s : State) (pa e : Nat) : Trans :=
  if pa ≥ s.cfg.memBytes then .trap 0x07 4
  else if s.cfg.reservedBase ≤ pa && pa < s.cfg.reservedBase + s.cfg.reservedBytes then .trap 0x08 7
  else .ok (pa >>> 16) (bit e 1) (bit e 2)

/-- Whether a page table entry has a reserved bit set (R276). -/
def pteReserved (e : Nat) : Bool := field e 52 12 != 0 || field e 8 7 != 0 || field e 3 3 != 0

/-- The first lost line that a read of device memory meets (R400). -/
def lostLine (s : State) (places : List Nat) (unit : Nat) : Option Nat :=
  s.lost.find? fun n => places.any fun a => decide (a < 64 * n + 64) && decide (64 * n < a + unit)

/-- A page table entry read: a lost line there is an uncorrectable error (R274). -/
def withEntry (s : State) (a : Nat) (k : Nat → Trans) : Trans :=
  match lostLine s [a] 8 with
  | some n => .lost n
  | none => k (readNat s.mem a 8)

/-- A walk of the three levels (R275 to R277). -/
def walk (s : State) (part va : Nat) : Trans :=
  let root := match s.parts[part]? with
    | some p => p.root
    | none => 0
  withEntry s (root + 8 * field va 40 12) fun e0 =>
    if !bit e0 0 then .trap 0x07 0
    else if pteReserved e0 || bit e0 7 || bit e0 6 then .trap 0x07 3
    else withEntry s (field e0 15 37 <<< 15 + 8 * field va 28 12) fun e1 =>
      if !bit e1 0 then .trap 0x07 1
      else if pteReserved e1 || bit e1 7 then .trap 0x07 3
      else if bit e1 6 then
        if field e1 15 13 != 0 then .trap 0x07 3 else leafOk s (field e1 28 24 <<< 28 + field va 16 12 <<< 16) e1
      else withEntry s (field e1 15 37 <<< 15 + 8 * field va 16 12) fun e2 =>
        if !bit e2 0 then .trap 0x07 2
        else if pteReserved e2 || !bit e2 6 || bit e2 15 then .trap 0x07 3
        else leafOk s (field e2 16 36 <<< 16) e2

/-- Whether a cache entry is that of a page (R279): tagged with the partition, and a host entry with its PASID too. -/
def sameTag (host : Bool) (part pasid vpn : Nat) (e : TlbEntry) : Bool :=
  e.host == host && e.part == part && e.pasid == pasid && e.vpn == vpn

/-- The entry of a page in one of the caches of a list. -/
def cacheFind (cache : List (Nat × TlbEntry)) (k : Nat) (host : Bool) (part pasid vpn : Nat) : Option TlbEntry :=
  (cache.find? fun x => x.1 == k && sameTag host part pasid vpn x.2).map (·.2)

/-- The cached translation of a page (R279): the tile's, else the die's. -/
def cachedPage (s : State) (at_ : Port) (host : Bool) (part pasid vpn : Nat) : Option TlbEntry :=
  match at_.tile.bind fun t => cacheFind s.tileTlb t host part pasid vpn with
  | some e => some e
  | none => cacheFind s.dieTlb at_.die host part pasid vpn

/-- An entry put in one of the caches of a list; a full one gives up an entry (R279), which the free value picks. -/
def cacheInsert (limit choice : Nat) (cache : List (Nat × TlbEntry)) (k : Nat) (e : TlbEntry) : List (Nat × TlbEntry) :=
  if (cacheFind cache k e.host e.part e.pasid e.vpn).isSome then cache
  else
    let mine := cache.filter fun x => x.1 == k
    (if mine.length ≥ limit then cache.erase (mine.getD (choice % mine.length) (k, e)) else cache) ++ [(k, e)]

/-- A translation entered in the caches of a port (R279): 16,384 entries of its die, 128 of its tile. -/
def cachePage (s : State) (at_ : Port) (e : TlbEntry) : State :=
  { s with
    dieTlb := cacheInsert 16384 (Config.evict s.tick) s.dieTlb at_.die e
    tileTlb := match at_.tile with
      | some t => cacheInsert 128 (Config.evict s.tick) s.tileTlb t e
      | none => s.tileTlb }

/-- Bits of an offset within a page: 64 KiB device pages (R275); host translations are kept by 4 KiB. PRESUMED (log entry
13). -/
def pageBits (host : Bool) : Nat := if host then 12 else 16

/-- What checking the units of a request comes to (R273): a trap at a unit, a page without a translation, a page table entry in
a lost line (R274), or the place of every unit. -/
inductive UnitCheck where
  | trap (t : Trap)
  | miss (unit vpn : Nat)
  | lost (line : Nat)
  | ok (places : List Nat)
  deriving DecidableEq, Repr

/-- What an access needs of its page (R276). -/
structure Need where
  r : Bool
  w : Bool
  deriving DecidableEq, Repr

/-- The permissions a request needs (R273, R372). -/
def needOf (op : ReqOp) : Need :=
  match op with
  | .read | .done | .semWait => ⟨true, false⟩
  | .write | .semSet | .semAdd => ⟨false, true⟩
  | .atomP _ | .atomR _ | .cas => ⟨true, true⟩

/-- The permission check (R273 step 4): detail 5 before 6. -/
def permOk (need : Need) (r w : Bool) : Option Nat :=
  if need.r && !r then some 5 else if need.w && !w then some 6 else none

/-- The PASID that tags a launch's pages: that of its host pages (R279). -/
def pasidTag (l : Launch) (host : Bool) : Nat := if host then l.rcd.pasid else 0

/-- One unit checked (R273); `direct` walks the tables where the caches hold nothing. -/
def checkUnit (s : State) (l : Launch) (at_ : Port) (host direct : Bool) (need : Need) (unit lane a u : Nat) : UnitCheck :=
  let tr (code detail : Nat) : UnitCheck := .trap ⟨code, detail, lane⟩
  let done (frame : Nat) (r w : Bool) : UnitCheck :=
    match permOk need r w with
    | some d => tr 0x08 d
    | none => .ok [frame <<< pageBits host + low (pageBits host) a]
  if a >>> 52 != 0 then tr 0x08 4
  else if a % unit != 0 then tr 0x0E 0
  else if host && !l.rcd.pasidv then tr 0x08 8
  else
    match cachedPage s at_ host l.part (pasidTag l host) (a >>> pageBits host) with
    | some e => done e.frame e.r e.w
    | none =>
      if host || !direct then .miss u (a >>> pageBits host)
      else
        match walk s l.part a with
        | .trap c d => tr c d
        | .lost n => .lost n
        | .ok fr r w => done fr r w

/-- The units of a request checked in order (R273): the first that fails or misses decides. -/
def checkUnits (s : State) (l : Launch) (at_ : Port) (host direct : Bool) (need : Need) (unit : Nat) (laneOf : Nat → Nat) :
    Nat → List Nat → UnitCheck
  | _, [] => .ok []
  | u, a :: as =>
    match checkUnit s l at_ host direct need unit (laneOf u) a u with
    | .ok p =>
      match checkUnits s l at_ host direct need unit laneOf (u + 1) as with
      | .ok ps => .ok (p ++ ps)
      | .trap t => .trap t
      | .lost n => .lost n
      | .miss v n => .miss v n
    | .trap t => .trap t
    | .lost n => .lost n
    | .miss v n => .miss v n

/-- The pages of a list of addresses walked and entered in the caches (R279). -/
def walkPages (s : State) (at_ : Port) (part : Nat) (as : List Nat) : State :=
  as.foldl (fun s a =>
    match walk s part a with
    | .ok fr r w => if a >>> 52 == 0 then cachePage s at_ ⟨false, part, 0, a >>> 16, fr, r, w⟩ else s
    | .trap _ _ | .lost _ => s) s

/-- The pages of a request that its tile misses and its die holds, entered in the tile's cache (R279). -/
def fillTile (s : State) (l : Launch) (at_ : Port) (host : Bool) (as : List Nat) : State :=
  as.foldl (fun s a =>
    match cachedPage s at_ host l.part (pasidTag l host) (a >>> pageBits host) with
    | some e => cachePage s at_ e
    | none => s) s

/-! ### Device and host memory (R274, R398, R399) -/

/-- Bytes written to device physical memory: a lost line written whole is lost no more (R400), and an image that a byte of it
belongs to leaves the manifest cache (R367). -/
def storeMem (s : State) (a : Nat) (bs : List Byte) : State :=
  { s with
    mem := writeBytes s.mem a bs
    lost := s.lost.filter fun n => !(decide (a ≤ 64 * n) && decide (64 * n + 64 ≤ a + bs.length))
    cache := s.cache.filter fun c => !(decide (a < c.addr + c.size) && decide (c.addr < a + bs.length)) }

/-- Lost lines that the pieces of one write cover whole, each an address and a number of bytes, are lost no more (R400). -/
def clearLost (s : State) (ps : List (Nat × Nat)) : State :=
  { s with lost := s.lost.filter fun n => !(upTo 64).all fun i => ps.any fun p =>
      decide (p.1 ≤ 64 * n + i) && decide (64 * n + i < p.1 + p.2) }

/-- Lines of the undo area that launches other than one hold (R399). -/
def undoOthers (s : State) (slot : Nat) : Nat :=
  ((s.launches.filter fun l => l.slot != slot && l.phase != .closed).map fun l => l.undo.length).sum

/-- Bytes written to device memory for a launch: pre-images of new lines are logged while the undo area has room (R399). -/
def writeDevice (s : State) (slot a : Nat) (bs : List Byte) : State :=
  let lines := if bs.isEmpty then [] else (upTo ((a + bs.length - 1) / 64 - a / 64 + 1)).map (· + a / 64)
  let s1 := modLaunch s slot fun l =>
    lines.foldl (fun l n =>
      if l.undoFull || l.undo.any (fun p => p.1 == n) then l
      else if (undoOthers s slot + l.undo.length + 1) * 64 > s.cfg.undoBytes then { l with undoFull := true }
      else { l with undo := l.undo ++ [(n, readBytes s.mem (64 * n) 64)] }) l
  storeMem s1 a bs

/-- The read bytes of a host page are those of the bus (R280, R281). -/
def readSpace (s : State) (host : Bool) (a n : Nat) : Nat := if host then readNat s.bus a n else readNat s.mem a n

/-- A number written to device or host memory. -/
def writeSpace (s : State) (slot : Nat) (host : Bool) (a n x : Nat) : State :=
  if host then { s with bus := writeNat s.bus a n x } else writeDevice s slot a (leBytes n x)

/-! ### The mailbag and the speculation table (R334 to R338) -/

/-- The bytes of a mask, lowest first (R335). -/
def maskBytes (m : BitVec 64) : List Nat := (upTo 64).filter fun i => bit m.toNat i

/-- One mailbag line applied to a line of 64 bytes (R336): store bytes replace, an atomic combines. -/
def applyLine (bs : List Byte) (x : Line) : List Byte :=
  let idx := maskBytes x.bmask
  if x.kind == 1 then bs.mapIdx fun i b => if bit x.bmask.toNat i then x.data.getD i 0 else b
  else
    let o := idx.headD 0
    let n := idx.length
    let new := leBytes n (atomNew x.aop x.type (leNat ((bs.drop o).take n)) (leNat (x.data.take n)))
    bs.take o ++ new ++ bs.drop (o + n)

/-- The store and atomic lines of a task on a line, in the order held (R336). -/
def heldOn (t : Tile) (ctx line : Nat) : List Line :=
  t.lines.filter fun x => x.ctx == ctx && (x.kind == 1 || x.kind == 2) && x.addr == line

/-- What a read of device memory returns to a party (R336): its task's held entries applied. -/
def readFor (s : State) (l : Launch) (task : Option Nat) (a n : Nat) : Nat :=
  match task with
  | none => readNat s.mem a n
  | some t =>
    match findFrame s t with
    | none => readNat s.mem a n
    | some f =>
      let line := a / 64
      let bs := (heldOn (tileOf l f.vtile) f.tcidx line).foldl applyLine (readBytes s.mem (64 * line) 64)
      leNat ((bs.drop (a % 64)).take n)

/-- The granule bits of `n` bytes at an address within their line (R337). -/
def granuleMask (a n : Nat) : BitVec 16 := BitVec.ofNat 16 (ones (max 1 (n / 4)) <<< (a % 64 / 4))

/-- The tasks that an access of task `t` waits for or aborts, by R338: older writers of a read, younger readers of a
write; a task in TASK_FRONT is never aborted (R347). -/
def specMeets (s : State) (l : Launch) (t : Frame) (write : Bool) (places : List Nat) (n : Nat) : List Nat :=
  (l.spec.filter fun e =>
    e.fh != t.fh && places.any (fun a => e.line == a / 64 && (if write then e.rmask else e.wmask) &&& granuleMask a n != 0) &&
      match findFrame s e.fh with
      | none => false
      | some u => if write then taskLt t u && standing u != .taskFront else taskLt u t).map (·.fh)

/-- The entries of an access set (R337, R338). -/
def specMark (l : Launch) (t : Frame) (write : Bool) (places : List Nat) (n : Nat) : Launch :=
  places.foldl (fun l a =>
    let m := granuleMask a n
    let set (e : SpecEntry) : SpecEntry := if write then { e with wmask := e.wmask ||| m } else { e with rmask := e.rmask ||| m }
    if l.spec.any fun e => e.fh == t.fh && e.line == a / 64 then
      { l with spec := l.spec.map fun e => if e.fh == t.fh && e.line == a / 64 then set e else e }
    else
      { l with spec := l.spec ++ [set { line := a / 64, fh := t.fh, vtile := t.vtile, tcidx := t.tcidx, wmask := 0, rmask := 0 }] })
    l

/-- The speculation table acts on a task's access (R338): younger readers of a write are aborted, the masks are set. -/
def specAccess (s : State) (slot : Nat) (t : Frame) (write : Bool) (places : List Nat) (n : Nat) : State :=
  match findLaunch s slot with
  | none => s
  | some l =>
    let hit := if write then dedup (specMeets s l t true places n) else []
    let s1 := hit.foldl (fun s u => match findFrame s u with
      | some f => if f.state == .draining then s else abortTask s slot u
      | none => s) s
    modLaunch s1 slot fun l => specMark l t write places n

/-! ### Performing at a home (R267, R273, R295) -/

/-- The accesses of a request at its places (R287): device granules by physical address, host granules by PASID and host
virtual address. -/
def reqAccesses (s : State) (l : Launch) (t : Ty) (q : Req) (g : Nat) (places : List Nat) : List Access :=
  (upTo places.length).flatMap fun u =>
    let va := q.addrs.getD u 0
    let host := q.space == .host
    let pa := places.getD u 0
    (granules (if host then va else pa) q.unit).map fun k =>
      let x := accessBy s q.firing g 0 q.space (if host then l.rcd.pasid else 0) k (reqKind q.op) (unitLane t u) va
      { x with hb := unionNat x.hb q.hb, gva := if host then 4 * k else va / 4 * 4 + 4 * (k - pa / 4) }

/-- The units of a request performed in ascending order (R270, R271, R213): the old elements and the state. -/
def performUnits (s : State) (slot : Nat) (t : Ty) (task : Option Nat) (q : Req) : Nat → List Nat → State × List Nat
  | _, [] => (s, [])
  | u, a :: as =>
    let host := q.space == .host
    let m := if host then readSpace s true a q.unit
      else match findLaunch s slot with
        | some l => readFor s l task a q.unit
        | none => readSpace s false a q.unit
    let s1 := match reqNew t q u m with
      | some v => writeSpace s slot host a q.unit v
      | none => s
    let p := performUnits s1 slot t task q (u + 1) as
    (p.1, m :: p.2)

/-- Whether a scope of a signal takes in a waiter (R292): package and system always, a narrower one where both stand on one
physical tile, in one depot or on one die (log entry 14). -/
def scopeHas (sc : Scope) (sig waiter : Option Port) : Bool :=
  let near (part : Port → Option Nat) : Bool := (sig.bind part).isSome && sig.bind part == waiter.bind part
  match sc with
  | .package | .system => true
  | .tile => near fun p => p.tile
  | .depot => near fun p => p.tile.map (· / 8)
  | .die => near fun p => some p.die

/-- What a wait on a semaphore acquires (R292): the last set and every add, where their scopes take the waiter in, which a queue
stands nowhere for. -/
def acquired (s : State) (host : Bool) (a : Nat) (waiter : Option Port) : List Nat :=
  let sigs := s.signals.filter fun g => g.host == host && g.addr == a
  let sets := (sigs.filter (·.isSet)).reverse.take 1
  ((sets ++ sigs.filter fun g => !g.isSet).filter fun g => scopeHas g.scope g.port waiter).foldl
    (fun h g => unionNat h g.hb) []

/-- A semaphore's signal recorded (R292); after one performed at package scope every queue reads its waits again (R355). -/
def addSignal (s : State) (g : Signal) : State :=
  { s with
    signals := s.signals ++ [g]
    queues := s.queues.map fun q => { q with devDue := q.devDue || g.scope == .package || g.scope == .system } }

/-- SCOPE of a record (R262, R371). -/
def recScope (r : NodeRec) : Scope := (scopeOf (low 3 r.modx.toNat)).getD .system

/-- What else performing a request does: a signal recorded (R292). -/
def afterPerform (s : State) (c : Ctx) (q : Req) (place g : Nat) : State :=
  match q.op with
  | .semSet | .semAdd =>
    addSignal s
      { host := q.space == .host, addr := place, isSet := q.op == .semSet, scope := recScope c.r,
        port := some (portOf c.l c.f), hb := unionNat (unionNat (firingHb c.f) q.hb) [g] }
  | .semWait | .read | .write | .atomP _ | .atomR _ | .cas | .done => s

/-- The lost lines that a performed request wrote whole, by its units together (R400). -/
def clearWritten (s : State) (q : Req) (places : List Nat) : State :=
  if q.op == .write && q.space == .device then clearLost s (places.map fun a => (a, q.unit)) else s

/-- A checked and recorded request performed at its home (R267): memory changes, the reply leaves unless it left at
acceptance, and the chain goes on. -/
def performNow (s : State) (c : Ctx) (task : Option Nat) (q : Req) (places : List Nat) (g : Nat) : State :=
  let p := performUnits s c.f.slot c.r.type task q 0 places
  let s1 := markPerformed (afterPerform (clearWritten p.1 q places) c q (places.headD 0) g) c.f.slot q
    (unionNat (firingHb c.f) (unionNat q.hb [g]))
  if q.emitted then s1
  else
    match reqOut c q p.2 (if carriesOwn q.op then unionNat q.hb [g] else q.hb) with
    | .error t => trapReq s c.f.slot q t
    | .ok es => complete (rateAdvance s1 c es 0) c es 0

/-- A request that must wait with its frame parked (R236, R279, R281, R336). -/
def parkReq (s : State) (slot : Nat) (q : Req) (st : ReqState) : State :=
  parkWait (setReq s slot { q with state := st }) slot q.firing.a.fh

/-- A read that waits for older writers (R338). -/
def waitOlder (s : State) (slot : Nat) (q : Req) (ts : List Nat) : State :=
  modLaunch (parkReq s slot q .waiting) slot fun l => { l with olders := l.olders ++ [⟨q.id, q.firing.a.fh, ts⟩] }

/-- A wait that finds its semaphore below its target (R372). -/
def semShort (s : State) (q : Req) (places : List Nat) : Bool :=
  q.op == .semWait && decide (readSpace s (q.space == .host) (places.headD 0) 8 < lanes64 q.data 0)

/-- Whether performing a request reads what stands in memory (R274): a semaphore add does, to add to it. -/
def readsOld (op : ReqOp) : Bool := (needOf op).r || op == .semAdd

/-- A request with what its own access acquires (R292): a satisfied wait, the signals it observes. -/
def acquiring (s : State) (c : Ctx) (q : Req) (places : List Nat) : Req :=
  if q.op == .semWait then
    { q with hb := unionNat q.hb (acquired s (q.space == .host) (places.headD 0) (some (portOf c.l c.f))) }
  else q

/-- The lost line that performing a request at its places would read (R274). -/
def lostRead (s : State) (q : Req) (places : List Nat) : Option Nat :=
  if q.space == .device && readsOld q.op then lostLine s places q.unit else none

/-- Whether the recovery that a launch's read of a lost line brings about is under way (R274, R398). -/
def recoveryAsked (s : State) (slot : Nat) : Bool :=
  s.agenda.any fun p => match p.act with
    | .recovery (.read k _) => k == slot
    | _ => false

/-- A read of a lost line for a launch (R274): an uncorrectable error, which starts its recovery (R398). -/
def askRecovery (s : State) (slot line : Nat) : State :=
  if recoveryAsked s slot then s else pushAlone s (.recovery (.read slot line))

/-- A request whose units passed R273: the race check, the speculation table, then its performance. -/
def performChecked (s : State) (l : Launch) (c : Ctx) (q0 : Req) (places : List Nat) : State :=
  let slot := c.f.slot
  let tf := taskFrame s c.f
  let spec := (specTask s c.f).isSome
  if q0.op == .semWait && (lostRead s q0 places).isSome then askRecovery s slot ((lostRead s q0 places).getD 0)
  else if semShort s q0 places then setReq s slot { q0 with state := .waiting, places := if q0.space == .device then places else [] }
  else if spec && q0.op != .read && q0.op != .done then parkReq s slot q0 .held
  else
    let q := acquiring s c q0 places
    let p := newGroup s
    match checkAccesses p.1 slot (reqAccesses p.1 l c.r.type q p.2 places) with
    | .error e => raceReq s slot q0 e
    | .ok s1 =>
      match lostRead s q places with
      | some n => askRecovery s slot n
      | none =>
        match tf with
        | none => performNow s1 c none q places p.2
        | some t =>
          if q.space != .device then performNow s1 c none q places p.2
          else
            let olders := if spec && (needOf q.op).r then dedup (specMeets s l t false places q.unit) else []
            if !olders.isEmpty then waitOlder s slot q0 olders
            else
              let rd := q.op == .read
              let s2 := specAccess s1 slot t (!rd) places q.unit
              let s3 := if (needOf q.op).r && !rd then specAccess s2 slot t false places q.unit else s2
              performNow s3 c (some t.fh) q places p.2

/-- A request checked by R273, and what becomes of it: performed, parked for a walk or a host translation, trapped. A wait at its
home keeps the place it was translated to (R372). -/
def checkReq (s : State) (l : Launch) (c : Ctx) (q : Req) (direct : Bool) : State :=
  let slot := l.slot
  let at_ := portOf l q.firing
  if !q.places.isEmpty then performChecked s l c q q.places
  else
    match checkUnits s l at_ (q.space == .host) direct (needOf q.op) q.unit (unitLane c.r.type) 0 q.addrs with
    | .trap t => trapReq s slot q t
    | .lost n => askRecovery s slot n
    | .ok places => performChecked (fillTile s l at_ (q.space == .host) q.addrs) l c q places
    | .miss _ _ =>
      let s1 := parkReq s slot q .walking
      if q.space == .host then s1 else pushAlone s1 (.walkComplete slot q.id)

/-- A request made at its home (R273, R279, R281). `direct` is set at the end of a walk. -/
def performReq (s : State) (slot : Nat) (q : Req) (direct : Bool) : State :=
  match findLaunch s slot with
  | none => s
  | some l =>
    match recOf l q.firing with
    | none => s
    | some r =>
      match reqCtx s q.firing r with
      | none => dropReq s slot q.id
      | some c => checkReq s l c q direct

end Sys2Proof.Machine
end

