-- ==== Sys2Proof/Machine/Steer.lean ====
section
/-! DEFINITION. The tag, frame and steering instructions (R108 to R129). -/

namespace Sys2Proof.Machine

/-! ### Tags (R108 to R112) -/

/-- The control value in operand b: its lane 0, zero in a firing with a dead letter among its operands (R30). -/
def controlVal (c : Ctx) : Nat :=
  match c.f.b with
  | none => 0
  | some t => if anyDl c.f then 0 else (laneAt t.lanes 0).toNat

/-- The payload a firing passes on: a's lanes, or the poison index where an operand is a dead letter (R30). -/
def passLanes (c : Ctx) : List Lane := if anyDl c.f then poisonLanes (laneCount c) (poisonOf c) else c.f.a.lanes

/-- A node that forms its own output tag (R103) and passes a's payload: data, dead letters and last posts alike (R107). -/
def runOwn (s : State) (r : NodeRec) (tag : Ctx → Except Trap (Nat × Nat)) : Out :=
  let go (lp : Bool) (lanes : Ctx → List Lane) (s : State) (c : Ctx) : Res :=
    match tag c with
    | .error t => .trap t
    | .ok tf => .done s (outTag c (lanes c) tf (anyDl c.f) lp []) 0
  runNode s r plain (fun _ => 0) (go true lpLanes) (go false passLanes) (go false passLanes)

/-- A field of width `w` pushed (R108). -/
def pushTag (t f w v : Nat) : Except Trap (Nat × Nat) :=
  if v > ones w then .error (mkTrap 0x01 0)
  else if f + w > 64 then .error (mkTrap 0x01 1)
  else .ok (t <<< w ||| v, f + w)

/-- The value a node takes from LIT under ARITY 10 and from b under ARITY 01 (R108, R111). -/
def fieldValue (c : Ctx) : Nat :=
  match c.r.arity with
  | .mono => 0
  | .lit => c.r.lit.toNat
  | .dyad => controlVal c

/-- PUSHT (R108). -/
def execPusht (r : NodeRec) (s : State) : Out :=
  runOwn s r fun c => pushTag (ctxTag c) c.f.a.fill (c.r.modx.toNat + 1) (fieldValue c)

/-- POPT (R109). -/
def execPopt (r : NodeRec) (s : State) : Out := runOwn s r fun c => tagRule c.shape (ctxTag c) c.f.a.fill .pop

/-- ITER (R110). -/
def execIter (r : NodeRec) (s : State) : Out := runOwn s r fun c => tagBump c.shape (ctxTag c) c.f.a.fill c.r.modx.toNat

/-- Field `d` set to a value, every field inside it zeroed (R111). -/
def setField (shape : List Nat) (t f d v : Nat) : Except Trap (Nat × Nat) :=
  let o := tagOff shape d
  let w := shape.getD d 0
  if d ≥ shape.length || f < o + w then .error (mkTrap 0x01 2)
  else if v > ones w then .error (mkTrap 0x01 0)
  else .ok (t >>> (o + w) <<< (o + w) + v <<< o, f)

/-- SETT (R111). -/
def execSett (r : NodeRec) (s : State) : Out :=
  runOwn s r fun c => setField c.shape (ctxTag c) c.f.a.fill c.r.modx.toNat (fieldValue c)

/-- The value of field `d` (R112); a field the tag does not hold is misuse (R107). -/
def getField (shape : List Nat) (t f d : Nat) : Except Trap Nat :=
  let o := tagOff shape d
  let w := shape.getD d 0
  if d ≥ shape.length || f < o + w then .error (mkTrap 0x01 2) else .ok (field t o w)

/-- GETT's own effect (R112). -/
def gettBody (s : State) (c : Ctx) : Res :=
  if c.r.type == .u64 then
    if laneCount c % 2 == 1 then .trap (mkTrap 0x04 1)
    else doneWith s (outBoth c (packElems .u64 (List.replicate (laneCount c / 2) (ctxTag c))) false false []) 0
  else
    match getField c.shape (ctxTag c) c.f.a.fill c.r.modx.toNat with
    | .error t => .trap t
    | .ok v => doneWith s (outBoth c (List.replicate (laneCount c) (BitVec.ofNat 32 v)) false false []) 0

/-- GETT (R112). -/
def execGett (r : NodeRec) (s : State) : Out := runPlain s r plain gettBody

/-! ### Frames (R113 to R115) -/

/-- Where the ordinal of a creation comes from (R113). -/
def ordinalOf (c : Ctx) (spawn : Bool) : Nat :=
  if spawn && c.r.arity != .mono then fieldValue c else innermost c

/-- The postmark a creation gives, exact (R113). -/
def postmarkOf (c : Ctx) (spawnt : Bool) : Nat :=
  if !spawnt then c.fr.postmark.toNat
  else
    match c.r.arity with
    | .lit => c.fr.postmark.toNat + c.r.lit.toNat
    | .mono | .dyad => if (bLanes c).length ≥ 2 then lanes64 (bLanes c) 0 else (laneAt (bLanes c) 0).toNat

/-- The traps of a creation in the order R113 writes them. -/
def createTrap (c : Ctx) (w ord pm : Nat) (spawnt : Bool) : Option Trap :=
  if w > 0 && c.fr.ffill + w > 64 then some (mkTrap 0x11 0)
  else if w > 0 && ord > ones w then some (mkTrap 0x11 1)
  else if spawnt && pm > ones 64 then some (mkTrap 0x0A 1)
  else if spawnt && pm < c.fr.postmark.toNat then some (mkTrap 0x0A 0)
  else none

/-- The FID of a child (R25, R113). -/
def childFid (fr : Frame) (w ord : Nat) : Dword :=
  if w == 0 then fr.fid else fr.fid ||| BitVec.ofNat 64 (ord <<< (64 - fr.ffill - w))

/-- What a creation emits: a's payload to DSTA in the new frame, and to DSTB under TAGOP (R113). -/
def createOut (s : State) (c : Ctx) (fh : Nat) : Res :=
  match outPorts c [1] c.f.a.lanes c.r.tagop false false [] with
  | .error t => .trap t
  | .ok es => .done s ({ emission c 0 c.f.a.lanes (0, 0) false false [] with fh := fh } :: es) 0

/-- The traps of the tag rule of a creation's DSTB token (R107). -/
def createTagTrap (c : Ctx) : Option Trap :=
  match outPorts c [1] c.f.a.lanes c.r.tagop false false [] with
  | .error t => some t
  | .ok _ => none

/-- FRAME and SPAWN's own effect (R113). -/
def createBody (w : Nat) (spawn : Bool) (s : State) (c : Ctx) : Res :=
  let ord := ordinalOf c spawn
  match createTrap c w ord 0 false, createTagTrap c with
  | some t, _ => .trap t
  | none, some t => .trap t
  | none, none =>
    if !poolFree s c.f.slot then .hold
    else
      let fh := freeHandle s
      let f := makeFrame s c.l fh c.f.a.fh .ordinary (childFid c.fr w ord) (c.fr.ffill + w) c.fr.postmark
      createOut (modFrame (addFrame s f) c.f.a.fh fun g => { g with children := g.children + 1 }) c fh

/-- Last post and dead letters of a creating node go to DSTB only (R113, R124). -/
def createLp (s : State) (c : Ctx) : Res := doneWith s (outLp c [1] c.r.tagop []) 0

/-- Dead letters of a creating node (R113). -/
def createDl (s : State) (c : Ctx) : Res := doneWith s (outPorts c [1] (passLanes c) c.r.tagop true false []) 0

/-- FRAME (R113). -/
def execFrame (r : NodeRec) (s : State) : Out :=
  runNode s r plain (fun _ => 0) createLp createDl (createBody 0 false)

/-- SPAWN (R113). -/
def execSpawn (r : NodeRec) (s : State) : Out :=
  runNode s r plain (fun _ => 0) createLp createDl (createBody (r.modx.toNat + 1) true)

/-- The state with a context free for a SPAWNT (R330, R341): one that is free, or one evicted for a task in TASK_FRONT; none
where the firing is held. -/
def contextFor (s : State) (c : Ctx) (vtile : Nat) : Option (State × Nat) :=
  match freeTaskCtx c.l.man (tileOf c.l vtile) with
  | some i => some (s, i)
  | none =>
    match taskOf s c.f.a.fh with
    | none => none
    | some t =>
      match findFrame s t with
      | none => none
      | some tf =>
        if standing tf != .taskFront then none
        else
          match youngestTask s c.f.slot vtile t with
          | none => none
          | some v =>
            let s1 := abortTask s c.f.slot v.fh
            match findLaunch s1 c.f.slot with
            | none => none
            | some l1 => (freeTaskCtx l1.man (tileOf l1 vtile)).map fun i => (s1, i)

/-- The spawn record of a SPAWNT firing (R332), in the place that the allocator takes. -/
def spawnRecord (s : State) (c : Ctx) (key : Key) : SpawnRec :=
  { id := s.nextId, slot := c.f.slot, fh := noHandle, pending := false,
    addr := BitVec.ofNat 46 (reservedPlace s 256 (Config.spawnArea s.tick) >>> 6), respawn := 0, parent := c.f.a.fh, fid := key.fid,
    ffill := key.ffill, postmark := key.postmark, dest := c.r.dsta, lanes := c.f.a.lanes, lpar := c.f.a.lpar, hb := firingHb c.f }

/-- The key of the task a SPAWNT creates (R113). -/
def spawnKey (c : Ctx) : Key :=
  let w := c.r.modx.toNat + 1
  ⟨BitVec.ofNat 64 (postmarkOf c true), childFid c.fr w (ordinalOf c false), c.fr.ffill + w⟩

/-- SPAWNT's own effect (R113, R330 to R333). It waits for room for its record as for a pool (R332; DEDUCED, log entry 6). -/
def spawntBody (s : State) (c : Ctx) : Res :=
  let w := c.r.modx.toNat + 1
  let key := spawnKey c
  let outside := (taskOf s c.f.a.fh).isNone
  let late := outside && match c.l.horizon with
    | some h => !keyLt h key
    | none => false
  match createTrap c w (ordinalOf c false) (postmarkOf c true) true, createTagTrap c with
  | some t, _ => .trap t
  | none, some t => .trap t
  | none, none =>
    if late then .trap (mkTrap 0x0B 5)
    else
      let rc := spawnRecord s c key
      let s0 := { s with nextId := rc.id + 1, spawns := s.spawns ++ [rc] }
      if (reservedPlaces s 256).isEmpty || !poolFree s0 c.f.slot then .hold
      else
        let vtile := destDesk c.r.dsta / 16
        match contextFor s0 c vtile with
        | none => .hold
        | some (s1, i) =>
          let p := startTask s1 c.l vtile i c.f.a.fh key.fid key.ffill key.postmark rc.id rc.addr
          let s3 := modFrame p.1 c.f.a.fh fun g => { g with children := g.children + 1 }
          let s4 := if outside then modLaunch s3 c.f.slot fun l => { l with regs := l.regs ++ [(vtile, key)] } else s3
          createOut s4 c p.2

/-- SPAWNT (R113). -/
def execSpawnt (r : NodeRec) (s : State) : Out := runNode s r plain (fun _ => 0) createLp createDl spawntBody

/-- FREE's own effect by the frame's kind (R114, R290, R329). -/
def freeBody (s : State) (c : Ctx) : Res :=
  let fh := c.f.a.fh
  let s1 := modFrame s c.fr.parent fun g => { g with hb := unionNat g.hb (firingHb c.f) }
  match c.fr.kind with
  | .root => .done s [] 0
  | .ordinary => .done (drainFrame s1 c.f.slot fh) [] 0
  | .task => .done (modFrame s1 fh fun g => { g with freed := true }) [] 0

/-- FREE (R114). -/
def execFree (r : NodeRec) (s : State) : Out := runPlain s r plain freeBody

/-- R14 for a node whose operand a is read under TYPE. -/
def evenA (c : Ctx) (res : Res) : Res :=
  if wide c.r.type && laneCount c % 2 == 1 then .trap (mkTrap 0x04 1) else res

/-- SYNC fires what it held (R115): the operand leaves under TAGOP with what the children's returns carry (R290). -/
def execSync (r : NodeRec) (s : State) : Out :=
  runNode s r plain (fun _ => 0)
    (fun s c => doneWith s (outLp c [0, 1] c.r.tagop c.fr.hb) 0)
    (fun s c => doneWith s (outBoth c (passLanes c) true false c.fr.hb) 0)
    (fun s c => evenA c (doneWith s (outBoth c c.f.a.lanes false false c.fr.hb) 0))

/-! ### Vector width (R116 to R119) -/

/-- The cap of CTXW (R116). -/
def widthCap (m : Manifest) : Nat := 32 / declFold m

/-- The grant of CTXW (R116). -/
def widthGrant (m : Manifest) (t : Ty) (q : Nat) : Nat :=
  let g := min q (widthCap m)
  if wide t && g % 2 == 1 then g + 1 else g

/-- CTXW (R116). -/
def execCtxw (r : NodeRec) (s : State) : Out :=
  runPlain s r plain fun s c =>
    let q := if c.r.arity == .lit then c.r.lit.toNat else max 1 (min 32 (laneAt (bLanes c) 0).toNat)
    evenA c (doneWith s (outBoth c (fitLanes (widthGrant c.l.man c.r.type q) c.f.a.lanes) false false []) 0)

/-- PACK (R117). -/
def execPack (r : NodeRec) (s : State) : Out :=
  runPlain s r plain fun s c =>
    evenA c (if 2 * laneCount c > 32 then .trap (mkTrap 0x04 2)
      else doneWith s (outBoth c (c.f.a.lanes ++ bLanes c) false false []) 0)

/-- UNPACK (R118). -/
def execUnpack (r : NodeRec) (s : State) : Out :=
  runPlain s r plain fun s c =>
    let n := laneCount c
    evenA c (if n % 2 == 1 || (wide c.r.type && n / 2 % 2 == 1) then .trap (mkTrap 0x04 2)
      else doneWith s (outAppend (outPorts c [0] (c.f.a.lanes.take (n / 2)) c.r.tagop false false [])
        (outPorts c [1] (c.f.a.lanes.drop (n / 2)) c.r.tagop false false [])) 0)

/-- RECOL (R119). -/
def execRecol (r : NodeRec) (s : State) : Out :=
  runPlain s r plain fun s c => evenA c (doneWith s (outBoth c (fitLanes c.r.lit.toNat c.f.a.lanes) false false []) 0)

/-! ### Steering (R120 to R123) -/

/-- The rule of STEER's DSTB (R103, R120). -/
def steerRule (r : NodeRec) : TagOp :=
  match low 3 r.modx.toNat with
  | 1 => .iter
  | 2 => .pop
  | 3 => .zero
  | 4 => .outer
  | _ => .same

/-- STEER's choice for data and dead letters (R120, R30). -/
def steerOut (dl : Bool) (s : State) (c : Ctx) : Res :=
  if controlVal c % 2 == 1 then doneWith s (outPorts c [0] (passLanes c) c.r.tagop dl false []) 0
  else doneWith s (outPorts c [1] (passLanes c) (steerRule c.r) dl false []) 0

/-- STEER's last post (R120). -/
def steerLp (s : State) (c : Ctx) : Res :=
  let b := outLp c [1] (steerRule c.r) []
  doneWith s (if bit c.r.modx.toNat 3 then b else outAppend (outLp c [0] c.r.tagop []) b) 0

/-- STEER (R120). -/
def execSteer (r : NodeRec) (s : State) : Out :=
  runNode s r plain (fun _ => 0) steerLp (steerOut true) fun s c => evenA c (steerOut false s c)

/-- MERGE's tag (R121): TAGOP, then the port as a 1-bit field. -/
def mergeTag (c : Ctx) : Except Trap (Nat × Nat) :=
  match tagRule c.shape (ctxTag c) c.f.a.fill c.r.tagop with
  | .error t => .error t
  | .ok tf => if bit c.r.modx.toNat 0 then pushTag tf.1 tf.2 1 c.f.port else .ok tf

/-- MERGE's output (R121). -/
def mergeOut (lanes : Ctx → List Lane) (lp : Bool) (s : State) (c : Ctx) : Res :=
  if c.r.dsta == 0x7FFFF && c.r.dstb == 0x7FFFF then .done s [] 0
  else
    match mergeTag c with
    | .error t => .trap t
    | .ok tf => .done s (outTag c (lanes c) tf (anyDl c.f) lp []) 0

/-- MERGE (R121). -/
def execMerge (r : NodeRec) (s : State) : Out :=
  runNode s r plain (fun _ => 0) (mergeOut lpLanes true) (mergeOut passLanes false)
    fun s c => evenA c (mergeOut passLanes false s c)

/-- GATE (R126): a's payload and flags; a dead-letter credit makes the output a dead letter. -/
def execGate (r : NodeRec) (s : State) : Out :=
  runPlain s r { plain with trigger := true } fun s c => evenA c (doneWith s (outBoth c c.f.a.lanes false false []) 0)

/-- The bound k of the GATE that a GATEREL's DSTA names (R127). -/
def gateBound (c : Ctx) : Nat :=
  match nodeWord c.l (nodeAddr (destDesk c.r.dsta) (destNode c.r.dsta)) with
  | some w => low 8 w + 1
  | none => 1

/-- GATEREL's credit (R127): none where v + k is past the field, nor for an empty shape. -/
def gaterelCredit (c : Ctx) (dl : Bool) : List Emission :=
  let w := c.shape.getD 0 0
  let v := innermost c
  let k := gateBound c
  if c.shape.isEmpty || v + k > ones w then []
  else
    [emission c 0 (if dl then poisonLanes 1 (poisonOf c) else oneZero) (ctxTag c >>> w <<< w + (v + k), c.f.a.fill) dl false []]

/-- GATEREL's output for data and dead letters (R127). -/
def gaterelOut (dl : Bool) (s : State) (c : Ctx) : Res :=
  match outPorts c [1] (passLanes c) c.r.tagop dl false [] with
  | .error t => .trap t
  | .ok es => .done s (gaterelCredit c dl ++ es) 0

/-- GATEREL (R127). -/
def execGaterel (r : NodeRec) (s : State) : Out :=
  runNode s r plain (fun _ => 0) createLp (gaterelOut true) fun s c => evenA c (gaterelOut false s c)

/-- The j-th copy of a COPY (R122): the payload, or the poison index (R30), under its pushed field. -/
def copyNth (c : Ctx) (dl : Bool) (j : Nat) : Emission :=
  let w := c.r.modx.toNat + 1
  emission c 0 (passLanes c) (ctxTag c <<< w ||| j, c.f.a.fill + w) dl false []

/-- What a COPY emits in all (R122, R30): n tagged copies, then a to DSTB; its push and its tag rule are checked first. R122 does not say
whether a push that no copy makes (n = 0) is checked, nor which of the two traps comes first: it is, and the tag rule's comes first
(DESIGN CHOICE, log entry 48). -/
def copyAll (c : Ctx) (dl : Bool) : Except Trap (List Emission) :=
  match outPorts c [1] (passLanes c) c.r.tagop dl false [] with
  | .error t => .error t
  | .ok es =>
    if c.f.a.fill + (c.r.modx.toNat + 1) > 64 then .error (mkTrap 0x01 1)
    else .ok ((upTo c.r.lit.toNat).map (copyNth c dl) ++ es)

/-- A COPY that goes on (R122): its count is in its desk until its next copy. -/
def keepCopying (s : State) (c : Ctx) (made : Nat) : State :=
  modLaunch s c.f.slot fun l => modDesk l c.f.vdesk fun d => { d with copying := some { c.f with made := made } }

/-- A COPY's next copies (R122): the next one leaves, and the COPY stays in progress; with the last, or where there is none, the
token to DSTB leaves too and the firing completes. Its rates are compared before the first copy (R229). -/
def copyBody (dl : Bool) (s : State) (c : Ctx) : Res :=
  match copyAll c dl with
  | .error t => .trap t
  | .ok all =>
    match if c.f.made == 0 && !dl then rateTrap c all 0 else none with
    | some t => .trap t
    | none =>
      if c.f.made + 1 < c.r.lit.toNat then .later (keepCopying (sendEmissions s c [copyNth c dl c.f.made]) c (c.f.made + 1))
      else .later (complete (if dl then s else rateAdvance s c all 0) c (all.drop c.f.made) 0)

/-- COPY (R122): one copy in a step, so that a halt can fall between two of them (R150). -/
def execCopy (r : NodeRec) (s : State) : Out :=
  runNode s r plain (fun _ => 0) createLp (copyBody true) fun s c => evenA c (copyBody false s c)

/-- SINK (R123): a last post in the root frame with fill 0 marks the node. -/
def execSink (r : NodeRec) (s : State) : Out :=
  runNode s r plain (fun _ => 0)
    (fun s c =>
      if c.fr.kind == .root && c.f.a.fill == 0 then
        .done (modLaunch s c.f.slot fun l => { l with posted := unionNat l.posted [fNode c.f] }) [] 0
      else .done s [] 0)
    (fun s _ => .done s [] 0) fun s _ => .done s [] 0

/-! ### Ends of streams (R125) -/

/-- The data tokens of LPOST under their own tag (R125). -/
def lpostData (c : Ctx) (dl : Bool) : List Emission :=
  if bit c.r.modx.toNat 0 then [] else outTag c (passLanes c) (ctxTag c, c.f.a.fill) dl false []

/-- LPOST (R125): after a dead letter the token in the last post's place is a dead letter too (R30). -/
def execLpost (r : NodeRec) (s : State) : Out :=
  runNode s r plain (fun _ => 0) lpOut
    (fun s c => doneWith s (outAppend (.ok (lpostData c true)) (outBoth c (passLanes c) true false [])) 0)
    fun s c => evenA c (doneWith s (outAppend (.ok (lpostData c false)) (outBoth c oneZero false true [])) 0)

/-- WAITLP (R125): data to DSTA; a last post makes an ordinary token on DSTB. -/
def execWaitlp (r : NodeRec) (s : State) : Out :=
  runNode s r plain (fun _ => 0)
    (fun s c =>
      let b := outPorts c [1] (lpLanes c) c.r.tagop (anyDl c.f) false []
      doneWith s (if bit c.r.modx.toNat 0 then outAppend b (outLp c [0] c.r.tagop []) else b) 0)
    (fun s c => doneWith s (outPorts c [0] (passLanes c) c.r.tagop true false []) 0)
    fun s c => evenA c (doneWith s (outPorts c [0] (passLanes c) c.r.tagop false false []) 0)

/-! ### Blocks (R129, R142) -/

/-- The lowest free block context of a tile (R142). -/
def freeCtx (t : Tile) : Option Nat := (upTo 8).find? fun i => !(t.ctxs.any fun k => k.idx == i)

/-- SEQ's own effect (R129, R142): the block starts in the lowest free context, w0 to w7 free values; held while none is
free. -/
def seqBody (s : State) (c : Ctx) : Res :=
  match freeCtx (tileOf c.l (fTile c.f)) with
  | none => .hold
  | some i =>
    let k : BlockCtx :=
      { idx := i, firing := c.f, pc := 0, started := s.nextId, group := s.nextId,
        w := (upTo 8).map fun r => (upTo 32).map fun n => Config.blockReg s.tick r n,
        stores := [], adds := [], emits := [], flags := 0 }
    .later (modLaunch { s with nextId := s.nextId + 1 } c.f.slot fun l => modTile l (fTile c.f) fun t =>
      { t with ctxs := t.ctxs ++ [k] })

/-- SEQ (R129). -/
def execSeq (r : NodeRec) (s : State) : Out := runPlain s r plain seqBody

end Sys2Proof.Machine
end

