-- ==== Sys2Proof/Machine/Tensor.lean ====
section
/-! DEFINITION. The tensor array, corner turns, range reduction, tables and exact sums (R183 to R206). -/

namespace Sys2Proof.Machine

/-! ### Panels and FIFOs (R186, R190) -/

/-- Result rows, K and element size of a panel (R186). -/
def panelOf (t : Ty) : Nat × Nat × Nat :=
  match t with
  | .f64 => (32, 32, 8)
  | .f32 => (32, 32, 4)
  | .e4m3 | .e5m2 => (64, 128, 1)
  | _ => (64, 64, 2)

/-- Bytes of a panel in its FIFO, its scale block included (R186). -/
def panelBytes (t : Ty) (scaled : Bool) : Nat :=
  (panelOf t).1 * (panelOf t).2.1 * (panelOf t).2.2 + (if scaled then 256 else 0)

/-- The format of B under BALT (R186). -/
def altTy (t : Ty) (balt : Bool) : Ty :=
  if balt then (match t with | .e4m3 => .e5m2 | .e5m2 => .e4m3 | _ => t) else t

/-- The bytes in a FIFO. -/
def fifoBytes (f : List FifoSeg) : List Byte := f.flatMap (·.bytes)

/-- `n` bytes popped from a FIFO's head: what is left, and the bytes each courier filled of those popped (R190). -/
def fifoPop : Nat → List FifoSeg → List FifoSeg × List (Nat × Nat)
  | _, [] => ([], [])
  | n, g :: gs =>
    if n == 0 then (g :: gs, [])
    else if g.bytes.length ≤ n then
      let r := fifoPop (n - g.bytes.length) gs
      (r.1, (g.courier, g.bytes.length) :: r.2)
    else ({ g with bytes := g.bytes.drop n } :: gs, [(g.courier, n)])

/-- Bytes cut into pieces of `n`, at most `k` of them. -/
def pieces (n : Nat) : Nat → List Byte → List (List Byte)
  | 0, _ => []
  | k + 1, bs => bs.take n :: pieces n k (bs.drop n)

/-- The rows of a panel as values, scales applied (R186, R188). -/
def panelRows (t : Ty) (scaled : Bool) (bs : List Byte) : List (List Val) :=
  let p := panelOf t
  let f := fmtOrF32 t
  let scales := bs.drop (p.1 * p.2.1 * p.2.2)
  (pieces (p.2.1 * p.2.2) p.1 bs).mapIdx fun i row =>
    (pieces p.2.2 p.2.1 row).mapIdx fun k e =>
      let v := decodeVal f (leNat e)
      if scaled then scaledVal v (scales.getD (4 * i + k / 32) 127).toNat else v

/-- An exact product and the NV it raises (R189). -/
def prodVal (a b : Val) : Val × Flags :=
  (mulVal a b, snanFlag [a, b] ||| (if zeroTimesInf a b then flNV else 0))

/-- The sum of exact terms rounded once (R189), with the flags its terms raised. -/
def accSum (f : Fmt) (terms : List (Val × Flags)) (rnd : Rnd) (r : Nat) : Nat × Flags :=
  let vs := terms.map (·.1)
  let fl := terms.foldl (fun a t => a ||| t.2) 0
  let pinf := vs.any (· == .inf false)
  let ninf := vs.any (· == .inf true)
  if vs.any isNaN then (fmtNaN f, fl)
  else if pinf && ninf then (fmtNaN f, fl ||| flNV)
  else if pinf then ((infOut f false).1, fl)
  else if ninf then ((infOut f true).1, fl)
  else if vs.all isZero && vs.all signOf then ((zeroOut f true).1, fl)
  else if vs.all isZero && !vs.any signOf then ((zeroOut f false).1, fl)
  else
    let d := (vs.map dyadicOf).foldl dyAdd ⟨0, 0⟩
    let o := roundDyadic f d.n d.e rnd false r
    (o.1, o.2 ||| fl)

/-- The accumulator view of a panel type (R186): its format and element size. -/
def viewOf (t : Ty) : Fmt × Nat := if t == .f64 then (fmtOrF32 .f64, 8) else (fmtOrF32 .f32, 4)

/-- The 64 rows of 256 bytes of a bank: row i of either view lies in row i (R187). -/
def bankRows (b : Bank) : List (List Byte) := pieces 256 64 (readRun b.bytes 0 16384)

/-- A step's result elements, row by row, each with its flags (R188). -/
def mmaResult (c : Ctx) (mma : Bool) (rows : List (List Byte)) (a b : List (List Val)) : List (List (Nat × Flags)) :=
  let p := panelOf c.r.type
  let v := viewOf c.r.type
  let seed := rsrSeed c.fr.fid c.f.a.tag (fNode c.f) 0
  (a.zip rows).mapIdx fun i ar =>
    let old := pieces v.2 p.1 ar.2
    (b.zip old).mapIdx fun j bo =>
      let prods := (ar.1.zip bo.1).map fun q => prodVal q.1 q.2
      let prev := decodeVal v.1 (leNat bo.2)
      accSum v.1 (if mma then prods ++ [(prev, snanFlag [prev])] else prods) c.r.rnd (rsrBits seed (i * 64 + j))

/-- The bank after a step: MMAZ clears every byte outside the result (R188). -/
def mmaBank (c : Ctx) (mma : Bool) (rows : List (List Byte)) (res : List (List (Nat × Flags))) : Memory :=
  let sz := (viewOf c.r.type).2
  let new := rows.mapIdx fun i row =>
    let out := (res.getD i []).flatMap fun x => leBytes sz x.1
    out ++ if mma then row.drop out.length else List.replicate (256 - out.length) 0
  memOfBytes 0 new.flatten

/-- The first result element that raised an enabled flag, as i × 64 + j (R188). -/
def firstRaised (mask : Flags) (res : List (List (Nat × Flags))) : Option Nat :=
  (res.mapIdx fun i row => row.mapIdx fun j x => (i * 64 + j, x.2)).flatten.findSome? fun x =>
    if x.2 &&& mask != 0 then some x.1 else none

/-- The groups of earlier steps of an MMA node in its frame, which R191 applies in tag order. -/
def chainGroups (l : Launch) (f : Firing) : List Nat :=
  (l.accesses.filter fun a => a.space == .unit && a.party.vdesk == f.vdesk && a.party.node == f.node && a.party.fh == f.a.fh).map
    (·.group)

/-- The FIFOs of a tile popped where selected, and the notices to the couriers that filled the bytes (R190). -/
def popFifos (s : State) (c : Ctx) (a b : Bool) (n : Nat) (g : Nat) : State :=
  let v := fTile c.f
  let t := tileOf c.l v
  let pa := fifoPop (if a then n else 0) t.fifoA
  let pb := fifoPop (if b then n else 0) t.fifoB
  let s1 := modLaunch s c.f.slot fun l => modTile l v fun t => { t with fifoA := pa.1, fifoB := pb.1 }
  let hb := unionNat (firingHb c.f) [g]
  let send (tgt : Nat) (s : State) (p : Nat × Nat) : State :=
    let id := s.nextId
    push (modLaunch { s with nextId := id + 1 } c.f.slot fun l =>
      { l with cargo := l.cargo ++ [(id, .popped p.1 v tgt p.2 hb)] }) ⟨6, c.f.slot, p.1, v * 128 + tgt⟩ (.freedSlotNotice c.f.slot id)
  pb.2.foldl (send 65) (pa.2.foldl (send 64) s1)

/-- A bank of a tile. -/
def bankOf (t : Tile) (k : Nat) : Bank := t.banks.getD k { bytes := [], defined := false }

/-- What an MMA or MMAZ demands of the FIFOs and the bank (R188, R190): panels there, the accumulator defined. -/
def mmaTrap (mma : Bool) (pb : Nat) (t : Tile) (bank : Bank) : Option Trap :=
  if (fifoBytes t.fifoA).length < pb then some (mkTrap 0x0D 0)
  else if (fifoBytes t.fifoB).length < pb then some (mkTrap 0x0D 1)
  else if mma && !bank.defined then some (mkTrap 0x08 1)
  else none

/-- The accesses of an MMA or MMAZ step (R184, R191): the bank, and each FIFO head, popped or kept. -/
def mmaAccesses (s : State) (c : Ctx) (g : Nat) : List Access :=
  let m := c.r.modx.toNat
  let kind (keep : Bool) : AccKind := if keep then .read else .write
  let chain := chainGroups c.l c.f
  [unitBy s c.f g .write (locAcc (low 2 c.r.lit.toNat)), unitBy s c.f g (kind (bit m 0)) locFifoA,
    unitBy s c.f g (kind (bit m 1)) locFifoB].map fun x => { x with hb := unionNat x.hb chain }

/-- An MMA or MMAZ step (R188 to R191): a race comes before an empty FIFO. -/
def mmaStep (mma : Bool) (s0 : State) (c : Ctx) : Res :=
  let t := tileOf c.l (fTile c.f)
  let m := c.r.modx.toNat
  let scaled := bit m 2
  let pb := panelBytes c.r.type scaled
  let k := low 2 c.r.lit.toNat
  let bank := bankOf t k
  let p := newGroup s0
  withAccesses p.1 c.f.slot (mmaAccesses p.1 c p.2) fun s1 =>
    match mmaTrap mma pb t bank with
    | some t => .trap t
    | none =>
      let rows := bankRows bank
      let res := mmaResult c mma rows (panelRows c.r.type scaled ((fifoBytes t.fifoA).take pb))
        (panelRows (altTy c.r.type (bit m 3)) scaled ((fifoBytes t.fifoB).take pb))
      let flags := allFlags (res.flatMap fun row => row.map fun x => (0, x.2))
      match firstRaised c.l.rcd.arithen res with
      | some e => .trap (mkTrap 0x12 (flags.toNat + e <<< 16))
      | none =>
        let s2 := popFifos s1 c (!bit m 0) (!bit m 1) pb p.2
        let s3 := modFTile s2 c.f fun t =>
          { t with banks := t.banks.set k { bytes := mmaBank c mma rows res, defined := true } }
        doneWith s3 (outBoth c c.f.a.lanes false false [p.2]) flags

/-- The tokens of an ACCRD: element bits, flags and place of every element of every token (R192). -/
def accrdTokensOf (c : Ctx) (bank : Bank) : List (List (Nat × Flags × Nat)) :=
  let lit := c.r.lit.toNat
  let first := field lit 2 6
  let rows := bankRows bank
  let seed := rsrSeed c.fr.fid c.f.a.tag (fNode c.f) 0
  (upTo (field lit 8 6 + 1)).flatMap fun ri =>
    let i := first + ri
    let row := rows.getD i []
    let words := (pieces 4 64 row).map leNat
    if c.r.type == .f32 || c.r.type == .f64 then
      [(words.take 32).map fun w => (w, 0, 0), (words.drop 32).map fun w => (w, 0, 0)]
    else
      [words.mapIdx fun j w =>
        let o := fConvert (fmtOrF32 c.r.type) (decodeVal (fmtOrF32 .f32) w) c.r.rnd (bit c.r.modx.toNat 4)
          (rsrBits seed (i * 64 + j))
        (o.1, o.2, i * 64 + j)]

/-- The lanes of one ACCRD token (R192). -/
def accrdLanes (t : Ty) (xs : List (Nat × Flags × Nat)) : List Lane :=
  if t == .f32 || t == .f64 then xs.map fun x => BitVec.ofNat 32 x.1 else pack16 (xs.map (·.1))

/-- The emissions of an ACCRD: its tokens to DSTA under pushed tags, then a to DSTB (R192). -/
def accrdOut (c : Ctx) (lanes : List (List Lane)) (dl : Bool) (hb : List Nat) : Except Trap (List Emission) :=
  let w := field c.r.lit.toNat 14 3 + 1
  if c.r.dsta != 0x7FFFF && c.f.a.fill + w > 64 then .error (mkTrap 0x01 1)
  else
    outAppend (.ok (lanes.mapIdx fun j ls => emission c 0 ls (ctxTag c <<< w ||| j, c.f.a.fill + w) dl false hb))
      (outPorts c [1] (passLanes c) c.r.tagop dl false hb)

/-- An ACCRD started in the array (R192). -/
def accrdStep (s0 : State) (c : Ctx) : Res :=
  let k := low 2 c.r.lit.toNat
  let bank := bankOf (tileOf c.l (fTile c.f)) k
  if !bank.defined then .trap (mkTrap 0x08 1)
  else
    let toks := accrdTokensOf c bank
    let flags := allFlags (toks.flatMap fun t => t.map fun x => (0, x.2.1))
    match toks.flatten.find? fun x => x.2.1 &&& c.l.rcd.arithen != 0 with
    | some x => .trap ⟨0x12, flags.toNat + (x.2.2 % 2) <<< 8 + x.2.2 <<< 16, x.2.2 % 64 / 2⟩
    | none =>
      let p := newGroup s0
      withAccesses p.1 c.f.slot [unitBy p.1 c.f p.2 .read (locAcc k)] fun s =>
        doneWith s (accrdOut c (toks.map (accrdLanes c.r.type)) false [p.2]) flags

/-- ACCZ in the array (R193). -/
def acczStep (s0 : State) (c : Ctx) : Res :=
  let k := low 2 c.r.lit.toNat
  let p := newGroup s0
  withAccesses p.1 c.f.slot [unitBy p.1 c.f p.2 .write (locAcc k)] fun s =>
    doneWith (modFTile s c.f fun t => { t with banks := t.banks.set k { bytes := [], defined := true } })
      (outBoth c c.f.a.lanes false false [p.2]) 0

/-- What an FSKIP demands of the FIFOs it pops (R193). -/
def fskipTrap (m n : Nat) (t : Tile) : Option Trap :=
  if bit m 0 && decide ((fifoBytes t.fifoA).length < n) then some (mkTrap 0x0D 0)
  else if bit m 1 && decide ((fifoBytes t.fifoB).length < n) then some (mkTrap 0x0D 1)
  else none

/-- FSKIP in the array (R193): a race comes before an empty FIFO. -/
def fskipStep (s0 : State) (c : Ctx) : Res :=
  let m := c.r.modx.toNat
  let n := (low 4 c.r.lit.toNat + 1) * panelBytes c.r.type (bit m 2)
  let p := newGroup s0
  let xs := (if bit m 0 then [unitBy p.1 c.f p.2 .write locFifoA] else []) ++
    (if bit m 1 then [unitBy p.1 c.f p.2 .write locFifoB] else [])
  withAccesses p.1 c.f.slot xs fun s =>
    match fskipTrap m n (tileOf c.l (fTile c.f)) with
    | some t => .trap t
    | none => doneWith (popFifos s c (bit m 0) (bit m 1) n p.2) (outBoth c c.f.a.lanes false false [p.2]) 0

/-! ### The tensor queue (R191, R194) -/

/-- A firing entered in the tensor queue, held while its four entries are taken (R183, R194). -/
def enqueueTensor (s : State) (c : Ctx) : Res :=
  if (tileOf c.l (fTile c.f)).tq.length ≥ 4 then .hold
  else .later (modFTile s c.f fun t => { t with tq := t.tq ++ [c.f] })

/-- The policy of tile unit state (R342), with or without a trigger on port b. -/
def unitPolicy (trigger : Bool) : Policy := { plain with spec := some 1, trigger := trigger }

/-- MMA (R188). -/
def execMma (r : NodeRec) (s : State) : Out := runPlain s r (unitPolicy true) enqueueTensor
/-- MMAZ (R188). -/
def execMmaz (r : NodeRec) (s : State) : Out := runPlain s r (unitPolicy true) enqueueTensor
/-- ACCRD (R192): a dead letter makes the same emissions, all dead letters (R30). -/
def execAccrd (r : NodeRec) (s : State) : Out :=
  runNode s r (unitPolicy false) (fun _ => 0) lpOut
    (fun s c => doneWith s (accrdOut c (List.replicate (accrdTokens c.r.type (field c.r.lit.toNat 8 6 + 1)) (passLanes c))
      true []) 0)
    enqueueTensor
/-- ACCZ (R193). -/
def execAccz (r : NodeRec) (s : State) : Out := runPlain s r (unitPolicy false) enqueueTensor
/-- FSKIP (R193). -/
def execFskip (r : NodeRec) (s : State) : Out := runPlain s r (unitPolicy false) enqueueTensor

/-- The step of a queued firing, by its node's opcode. -/
def tensorStep (opc : Nat) (s : State) (c : Ctx) : Res :=
  match opc with
  | 0xC0 => mmaStep true s c
  | 0xC1 => mmaStep false s c
  | 0xC2 => accrdStep s c
  | 0xC3 => acczStep s c
  | _ => fskipStep s c

/-- TENSOR_QUEUE_START (R190, R191): the oldest queued firing runs in the array. -/
def execTensorQueueStart (slot vtile : Nat) (s : State) : Out :=
  match findLaunch s slot with
  | none => .next s
  | some l =>
    match (tileOf l vtile).tq with
    | [] => .next s
    | f :: rest =>
      let s1 := modLaunch s slot fun l => modTile l vtile fun t => { t with tq := rest }
      match nodeWord l (fNode f) with
      | none => .next s1
      | some w =>
        match parseNode w with
        | none => .next s1
        | some (opc, r) =>
          match ctxOf s1 f r with
          | none => .next s1
          | some c => .next (settle s1 c 0 true (tensorStep opc s1 c))

/-! ### Corner turns (R195) -/

/-- Bytes of a panel transposed: destination element (j, i) is source element (i, j) (R195). -/
def transposed (n sz : Nat) (bs : List Byte) : List Byte :=
  let rows := (pieces (n * sz) n bs).map fun r => pieces sz n r
  (upTo n).flatMap fun j => rows.flatMap fun r => r.getD j []

/-- CORNER's own effect (R195, R248). -/
def cornerBody (s0 : State) (c : Ctx) : Res :=
  let t := tileOf c.l (fTile c.f)
  let src := (laneAt c.f.a.lanes 0).toNat
  let dst := (laneAt c.f.a.lanes 1).toNat
  let sz := tyWidth c.r.type / 8
  let n := if sz == 2 then 64 else 32
  let pb := n * n * sz
  let lim := sramLimit c.l.man
  if laneCount c == 1 then .trap (mkTrap 0x04 2)
  else if src % 64 != 0 then .trap ⟨0x0E, 0, 0⟩
  else if dst % 64 != 0 then .trap ⟨0x0E, 0, 1⟩
  else if src + pb > lim then .trap ⟨0x08, 0, 0⟩
  else if dst + pb > lim then .trap ⟨0x08, 0, 1⟩
  else if badRange t src pb then .trap (mkTrap 0x06 0)
  else
    let p := newGroup s0
    withAccesses p.1 c.f.slot (sramBy p.1 c.f p.2 0 .read src pb 0 ++ sramBy p.1 c.f p.2 0 .write dst pb 1) fun s =>
      doneWith (modFTile s c.f fun t => writeSram t dst (transposed n sz (readRun t.sram src pb)))
        (outBoth c c.f.a.lanes false false [p.2]) 0

/-- CORNER (R195): the turn is made in one step, so a tap is always free. -/
def execCorner (r : NodeRec) (s : State) : Out := runPlain s r { plain with spec := some 0 } cornerBody

/-! ### Range reduction (R197) -/

/-- 1 / (2 pi) in units of 2^-2400, rounded down. -/
def invTwoPi : Nat :=
  0x28BE60DB9391054A7F09D5F47D4D377036D8A5664F10E4107F9458EAF7AEF1586DC91B8E909374B801924BBA827464873F877AC72C4A69CFBA208D7D4BAED1213A671C09AD17DF904E64758E60D4CE7D272117E2EF7E4A0EC7FE25FFF7816603FBCBC462D6829B47DB4D9FB3C9F2C26DD3D18FD9A797FA8B5D49EEB1FAF97C5ECF41CE7DE294A4BA9AFED7EC47E357421580CC11BF1EDAEAFC33EF0826BD0D876A78E45857B986C219666157C5281A10237FF620135CC9CC41818555B29CEA3258389EF0231AD1F10670D9F3773A024AA0D6711DA2E58729B76BD13455C6414FA97FC1C14FDF8CFA0CB0B793E60C9F6EF0CF49BBDAC797BE27CE87CD72BC9FC761FC48641F1F091ABE9BB55DCB4C10CEC571852D674670F0B12B50534B174003119F618B5C78E6B1A6C0188C

/-- What a RANGE mode gives: a domain error with its NV, or the integer and the exact reduced argument, which may stand
for the value just below 1. -/
inductive RangeOut where
  | domain (nv : Bool)
  | value (n : Int) (t : Dyadic)
  | belowOne (n : Int)
  deriving DecidableEq, Repr

/-- Floor and fraction of an exact dyadic number. -/
def floorDy (d : Dyadic) : Int × Dyadic :=
  match d.e with
  | .ofNat k => (shlInt d.n k, ⟨0, 0⟩)
  | .negSucc k =>
    let p : Int := ((1 <<< (k + 1) : Nat) : Int)
    (d.n.fdiv p, ⟨d.n.fmod p, d.e⟩)

/-- `x / (2 pi)` of a finite value, as the odd multiple of half a unit just above its floor in units of 2^(e - 2400). -/
def overTwoPi (d : Dyadic) : Dyadic :=
  if d.n == 0 then ⟨0, 0⟩
  else
    let a : Int := ((d.n.natAbs * invTwoPi * 2 + 1 : Nat) : Int)
    ⟨if d.n < 0 then -a else a, d.e - 2401⟩

/-- The reduction of one value (R197). -/
def rangeOf (mode k : Nat) (x : Val) : RangeOut :=
  let bad : RangeOut := .domain (x != .nan false)
  let fin := !isNaN x && !isInf x
  let d := dyadicOf x
  match mode with
  | 0 =>
    if !fin then bad
    else
      let o := floorDy d
      .value (max (-(2 ^ 31)) (min (2 ^ 31 - 1) o.1)) o.2
  | 1 =>
    match x with
    | .fin false m e =>
      let n : Int := (Nat.log2 m : Int) + e
      .value n (dyAdd ⟨m, e - n⟩ ⟨-1, 0⟩)
    | _ => bad
  | 2 =>
    if !fin then bad
    else
      let o := floorDy (overTwoPi d)
      .value (toSigned 32 (ofInt 32 o.1)) o.2
  | 3 =>
    match x with
    | .nan _ => bad
    | .inf s => if s then .value (-1) ⟨0, 0⟩ else .belowOne 1
    | .zero _ | .fin _ _ _ =>
      let q := dyAdd ⟨d.n, d.e + toSigned 8 k⟩ ⟨1, -1⟩
      if q.n < 0 then .value (-1) ⟨0, 0⟩
      else if dyLt q ⟨1, 0⟩ then .value 0 q
      else .belowOne 1
  | _ =>
    match x with
    | .fin false m e =>
      let n : Int := ((Nat.log2 m : Int) + e).fdiv 2
      .value n ⟨m, e - 2 * n - 2⟩
    | _ => bad

/-- The greatest value of a type below 1, as bits (R197). -/
def belowOneBits (f : Fmt) : Nat := (roundMag f false (.ratio (1 <<< (f.frac + 1) - 1) 1 (-(f.frac + 1 : Int))) .rtz false 0).1

/-- The reduced argument's bits, the integer, and the flags (R197). -/
def rangeElem (f : Fmt) (mode k : Nat) (neg : Bool) (x : Val) (rnd : Rnd) (r : Nat) : Nat × Int × Flags :=
  let sg (n : Int) : Int := if neg then -n else n
  match rangeOf mode k x with
  | .domain nv => (fmtNaN f, 0, if nv then flNV else 0)
  | .belowOne n => (belowOneBits f, sg n, 0)
  | .value n t =>
    let o := if t.n == 0 then (0, 0) else roundDyadic f t.n t.e rnd false r
    if o.1 == (roundMag f false (.ratio 1 1 0) .rtz false 0).1 then (belowOneBits f, sg n, o.2 ||| flNX)
    else (o.1, sg n, o.2)

/-- RANGE's own effect (R197). -/
def rangeBody (s : State) (c : Ctx) : Res :=
  let f := fmtOrF32 c.r.type
  let m := c.r.modx.toNat
  let seed := rsrSeed c.fr.fid c.f.a.tag (fNode c.f) 0
  let outs := (elems c.r.type c.f.a.lanes).mapIdx fun e x =>
    rangeElem f (low 3 m) (low 8 c.r.lit.toNat) (bit m 3) (decodeVal f x) c.r.rnd (rsrBits seed e)
  let raised : Raised := outs.mapIdx fun e o => (e, o.2.2)
  let nt : Ty := if c.r.type == .f64 then .i64 else .i32
  evenA c (match arithTrap c.l c.r.type raised with
    | some t => .trap t
    | none =>
      doneWith s (outAppend (outPorts c [0] (packElems c.r.type (outs.map (·.1))) c.r.tagop false false [])
        (outPorts c [1] (packElems nt (outs.map fun o => ofInt (tyWidth nt) o.2.1)) c.r.tagop false false [])) (allFlags raised))

/-- RANGE (R197). -/
def execRange (r : NodeRec) (s : State) : Out := runPlain s r plain rangeBody

/-! ### Tables (R198, R199) -/

/-- The place of a table among a tile's 16, and its LOC (R198, R296). -/
def lutIndex (c : Ctx) : Nat := low 2 c.r.lit.toNat * 4 + field c.r.lit.toNat 2 2

/-- The table entry an argument selects (R198). -/
def lutEntry (r : Val) : Nat :=
  match r with
  | .nan _ | .zero _ => 0
  | .inf s => if s then 0 else 255
  | .fin s m e =>
    if s then 0
    else
      let q := (floorMul (.ratio m 1 e) 8).1
      min 255 q

/-- LUT's own effect (R185, R198). -/
def lutBody (s0 : State) (c : Ctx) : Res :=
  let k := lutIndex c
  let tb := (tileOf c.l (fTile c.f)).luts.getD k { bytes := [], defined := false }
  if !tb.defined then .trap (mkTrap 0x08 1)
  else
    let f := fmtOrF32 .f32
    let tab := (pieces 4 512 (readRun tb.bytes 0 2048)).map leNat
    let seed := rsrSeed c.fr.fid c.f.a.tag (fNode c.f) 0
    let outs := (elems .f32 c.f.a.lanes).mapIdx fun e x =>
      let v := decodeVal f x
      let i := lutEntry v
      fFma f (decodeVal f (tab.getD (2 * i) 0)) v (decodeVal f (tab.getD (2 * i + 1) 0)) c.r.rnd (rsrBits seed e)
    let raised : Raised := outs.mapIdx fun e o => (e, o.2)
    match arithTrap c.l .f32 raised with
    | some t => .trap t
    | none =>
      let p := newGroup s0
      withAccesses p.1 c.f.slot [unitBy p.1 c.f p.2 .read (locLut 0 k)] fun s =>
        doneWith s (outBoth c (packElems .f32 (outs.map (·.1))) false false [p.2]) (allFlags raised)

/-- LUT (R198). -/
def execLut (r : NodeRec) (s : State) : Out := runPlain s r plain lutBody

/-- LUT.load's own effect (R185, R198, R248). -/
def lutLoadBody (s0 : State) (c : Ctx) : Res :=
  let t := tileOf c.l (fTile c.f)
  let o := (laneAt c.f.a.lanes 0).toNat
  let k := lutIndex c
  if o % 64 != 0 then .trap (mkTrap 0x0E 0)
  else if o + 2048 > sramLimit c.l.man then .trap (mkTrap 0x08 0)
  else if badRange t o 2048 then .trap (mkTrap 0x06 0)
  else
    let p := newGroup s0
    withAccesses p.1 c.f.slot (sramBy p.1 c.f p.2 0 .read o 2048 0 ++ [unitBy p.1 c.f p.2 .write (locLut 0 k)]) fun s =>
      doneWith (modFTile s c.f fun t =>
          { t with luts := t.luts.set k { bytes := memOfBytes 0 (readRun t.sram o 2048), defined := true } })
        (outBoth c c.f.a.lanes false false [p.2]) 0

/-- LUT_LOAD (R198). -/
def execLutLoad (r : NodeRec) (s : State) : Out := runPlain s r { plain with spec := some 0 } lutLoadBody

/-! ### Exact sums (R201 to R204) -/

/-- REDUCE's own effect (R201). -/
def reduceBody (s0 : State) (c : Ctx) : Res :=
  let k := low 2 c.r.lit.toNat
  let x := xaccTerms c.r.type c.f.a.lanes (bLanes c) (c.r.arity == .dyad) fun _ => true
  evenA c (match arithTrap c.l c.r.type x.2 with
    | some t => .trap t
    | none =>
      let p := newGroup s0
      withAccesses p.1 c.f.slot [unitBy p.1 c.f p.2 addClass (locXacc k)] fun s =>
        doneWith (modFTile s c.f fun t => setXacc t k (addToXacc t k x.1)) (outBoth c c.f.a.lanes false false [p.2])
          (allFlags x.2))

/-- REDUCE (R201). -/
def execReduce (r : NodeRec) (s : State) : Out := runPlain s r (unitPolicy false) reduceBody

/-- XREAD's own effect (R64, R202): one rounding in every element of a's colour. R183 leaves the lanes of a trigger unchecked, and the
spec gives no value for the lane that an odd colour leaves over under a 64-bit TYPE: it is a free value. R64 does not say whether RSR
draws its bits once for them all: each result element `e` draws its own (DESIGN CHOICE both, log entry 44). -/
def xreadBody (s0 : State) (c : Ctx) : Res :=
  let k := low 2 c.r.lit.toNat
  let x := xaccOf (tileOf c.l (fTile c.f)) k
  let seed := rsrSeed c.fr.fid c.f.a.tag (fNode c.f) 0
  let outs := (upTo (elemCount c.r.type (laneCount c))).map fun e => xaccRead x c.r.type c.r.rnd (rsrBits seed e)
  let raised : Raised := outs.mapIdx fun e o => (e, o.2)
  match arithTrap c.l c.r.type raised with
  | some t => .trap t
  | none =>
    let p := newGroup s0
    withAccesses p.1 c.f.slot [unitBy p.1 c.f p.2 .read (locXacc k)] fun s =>
      doneWith s (outBoth c (fitLanes (laneCount c) (packElems c.r.type (outs.map (·.1)) ++ [Config.oddLane s.tick])) false false [p.2])
        (allFlags raised)

/-- XREAD (R202). -/
def execXread (r : NodeRec) (s : State) : Out := runPlain s r (unitPolicy true) xreadBody

/-- XSEND's own effect (R203): the source is read, and its value leaves for the target tile. -/
def xsendBody (s0 : State) (c : Ctx) : Res :=
  let lit := c.r.lit.toNat
  let k := low 2 lit
  let vt := if c.r.arity == .dyad then (laneAt (bLanes c) 0).toNat else field lit 4 9
  if vt ≥ c.l.man.depots * 8 then .trap (mkTrap 0x08 2)
  else
    let p := newGroup s0
    withAccesses p.1 c.f.slot [unitBy p.1 c.f p.2 .read (locXacc k)] fun s =>
      let id := s.nextId
      .later (push (modLaunch { s with nextId := id + 1 } c.f.slot fun l =>
        { l with cargo := l.cargo ++ [(id, .xsend c.f (field lit 2 2) vt (xaccOf (tileOf c.l (fTile c.f)) k) [p.2] [])] })
        (messageChan c.f.slot (fTile c.f) c.f.slot vt) (.xsendArrival c.f.slot id))

/-- XSEND (R203). -/
def execXsend (r : NodeRec) (s : State) : Out := runPlain s r (unitPolicy false) xsendBody

/-- A cargo item taken out of its launch. -/
def takeCargo (s : State) (slot id : Nat) : Option (State × Launch × Cargo) :=
  match findLaunch s slot with
  | none => none
  | some l =>
    match assoc l.cargo id with
    | none => none
    | some g => some (setLaunch s { l with cargo := assocDel l.cargo id }, { l with cargo := assocDel l.cargo id }, g)

/-- XSEND_ARRIVAL (R203): the value is added at the target, then the sender's firing completes. -/
def execXsendArrival (slot id : Nat) (s : State) : Out :=
  match takeCargo s slot id with
  | none => .next s
  | some (s1, l, .xsend f reg vt x acc _) =>
    match recOf l f with
    | none => .next s1
    | some r =>
      match ctxOf s1 f r with
      | none => .next s1
      | some c =>
        let g := acc.headD 0
        let ax := { unitBy s1 f g addClass (locXacc reg) with place := vt }
        .next (settle s1 c 0 true (withAccesses s1 slot [ax] fun s =>
          doneWith (modLaunch s slot fun l => modTile l vt fun t => setXacc t reg (addToXacc t reg x))
            (outBoth c f.a.lanes false false acc) 0))
  | some (_, _, _) => .next s

/-- XMERGE's own effect (R204). -/
def xmergeBody (s0 : State) (c : Ctx) : Res :=
  let lit := c.r.lit.toNat
  let d := low 2 lit
  let sr := field lit 2 2
  let p := newGroup s0
  withAccesses p.1 c.f.slot [unitBy p.1 c.f p.2 .read (locXacc sr), unitBy p.1 c.f p.2 addClass (locXacc d)] fun s =>
    doneWith (modFTile s c.f fun t => setXacc t d (addToXacc t d (xaccOf t sr))) (outBoth c c.f.a.lanes false false [p.2]) 0

/-- XMERGE (R204). -/
def execXmerge (r : NodeRec) (s : State) : Out := runPlain s r (unitPolicy false) xmergeBody

/-- XCLR's own effect (R204). -/
def xclrBody (s0 : State) (c : Ctx) : Res :=
  let k := low 2 c.r.lit.toNat
  let p := newGroup s0
  withAccesses p.1 c.f.slot [unitBy p.1 c.f p.2 .write (locXacc k)] fun s =>
    doneWith (modFTile s c.f fun t => setXacc t k emptyXacc) (outBoth c c.f.a.lanes false false [p.2]) 0

/-- XCLR (R204). -/
def execXclr (r : NodeRec) (s : State) : Out := runPlain s r (unitPolicy false) xclrBody

/-! ### Code tables (R205) -/

/-- DECODETAB's own effect (R205): the table stands in the slot of every courier of the launch. -/
def decodetabBody (s0 : State) (c : Ctx) : Res :=
  let lit := c.r.lit.toNat
  let k := field lit 8 2
  let p := newGroup s0
  withAccesses p.1 c.f.slot (c.l.couriers.map fun q => { unitBy p.1 c.f p.2 .write (locSlot k) with place := courierPlace q.node })
    fun s =>
      doneWith (modLaunch s c.f.slot fun l =>
          { l with couriers := l.couriers.map fun q => { q with slots := q.slots.set k (some (low 8 lit)) } })
        (outBoth c c.f.a.lanes false false [p.2]) 0

/-- DECODETAB (R205). -/
def execDecodetab (r : NodeRec) (s : State) : Out := runPlain s r { plain with spec := some 4 } decodetabBody

end Sys2Proof.Machine
end

