-- ==== Sys2Proof/Machine/TileMem.lean ====
section
/-! DEFINITION. Tile memory: loads, stores and atomics (R210 to R215), letterboxes (R216 to R221), barriers (R223 to R227),
and MODE's rate-set form with quiescence (R233, R234). -/

namespace Sys2Proof.Machine

/-! ### Tile forms (R210 to R214) -/

/-- The offsets of a tile form's units (R210); only LDT and STT have CONTIG (R207). -/
def tileOffsets (op : ReqOp) (c : Ctx) : List Nat :=
  let t := c.r.type
  let ls := c.f.a.lanes
  let contig := (op == .read || op == .write) && bit c.r.modx.toNat 0
  (upTo (unitsIn t (laneCount c))).map fun u =>
    if contig then low 32 ((laneAt ls 0).toNat + unitSize t * u) else (laneAt ls (unitLane t u)).toNat

/-- The first unit of a tile form that traps (R210): ALIGNMENT before PERMISSION. -/
def tileTrap (c : Ctx) (unit : Nat) (addrs : List Nat) : Option Trap :=
  (addrs.mapIdx fun u o => (u, o)).findSome? fun p =>
    if p.2 % unit != 0 then some ⟨0x0E, 0, unitLane c.r.type p.1⟩
    else if p.2 + unit > sramLimit c.l.man then some ⟨0x08, 0, unitLane c.r.type p.1⟩
    else none

/-- The accesses of a tile form (R287, R288). -/
def tileAccesses (s : State) (c : Ctx) (q : Req) (g : Nat) : List Access :=
  ((q.addrs.mapIdx fun u o => sramBy s c.f g 0 (reqKind q.op) o q.unit (unitLane c.r.type u)).flatten).map fun x =>
    { x with hb := unionNat x.hb q.hb }

/-- A tile form's units made in ascending order (R210). -/
def tileUnits (ty : Ty) (q : Req) (t : Tile) : Nat → List Nat → Tile × List Nat
  | _, [] => (t, [])
  | u, o :: os =>
    let m := readNat t.sram o q.unit
    let t1 := match reqNew ty q u m with
      | some v => writeSram t o (leBytes q.unit v)
      | none => t
    let p := tileUnits ty q t1 (u + 1) os
    (p.1, m :: p.2)

/-- The first unit that meets an uncorrectable error (R248), with the detail. -/
def tileBad (t : Tile) (q : Req) : Option (Nat × Nat) :=
  (q.addrs.mapIdx fun u o => (u, o)).findSome? fun p =>
    match q.op with
    | .write => if badPartial t p.2 q.unit then some (p.1, 1) else none
    | _ => if badRange t p.2 q.unit then some (p.1, 0) else none

/-- The record of a firing that reads a bad word and emits dead letters (R248), posted: the state and its ticket. -/
def postDlout (s : State) (f : Firing) (lane : Nat) : State × Nat :=
  let n := match findLaunch s f.slot with
    | some l => l.tickets
    | none => 0
  (postRecord s f.slot { recordOf s f ⟨0x06, 0, lane⟩ with dlout := true, opens := false }, n)

/-- A tile form performed (R210 to R214): races first, then the errors of R248. -/
def tilePerform (s0 : State) (c : Ctx) (q : Req) : Res :=
  let p := newGroup s0
  withAccesses p.1 c.f.slot (tileAccesses p.1 c q p.2) fun s =>
    let t := tileOf c.l (fTile c.f)
    let carry := unionNat q.hb [p.2]
    let fin (s : State) : State := markPerformed s c.f.slot q (unionNat (firingHb c.f) carry)
    match tileBad t q, q.op with
    | some (u, _), .read =>
      let d := postDlout s c.f (unitLane c.r.type u)
      doneWith (fin d.1) (outBoth c (poisonLanes (laneCount c) d.2) true false carry) 0
    | some (u, d), _ => .trap ⟨0x06, d, unitLane c.r.type u⟩
    | none, _ =>
      let r := tileUnits c.r.type q t 0 q.addrs
      doneWith (fin (modFTile s c.f fun _ => r.1)) (reqOut c q r.2 carry) 0

/-- Lane checks of CASR's operand b (R214). -/
def casTrap (c : Ctx) : Option Trap :=
  if (bLanes c).length < (if wide c.r.type then 4 else 2) then some (mkTrap 0x04 2) else none

/-- A tile form's own effect: checks, then its access at once or in its place in the chain (R210, R212). -/
def tileBody (op : ReqOp) (s : State) (c : Ctx) : Res :=
  let unit := unitSize c.r.type
  let all := tileOffsets op c
  let addrs := if op == .cas then all.take 1 else all
  if wide c.r.type && laneCount c % 2 == 1 then .trap (mkTrap 0x04 1)
  else
    match if op == .cas then casTrap c else none with
    | some t => .trap t
    | none =>
      match tileTrap c unit addrs with
      | some t => .trap t
      | none =>
        let q := newReq s c op .sram addrs unit (bLanes c) true false
        if waveNum c.r == 0x3FF then tilePerform s c q
        else
          match outputTrap c 0 with
          | some t => .trap t
          | none => .later (acceptReq s c.f.slot q)

/-- A memory node: last posts pass, dead letters make no access (R30, R124). -/
def runMem (r : NodeRec) (spec : Option Nat) (s : State) (body : State → Ctx → Res) : Out :=
  runNode s r { plain with spec := spec } (fun _ => 0) lpOut memDl body

/-- LDT (R211). -/
def execLdt (r : NodeRec) (s : State) : Out := runMem r (some 0) s (tileBody .read)

/-- STT (R211). -/
def execStt (r : NodeRec) (s : State) : Out := runMem r (some 0) s (tileBody .write)

/-! ### Device forms (R215) -/

/-- A request handed to the region store buffer (R265); its output leaves now where it carries nothing (R215, R271). In a
speculative task a held request's output leaves when it enters the mailbag (R285). -/
def deviceAccept (s : State) (c : Ctx) (q : Req) (early : Bool) : Res :=
  match outputTrap c 0 with
  | some t => .trap t
  | none =>
    if early && !speculative s c.f.a.fh then
      doneWith (acceptReq s c.f.slot { q with emitted := true }) (outBoth c oneZero false false []) 0
    else .later (acceptReq s c.f.slot q)

/-- The device form of an atomic (R215): one unit at the address in lanes 1:0 of a. -/
def deviceAtom (op : ReqOp) (s : State) (c : Ctx) : Res :=
  if laneCount c < 2 then .trap (mkTrap 0x04 2)
  else if wide c.r.type && (bLanes c).length % 2 == 1 then .trap (mkTrap 0x04 1)
  else
    match if op == .cas then casTrap c else none with
    | some t => .trap t
    | none =>
      let early := match op with
        | .atomP _ => !bit c.r.modx.toNat 3
        | _ => false
      deviceAccept s c (newReq s c op .device [lanes64 c.f.a.lanes 0] (unitSize c.r.type) (bLanes c) true false) early

/-- SPACE of an atomic (R207). -/
def spaceBit (r : NodeRec) : Bool := bit r.modx.toNat 4

/-- An atomic in the space its record names (R213, R215). -/
def runAtom (op : ReqOp) (r : NodeRec) (s : State) : Out :=
  if spaceBit r then runMem r none s (deviceAtom op) else runMem r (some 0) s (tileBody op)

/-- ATOMP (R213, R215). -/
def execAtomp (r : NodeRec) (s : State) : Out := runAtom (.atomP (low 3 r.modx.toNat)) r s

/-- ATOMR (R213, R215). -/
def execAtomr (r : NodeRec) (s : State) : Out := runAtom (.atomR (low 3 r.modx.toNat)) r s

/-- CASR (R214, R215). -/
def execCasr (r : NodeRec) (s : State) : Out := runAtom .cas r s

/-! ### Barrier objects (R223 to R227) -/

/-- The access of a party to a barrier object (R223). -/
def barrierBy (s : State) (f : Firing) (g vtile : Nat) (kind : AccKind) (bidx : Nat) : Access :=
  { unitBy s f g kind (barrierLoc bidx) with place := vtile }

/-- Fields of a barrier object (R223): EXPECT, COUNT, PHASE, POISONPH, POISONIDX by word number. -/
def barWord (t : Tile) (bidx k : Nat) : Nat := readNat t.sram (64 * bidx + 4 * k) 4

/-- A word of a barrier object set. -/
def setBarWord (t : Tile) (bidx k v : Nat) : Tile := writeSram t (64 * bidx + 4 * k) (leBytes 4 v)

/-- `record` of R227; of equal phases the lower origin stays. -/
def recordPoison (l : Launch) (t : Tile) (bidx ph idx : Nat) : Tile :=
  let oldPh := barWord t bidx 3
  let oldIdx := barWord t bidx 4
  if oldPh == 0 || ph < oldPh || (ph == oldPh && idx != oldIdx && poisonMin l oldIdx idx == idx) then
    setBarWord (setBarWord t bidx 3 ph) bidx 4 idx
  else t

/-- The trap that an arrival of `n` bytes would meet (R225). -/
def arrivalTrap (t : Tile) (bidx n : Nat) : Option Trap :=
  let expect := barWord t bidx 0
  let count := barWord t bidx 1
  if badRange t (64 * bidx) 20 then some (mkTrap 0x06 0)
  else if expect == 0 then some (mkTrap 0x0F 2)
  else if count + n > expect then some (mkTrap 0x0F 0)
  else if count + n == expect && barWord t bidx 2 == 0xFFFFFFFF then some (mkTrap 0x0F 1)
  else none

/-- An arrival of `n` bytes that traps nowhere (R225): what it releases joins its phase (R226). -/
def arrivalMade (l : Launch) (t : Tile) (bidx n : Nat) (poison : Option Nat) (hb : List Nat) : Tile :=
  let expect := barWord t bidx 0
  let count := barWord t bidx 1
  let phase := barWord t bidx 2
  let t1 := match poison with
    | some idx => recordPoison l t bidx (phase + 1) idx
    | none => t
  let t2 := if n == 0 then t1
    else if count + n == expect then setBarWord (setBarWord t1 bidx 2 (phase + 1)) bidx 1 0
    else setBarWord t1 bidx 1 (count + n)
  { t2 with barriers := if n == 0 then t2.barriers else t2.barriers ++ [⟨bidx, phase + 1, hb⟩] }

/-- An arrival of `n` bytes (R225). -/
def arrival (l : Launch) (t : Tile) (bidx n : Nat) (poison : Option Nat) (hb : List Nat) : Except Trap Tile :=
  match arrivalTrap t bidx n with
  | some e => .error e
  | none => .ok (arrivalMade l t bidx n poison hb)

/-- BIDX of a record (R207). -/
def bidxOf (r : NodeRec) : Nat := low 16 r.lit.toNat

/-- BARINIT's own effect (R224). Its output carries nothing of its own, as R291 does not list it (log entry 29, DEDUCED). -/
def barinitBody (s0 : State) (c : Ctx) : Res :=
  let e := (laneAt c.f.a.lanes 0).toNat
  let b := bidxOf c.r
  if e == 0 then .trap (mkTrap 0x0F 2)
  else
    let p := newGroup s0
    withAccesses p.1 c.f.slot [barrierBy p.1 c.f p.2 (fTile c.f) .write b] fun s =>
      doneWith (modFTile s c.f fun t =>
          { writeSram t (64 * b) (leBytes 64 e) with barriers := t.barriers.filter fun x => x.bidx != b })
        (outBoth c c.f.a.lanes false false []) 0

/-- BARINIT (R224). -/
def execBarinit (r : NodeRec) (s : State) : Out := runPlain s r { plain with spec := some 3 } barinitBody

/-- ARRIVE's effect, of a healthy firing or a dead letter (R225, R227). -/
def arriveBody (poison : Bool) (s0 : State) (c : Ctx) : Res :=
  let b := bidxOf c.r
  let k := field c.r.lit.toNat 16 16
  let n := if k != 0 then k else if anyDl c.f then 0 else (laneAt c.f.a.lanes 0).toNat
  let p := newGroup s0
  let hb := unionNat (firingHb c.f) [p.2]
  match arrival c.l (tileOf c.l (fTile c.f)) b n (if poison then some (poisonOf c) else none) hb with
  | .error t => .trap t
  | .ok t =>
    withAccesses p.1 c.f.slot [barrierBy p.1 c.f p.2 (fTile c.f) addClass b] fun s =>
      doneWith (modFTile s c.f fun _ => t) (outBoth c (passLanes c) poison false [p.2]) 0

/-- ARRIVE (R225): a dead letter counts and records its poison (R227). -/
def execArrive (r : NodeRec) (s : State) : Out :=
  runNode s r { plain with spec := some 3 } (fun _ => 0) lpOut
    (fun s c => if speculative s c.f.a.fh then .trap (mkTrap 0x0B 3) else arriveBody true s c) (arriveBody false)

/-- The target phase of a healthy WAITCNT (R226). -/
def waitTarget (r : NodeRec) (shape : List Nat) (a : Token) (b : Option Token) : Nat :=
  if r.arity == .dyad then ((b.map fun t => laneAt t.lanes 0).getD 0).toNat
  else if shape.isEmpty then 1 else low (shape.headD 0) a.tag.toNat + 1

/-- Whether a WAITCNT's phase has come (R226). -/
def waitDue (l : Launch) (f : Firing) (r : NodeRec) : Bool :=
  waitTarget r (shapeOf l (fNode f)) f.a f.b ≤ barWord (tileOf l (fTile f)) (bidxOf r) 2

/-- WAITCNT's own effect (R226, R227). -/
def waitcntBody (s0 : State) (c : Ctx) : Res :=
  let b := bidxOf c.r
  let t := tileOf c.l (fTile c.f)
  let p := waitTarget c.r c.shape c.f.a c.f.b
  let ph := barWord t b 3
  if !waitDue c.l c.f c.r then .hold
  else
    let hb := (t.barriers.filter fun x => x.bidx == b && x.phase ≤ p).foldl (fun h x => unionNat h x.hb) []
    let out (s : State) : Res :=
      if ph != 0 && ph ≤ p then doneWith s (outBoth c (poisonLanes (laneCount c) (barWord t b 4)) true false hb) 0
      else doneWith s (outBoth c c.f.a.lanes false false hb) 0
    if p == 0 then out s0
    else
      let g := newGroup s0
      let x := barrierBy g.1 c.f g.2 (fTile c.f) .sync b
      withAccesses g.1 c.f.slot [{ x with hb := unionNat x.hb hb }] out

/-- WAITCNT (R226). -/
def execWaitcnt (r : NodeRec) (s : State) : Out := runPlain s r { plain with spec := some 3 } waitcntBody

/-! ### Letterboxes (R216 to R221) -/

/-- A letterbox of a tile. -/
def lbOf (t : Tile) (k : Nat) : Letterbox := t.lbs.getD k emptyLb

/-- A letterbox changed. -/
def modLb (t : Tile) (k : Nat) (f : Letterbox → Letterbox) : Tile := { t with lbs := modAt t.lbs k f }

/-- The offset of message `q` (R216). -/
def slotOffset (b : Letterbox) (q : Nat) : Nat := b.base + (q % b.slots) * b.slotb

/-- Messages received and not freed, and written and not received, in distances modulo 2^16 (R216). -/
def unfreed (b : Letterbox) : Nat := (b.rseq - b.fseq).toNat

/-- The letterbox arc declared with a node as its FROM (R208, R217). -/
def arcFrom (l : Launch) (node : Nat) : Option ArcDecl := l.man.arcs.find? fun a => a.src == node && a.kind != 0

/-- LB, VTILE and BIDX of a SEND (R207). -/
def sendLb (r : NodeRec) : Nat := low 6 r.lit.toNat
/-- VTILE of a SEND. -/
def sendVtile (r : NodeRec) : Nat := field r.lit.toNat 6 9
/-- The barrier a SEND arrives at, where BAR is set. -/
def sendBar (r : NodeRec) : Option Nat := if bit r.modx.toNat 0 then some (field r.lit.toNat 15 16) else none

/-- Whether an arc lets a SEND go (R218, R376): a trap, a hold, or go. -/
def arcGate (x : Arc) : Except Trap Bool :=
  match x.bind with
  | .mismatch => .error (mkTrap 0x08 13)
  | .ended => .error (mkTrap 0x08 11)
  | .unbound => .ok false
  | .bound | .delay _ | .broken _ => .ok (x.credit != 0)

/-- What orders the write of message `q` after the message it replaces was freed (R221). -/
def freedHb (x : Arc) (slots q : Nat) : List Nat := if q < slots then [] else x.frees.getD (q - slots) []

/-- A SEND leaves for its target tile: one credit is taken and the message numbered (R217, R218). `held` marks one that a
commit releases (R346). -/
def launchSend (s : State) (slot : Nat) (f : Firing) (r : NodeRec) (x : Arc) (held : Bool) : State :=
  let id := s.nextId
  let g : Cargo := .send f (sendLb r) (sendVtile r) (laneBytes f.a.lanes) (sendBar r) held (freedHb x x.slots x.sent)
  push (modLaunch { s with nextId := id + 1 } slot fun l =>
      modArc { l with cargo := l.cargo ++ [(id, g)] } x.arc fun x => { x with credit := x.credit - 1, sent := x.sent + 1 })
    (messageChan slot (fTile f) x.peerSlot (sendVtile r)) (.messageWrite slot id)

/-- A held SEND waits for mailbag lines, then its output leaves (R334, R236). -/
def holdSend (s : State) (f : Firing) : State :=
  let id := s.nextId
  pushAlone (modLaunch { s with nextId := id + 1 } f.slot fun l => { l with cargo := l.cargo ++ [(id, .sendHeld f false)] })
    (.mailbagEntry f.slot id)

/-- Whether a task still has SENDs to release before the ones it fires at the frontier (R217). -/
def sendsLeft (s : State) (l : Launch) (fh : Nat) : Bool :=
  match taskOf s fh with
  | none => false
  | some t => match findFrame s t with
    | none => false
    | some f => (tileOf l f.vtile).sends.any fun h => h.ctx == f.tcidx

/-- SEND's own effect (R218, R236, R376). -/
def sendBody (s : State) (c : Ctx) : Res :=
  match arcFrom c.l (fNode c.f) with
  | none => .hold
  | some a =>
    match arcOf c.l a.arc with
    | none => .hold
    | some x =>
      let bound := x.bind == .bound
      let spec := speculative s c.f.a.fh
      if wide c.r.type && laneCount c % 2 == 1 then .trap (mkTrap 0x04 1)
      else if bound && 4 * laneCount c > x.slotb then .trap (mkTrap 0x10 1)
      else
        match outputTrap c 1 with
        | some t => .trap t
        | none =>
          if spec then .later (holdSend s c.f)
          else
            match arcGate x with
            | .error t => .trap t
            | .ok go => if go && !sendsLeft s c.l c.f.a.fh then .later (launchSend s c.f.slot c.f c.r x false) else .hold

/-- SEND (R218). -/
def execSend (r : NodeRec) (s : State) : Out := runNode s r { plain with stream := true, domain := true } (fun _ => 1) lpOut dlOut sendBody

/-- The first lane of the unit that a lane stands in (R238). -/
def laneOfUnit (ty : Ty) (lane : Nat) : Nat := if wide ty then lane / 2 * 2 else lane

/-- The checks of a message's write and of its arrival that are no race checks (R218). -/
def messageTrap (target : Launch) (t : Tile) (bytes : List Byte) (bar : Option Nat) : Option Trap :=
  match bar with
  | none => none
  | some i => if 64 * i + 64 > sramLimit target.man then some (mkTrap 0x08 0) else arrivalTrap t i bytes.length

/-- The write of a message into its slot, and then its arrival, as one step (R218): every check first. `target` is the launch
written to, `edges` what the freeing of the slot carries. In another launch's letterbox those edges alone order the write (R289). -/
def writeMessage (s0 : State) (f : Firing) (ty : Ty) (target : Launch) (vt lb : Nat) (bytes : List Byte) (bar : Option Nat)
    (edges : List Nat) : Except (Trap ⊕ (Access × Access)) (State × Nat) :=
  let t := tileOf target vt
  let b := lbOf t lb
  let q := b.wseq.toNat
  let o := slotOffset b q
  let p := newGroup s0
  let mine (x : Access) : Access :=
    { x with place := vt, hb := if target.slot == f.slot then unionNat x.hb edges else edges }
  let barAcc := match bar with
    | some i => [mine (barrierBy p.1 f p.2 vt addClass i)]
    | none => []
  let rel := unionNat (unionNat (firingHb f) edges) [p.2]
  let xs := (upTo (unitsIn ty (bytes.length / 4))).flatMap fun u =>
    sramBy p.1 f p.2 0 .write (o + unitSize ty * u) (unitSize ty) (unitLane ty u)
  match messageTrap target t bytes bar with
  | some e => .error (.inl e)
  | none =>
    match checkAccesses p.1 target.slot (xs.map mine ++ barAcc) with
    | .error e => .error (.inr e)
    | .ok s =>
      if badPartial t o bytes.length then .error (.inl ⟨0x06, 1, laneOfUnit ty (badPart t o bytes.length)⟩)
      else
        let t1 := modLb (writeSram t o bytes) lb fun b => { b with wseq := b.wseq + 1, wrote := b.wrote ++ [(q, rel)] }
        let t2 := match bar with
          | some i => arrivalMade target t1 i bytes.length none rel
          | none => t1
        .ok (modLaunch s target.slot fun l => modTile l vt fun _ => t2, p.2)

/-- The credit of a SEND whose write failed returns (R218). -/
def returnCredit (s : State) (slot arc : Nat) : State :=
  modLaunch s slot fun l => modArc l arc fun x => { x with credit := x.credit + 1, sent := x.sent - 1 }

/-- A held SEND's write that fails at commit ends the launch (R346), and a race of it posts both records (R296). -/
def failCommit (s : State) (f : Firing) (e : Trap ⊕ (Access × Access)) : State :=
  match e with
  | .inl t => postEnd s f.slot [] { recordOf s f t with defer := true }
  | .inr p => postEnd s f.slot [companionOf p.1 p.2] { recordOf s f ⟨0x09, raceDetail p.1 p.2, p.2.lane⟩ with defer := true }

/-- A SEND's failure at its target: a trap, or, of one that a commit released, the end of its launch (R218, R346). -/
def failSend (s : State) (f : Firing) (held : Bool) (e : Trap ⊕ (Access × Access)) : State :=
  match held, e with
  | true, _ => failCommit s f e
  | false, .inl t => trapFiring s f t
  | false, .inr p => raceFiring s f p

/-- A message from tile `src` of a launch for tile `dst`, which its arc no longer reaches: a switch discards it, which ends the sending
launch with fault status and is recorded in the host error log (R260, R397). The rules give no code for that end: it is a free value
(DESIGN CHOICE, log entry 39). -/
def discardFlit (s : State) (l : Launch) (src dst : Nat) : State :=
  let d := dst / 8
  endFault
    (logEntry s
      { kind := 2, part := l.part, queue := 0, lslot := l.slot,
        value := BitVec.ofNat 64 (d + receivingPort s src d <<< 8), user := 0 })
    l.slot (low 8 (Config.discardCode s.tick)) 0 none

/-- A SEND's message discarded (R260). -/
def discardMessage (s : State) (l : Launch) (f : Firing) (x : Arc) : State := discardFlit s l (globalTile l (fTile f)) x.peerTile

/-- MESSAGE_WRITE (R218): the write at the target tile, then the SEND's output; a failed check returns the credit and traps. -/
def execMessageWrite (slot id : Nat) (s : State) : Out :=
  match takeCargo s slot id with
  | some (s1, l, .send f lb vt bytes bar held hb) =>
    match recOf l f, arcFrom l (fNode f) with
    | some r, some a =>
      match arcOf l a.arc with
      | none => .next s1
      | some x =>
        if a.kind == 2 && x.bind != .bound then .next (discardMessage s1 l f x)
        else
          match reqCtx s1 f r, findLaunch s1 x.peerSlot with
          | some c, some tl =>
            match writeMessage s1 f r.type tl vt lb bytes bar hb with
            | .ok (s2, g) => if held then .next s2 else .next (settle s2 c 1 true (doneWith s2 (outBoth c oneZero false false [g]) 0))
            | .error e => .next (failSend (returnCredit s1 slot a.arc) f held e)
          | some _, none => .next (discardMessage s1 l f x)
          | none, _ => .next s1
    | _, _ => .next s1
  | _ => .next s

/-- Whether a node of a manifest is a ROUND node. -/
def isRound (l : Launch) (node : Nat) : Bool :=
  match nodeWord l node with
  | some w => field w 88 8 == 0xD0
  | none => false

/-- The node address of an arc's TO. -/
def arcDst (a : ArcDecl) : Nat := a.dst / 2

/-- The virtual tile of an arc's letterbox (R208). -/
def arcTile (l : Launch) (a : ArcDecl) : Nat :=
  if isRound l (arcDst a) then
    match nodeWord l a.src with
    | some w => field w 6 9
    | none => 0
  else arcDst a / 512

/-- Messages freed (R220): FSEQ advances, and the notice goes to the arc's producer, where the arc has one (R376). -/
def freeMessages (s : State) (l : Launch) (vt lb n : Nat) (hb : List Nat) : State :=
  if n == 0 then s
  else
    let b := lbOf (tileOf l vt) lb
    let s1 := modLaunch s l.slot fun l => modTile l vt fun t => modLb t lb fun b =>
      { b with fseq := b.fseq + BitVec.ofNat 16 n, wrote := b.wrote.filter fun w => n ≤ (BitVec.ofNat 16 w.1 - b.fseq).toNat }
    match l.man.arcs.find? fun a => a.arc == b.arc with
    | none => s1
    | some a =>
      let id := s1.nextId
      let send (g : Cargo) : State :=
        push (modLaunch { s1 with nextId := id + 1 } l.slot fun l => { l with cargo := l.cargo ++ [(id, g)] })
          ⟨6, l.slot, a.arc, 1 <<< 20⟩ (.freedSlotNotice l.slot id)
      if a.kind == 2 then
        match (arcOf l a.arc).filter fun x => x.bind == .bound with
        | some x => send (.freed x.peerSlot x.peerArc n hb)
        | none => s1
      else send (if isRound l a.src then .popped a.src vt lb n hb else .freed l.slot a.arc n hb)

/-- RECV's letterbox. -/
def recLb (r : NodeRec) : Nat := low 6 r.lit.toNat

/-- What the write of the message a RECV takes releases (R221). -/
def messageHb (b : Letterbox) : List Nat :=
  match b.wrote.find? fun w => w.1 == b.rseq.toNat with
  | some w => w.2
  | none => []

/-- RECV completed: RSEQ advances, and AUTOFREE frees the message (R219). -/
def takeMessage (s : State) (c : Ctx) (g : Nat) (hb : List Nat) : State :=
  let v := fTile c.f
  let k := recLb c.r
  let s1 := modFTile s c.f fun t => modLb t k fun b => { b with rseq := b.rseq + 1 }
  if bit c.r.modx.toNat 1 then
    match findLaunch s1 c.f.slot with
    | none => s1
    | some l => freeMessages s1 l v k 1 (unionNat (unionNat (firingHb c.f) hb) [g])
  else s1

/-- The first lane of the lowest unit from an offset on that meets an uncorrectable error (R238). -/
def badLane (t : Tile) (ty : Ty) (o lanes : Nat) : Nat :=
  unitLane ty (((upTo (unitsIn ty lanes)).find? fun u => badRange t (o + unitSize ty * u) (unitSize ty)).getD 0)

/-- RECV's own effect (R219, R221, R248). -/
def recvBody (s0 : State) (c : Ctx) : Res :=
  let v := fTile c.f
  let t := tileOf c.l v
  let b := lbOf t (recLb c.r)
  let n := 4 * laneCount c
  let data := bit c.r.modx.toNat 0
  let o := slotOffset b b.rseq.toNat
  if data && wide c.r.type && laneCount c % 2 == 1 then .trap (mkTrap 0x04 1)
  else if data && n > b.slotb then .trap (mkTrap 0x10 1)
  else if b.rseq == b.wseq then .hold
  else
    let hb := messageHb b
    let p := newGroup s0
    let carry := unionNat hb [p.2]
    if !data then
      doneWith (takeMessage p.1 c p.2 hb) (outBoth c [BitVec.ofNat 32 o, BitVec.ofNat 32 b.rseq.toNat] false false carry) 0
    else
      let xs := (upTo (unitsIn c.r.type (laneCount c))).flatMap fun u =>
        sramBy p.1 c.f p.2 0 .read (o + unitSize c.r.type * u) (unitSize c.r.type) (unitLane c.r.type u)
      withAccesses p.1 c.f.slot (xs.map fun x => { x with hb := unionNat x.hb hb }) fun s =>
        if badRange t o n then
          let d := postDlout s c.f (badLane t c.r.type o (laneCount c))
          doneWith (takeMessage d.1 c p.2 hb) (outBoth c (poisonLanes (laneCount c) d.2) true false carry) 0
        else
          doneWith (takeMessage s c p.2 hb) (outBoth c (bytesLanes (readBytes t.sram o n)) false false carry) 0

/-- RECV (R219). -/
def execRecv (r : NodeRec) (s : State) : Out := runPlain s r { plain with spec := some 3, stream := true } recvBody

/-- The count of a FREESLOT (R220). -/
def freeCount (c : Ctx) : Nat :=
  let n := field c.r.lit.toNat 8 9
  if n != 0 then n else (laneAt c.f.a.lanes 0).toNat

/-- FREESLOT's own effect (R220). -/
def freeslotBody (s : State) (c : Ctx) : Res :=
  let b := lbOf (tileOf c.l (fTile c.f)) (recLb c.r)
  let n := freeCount c
  if n > unfreed b then .trap (mkTrap 0x10 2)
  else
    doneWith (freeMessages s c.l (fTile c.f) (recLb c.r) n (firingHb c.f)) (outBoth c c.f.a.lanes false false []) 0

/-- FREESLOT (R220). -/
def execFreeslot (r : NodeRec) (s : State) : Out :=
  runNode s r { plain with spec := some 3, stream := true } freeCount lpOut dlOut freeslotBody

/-- A courier credit entry changed (R313). -/
def addCredit (q : Courier) (vt tgt n : Nat) (hb : List Nat) : Courier :=
  { q with credits := q.credits.map fun k =>
      if k.vtile == vt && k.tgt == tgt then { k with returns := k.returns ++ [(n, hb)] } else k }

/-- The producer's end of an arc that a notice of a launch goes to, where the arc still joins the two (R376). -/
def noticeEnd (s : State) (slot ps arc : Nat) : Option Arc :=
  ((findLaunch s ps).bind fun l => arcOf l arc).filter fun x => x.bind == .bound && x.peerSlot == slot

/-- A freed-slot notice whose producer has ended on its way (R260): the far tile is that of the consumer's arc. -/
def discardNotice (s : State) (l : Launch) (ps arc : Nat) : State :=
  match l.man.arcs.find? fun a => (arcOf l a.arc).any fun x => x.peerSlot == ps && x.peerArc == arc with
  | some a => discardFlit s l (globalTile l (arcTile l a)) (((arcOf l a.arc).map (·.peerTile)).getD 0)
  | none => s

/-- FREED_SLOT_NOTICE (R220, R313): credit returns to the producer's tile, while the arc still joins the two (R376), or to the
courier that holds the target; a notice to a launch that has ended is discarded (R260). -/
def execFreedSlotNotice (slot id : Nat) (s : State) : Out :=
  match takeCargo s slot id with
  | some (s1, l, .freed ps arc n hb) =>
    .next (if (noticeEnd s1 slot ps arc).isSome then
        modLaunch s1 ps fun l => modArc l arc fun x => { x with credit := x.credit + n, frees := x.frees ++ List.replicate n hb }
      else discardNotice s1 l ps arc)
  | some (s1, _, .popped node vt tgt n hb) => .next (modLaunch s1 slot fun l => modCourier l node fun q => addCredit q vt tgt n hb)
  | _ => .next s

/-! ### Modes (R233, R234) -/

/-- Opcode and record of the node a token goes to. -/
def destRec (l : Launch) (t : Token) : Option (Nat × NodeRec) :=
  match nodeWord l (nodeAddr (destDesk t.dest) (destNode t.dest)) with
  | none => none
  | some w => parseNode w

/-- Whether a token goes to a MODE node. -/
def atMode (l : Launch) (t : Token) : Bool := destOpcode l t == 0xB6

/-- Whether a waiting token is one that a MODE node holds (R233): the reconfiguring form holds pairs, and an operand that
waits for its partner is not held. -/
def modeAlone (l : Launch) (t : Token) : Bool :=
  match destRec l t with
  | some (opc, r) => opc == 0xB6 && r.arity == .mono
  | none => false

/-- Whether a ready firing is one that a MODE node holds: a last post, a dead letter and a draining frame's pass at once. -/
def modeWaits (s : State) (l : Launch) (r : Ready) : Bool :=
  atMode l r.firing.a && !r.firing.a.lp && !anyDl r.firing && !speculative s r.firing.a.fh &&
    ((findFrame s r.firing.a.fh).map fun f => f.state != .draining).getD false

/-- The tokens that MODE nodes hold: in ways, beside the latch, in spill slots, and paired with an address (R234, R439). -/
def modeHeld (s : State) (l : Launch) : List Token :=
  (l.desks.flatMap fun d => d.waiting.filter (modeAlone l) ++ (d.ready.filter (modeWaits s l)).map (·.firing.a) ++
    (d.aside.filter fun x => modeAlone l x.tok).map (·.tok)) ++
    (l.spill.map (·.tok)).filter (modeAlone l)

/-- How many tokens those are, the addresses of pairs included. -/
def modeCount (s : State) (l : Launch) : Nat :=
  (modeHeld s l).length + (l.desks.map fun d => (d.ready.filter fun r => modeWaits s l r && r.firing.b.isSome).length).sum

/-- Whether no task of a launch is unfinished (R234, R329), and every write of a finished one is performed (R346). -/
def tasksQuiet (s : State) (l : Launch) : Bool :=
  (l.tiles.all fun t => t.lines.isEmpty && t.sends.isEmpty && t.tasks.all fun k => k.phase == .free || k.phase == .finished) &&
    !s.spawns.any fun r => r.slot == l.slot && r.pending

/-- Whether a launch is quiescent (R234). -/
def quiescent (s : State) (l : Launch) : Bool :=
  ((s.frames.filter fun f => f.slot == l.slot).map (·.tokens)).sum == modeCount s l &&
    l.desks.all (fun d => d.ready.all (modeWaits s l)) &&
    l.tiles.all (fun t => t.ctxs.isEmpty && t.tq.isEmpty && t.lbs.all fun b => b.wseq == b.fseq) && tasksQuiet s l &&
    l.couriers.all (fun q => q.state == .free || q.state == .idle) && l.reqs.isEmpty && l.cargo.isEmpty

/-- The order in which held MODE tokens act: (FID, tag, node) (R234). -/
def modeLt (s : State) (t u : Token) : Bool :=
  if tokenLt s t u then true else if tokenLt s u t then false
  else decide (nodeAddr (destDesk t.dest) (destNode t.dest) < nodeAddr (destDesk u.dest) (destNode u.dest))

/-- QUIESCENCE_DETECTED (R234): the held MODE tokens will act, in order. -/
def execQuiescenceDetected (slot : Nat) (s : State) : Out :=
  match findLaunch s slot with
  | none => .next s
  | some l =>
    if quiescent s l && l.modeQueue.isEmpty && l.phase == .running then
      .next (setLaunch s { l with modeQueue := sortBy (modeLt s) (modeHeld s l) })
    else .next s

/-- Whether a firing is the next MODE to act. -/
def modeNext (l : Launch) (f : Firing) : Bool :=
  match l.modeQueue with
  | t :: _ => t == f.a
  | [] => false

/-- The monitors' phases under a rate set (R232, R234). -/
def loadPhases (l : Launch) : Launch :=
  { l with tiles := l.tiles.map fun t => { t with monitors := t.monitors.map fun m =>
      if m.kind == 2 then
        { m with phases := match rateOf l m.arc with
            | some d => (if m.role == 0 then d.prod else d.cons).length
            | none => 0 }
      else m } }

/-- MODE's own effect in its rate-set form (R234). -/
def modeBody (s : State) (c : Ctx) : Res :=
  if !modeNext c.l c.f then .hold
  else
    doneWith (modLaunch s c.f.slot fun l => loadPhases { l with active := low 4 c.r.lit.toNat, modeQueue := l.modeQueue.drop 1 })
      (outBoth c c.f.a.lanes false false []) 0

/-- MODE (R234). -/
def execMode (r : NodeRec) (s : State) : Out := runPlain s r { plain with spec := some 3 } modeBody

end Sys2Proof.Machine
end

