-- ==== Sys2Proof/Machine/DevMem.lean ====
section
/-! DEFINITION. Device and host memory: the request nodes (R269 to R272), the events of a request's life (R265 to R268, R279,
R281), invalidations (R283), semaphores (R372), and what a load meets in a lost line (R400). -/

namespace Sys2Proof.Machine

/-! ### Requests of nodes (R269 to R272) -/

/-- The SPEC_ILLEGAL detail of a request with HOST set (R342). -/
def hostSpec (r : NodeRec) : Option Nat := if hostBit r then some 2 else none

/-- The space a record names (R262). -/
def recSpace (r : NodeRec) : Space := if hostBit r then .host else .device

/-- A request of a node with its output precise (R265); `early` where it may leave at acceptance. -/
def requestBody (op : ReqOp) (addrs : Ctx → List Nat) (data : Ctx → List Lane) (early : Ctx → Bool)
    (lanes : Ctx → Option Trap) (s : State) (c : Ctx) : Res :=
  match lanes c with
  | some t => .trap t
  | none => deviceAccept s c (newReq s c op (recSpace c.r) (addrs c) (unitSize c.r.type) (data c) true false) (early c)

/-- Units from a base address on (R269). -/
def baseAddrs (c : Ctx) (n : Nat) : List Nat :=
  (upTo n).map fun u => lanes64 c.f.a.lanes 0 + unitSize c.r.type * u

/-- One address for each lane pair of a (R270). -/
def pairAddrs (c : Ctx) : List Nat := (upTo (laneCount c / 2)).map fun u => lanes64 c.f.a.lanes (2 * u)

/-- Lanes 1:0 of a are needed for an address (R269). -/
def needAddr (c : Ctx) : Option Trap := if laneCount c < 2 then some (mkTrap 0x04 2) else none

/-- R14 on the units of b (R14, R271). -/
def evenB (c : Ctx) : Option Trap :=
  if wide c.r.type && (bLanes c).length % 2 == 1 then some (mkTrap 0x04 1) else none

/-- The first of two traps. -/
def firstTrap (x y : Option Trap) : Option Trap :=
  match x with
  | some t => some t
  | none => y

/-- LDM (R269). -/
def execLdm (r : NodeRec) (s : State) : Out :=
  runMem r (hostSpec r) s
    (requestBody .read (fun c => baseAddrs c (unitsIn c.r.type (c.r.modx.toNat + 1))) (fun _ => []) (fun _ => false) needAddr)

/-- GATHER (R270). -/
def execGather (r : NodeRec) (s : State) : Out :=
  runMem r (hostSpec r) s
    (requestBody .read pairAddrs (fun _ => []) (fun _ => false)
      fun c => if laneCount c % 2 == 1 then some (mkTrap 0x04 2) else none)

/-- DONEF of a store (R262). -/
def doneBit (c : Ctx) : Bool := bit c.r.modx.toNat 3

/-- STM (R271). -/
def execStm (r : NodeRec) (s : State) : Out :=
  runMem r (hostSpec r) s
    (requestBody .write (fun c => baseAddrs c (unitsIn c.r.type (bLanes c).length)) bLanes (fun c => !doneBit c)
      fun c => firstTrap (needAddr c) (evenB c))

/-- SCATTER (R271). -/
def execScatter (r : NodeRec) (s : State) : Out :=
  runMem r (hostSpec r) s
    (requestBody .write pairAddrs bLanes (fun c => !doneBit c)
      fun c => firstTrap (evenB c)
        (if laneCount c % 2 == 1 || unitsIn c.r.type (bLanes c).length != laneCount c / 2 then some (mkTrap 0x04 0) else none))

/-- DONE (R272): a chain member that makes no access. -/
def execDone (r : NodeRec) (s : State) : Out :=
  runMem r none s fun s c =>
    match outputTrap c 0 with
    | some t => .trap t
    | none => .later (acceptReq s c.f.slot (newReq s c .done .device [] 4 [] true false))

/-! ### The life of a request (R265, R267, R279, R281) -/

/-- What a request that may issue comes to, by its space (R210, R265, R272, R334). -/
def issueReq (s : State) (c : Ctx) (q : Req) : State :=
  let slot := c.f.slot
  match q.op, q.space with
  | .done, _ =>
    let s1 := markPerformed s slot q (unionNat (firingHb c.f) q.hb)
    if q.emitted then s1 else settle s1 c 0 true (doneWith s1 (outBoth c c.f.a.lanes false false q.hb) 0)
  | _, .sram =>
    match tilePerform s c q with
    | .trap t => trapReq s slot q t
    | .race e x => raceReq s slot q (e, x)
    | .hold => s
    | .later s1 => s1
    | .done s1 es flags => complete (rateAdvance s1 c es 0) c es flags
  | op, .device =>
    let held := match op with
      | .write | .atomP _ => (specTask s q.firing).isSome
      | _ => false
    pushAlone (setReq s slot { q with state := .issued }) (if held then .mailbagEntry slot q.id else .memoryPerform slot q.id)
  | _, _ => pushAlone (setReq s slot { q with state := .issued }) (.memoryPerform slot q.id)

/-- Whether the unit that makes a request works (R148): the memory node of a frozen tile does not. -/
def reqGoes (l : Launch) (q : Req) : Bool := q.space != .sram || (tileOf l (fTile q.firing)).state != .halted

/-- WAVE_ISSUE (R265): a buffered request whose predecessor is performed, or that has none, goes to its home. -/
def execWaveIssue (slot id : Nat) (s : State) : Out :=
  match findLaunch s slot with
  | none => .next s
  | some l =>
    match findReq l id with
    | none => .next s
    | some q =>
      match q.state, waveReady l q, recOf l q.firing with
      | .buffered, some hb, some r =>
        if !reqGoes l q then .next s
        else
          match reqCtx s q.firing r with
          | none => .next (dropReq s slot id)
          | some c => .next (issueReq s c { q with hb := hb })
      | _, _, _ => .next s

/-- MEMORY_PERFORM (R267, R273): the home makes the request, or looks at a waiting semaphore again (R372). -/
def execMemoryPerform (slot id : Nat) (s : State) : Out :=
  match findLaunch s slot with
  | none => .next s
  | some l =>
    match findReq l id with
    | none => .next s
    | some q =>
      if q.state == .issued || (q.state == .waiting && q.op == .semWait) then .next (performReq s slot q false) else .next s

/-- SEMWAIT_HOST_POLL (R372): a wait on a host semaphore is read again. -/
def execSemwaitHostPoll (slot id : Nat) (s : State) : Out :=
  match findLaunch s slot with
  | none => .next s
  | some l =>
    match findReq l id with
    | none => .next s
    | some q =>
      if q.state == .waiting && q.op == .semWait && q.space == .host then .next (performReq s slot q false) else .next s

/-- A request in a walk or a translation made again (R279, R281): its frame is released first. -/
def remake (s : State) (slot : Nat) (q : Req) (direct : Bool) : State :=
  performReq (setReq (endWait s slot q.firing.a.fh) slot { q with state := .issued }) slot { q with state := .issued } direct

/-- WALK_COMPLETE (R279): the pages are cached, the frame is released and the request made again. -/
def execWalkComplete (slot id : Nat) (s : State) : Out :=
  match findLaunch s slot with
  | none => .next s
  | some l =>
    match findReq l id with
    | none => .next s
    | some q =>
      if q.state == .walking && q.space == .device then .next (remake (walkPages s (portOf l q.firing) l.part q.addrs) slot q true) else .next s

/-- The host page a request waits for: its first without a translation, and the unit. -/
def waitPage (s : State) (l : Launch) (q : Req) : Option (Nat × Nat) :=
  match checkUnits s l (portOf l q.firing) true false (needOf q.op) q.unit (fun u => u) 0 q.addrs with
  | .miss u vpn => some (u, vpn)
  | .trap _ | .lost _ | .ok _ => none

/-- A host page that something waits for (R279): its partition, PASID and number. -/
abbrev HostPage := Nat × Nat × Nat

/-- The host page that a request waits for, and the unit: the page it asked for (R281), else its first without a translation. -/
def waitsFor (s : State) (l : Launch) (q : Req) : Option (Nat × Nat) :=
  match q.page with
  | some v => some (q.addrs.findIdx fun a => a >>> pageBits true == v, v)
  | none => waitPage s l q

/-- The requests of a launch, in a state, that wait for a host page (R281), with the waiting unit. -/
def pageWaiters (s : State) (l : Launch) (st : ReqState) (pg : HostPage) : List (Req × Nat) :=
  if !l.rcd.pasidv || l.part != pg.1 || l.rcd.pasid != pg.2.1 then []
  else l.reqs.filterMap fun q =>
    if q.state == st && q.space == .host then
      match waitsFor s l q with
      | some (u, v) => if v == pg.2.2 then some (q, u) else none
      | none => none
    else none

/-- A translation fault of a waiting request (R281): its frame's wait ends and it traps. -/
def failPage (s : State) (l : Launch) (q : Req) (u detail : Nat) : State :=
  let lane := match recOf l q.firing with
    | some r => unitLane r.type u
    | none => u
  trapReq (endWait s l.slot q.firing.a.fh) l.slot q ⟨0x07, detail, lane⟩

/-- The same step for every launch's requests that wait for the page in state `s0`, taken from state `s`. -/
def forWaiters (s0 s : State) (st : ReqState) (pg : HostPage) (f : State → Launch → Req → Nat → State) : State :=
  (s0.launches.flatMap fun l => (pageWaiters s0 l st pg).map fun p => (l, p)).foldl
    (fun s x => f s x.1 x.2.1 x.2.2) s

/-- The translation that a granted answer brings (R281). -/
def grantedPage (pg : HostPage) (frame : Nat) (r w : Bool) : TlbEntry := ⟨true, pg.1, pg.2.1, pg.2.2, frame, r, w⟩

/-- What an ATS answer does to the requests that wait for it (R281): the page is cached at each one's port and the request made
again, or a page request is sent, or they fail. -/
def atsRequests (s : State) (pg : HostPage) (answer : AtsAnswer) : State :=
  match answer with
  | .granted frame r w =>
    let s1 := forWaiters s s .walking pg fun s l q _ => cachePage s (portOf l q.firing) (grantedPage pg frame r w)
    forWaiters s s1 .walking pg fun s l q _ => remake s l.slot q false
  | .notPresent =>
    forWaiters s { s with pages := if s.pages.contains pg then s.pages else s.pages ++ [pg] } .walking pg fun s l q _ =>
      modFrame (setReq s l.slot { q with state := .paging, page := some pg.2.2 }) q.firing.a.fh fun f =>
        if f.state == .parkedWait then { f with fcode := 0x1A } else f
  | .refused => forWaiters s s .walking pg fun s l q u => failPage s l q u 6

/-- The page requests that a function has outstanding (R385): 4,096 at most, in the order they arose; the others wait to be
sent. -/
def outstanding (s : State) (part : Nat) : List HostPage := (s.pages.filter fun p => p.1 == part).take 4096

/-- A request whose page has come translated again (R281): it waits for an answer, or for none where another's has been cached. -/
def retranslate (s : State) (l : Launch) (q0 : Req) : State :=
  let q := { q0 with state := .walking, page := none }
  if (waitPage s l q).isSome then setReq s l.slot q else remake s l.slot q false

/-- What a PRI response does to the requests that wait for the page (R281): translated again, or failed. -/
def priRequests (s : State) (pg : HostPage) (success : Bool) : State :=
  let s1 := { s with pages := s.pages.filter fun p => p != pg }
  if success then forWaiters s s1 .paging pg fun s l q _ => retranslate s l q
  else forWaiters s s1 .paging pg fun s l q u => failPage s l q u 5

/-! ### Invalidation (R283) -/

/-- Whether `n` bytes at an address meet a range. -/
def meetsRange (a n base bytes : Nat) : Bool := decide (a < base + bytes) && decide (base < a + n)

/-- Whether a scope covers a cached page. -/
def scopeCovers (sc : InvalScope) (e : TlbEntry) : Bool :=
  let n := 1 <<< pageBits e.host
  match sc with
  | .part p base bytes => !e.host && e.part == p && meetsRange (e.vpn * n) n base bytes
  | .pasid p base bytes => e.host && e.pasid == p && meetsRange (e.vpn * n) n base bytes

/-- Whether a device address lies in a page that a range removes (R275, R283). -/
def inRemoved (a base bytes : Nat) : Bool := meetsRange (a / 65536 * 65536) 65536 base bytes

/-- What was translated under the pages that a scope removes and is not yet performed (R283): mailbag lines (R334), and waits at
their home (R372). -/
def scopeWork (s : State) (sc : InvalScope) : List (Nat × Nat) :=
  match sc with
  | .pasid _ _ _ => []
  | .part p base bytes =>
    (s.launches.filter fun l => l.part == p).flatMap fun l =>
      (l.tiles.flatMap fun t =>
        (t.lines.filter fun x => (x.kind == 1 || x.kind == 2) && x.vas.any fun a => inRemoved a base bytes).map fun x => (l.slot, x.order)) ++
      (l.reqs.filter fun q => !q.places.isEmpty && q.addrs.any fun a => inRemoved a base bytes).map fun q => (l.slot, q.id)

/-- An invalidation begun (R283): matching entries go from every cache, and what was translated under them is waited for. -/
def beginInval (s : State) (id : Nat) (sc : InvalScope) (queue : Option Nat) : State :=
  pushAlone { s with
    dieTlb := s.dieTlb.filter fun e => !scopeCovers sc e.2
    tileTlb := s.tileTlb.filter fun e => !scopeCovers sc e.2
    invals := s.invals ++ [{ id, scope := sc, waits := scopeWork s sc, queue }] } (.invalidationComplete id)

/-- The ranges of a placed launch: those of its manifest, and of one that it is staging (R235). -/
def launchRanges (o : Launch) : List TensorDecl := o.man.tensors ++ ((o.staged.map (·.tensors)).getD [])

/-- Whether a placed launch of a partition maps part of a range (R282). -/
def rangeMapped (s : State) (part base bytes : Nat) : Bool :=
  s.launches.any fun l => l.part == part && l.phase != .closed && (launchRanges l).any fun t => meetsRange t.base t.bytes base bytes

/-- The page table entries that the walk of an address reads (R275, R277), as far as each names the next table. -/
def walkEntries (s : State) (part va : Nat) : List Nat :=
  let a0 := ((s.parts[part]?).map (·.root)).getD 0 + 8 * field va 40 12
  let e0 := readNat s.mem a0 8
  let a1 := field e0 15 37 <<< 15 + 8 * field va 28 12
  let e1 := readNat s.mem a1 8
  if !bit e0 0 then [a0] else if !bit e1 0 || bit e1 6 then [a0, a1] else [a0, a1, field e1 15 37 <<< 15 + 8 * field va 16 12]

/-- The page table entries of the pages of a range. -/
def rangeEntries (s : State) (part base bytes : Nat) : List Nat :=
  (rowPieces 16 base bytes).flatMap fun p => walkEntries s part p.1

/-- The page table entries that no change may touch (R282): those of the pages that placed launches of a partition map. -/
def mappedEntries (s : State) (part : Nat) : List Nat :=
  (s.launches.filter fun l => l.part == part && l.phase != .closed).flatMap fun l =>
    (launchRanges l).flatMap fun t => rangeEntries s part t.base t.bytes

/-- Page table entries that Oatin writes with an invalidation (R282): entries of the partition's tables for the named range, where no
placed launch of the partition maps any of it. -/
def writeTables (s : State) (sc : InvalScope) (ptes : List (Nat × Dword)) : State :=
  match sc with
  | .pasid _ _ _ => s
  | .part p base bytes =>
    if rangeMapped s p base bytes then s
    else
      let all (es : List (Nat × Dword)) : State := es.foldl (fun s e => storeMem s e.1 (leBytes 8 e.2.toNat)) s
      let named := rangeEntries (all ptes) p base bytes
      let kept := mappedEntries s p
      all (ptes.filter fun e => named.contains e.1 && !kept.contains e.1)

/-- INVALIDATION (R282, R283), requested by the host through ATS, or by Oatin with the page table entries it changes. -/
def execInvalidation (id : Nat) (remap : Remap) (s : State) : Out :=
  .next (beginInval (writeTables s remap.scope remap.entries) id remap.scope none)

/-- Whether everything an invalidation waits for is performed (R283). -/
def invalDone (s : State) (v : Inval) : Bool :=
  v.waits.all fun w => match findLaunch s w.1 with
    | none => true
    | some l => !((l.tiles.any fun t => t.lines.any fun x => x.order == w.2) || l.reqs.any fun q => q.id == w.2)

/-! ### Semaphores (R372) -/

/-- The checks of a semaphore's address (R320, R372): lanes, bits 62:52, alignment. -/
def semTrap (c : Ctx) : Option Trap :=
  let a := lanes64 c.f.a.lanes 0
  if laneCount c < 2 || (bLanes c).length < 2 then some (mkTrap 0x04 2)
  else if field a 52 11 != 0 then some (mkTrap 0x08 4)
  else if a % 8 != 0 then some (mkTrap 0x0E 0)
  else none

/-- SEMSIG and SEMWAIT hand their request to its home (R372): no wave. -/
def semBody (op : ReqOp) (s : State) (c : Ctx) : Res :=
  let a := lanes64 c.f.a.lanes 0
  match firstTrap (semTrap c) (outputTrap c 0) with
  | some t => .trap t
  | none =>
    .later (acceptReq s c.f.slot (newReq s c op (if bit a 63 then .host else .device) [low 52 a] 8 (bLanes c) false false))

/-- SEMSIG (R372). -/
def execSemsig (r : NodeRec) (s : State) : Out :=
  runPlain s r { plain with spec := some 3 } (semBody (if bit r.modx.toNat 3 then .semAdd else .semSet))

/-- SEMWAIT (R372). -/
def execSemwait (r : NodeRec) (s : State) : Out := runPlain s r { plain with spec := some 3 } (semBody .semWait)

end Sys2Proof.Machine
end

