-- ==== Sys2Proof/Machine/Handler.lean ====
section
/-! DEFINITION. The trap instructions and the handler's (R244 to R247), the withdrawal of a parked frame (R240), and the simple
package instructions (R371, R373). -/

namespace Sys2Proof.Machine

/-! ### NOP, RDSYS, TAILL (R371, R373) -/

/-- NOP (R371). -/
def execNop (r : NodeRec) (s : State) : Out :=
  runPlain s r plain fun s c => doneWith s (outBoth c c.f.a.lanes false false []) 0

/-- RDSYS (R175, R371). -/
def execRdsys (r : NodeRec) (s : State) : Out :=
  runPlain s r plain fun s c =>
    let v := sysValue s c.l c.fr (fTile c.f) (ctxTag c) (laneCount c) (low 8 c.r.lit.toNat)
    if v.2 && laneCount c % 2 == 1 then .trap (mkTrap 0x04 1)
    else doneWith s (outBoth c ((upTo (laneCount c)).map (sysLane v)) false false []) 0

/-- TAILL's own effect (R373). -/
def taillBody (s : State) (c : Ctx) : Res :=
  let a := lanes64 c.f.a.lanes 0
  if laneCount c < 2 then .trap (mkTrap 0x04 2)
  else if field a 52 11 != 0 then .trap (mkTrap 0x08 4)
  else if a % 8 != 0 then .trap (mkTrap 0x0E 0)
  else if c.l.tails.length ≥ 8 then .trap (mkTrap 0x08 12)
  else
    let t : Tail := { fh := c.fr.fh, fid := c.fr.fid, ffill := c.fr.ffill, tag := c.f.a.tag, fill := c.f.a.fill, node := fNode c.f, addr := a }
    doneWith (modLaunch s c.f.slot fun l => { l with tails := l.tails ++ [t] }) (outBoth c oneZero false false []) 0

/-- TAILL (R373). -/
def execTaill (r : NodeRec) (s : State) : Out := runPlain s r { plain with spec := some 4 } taillBody

/-! ### TRAP and BRK (R245) -/

/-- TRAP (R245). -/
def execTrap (r : NodeRec) (s : State) : Out :=
  runPlain s r plain fun s c =>
    if c.r.arity == .dyad && !bit (laneAt (bLanes c) 0).toNat 0 then doneWith s (outBoth c c.f.a.lanes false false []) 0
    else .trap (mkTrap 0x14 c.r.lit.toNat)

/-- The source of an operand that a retry of a BREAKPOINT delivers again: its firing passes it on (R245). -/
def passSource : Nat := 1 <<< 21

/-- BRK (R245). -/
def execBrk (r : NodeRec) (s : State) : Out :=
  runPlain s r plain fun s c =>
    if c.f.a.src == passSource then doneWith s (outBoth c c.f.a.lanes false false []) 0
    else .trap (mkTrap 0x13 c.r.lit.toNat)

/-! ### Resolving a ticket (R246, R284) -/

/-- The tags of the tokens that a node sends to DSTA, by its tag rule (R103, R246): own rules push, pop or set fields, a GATEREL's
credit and the copies of a COPY or an ACCRD have theirs, a creating node's token there is no token of this frame. -/
def tagsToA (opc : Nat) (c : Ctx) : Except Trap (List (Nat × Nat)) :=
  let t := ctxTag c
  let f := c.f.a.fill
  let one (x : Except Trap (Nat × Nat)) : Except Trap (List (Nat × Nat)) := x.map fun tf => [tf]
  let copies (w n : Nat) : Except Trap (List (Nat × Nat)) :=
    if f + w > 64 then .error (mkTrap 0x01 1) else .ok ((upTo n).map fun j => (t <<< w ||| j, f + w))
  match opc with
  | 0x80 => one (pushTag t f (c.r.modx.toNat + 1) (fieldValue c))
  | 0x81 => one (tagRule c.shape t f .pop)
  | 0x82 => one (tagBump c.shape t f c.r.modx.toNat)
  | 0x83 => one (setField c.shape t f c.r.modx.toNat (fieldValue c))
  | 0x85 | 0x86 | 0x87 => .ok []
  | 0x91 => one (mergeTag c)
  | 0x93 => .ok ((gaterelCredit c false).map fun e => (e.tag, e.fill))
  | 0x94 => copies (c.r.modx.toNat + 1) c.r.lit.toNat
  | 0xC2 => copies (field c.r.lit.toNat 14 3 + 1) (accrdTokens c.r.type (field c.r.lit.toNat 8 6 + 1))
  | _ => one (tagRule c.shape t f c.r.tagop)

/-- The tags of the tokens that a node sends to DSTB (R103): those of DSTA where its rule serves both. -/
def tagsToB (opc : Nat) (c : Ctx) : Except Trap (List (Nat × Nat)) :=
  let one (op : TagOp) : Except Trap (List (Nat × Nat)) := (tagRule c.shape (ctxTag c) c.f.a.fill op).map fun tf => [tf]
  match opc with
  | 0x80 | 0x81 | 0x82 | 0x83 | 0x91 => tagsToA opc c
  | 0x90 => one (steerRule c.r)
  | _ => one c.r.tagop

/-- The output tags of a node's tag rule with the port of each, for a resolution (R103, R246); a destination of none has none. -/
def resolveTags (opc : Nat) (c : Ctx) : Except Trap (List (Nat × (Nat × Nat))) :=
  let pick (port : Nat) (x : Except Trap (List (Nat × Nat))) : Except Trap (List (Nat × (Nat × Nat))) :=
    if portDest c port == 0x7FFFF then .ok [] else x.map fun ts => ts.map fun tf => (port, tf)
  match pick 0 (tagsToA opc c), pick 1 (tagsToB opc c) with
  | .error t, _ => .error t
  | _, .error t => .error t
  | .ok a, .ok b => .ok (a ++ b)

/-- Nodes whose activation no substitute can stand for (R246): FRAME, SPAWN, SPAWNT, COPY, ACCRD. -/
def noSubstitute (opc : Nat) : Bool := [0x85, 0x86, 0x87, 0x94, 0xC2].contains opc

/-- The node record of a node with its opcode. -/
def opRecOf (l : Launch) (f : Firing) : Option (Nat × NodeRec) :=
  match nodeWord l (fNode f) with
  | none => none
  | some w => parseNode w

/-- A ticket marked resolved. -/
def closeTicket (s : State) (slot fh ticket : Nat) : State :=
  releaseFrame (modFrame (modLaunch s slot fun l =>
      { l with faults := l.faults.map fun r => if r.ticket == ticket then { r with opens := false } else r })
    fh fun f => { f with opens := f.opens.filter fun t => t != ticket }) slot fh

/-- A round that a resolution ends (R325): its courier is idle again. -/
def endCourier (s : State) (slot : Nat) (round : Option Nat) : State :=
  match round with
  | none => s
  | some node => modLaunch s slot fun l => modCourier l node fun q => { q with state := .idle, firing := none }

/-- An activation consumed by a resolution (R140, R246, R284): tokens of the given lanes leave, unless its node has emitted;
the ORD counter and the chain advance, the operands are consumed. -/
def resolveFiring (s : State) (slot : Nat) (c : Ctx) (opc : Nat) (rec : FaultRec) (tags : List (Nat × (Nat × Nat)))
    (lanes : List Lane) (dl : Bool) (hb : List Nat) : State :=
  let chain := decide (0xA0 ≤ opc) && decide (opc ≤ 0xA9) && waveNum c.r != 0x3FF
  let s1 := endCourier s slot rec.round
  let s2 := if chain then passChain s1 c.f c.r else s1
  if rec.req.isSome then s2
  else complete s2 c (tags.map fun t => emission c t.1 lanes t.2 dl false hb) 0

/-- Kept operands delivered again as arrivals (R246). -/
def deliverAgain (s : State) (slot : Nat) (pass : Bool) (f : Firing) : State :=
  let mark (t : Token) : Token := if pass then { t with src := passSource } else t
  let s1 := sendToken s slot (mark f.a)
  match f.b with
  | some b => sendToken s1 slot (mark b)
  | none => s1

/-- A retry's effect (R246): requests are made again, rounds resume, operands or carried tokens are delivered again. -/
def retryTicket (s : State) (slot : Nat) (rec : FaultRec) : State :=
  match rec.req, rec.round, rec.firing with
  | some q, _, _ => pushAlone (modLaunch s slot fun l => { l with reqs := l.reqs ++ [{ q with state := .issued }] }) (.memoryPerform slot q.id)
  | none, some node, _ => modLaunch s slot fun l => modCourier l node fun q => { q with state := .running }
  | none, none, some f => if rec.deadlock then s else deliverAgain s slot (rec.code == 0x13) f
  | none, none, none => rec.carried.foldl (fun s t => sendToken s slot t) s

/-- RESUME's effect on an open ticket, with its status (R246): 0 done, 2 refused. -/
def resolveTicket (s : State) (slot : Nat) (rec : FaultRec) (form : Nat) (sub : List Lane) (hb : List Nat) : State × Nat :=
  let close (s : State) : State × Nat := (closeTicket s slot rec.fh rec.ticket, 0)
  if form == 1 then close (retryTicket s slot rec)
  else if rec.deadlock then (if form == 0 then (s, 2) else close s)
  else
    match rec.firing with
    | none =>
      if form == 0 then (s, 2)
      else close (rec.carried.foldl (fun s t => sendToken s slot
        (makeToken t.dest t.fh t.tag t.fill true t.lp t.sp (poisonLanes t.lanes.length rec.ticket) t.src t.hb)) s)
    | some f =>
      match findLaunch s slot with
      | none => (s, 1)
      | some l =>
        match opRecOf l f with
        | none => (s, 1)
        | some (opc, r) =>
          match reqCtx s f r with
          | none => (s, 1)
          | some c =>
            match resolveTags opc c with
            | .error _ => (s, 2)
            | .ok tags =>
              if form == 0 then
                if noSubstitute opc || (wide r.type && sub.length % 2 == 1) then (s, 2)
                else close (resolveFiring s slot c opc rec tags sub false hb)
              else close (resolveFiring s slot c opc rec tags (poisonLanes (laneCount c) rec.ticket) true [])

/-- The record of an open ticket of a launch. -/
def openTicket (l : Launch) (ticket : Nat) : Option FaultRec := l.faults.find? fun r => r.ticket == ticket && r.opens

/-- RESUME's own effect (R244, R246). -/
def resumeBody (form : Nat) (s : State) (c : Ctx) : Res :=
  if c.f.a.fh != c.l.office then .trap (mkTrap 0x08 3)
  else
    let ticket := (laneAt (if form == 0 then bLanes c else c.f.a.lanes) 0).toNat
    let p := match openTicket c.l ticket with
      | none => (s, 1)
      | some rec => resolveTicket s c.f.slot rec form c.f.a.lanes (firingHb c.f)
    doneWith p.1 (outBoth c [BitVec.ofNat 32 p.2] false false []) 0

/-- RESUME substitute (R246). -/
def execResumeSubstitute (r : NodeRec) (s : State) : Out := runPlain s r plain (resumeBody 0)

/-- RESUME retry (R246). -/
def execResumeRetry (r : NodeRec) (s : State) : Out := runPlain s r plain (resumeBody 1)

/-- RESUME poison (R246). -/
def execResumePoison (r : NodeRec) (s : State) : Out := runPlain s r plain (resumeBody 2)

/-! ### KILLF (R247) -/

/-- The open tickets of a frame resolved by its killing (R247): what they keep is discarded, their rounds end. -/
def killTickets (s : State) (slot fh : Nat) : State :=
  match findLaunch s slot with
  | none => s
  | some l =>
    let mine := l.faults.filter fun r => r.opens && r.fh == fh
    let s1 := mine.foldl (fun s r => endCourier (consume s fh (keptTokens r)) slot r.round) s
    modLaunch s1 slot fun l =>
      { l with faults := l.faults.map fun r => if r.fh == fh then { r with opens := false } else r }

/-- The deferred faults of an ordinary frame of a task dropped with what they keep; the task's context counts them no longer. -/
def killDeferred (s : State) (slot fh : Nat) : State :=
  match findLaunch s slot with
  | none => s
  | some l =>
    let mine := l.deferred.filter fun p => p.2.fh == fh
    let s1 := consume (setLaunch s { l with deferred := l.deferred.filter fun p => p.2.fh != fh }) fh
      (mine.map fun p => keptTokens p.2).sum
    match (taskOf s fh).bind (findFrame s) with
    | none => s1
    | some t => modTaskCtx s1 t fun x => { x with defer := x.defer - mine.length }

/-- Whether a waiting request stands in the chain instance of a member whose ticket is open (R265, R284). -/
def waitsOnTicket (l : Launch) (fh : Nat) (q : Req) : Bool :=
  q.firing.a.fh == fh && q.state == .buffered && q.wave != 0x3FF &&
    l.faults.any fun r => r.opens && r.fh == fh && r.tag == q.firing.a.tag && r.fill == q.firing.a.fill &&
      match r.firing.bind (opRecOf l) with
      | some (opc, n) => decide (0xA0 ≤ opc) && decide (opc ≤ 0xA9) && waveNum n != 0x3FF
      | none => false

/-- The waiting requests of a killed frame discarded (R284): those of the instances of its faulted requests. Every other
request of it completes. -/
def killRequests (s : State) (slot fh : Nat) : State :=
  match findLaunch s slot with
  | none => s
  | some l =>
    let gone := l.reqs.filter (waitsOnTicket l fh)
    consume (modLaunch s slot fun l => { l with reqs := l.reqs.filter fun q => !(gone.any fun g => g.id == q.id) })
      fh ((gone.map reqKeeps).sum)

/-- The first record of a launch that is no companion (R242, R296). -/
def firstRecord (l : Launch) : Option FaultRec := l.faults.find? fun r => !(r.code == 0x09 && bit r.detail 31)

/-- What a frame's killing ends beside the frame (R247, R284): the waiting requests of its faulted instances, its tickets. -/
def killWork (s : State) (slot fh : Nat) : State := killTickets (killRequests s slot fh) slot fh

/-- A frame killed (R247): a task frame as an abort discards it, the root with its launch; a frame whose handle has returned
already has only its tickets left. -/
def killFrame (s : State) (slot fh : Nat) : State :=
  match findLaunch s slot with
  | none => s
  | some l =>
    let s0 := setLaunch s { l with faulted := true }
    match findFrame s fh with
    | none => killWork s0 slot fh
    | some f =>
      match f.kind with
      | .root =>
        match firstRecord l with
        | some r => endFault s0 slot r.code r.detail (some r)
        | none => endFault s0 slot f.fcode 0 none
      | .ordinary => drainFrame (killDeferred (killWork s0 slot fh) slot fh) slot fh
      | .task =>
        let s1 := discardTasks ((covered s0 fh).foldl (fun s g => killWork s slot g.fh) s0) slot fh
        { s1 with spawns := s1.spawns.filter fun r => r.fh != fh }

/-- KILLF's own effect (R244, R247). -/
def killfBody (s : State) (c : Ctx) : Res :=
  if c.f.a.fh != c.l.office then .trap (mkTrap 0x08 3)
  else
    match openTicket c.l (laneAt c.f.a.lanes 0).toNat with
    | none => doneWith s (outBoth c [1] false false []) 0
    | some rec => doneWith (killFrame s c.f.slot rec.fh) (outBoth c [0] false false []) 0

/-- KILLF (R247). -/
def execKillf (r : NodeRec) (s : State) : Out := runPlain s r plain killfBody

/-! ### Withdrawal (R240) -/

/-- Entries of the park pool for a desk (R240). -/
def parkLimit : Nat := 128

/-- The desk whose activation a ticket keeps the operands of (R240): that of its firing, a round's ROUND node among them (R325), or
that of its arrival. -/
def keptDesk (r : FaultRec) : Nat := (r.firing.map (·.vdesk)).getD r.vdesk

/-- The entries of the park pool that the operands of a faulting activation take (R240); of a deadlock none, whose operands stay
where they wait. -/
def keptEntries (r : FaultRec) : Nat :=
  if r.deadlock then 0 else match r.firing with
    | some f => operandCount f
    | none => r.carried.length

/-- The unresolved faults of a launch, deferred ones included (R239, R343). -/
def unresolved (l : Launch) : List FaultRec := (l.faults.filter fun r => r.opens) ++ l.deferred.map (·.2)

/-- The entries of a desk's pool that faulting activations have (R240). -/
def keptAt (l : Launch) (vdesk : Nat) : Nat :=
  (((unresolved l).filter fun r => r.pooled && keptDesk r == vdesk).map keptEntries).sum

/-- The entries left in a desk's park pool (R240). -/
def poolLeft (l : Launch) (vdesk : Nat) : Nat := parkLimit - ((deskOf l vdesk).park.length + keptAt l vdesk)

/-- Whether a desk's park pool has an entry free (R240). -/
def poolRoom (l : Launch) (vdesk : Nat) : Bool := decide (0 < poolLeft l vdesk)

/-- A token put in the park pool of its desk; none where the pool is full. -/
def poolToken (s : State) (slot vdesk : Nat) (t : Token) : Option State :=
  match findLaunch s slot with
  | none => none
  | some l =>
    if poolRoom l vdesk then some (setLaunch s (modDesk l vdesk fun d => { d with park := d.park ++ [t] })) else none

/-- Whether a spill slot of a frame holds a token (R36), or a queued write will make it (R136). -/
def slotHeld (l : Launch) (vdesk fh slot spilld : Nat) : Bool :=
  (l.spill.any fun p => p.fh == fh && p.slot == slot) ||
    (deskOf l vdesk).spill.any fun o => match o with
      | .write t => t.fh == fh && slotOf spilld t == slot
      | .probe _ | .back _ => false

/-- A waiting token withdrawn (R240): to its spill slot where it is free, else to the pool; its parity is checked as it moves
(R12). None where the pool is full. -/
def withdrawToken (s : State) (slot vdesk : Nat) (t : Token) : Option State :=
  match parityFault s slot t, findLaunch s slot, findFrame s t.fh with
  | some s1, _, _ => some s1
  | none, some l, some f =>
    let k := slotOf f.spilld t
    if slotHeld l vdesk t.fh k f.spilld then poolToken s slot vdesk t
    else
      some (setLaunch s (modDesk { l with spill := l.spill ++ [{ fh := t.fh, slot := k, tok := t, withdrawn := true }] } vdesk fun d => setCount d (setOf t) (· + 1)))
  | _, _, _ => none

/-- The waiting tokens of a frame withdrawn from its desk's ways; one that finds no room stays. -/
def withdrawWays (s : State) (slot vdesk : Nat) (ts : List Token) : State :=
  ts.foldl (fun s t =>
    let s1 := modLaunch s slot fun l => modDesk l vdesk fun d => { d with waiting := d.waiting.erase t }
    (withdrawToken s1 slot vdesk t).getD s) s

/-- Tokens read from their ways (R12) and put in the pool together; none where not all of them find room. -/
def poolTokens (s : State) (slot vdesk : Nat) : List Token → Option State
  | [] => some s
  | t :: ts =>
    match parityFault s slot t with
    | some s1 => poolTokens s1 slot vdesk ts
    | none => (poolToken s slot vdesk t).bind fun s1 => poolTokens s1 slot vdesk ts

/-- The ready firings of a frame withdrawn, each operand to the pool (R240); one that finds no room stays. -/
def withdrawReady (s : State) (slot vdesk : Nat) (rs : List Ready) : State :=
  rs.foldl (fun s r =>
    let s1 := modLaunch s slot fun l => modDesk l vdesk fun d => { d with ready := d.ready.erase r }
    (poolTokens s1 slot vdesk (operands r.firing)).getD s) s

/-- What the spill path has brought back for a frame withdrawn (R240): a token that waits as a waiting token, the others to the
pool; what finds no room stays. -/
def withdrawAside (s : State) (slot vdesk : Nat) (xs : List Aside) : State :=
  xs.foldl (fun s x =>
    let s1 := modLaunch s slot fun l => modDesk l vdesk fun d => { d with aside := d.aside.erase x }
    (if x.ready || x.partner.isSome then poolTokens s1 slot vdesk (x.tok :: x.partner.toList)
      else withdrawToken s1 slot vdesk x.tok).getD s) s

/-- A fault of a frame whose operands have no entries of a desk's pool yet (R240). -/
def unpooled (vdesk fh : Nat) (r : FaultRec) : Bool := !r.pooled && r.fh == fh && keptDesk r == vdesk && keptEntries r != 0

/-- Faults of a frame given their entries of a desk's pool, in order, while there are some left (R240). -/
def poolRecords (vdesk fh : Nat) : Nat → List FaultRec → List FaultRec
  | _, [] => []
  | left, r :: rs =>
    if unpooled vdesk fh r && r.opens && decide (keptEntries r ≤ left) then
      { r with pooled := true } :: poolRecords vdesk fh (left - keptEntries r) rs
    else r :: poolRecords vdesk fh left rs

/-- The operands of a frame's faulting activations given entries of a desk's pool (R240). -/
def poolFaults (l : Launch) (vdesk fh : Nat) : Launch :=
  let l1 := { l with faults := poolRecords vdesk fh (poolLeft l vdesk) l.faults }
  let rs := poolRecords vdesk fh (poolLeft l1 vdesk) (l1.deferred.map (·.2))
  { l1 with deferred := (l1.deferred.zip rs).map fun p => (p.1.1, p.2) }

/-- Whether a desk still holds what it must withdraw of a frame (R240): its tokens, or a faulting activation's operands. -/
def holdsStill (l : Launch) (d : Desk) (fh : Nat) : Bool :=
  (d.waiting.any fun t => t.fh == fh) || (d.ready.any fun r => r.firing.a.fh == fh) || (d.aside.any fun x => x.tok.fh == fh) ||
    (unresolved l).any (unpooled d.vdesk fh)

/-- Whether a withdrawal that found the pool full holds a desk's latch (R240): the desk accepts no arrival while it does. -/
def withdrawing (l : Launch) (d : Desk) : Bool := d.noticed.any (holdsStill l d)

/-- PARK_NOTICE (R240): the desk withdraws the frame's tokens, which it issues no longer, with the operands of its faulting
activations; what finds the pool full is tried again. -/
def execParkNotice (slot vdesk fh : Nat) (s : State) : Out :=
  match findLaunch s slot, findFrame s fh with
  | some l, some f =>
    if !parked f then .next s
    else
      let d := deskOf l vdesk
      let s0 := setLaunch s (modDesk (poolFaults l vdesk fh) vdesk fun d => { d with noticed := unionNat d.noticed [fh] })
      let s1 := withdrawWays s0 slot vdesk (d.waiting.filter fun t => t.fh == fh)
      let s2 := withdrawReady s1 slot vdesk (d.ready.filter fun r => r.firing.a.fh == fh)
      let s3 := withdrawAside s2 slot vdesk (d.aside.filter fun x => x.tok.fh == fh)
      match findLaunch s3 slot with
      | none => .next s3
      | some l3 =>
        if holdsStill l3 (deskOf l3 vdesk) fh then .next (push s3 ⟨2, slot, vdesk, fh⟩ (.parkNotice slot vdesk fh)) else .next s3
  | _, _ => .next s

end Sys2Proof.Machine
end

