-- ==== Sys2Proof/Machine/Courier.lean ====
section
/-! DEFINITION. Couriers and their rounds (R304 to R326). -/

namespace Sys2Proof.Machine

/-! ### What a round instruction sees -/

/-- A round instruction's surroundings: its launch, courier, ROUND firing, frame and the ROUND node's record. -/
structure RCtx where
  l : Launch
  q : Courier
  f : Firing
  c : Ctx
  deriving DecidableEq, Repr

/-- What a round instruction comes to (R309): the round goes on, waits, traps, meets a race, or its state is given. -/
inductive RRes where
  | next (s : State) (q : Courier)
  | wait
  | trap (t : Trap)
  | race (e x : Access)
  | done (s : State)
  deriving DecidableEq, Repr

/-- The words of a round (R89). -/
def roundWords (l : Launch) (id : Nat) : List Nat := (assoc l.man.rounds id).getD []

/-- A register of a round. -/
def gReg (q : Courier) (i : BitVec 3) : Dword := q.g.getD i.toNat 0

/-- A register set. -/
def setG (q : Courier) (i : BitVec 3) (v : Dword) : Courier := { q with g := q.g.set i.toNat v }

/-- The next instruction. -/
def advance (q : Courier) : Courier := { q with pc := q.pc + 1 }

/-- A courier written back. -/
def putCourier (s : State) (slot : Nat) (q : Courier) : State :=
  modLaunch s slot fun l => { l with couriers := l.couriers.map fun x => if x.node == q.node then q else x }

/-- The party of a round's accesses (R287, R296). -/
def roundParty (s : State) (f : Firing) (round : Nat) : Party := { partyOf s f with round := some round }

/-- What happens before a round's next access (R322): the ROUND firing's and the round's so far. -/
def roundHb (r : RCtx) : List Nat := unionNat (firingHb r.f) r.q.hb

/-- An access of a round. -/
def roundAccess (s : State) (r : RCtx) (g : Nat) (space : Space) (place loc : Nat) (kind : AccKind) (va : Nat) : Access :=
  { id := s.tick, group := g, space, place, loc, kind, party := roundParty s r.f r.q.round, lane := 0, va, gva := va, index := 0,
    hb := roundHb r }

/-- Where a courier asks for translations (R279, R304): its die. -/
def courierPort (q : Courier) : Port := ⟨q.die, none⟩

/-- The record of a round's trap (R325). -/
def roundRecord (s : State) (l : Launch) (f : Firing) (round pc node : Nat) (t : Trap) : FaultRec :=
  let word := (roundWords l round).getD pc 0
  { recordOf s f t with
    vdesk := 0x1FFF, node := 0, lane := 0, opa := BitVec.ofNat 64 word,
    opb := BitVec.ofNat 64 (low 16 round + low 10 pc <<< 16 + (low 19 (node * 2)) <<< 45), round := some node }

/-- A trap in a round (R325): the courier is FAULTED and the ROUND firing's frame parks. -/
def trapRound (s : State) (l : Launch) (q : Courier) (f : Firing) (companions : List FaultRec) (t : Trap) : State :=
  takeTrap (putCourier s l.slot { q with state := .faulted }) l.slot companions (roundRecord s l f q.round q.pc q.node t)

/-- A round instruction run on the courier that issues it (R309, R311). -/
def runRound (s : State) (body : State → RCtx → RRes) : Out :=
  match s.issue with
  | .round slot node =>
    match findLaunch s slot with
    | none => .next s
    | some l =>
      match courierOf l node with
      | none => .next s
      | some q =>
        match q.firing with
        | none => .next s
        | some f =>
          match recOf l f with
          | none => .next s
          | some rec =>
            match ctxOf s f rec with
            | none => .next s
            | some c =>
              match body s { l, q := { q with state := .running }, f, c } with
              | .next s1 q1 => .next (putCourier s1 slot q1)
              | .wait => .next (putCourier s slot { q with state := .waiting, held := true })
              | .trap t => .next (trapRound s l q f [] t)
              | .race e x => .next (trapRound s l q f [companionOf e x] ⟨0x09, raceDetail e x, 0⟩)
              | .done s1 => .next s1
  | .none | .node _ | .block _ _ _ => .fault .notIssued

/-! ### ROUND and ROUNDSTOP (R305 to R308) -/

/-- The registers a parameter token gives (R307). -/
def paramRegs (a : Token) : List Dword :=
  (upTo 8).map fun k => if a.lanes.length ≥ 2 * k + 2 then BitVec.ofNat 64 (lanes64 a.lanes (2 * k)) else 0

/-- ROUND's own effect (R305, R307). -/
def roundBody (s : State) (c : Ctx) : Res :=
  match courierOf c.l (fNode c.f) with
  | none => .hold
  | some q =>
    if q.state != .idle || q.pending != 0 then .hold
    else
      match tagRule c.shape (ctxTag c) c.f.a.fill c.r.tagop, outBoth c oneZero false false [] with
      | .error t, .error _ => .trap t
      | _, _ =>
        .later (putCourier s c.f.slot
          { q with
            state := .running, held := false, g := paramRegs c.f.a, pc := 0, round := low 16 c.r.lit.toNat, firing := some c.f,
            bufs := List.replicate 4 [], delivered := [], sunk := [], hb := [], ending := false })

/-- ROUND (R307). -/
def execRound (r : NodeRec) (s : State) : Out := runPlain s r { plain with spec := some 4, stream := true } roundBody

/-- A round ended with a status (R307, R308, R321): the courier is IDLE and the ROUND node emits. The token of a stopped round
carries nothing of its own (R291, R322). -/
def finishRound (s : State) (c : Ctx) (q : Courier) (status : Nat) (hb : List Nat) : State :=
  let s1 := putCourier s c.f.slot { q with state := .idle, firing := none, ending := false }
  match outBoth c [BitVec.ofNat 32 status] false false hb with
  | .error _ => complete s1 c [] 0
  | .ok es => complete s1 c es 0

/-- One round stopped (R308): a delivery that it has issued is performed first. -/
def stopRound (s : State) (q : Courier) (f : Firing) : State :=
  match findLaunch s f.slot with
  | none => s
  | some l =>
    match recOf l f with
    | none => s
    | some r =>
      match ctxOf s f r with
      | none => putCourier s f.slot { q with state := .idle, firing := none }
      | some c => if q.pending == 0 then finishRound s c q 1 [] else putCourier s f.slot { q with ending := true, held := true }

/-- ROUNDSTOP's own effect (R308). -/
def roundstopBody (s : State) (c : Ctx) : Res :=
  let id := low 16 c.r.lit.toNat
  let qs := c.l.couriers.filter fun q =>
    q.round == id && q.firing.isSome && !q.ending && (q.state == .running || q.state == .waiting || q.state == .halted)
  let s1 := qs.foldl (fun s q => match q.firing with
    | some f => stopRound s q f
    | none => s) s
  let s2 := modLaunch s1 c.f.slot fun l => { l with stopped := l.stopped || !qs.isEmpty }
  doneWith s2 (outBoth c [BitVec.ofNat 32 qs.length] false false []) 0

/-- ROUNDSTOP (R308). -/
def execRoundstop (r : NodeRec) (s : State) : Out := runPlain s r { plain with spec := some 4 } roundstopBody

/-! ### Registers and loops (R312) -/

/-- A 48-bit immediate sign-extended. -/
def sextImm (imm : BitVec 48) : Dword := imm.signExtend 64

/-- SETG (R312). -/
def execSetg (gd : BitVec 3) (imm : BitVec 48) (s : State) : Out :=
  runRound s fun s r => .next s (advance (setG r.q gd (sextImm imm)))

/-- ADDG (R312). -/
def execAddg (gd ga : BitVec 3) (imm : BitVec 48) (s : State) : Out :=
  runRound s fun s r => .next s (advance (setG r.q gd (gReg r.q ga + sextImm imm)))

/-- ADDGG (R312). -/
def execAddgg (gd ga gb : BitVec 3) (sh : BitVec 6) (s : State) : Out :=
  runRound s fun s r => .next s (advance (setG r.q gd (gReg r.q ga + gReg r.q gb <<< sh.toNat)))

/-- LOOP (R312). -/
def execLoop (gd : BitVec 3) (skip : BitVec 10) (count : BitVec 32) (s : State) : Out :=
  runRound s fun s r =>
    let q := if count == 0 then r.q else setG r.q gd (count.setWidth 64)
    .next s { q with pc := if gReg q gd == 0 then q.pc + skip.toNat else q.pc + 1 }

/-- ENDL (R312). -/
def execEndl (gd : BitVec 3) (back : BitVec 10) (s : State) : Out :=
  runRound s fun s r =>
    let q := setG r.q gd (gReg r.q gd - 1)
    .next s { q with pc := if gReg q gd != 0 then q.pc - back.toNat else q.pc + 1 }

/-! ### Targets and credit (R313, R314) -/

/-- Whether a letterbox of a tile is that of an arc. -/
def arcIs (l : Launch) (a : ArcDecl) (vt lb : Nat) : Bool := a.kind == 1 && a.lb == lb && arcTile l a == vt

/-- The initial credit of a courier's target (R313): PERMISSION detail 9 where it is not its own. -/
def targetCredit (r : RCtx) (vt tgt : Nat) : Except Trap Nat :=
  let bad : Except Trap Nat := .error (mkTrap 0x08 9)
  if vt ≥ r.l.man.depots * 8 then bad
  else if tgt < 64 then
    if r.l.man.arcs.any fun a => a.src == r.q.node && arcIs r.l a vt tgt then .ok (lbOf (tileOf r.l vt) tgt).slots else bad
  else if r.l.man.feeds.contains (tgt - 64, vt, r.q.node) then .ok (fifoLimit r.l.man)
  else bad

/-- A courier with a credit entry for a target (R313), created where there was none; detail 10 past 64. -/
def withCredit (r : RCtx) (vt tgt : Nat) : Except Trap (Courier × Credit) :=
  match targetCredit r vt tgt with
  | .error t => .error t
  | .ok n =>
    match r.q.credits.find? fun k => k.vtile == vt && k.tgt == tgt with
    | some k => .ok (r.q, k)
    | none =>
      if r.q.credits.length ≥ 64 then .error (mkTrap 0x08 10)
      else
        let k : Credit := { vtile := vt, tgt, fresh := n, returns := [] }
        .ok ({ r.q with credits := r.q.credits ++ [k] }, k)

/-- The units of a credit entry. -/
def creditUnits (k : Credit) : Nat := k.fresh + (k.returns.map (·.1)).sum

/-- Units taken from returned credit, in order, with what they carry. -/
def takeReturns : Nat → List (Nat × List Nat) → List (Nat × List Nat) × List (Nat × List Nat)
  | _, [] => ([], [])
  | n, (m, h) :: rest =>
    if n == 0 then ((m, h) :: rest, [])
    else if m ≤ n then
      let p := takeReturns (n - m) rest
      (p.1, (m, h) :: p.2)
    else ((m - n, h) :: rest, [(n, h)])

/-- Units taken from a credit entry: the entry left, and the units taken as an entry of their own. -/
def takeCredit (k : Credit) (n : Nat) : Credit × Credit :=
  let p := takeReturns (n - k.fresh) k.returns
  ({ k with fresh := k.fresh - n, returns := p.1 }, { k with fresh := min n k.fresh, returns := p.2 })

/-- A credit entry written back. -/
def putCredit (q : Courier) (k : Credit) : Courier :=
  { q with credits := q.credits.map fun x => if x.vtile == k.vtile && x.tgt == k.tgt then k else x }

/-- WAITSLOT (R314). -/
def execWaitslot (gt : BitVec 3) (tgt : BitVec 7) (n : BitVec 8) (s : State) : Out :=
  runRound s fun s r =>
    match withCredit r (gReg r.q gt).toNat tgt.toNat with
    | .error t => .trap t
    | .ok (q, k) =>
      if creditUnits k ≥ (if tgt.toNat < 64 then n.toNat else 256 * n.toNat) then .next s (advance q)
      else .done (putCourier s r.f.slot { q with state := .waiting, held := true })

/-! ### Rows (R315) -/

/-- The rows of FETCH and SINK: address and bytes of each. -/
def rowsOf (base stride : Dword) (rows : BitVec 8) (rowb : BitVec 11) : List (Nat × Nat) :=
  (upTo (rows.toNat + 1)).map fun r => ((base + BitVec.ofNat 64 r * stride).toNat, rowb.toNat * 4 + 4)

/-- The pieces of rows with their places, or the trap or the wait that checking them at a port meets (R273, R315). -/
def rowPlaces (s : State) (l : Launch) (at_ : Port) (host : Bool) (need : Need) (rows : List (Nat × Nat)) :
    Except UnitCheck (List (Nat × Nat × Nat)) :=
  let ps := rows.flatMap fun r => rowPieces (pageBits host) r.1 r.2
  match checkUnits s l at_ host true need 4 (fun _ => 0) 0 (ps.map (·.1)) with
  | .ok places => .ok ((ps.zip places).map fun x => (x.1.1, x.2, x.1.2))
  | e => .error e

/-- The device pages that a courier has walked to, entered in its die's cache (R279). -/
def courierPages (s : State) (r : RCtx) (host : Bool) (as : List Nat) : State :=
  if host then s else walkPages s (courierPort r.q) r.l.part as

/-- What a round's instruction comes to where its addresses are not translated (R274, R315): a trap, a recovery of the lost line
that holds a page table entry, a wait. -/
def unplaced (s : State) (r : RCtx) (e : UnitCheck) : RRes :=
  match e with
  | .trap t => .trap { t with lane := 0 }
  | .lost n => .done (askRecovery s r.f.slot n)
  | .miss _ _ | .ok _ => .wait

/-- The accesses of a round to pieces of memory (R287, R288). -/
def pieceAccesses (s : State) (r : RCtx) (g : Nat) (host : Bool) (kind : AccKind) (ps : List (Nat × Nat × Nat)) : List Access :=
  ps.flatMap fun p => (granules (if host then p.1 else p.2.1) p.2.2).map fun k =>
    { roundAccess s r g (if host then .host else .device) (if host then r.l.rcd.pasid else 0) k kind p.1 with
      gva := if host then 4 * k else p.1 / 4 * 4 + 4 * (k - p.2.1 / 4) }

/-- Bytes of pieces read. -/
def readPieces (s : State) (host : Bool) (ps : List (Nat × Nat × Nat)) : List Byte :=
  ps.flatMap fun p => readRun (if host then s.bus else s.mem) p.2.1 p.2.2

/-- Bytes written to pieces, in order. -/
def writePieces (s : State) (slot : Nat) (host : Bool) : List (Nat × Nat × Nat) → List Byte → State
  | [], _ => s
  | p :: ps, bs =>
    let b := bs.take p.2.2
    let s1 := if host then { s with bus := writeBytes s.bus p.2.1 b } else writeDevice s slot p.2.1 b
    writePieces s1 slot host ps (bs.drop p.2.2)

/-- The lost lines that pieces written together cover whole (R400). -/
def clearPieces (s : State) (host : Bool) (ps : List (Nat × Nat × Nat)) : State := if host then s else clearLost s (ps.map (·.2))

/-- The first lost line that a read of pieces of device memory meets (R274). -/
def lostPiece (s : State) (host : Bool) (ps : List (Nat × Nat × Nat)) : Option Nat :=
  if host then none else ps.findSome? fun x => lostLine s [x.2.1] x.2.2

/-- FETCH (R315). -/
def execFetch (ga gs : BitVec 3) (buf : BitVec 2) (host : Bool) (rows : BitVec 8) (rowb : BitVec 11) (s : State) : Out :=
  runRound s fun s r =>
    match rowPlaces s r.l (courierPort r.q) host ⟨true, false⟩ (rowsOf (gReg r.q ga) (gReg r.q gs) rows rowb) with
    | .error e => unplaced s r e
    | .ok ps =>
      let p := newGroup s
      match checkAccesses p.1 r.f.slot (pieceAccesses p.1 r p.2 host .read ps) with
      | .error e => .race e.1 e.2
      | .ok s1 =>
        match lostPiece s host ps with
        | some n => .done (askRecovery s r.f.slot n)
        | none =>
          .next (courierPages s1 r host (ps.map (·.1)))
            (advance { r.q with bufs := r.q.bufs.set buf.toNat (readPieces s host ps), hb := r.q.hb ++ [p.2] })

/-! ### Rates of a round (R322) -/

/-- A count of a target. -/
def countOf (xs : List (Nat × Nat)) (key : Nat) : Nat := (xs.filter fun x => x.1 == key).length

/-- The declared rate of an arc for the round's phase, at its producer (R228, R322) or its consumer. -/
def roundRate (r : RCtx) (arc : Nat) (cons : Bool) : Option Nat :=
  (rateOf r.l arc).map fun d =>
    let xs := if cons then d.cons else d.prod
    xs.getD (innermost r.c % xs.length) 0

/-- The arc of a letterbox that a round delivers to, or that it takes from. -/
def roundArc (r : RCtx) (vt lb : Nat) (cons : Bool) : Option ArcDecl :=
  r.l.man.arcs.find? fun a => arcIs r.l a vt lb && (if cons then arcDst a == r.q.node else a.src == r.q.node)

/-- Whether one more delivery or SINK exceeds the declared rate (R322). -/
def overRate (r : RCtx) (vt lb : Nat) (cons : Bool) : Bool :=
  match roundArc r vt lb cons with
  | none => false
  | some a =>
    match roundRate r a.arc cons with
    | none => false
    | some n => countOf (if cons then r.q.sunk else r.q.delivered) a.arc ≥ n

/-- The arc's number added to a count. -/
def countArc (xs : List (Nat × Nat)) (a : Option ArcDecl) : List (Nat × Nat) :=
  match a with
  | some a => xs ++ [(a.arc, 1)]
  | none => xs

/-! ### Delivering and sinking (R315, R316) -/

/-- The courier deliveries' meter of a region (R324, R381). -/
def meterHas (l : Launch) (k n : Nat) : Bool := decide (n ≤ ((l.meters[k]?).map (·.level)).getD 0)

/-- Bytes taken from a meter (R381). -/
def meterTake (l : Launch) (k n : Nat) : Launch :=
  { l with meters := modAt l.meters k fun m => { m with level := m.level - n } }

/-- DELIVER (R316): the delivery is on its way and the round waits for it. -/
def execDeliver (gt : BitVec 3) (buf : BitVec 2) (tgt : BitVec 7) (s : State) : Out :=
  runRound s fun s r =>
    let bs := r.q.bufs.getD buf.toNat []
    let vt := (gReg r.q gt).toNat
    let lb := decide (tgt.toNat < 64)
    if r.q.pending != 0 then .wait
    else if bs.isEmpty then .trap (mkTrap 0x08 1)
    else if lb && decide (vt < r.l.man.depots * 8) && (lbOf (tileOf r.l vt) tgt.toNat).valid &&
        bs.length > (lbOf (tileOf r.l vt) tgt.toNat).slotb then .trap (mkTrap 0x10 0)
    else
      match withCredit r vt tgt.toNat with
      | .error t => .trap t
      | .ok (q, k) =>
        let n := if lb then 1 else bs.length
        if lb && overRate r vt tgt.toNat false then .trap (mkTrap 0x03 0)
        else if creditUnits k < n || !meterHas r.l 0 bs.length then
          .done (putCourier s r.f.slot { q with state := .waiting, held := true })
        else
          let p := takeCredit k n
          let taken := p.2.returns.foldl (fun h x => unionNat h x.2) []
          let id := s.nextId
          let g : Cargo := .deliver q.node vt tgt.toNat r.f q.round q.pc bs p.2 (unionNat (roundHb r) taken)
          let s1 := modLaunch { s with nextId := id + 1 } r.f.slot fun l => { meterTake l 0 bs.length with cargo := l.cargo ++ [(id, g)] }
          .next (push s1 ⟨7, r.f.slot, q.node, 0⟩ (.deliveryArrival r.f.slot id))
            { putCredit q p.1 with pending := 1, state := .waiting, held := true }

/-- The credit of a delivery that failed, returned whole. -/
def restoreCredit (q : Courier) (k : Credit) : Courier :=
  { q with credits := q.credits.map fun x =>
      if x.vtile == k.vtile && x.tgt == k.tgt then { x with fresh := x.fresh + k.fresh, returns := k.returns ++ x.returns } else x }

/-- A delivery written at its target (R316): the slot of a letterbox, or the tail of a FIFO. -/
def deliverWrite (s : State) (l : Launch) (r : RCtx) (vt tgt : Nat) (bs : List Byte) (hb : List Nat) :
    Except (Trap ⊕ (Access × Access)) (State × Nat) :=
  let p := newGroup s
  let t := tileOf l vt
  if tgt ≥ 64 then
    .ok (modLaunch p.1 l.slot fun l => modTile l vt fun t =>
      if tgt == 64 then { t with fifoA := t.fifoA ++ [⟨r.q.node, bs⟩] } else { t with fifoB := t.fifoB ++ [⟨r.q.node, bs⟩] }, p.2)
  else
    let b := lbOf t tgt
    let o := slotOffset b b.wseq.toNat
    if b.wseq - b.fseq == BitVec.ofNat 16 b.slots then .error (.inl (mkTrap 0x10 0))
    else if badPartial t o bs.length then .error (.inl (mkTrap 0x06 1))
    else
      let xs := (granules o bs.length).map fun k => { roundAccess p.1 r p.2 .sram vt k .write (4 * k) with hb := hb }
      match checkAccesses p.1 l.slot xs with
      | .error e => .error (.inr e)
      | .ok s1 =>
        .ok (modLaunch s1 l.slot fun l => modTile l vt fun t => modLb (writeSram t o bs) tgt fun b =>
          { b with wseq := b.wseq + 1, wrote := b.wrote ++ [(b.wseq.toNat, unionNat hb [p.2])] }, p.2)

/-- DELIVERY_ARRIVAL (R316): the delivery is performed and its round goes on; a failed write traps the round (R222, R325). -/
def execDeliveryArrival (slot id : Nat) (s : State) : Out :=
  match takeCargo s slot id with
  | some (s1, l, .deliver node vt tgt f round pc bs taken hb) =>
    match courierOf l node, recOf l f with
    | some q, some rec =>
      match ctxOf s1 f rec with
      | none => .next (putCourier s1 slot { q with pending := 0 })
      | some c =>
        let live := q.firing == some f && q.pc == pc && !q.ending && (q.state == .running || q.state == .waiting || q.state == .halted)
        let q0 := { q with pending := 0, state := if q.state == .waiting then .running else q.state, held := false }
        match deliverWrite s1 l { l, q := { q with round := round }, f, c } vt tgt bs hb with
        | .ok (s2, g) =>
          let hb1 := unionNat q.hb (unionNat hb [g])
          if q.ending then .next (finishRound s2 c { q0 with hb := hb1 } 1 [])
          else
            .next (putCourier s2 slot (if live then
                advance { q0 with
                  hb := hb1
                  delivered := countArc q.delivered (roundArc { l, q, f, c } vt tgt false) }
              else q0))
        | .error e =>
          let q1 := restoreCredit q0 taken
          let s2 := putCourier s1 slot q1
          let cs := match e with
            | .inl _ => []
            | .inr p => [companionOf p.1 p.2]
          let t := match e with
            | .inl t => t
            | .inr p => ⟨0x09, raceDetail p.1 p.2, 0⟩
          if live then .next (trapRound s2 l q1 f cs t)
          else
            let s3 := if q.ending then finishRound s2 c q1 1 [] else s2
            .next (takeTrap s3 slot cs { roundRecord s3 l f round pc node t with round := none, firing := none })
    | _, _ => .next s1
  | _ => .next s

/-- SINK (R315). -/
def execCourierSink (ga gs gt : BitVec 3) (host : Bool) (tgt : BitVec 7) (rows : BitVec 8) (rowb : BitVec 11) (s : State) : Out :=
  runRound s fun s r =>
    let vt := (gReg r.q gt).toNat
    let k := tgt.toNat
    let total := (rows.toNat + 1) * (rowb.toNat * 4 + 4)
    match roundArc r vt k true with
    | none => .trap (mkTrap 0x08 9)
    | some a =>
      let t := tileOf r.l vt
      let b := lbOf t k
      let o := slotOffset b b.rseq.toNat
      if overRate r vt k true then .trap (mkTrap 0x03 1)
      else if total > b.slotb then .trap (mkTrap 0x10 1)
      else if b.rseq == b.wseq then .wait
      else
        match rowPlaces s r.l (courierPort r.q) host ⟨false, true⟩ (rowsOf (gReg r.q ga) (gReg r.q gs) rows rowb) with
        | .error e => unplaced s r e
        | .ok ps =>
          if badRange t o total then .trap (mkTrap 0x06 0)
          else
            let hb := messageHb b
            let p := newGroup s
            let w := newGroup p.1
            let rd := (granules o total).map fun g => roundAccess w.1 r p.2 .sram vt g .read (4 * g)
            let wr := (pieceAccesses w.1 r w.2 host .write ps).map fun x => { x with hb := x.hb ++ [p.2] }
            match checkAccesses w.1 r.f.slot ((rd ++ wr).map fun x => { x with hb := unionNat x.hb hb }) with
            | .error e => .race e.1 e.2
            | .ok s1 =>
              let s2 := clearPieces (writePieces (courierPages s1 r host (ps.map (·.1))) r.f.slot host ps (readBytes t.sram o total)) host ps
              let s3 := modLaunch s2 r.f.slot fun l => modTile l vt fun t => modLb t k fun b => { b with rseq := b.rseq + 1 }
              match findLaunch s3 r.f.slot with
              | none => .wait
              | some l3 =>
                .next (freeMessages s3 l3 vt k 1 (unionNat (unionNat (roundHb r) hb) [p.2]))
                  (advance { r.q with hb := unionNat r.q.hb (unionNat hb [p.2, w.2]), sunk := countArc r.q.sunk (some a) })

/-! ### Decoding (R317, R323) -/

/-- The canonical prefix code of 256 lengths (R323): symbol, length and code, in the order of assignment. -/
def prefixCode (lens : List Nat) : List (Nat × Nat × Nat) :=
  let byLen (len code : Nat) : List (Nat × Nat × Nat) × Nat :=
    let syms := (upTo 256).filter fun x => lens.getD x 0 == len
    (syms.mapIdx fun i x => (x, len, code + i), (code + syms.length) * 2)
  ((upTo 15).foldl (fun acc k => let p := byLen (k + 1) acc.2; (acc.1 ++ p.1, p.2)) ([], 0)).1

/-- One symbol read from a bit stream (R323): at most `fuel` bits, most significant first. -/
def readSymbol (code : List (Nat × Nat × Nat)) : Nat → Nat → Nat → List Bool → Option (Nat × List Bool)
  | 0, _, _, _ => none
  | _, _, _, [] => none
  | fuel + 1, c, l, b :: bs =>
    let c1 := 2 * c + b2n b
    match code.find? fun x => x.2.1 == l + 1 && x.2.2 == c1 with
    | some x => some (x.1, bs)
    | none => readSymbol code fuel c1 (l + 1) bs

/-- `n` symbols read; none where the stream fails. -/
def readSymbols (code : List (Nat × Nat × Nat)) : Nat → List Bool → Option (List Byte × List Bool)
  | 0, bs => some ([], bs)
  | n + 1, bs =>
    match readSymbol code 15 0 0 bs with
    | none => none
    | some (x, rest) => (readSymbols code n rest).map fun p => (BitVec.ofNat 8 x :: p.1, p.2)

/-- A compressed block expanded (R323); none where it fails. -/
def expandBlock (lens : List Nat) (bs : List Byte) : Option (List Byte) :=
  let bits := leNat (bs.take 2)
  let outb := leNat ((bs.drop 2).take 2)
  if bs.length < 8 || leNat ((bs.drop 4).take 4) != 0 || outb == 0 || outb > 8192 || bits > 32704 then none
  else if bs.length < 8 + (bits + 7) / 8 then none
  else
    let stream := ((bs.drop 8).flatMap fun b => (upTo 8).map fun i => bit b.toNat i).take bits
    match readSymbols (prefixCode lens) outb stream with
    | some (out, []) => some out
    | _ => none

/-- DECODE (R317). -/
def execDecode (bi bo tab : BitVec 2) (s : State) : Out :=
  runRound s fun s r =>
    let src := r.q.bufs.getD bi.toNat []
    match src, r.q.slots.getD tab.toNat none with
    | [], _ => .trap (mkTrap 0x08 1)
    | _, none => .trap (mkTrap 0x08 1)
    | _, some ct =>
      let p := newGroup s
      match checkAccesses p.1 r.f.slot [roundAccess p.1 r p.2 .unit (courierPlace r.q.node) (locSlot tab.toNat) .read 0] with
      | .error e => .race e.1 e.2
      | .ok s1 =>
        match expandBlock ((assoc r.l.man.codetabs ct).getD []) src with
        | none => .trap (mkTrap 0x05 2)
        | some out => .next s1 (advance { r.q with bufs := r.q.bufs.set bo.toNat out, hb := r.q.hb ++ [p.2] })

/-! ### Announcements (R318 to R321) -/

/-- ARRIVE of a courier (R318). -/
def execCourierArrive (gt : BitVec 3) (bidx : BitVec 16) (bytes : BitVec 24) (s : State) : Out :=
  runRound s fun s r =>
    let vt := (gReg r.q gt).toNat
    let b := bidx.toNat
    if vt ≥ r.l.man.depots * 8 then .trap (mkTrap 0x08 9)
    else if 64 * b + 64 > sramLimit r.l.man then .trap (mkTrap 0x08 0)
    else if r.q.pending != 0 then .wait
    else
      let p := newGroup s
      match arrival r.l (tileOf r.l vt) b bytes.toNat none (unionNat (roundHb r) [p.2]) with
      | .error t => .trap t
      | .ok t =>
        match checkAccesses p.1 r.f.slot [roundAccess p.1 r p.2 .unit vt (barrierLoc b) addClass 0] with
        | .error e => .race e.1 e.2
        | .ok s1 =>
          .next (modLaunch s1 r.f.slot fun l => modTile l vt fun _ => t) (advance { r.q with hb := r.q.hb ++ [p.2] })

/-- TOKEN (R319). -/
def execToken (dest : BitVec 19) (ga : BitVec 3) (fill : BitVec 7) (s : State) : Out :=
  runRound s fun s r =>
    if r.q.pending != 0 then .wait
    else
      let v := (gReg r.q ga).toNat
      .next (emitToken s r.f.slot
        { dest, fh := r.f.a.fh, tag := BitVec.ofNat 64 (low fill.toNat v), fill := fill.toNat, dl := false, lp := false, sp := false,
          lanes := lanesOf64 v, lpar := 0, hp := 0, src := 1 <<< 24 + r.q.node, hb := roundHb r }) (advance r.q)

/-- The checks of a semaphore in a round (R320, R273): its place, or the trap or wait. -/
def roundSem (s : State) (r : RCtx) (a : Nat) (need : Need) : Except UnitCheck Nat :=
  let tr (c d : Nat) : Except UnitCheck Nat := .error (.trap (mkTrap c d))
  if field a 52 11 != 0 then tr 0x08 4
  else if a % 8 != 0 then tr 0x0E 0
  else
    match checkUnits s r.l (courierPort r.q) (bit a 63) true need 8 (fun _ => 0) 0 [low 52 a] with
    | .ok ps => .ok (ps.headD 0)
    | e => .error e

/-- The access of a round to a semaphore. -/
def semAccess (s : State) (r : RCtx) (g a place : Nat) (kind : AccKind) : List Access :=
  pieceAccesses s r g (bit a 63) kind [(low 52 a, place, 8)]

/-- SEMWAIT of a courier (R320): the signals it observes happen before its own read (R292). -/
def execCourierSemwait (ga gv : BitVec 3) (s : State) : Out :=
  runRound s fun s r =>
    let a := (gReg r.q ga).toNat
    let host := bit a 63
    match roundSem s r a ⟨true, false⟩ with
    | .error e => unplaced s r e
    | .ok place =>
      match lostPiece s host [(low 52 a, place, 8)] with
      | some n => .done (askRecovery s r.f.slot n)
      | none =>
        if readSpace s host place 8 < (gReg r.q gv).toNat then .wait
        else
          let got := acquired s host place (some (courierPort r.q))
          let p := newGroup s
          match checkAccesses p.1 r.f.slot ((semAccess p.1 r p.2 a place .sync).map fun x => { x with hb := unionNat x.hb got }) with
          | .error e => .race e.1 e.2
          | .ok s1 =>
            .next (courierPages s1 r host [low 52 a]) (advance { r.q with hb := unionNat r.q.hb (got ++ [p.2]) })

/-- SEMSIG of a courier (R320): an add reads the old value (R274). -/
def execCourierSemsig (ga gv : BitVec 3) (add : Bool) (scope : Scope) (s : State) : Out :=
  runRound s fun s r =>
    let a := (gReg r.q ga).toNat
    let host := bit a 63
    if r.q.pending != 0 then .wait
    else
      match roundSem s r a ⟨false, true⟩ with
      | .error e => unplaced s r e
      | .ok place =>
        let p := newGroup s
        match checkAccesses p.1 r.f.slot (semAccess p.1 r p.2 a place (if add then addClass else .write)) with
        | .error e => .race e.1 e.2
        | .ok s1 =>
          match if add then lostPiece s host [(low 52 a, place, 8)] else none with
          | some n => .done (askRecovery s r.f.slot n)
          | none =>
            let v := (gReg r.q gv).toNat
            let s2 := writeSpace (courierPages s1 r host [low 52 a]) r.f.slot host place 8
              (if add then low 64 (readSpace s host place 8 + v) else v)
            .next (addSignal s2
                { host, addr := place, isSet := !add, scope, port := some (courierPort r.q), hb := unionNat (roundHb r) [p.2] })
              (advance { r.q with hb := r.q.hb ++ [p.2] })

/-- What a monitor of a ROUND node counts at END (R229, R322): deliveries or SINKs of a letterbox arc, tokens or one firing of
a direct one. -/
def roundCount (r : RCtx) (m : Monitor) (es : List Emission) : Nat :=
  match r.l.man.arcs.find? fun a => a.arc == m.arc with
  | none => 0
  | some a =>
    if a.kind == 0 then rateCount r.c m es 0
    else countOf (if m.role == 0 then r.q.delivered else r.q.sunk) m.arc

/-- The rate trap of a round at END (R322). -/
def endTrap (r : RCtx) (es : List Emission) : Option Trap :=
  ((monitorsOf r.l r.f).find? fun m => m.kind == 2 &&
      match rateDue r.l m (innermost r.c) with
      | none => false
      | some n => roundCount r m es != n).map fun m => mkTrap 0x03 m.role

/-- END (R321). -/
def execEndRound (s : State) : Out :=
  runRound s fun s r =>
    if r.q.pending != 0 then .wait
    else
      match outBoth r.c [0] false false (roundHb r) with
      | .error t => .trap t
      | .ok es =>
        match endTrap r es with
        | some t => .trap t
        | none =>
          let s1 := modLaunch s r.f.slot fun l => modTile l (fTile r.f) fun tl =>
            { tl with monitors := tl.monitors.map fun m =>
                if m.node == fNode r.f && m.kind == 2 && (rateDue r.l m 0).isSome then
                  { m with count := m.count + BitVec.ofNat 32 (roundCount r m es), firings := m.firings + 1 }
                else m }
          .done (finishRound s1 r.c r.q 0 (roundHb r))

/-! ### Host pages a courier waits for (R281, R315) -/

/-- The host page that a courier's instruction waits for, by its register values. -/
def courierPage (s : State) (l : Launch) (q : Courier) : Option Nat :=
  if q.state != .waiting then none
  else
    let rows (ga gs : BitVec 3) (rows : BitVec 8) (rowb : BitVec 11) (need : Need) : Option Nat :=
      match rowPlaces s l (courierPort q) true need (rowsOf (gReg q ga) (gReg q gs) rows rowb) with
      | .error (.miss _ v) => some v
      | _ => none
    let sem (ga : BitVec 3) (need : Need) : Option Nat :=
      let a := (gReg q ga).toNat
      if !bit a 63 then none
      else match checkUnits s l (courierPort q) true true need 8 (fun _ => 0) 0 [low 52 a] with
        | .miss _ v => some v
        | _ => none
    match decodeRound ((roundWords l q.round).getD q.pc 0) with
    | .ok (.fetch ga gs _ true rs rb) => rows ga gs rs rb ⟨true, false⟩
    | .ok (.courierSink ga gs _ true _ rs rb) => rows ga gs rs rb ⟨false, true⟩
    | .ok (.courierSemwait ga _) => sem ga ⟨true, false⟩
    | .ok (.courierSemsig ga _ _ _) => sem ga ⟨false, true⟩
    | _ => none

/-- The couriers of all launches that wait for a host page. -/
def courierWaiters (s : State) (pg : HostPage) : List (Launch × Courier) :=
  s.launches.flatMap fun l =>
    if l.part == pg.1 && l.rcd.pasidv && l.rcd.pasid == pg.2.1 then
      (l.couriers.filter fun q => courierPage s l q == some pg.2.2).map fun q => (l, q)
    else []

/-- The rounds that wait for a page trap TRANSLATION_FAULT (R281). -/
def failCouriers (s : State) (qs : List (Launch × Courier)) (detail : Nat) : State :=
  qs.foldl (fun s x => match x.2.firing with
    | some f => trapRound s x.1 x.2 f [] (mkTrap 0x07 detail)
    | none => s) s

end Sys2Proof.Machine
end

