-- ==== Sys2Proof/Machine/Desks.lean ====
section
/-! DEFINITION. Tokens at a desk (R131 to R139, R34 to R38, R439), tile states and halts (R148 to R150), the fold alternation
(R149, R379), the flits of R254 and R255, and the return of handles (R23). -/

namespace Sys2Proof.Machine

/-! ### Nodes as a desk sees them (R68, R126, R183, R439) -/

/-- Whether the pair a, b is exempt from R15: credits, triggers, addresses and control operands whose entries say so. -/
def colourFree (opc : Nat) : Bool := [0x92, 0xC0, 0xC1, 0xC9, 0xA3, 0xA9, 0xB9, 0xBA, 0xE2, 0xE4].contains opc

/-- Whether last post is judged by port a alone (R126, R183, R230). -/
def portAOnly (opc : Nat) : Bool := [0x92, 0xC0, 0xC1, 0xC9].contains opc

/-- The firing a token makes alone. -/
def soloFiring (s : State) (slot : Nat) (t : Token) : Firing :=
  { since := s.nextId, slot, vdesk := destDesk t.dest, node := destNode t.dest, port := destPort t.dest, a := t, b := none }

/-- Whether a token is held at its node instead of firing (R439): at SYNC, at a WAITCNT whose phase has not come, at MODE. -/
def heldToken (s : State) (l : Launch) (t : Token) (opc : Nat) (r : NodeRec) : Bool :=
  let live := !t.lp && !t.dl && !speculative s t.fh
  match opc with
  | 0x98 => true
  | 0xB5 => r.arity == .mono && live && !waitDue l (soloFiring s l.slot t) r
  | 0xB6 => r.arity == .mono && live
  | _ => false

/-- Whether a token goes by matching (R134): every token of a dyadic node, and at a GATE, though its ARITY is 10, a credit and
an iteration v of at least k (R126). -/
def needsPartner (l : Launch) (t : Token) (opc : Nat) (r : NodeRec) : Bool :=
  let v := low ((shapeOf l (nodeAddr (destDesk t.dest) (destNode t.dest))).getD 0 0) t.tag.toNat
  r.arity == .dyad || (opc == 0x92 && (destPort t.dest == 1 || decide (low 8 r.lit.toNat + 1 ≤ v)))

/-- Whether two tokens are of one activation (R31, R133). -/
def sameActivation (t u : Token) : Bool :=
  t.fh == u.fh && t.tag == u.tag && t.fill == u.fill && destDesk t.dest == destDesk u.dest && destNode t.dest == destNode u.dest

/-! ### Ways and spill (R34, R37, R133 to R136) -/

/-- The waiting tokens of a set. -/
def setWaiting (d : Desk) (k : Nat) : List Token := d.waiting.filter fun t => setOf t == k

/-- The ways of a set that operands of ready firings take. -/
def setReady (d : Desk) (k : Nat) : Nat :=
  (d.ready.map fun r => if setOf r.firing.a == k then operandCount r.firing else 0).sum

/-- Free ways of a set of four. -/
def freeWays (d : Desk) (k : Nat) : Nat := 4 - ((setWaiting d k).length + setReady d k)

/-- Spill writes queued at a desk (R136). -/
def writesQueued (d : Desk) : Nat := (d.spill.filter fun o => match o with
  | .write _ => true
  | .probe _ | .back _ => false).length

/-- Probes outstanding at a desk (R136). -/
def probesQueued (d : Desk) : Nat := (d.spill.filter fun o => match o with
  | .probe _ => true
  | .write _ | .back _ => false).length

/-- A token queued for its spill slot (R34, R136): its set's count rises. -/
def queueSpill (s : State) (slot vdesk : Nat) (t : Token) : State :=
  modLaunch s slot fun l => modDesk l vdesk fun d => { setCount d (setOf t) (· + 1) with spill := d.spill ++ [.write t] }

/-- A waiting token taken from its way. -/
def takeWay (s : State) (slot vdesk : Nat) (t : Token) : State :=
  modLaunch s slot fun l => modDesk l vdesk fun d => { d with waiting := d.waiting.erase t }

/-- The token of a list that R34 spills: the highest (FID, tag). Of two with equal (FID, tag), which their nodes alone tell
apart, the one that took its place first spills (DESIGN CHOICE, log entry 40). -/
def highest (s : State) (ts : List Token) : Option Token := leastBy (fun t u => tokenLt s u t) ts

/-- A token placed as WAITING (R134): none where the spill queue has no entry for what it displaces. -/
def placeWaiting (s : State) (slot vdesk : Nat) (t : Token) : Option State :=
  match findLaunch s slot with
  | none => none
  | some l =>
    let d := deskOf l vdesk
    let put (s : State) : State := modLaunch s slot fun l => modDesk l vdesk fun d => { d with waiting := d.waiting ++ [t] }
    if freeWays d (setOf t) > 0 then some (put s)
    else if writesQueued d ≥ 8 then none
    else
      match highest s (setWaiting d (setOf t) ++ [t]) with
      | none => none
      | some v => if v == t then some (queueSpill s slot vdesk t) else some (put (queueSpill (takeWay s slot vdesk v) slot vdesk v))

/-- `need` ways of a set made free for READY tokens beside the partner in a way (R134): waiting ways spill, at most `fuel` of
them; none where only a firing, or a free entry of the spill queue, can help. -/
def makeWays (s : State) (slot vdesk set : Nat) (partner : Option Token) (need : Nat) : Nat → Option State
  | 0 => none
  | fuel + 1 =>
    match findLaunch s slot with
    | none => none
    | some l =>
      let d := deskOf l vdesk
      if freeWays d set ≥ need then some s
      else if writesQueued d ≥ 8 then none
      else
        match highest s ((setWaiting d set).filter fun t => some t != partner) with
        | none => none
        | some v => makeWays (queueSpill (takeWay s slot vdesk v) slot vdesk v) slot vdesk set partner need fuel

/-- Steps in which a set of four ways can be made free. -/
def waySteps : Nat := 5

/-- A firing entered in the ready queue (R137). -/
def makeReady (s : State) (slot vdesk : Nat) (a : Token) (b : Option Token) : State :=
  let f : Firing := { since := s.nextId, slot, vdesk, node := destNode a.dest, port := destPort a.dest, a, b }
  modLaunch { s with nextId := s.nextId + 1 } slot fun l => modDesk l vdesk fun d => { d with ready := d.ready ++ [⟨f, false, false⟩] }

/-- The trap of R230 or R15 that a token meets with the partner it finds. -/
def pairTrap (opc : Nat) (tok w : Token) : Option Trap :=
  if tok.lp != w.lp && !portAOnly opc then some (mkTrap 0x03 4)
  else if tok.lanes.length != w.lanes.length && !colourFree opc then some (mkTrap 0x04 0)
  else none

/-- A pair made ready: `tok` arrived, `w` waited. -/
def makePair (s : State) (slot vdesk : Nat) (tok w : Token) : State :=
  if destPort tok.dest == 0 then makeReady s slot vdesk tok (some w) else makeReady s slot vdesk w (some tok)

/-- A token that needs no partner made ready (R134): none while no way of its set frees. -/
def placeSolo (s : State) (slot vdesk : Nat) (t : Token) : Option State :=
  (makeWays s slot vdesk (setOf t) none 1 waySteps).map fun s => makeReady s slot vdesk t none

/-- Whether a token's key matches one of a desk's outstanding probes (R136). -/
def probing (d : Desk) (t : Token) : Bool := d.spill.any fun o => match o with
  | .probe p => sameActivation p t
  | .write _ | .back _ => false

/-- An operand that waits beside the latch for a way, after a probe that found nothing (R134, R135). -/
def waitsAside (x : Aside) : Bool := x.partner.isNone && !x.ready

/-- The operands that wait at a desk for their partners (R134): those in ways, and those beside the latch. -/
def waitingHere (d : Desk) : List Token := d.waiting ++ (d.aside.filter waitsAside).map (·.tok)

/-- A waiting operand taken from its way, or from beside the latch. -/
def takeWaiting (s : State) (slot vdesk : Nat) (w : Token) : State :=
  modLaunch s slot fun l => modDesk l vdesk fun d =>
    if d.waiting.contains w then { d with waiting := d.waiting.erase w } else { d with aside := d.aside.erase ⟨w, none, false⟩ }

/-- A token whose partner does not wait at its desk (R134, R37): probed for, or placed; none while it must stay in the latch. -/
def placeUnmatched (s : State) (slot vdesk : Nat) (t : Token) : Option State :=
  match findLaunch s slot with
  | none => none
  | some l =>
    let d := deskOf l vdesk
    if probing d t then none
    else if d.counts.getD (setOf t) 0 > 0 then
      if probesQueued d ≥ 4 then none
      else some (setLaunch s (modDesk l vdesk fun d => { d with spill := d.spill ++ [.probe t] }))
    else placeWaiting s slot vdesk t

/-- A token that meets its partner at its desk (R134): the pair is made ready, or traps, with the partner read for it (R12); a
partner with a bad payload is kept with its ticket, and the token waits for another. -/
def meetPartner (s : State) (slot vdesk opc : Nat) (d : Desk) (t w : Token) : Option State :=
  let s1 := takeWaiting s slot vdesk w
  match pairTrap opc t w, parityFault s1 slot w with
  | none, _ =>
    (makeWays s slot vdesk (setOf t) (some w) (if d.waiting.contains w then 1 else 2) waySteps).map fun s =>
      makePair (takeWaiting s slot vdesk w) slot vdesk t w
  | some _, some s2 => placeUnmatched s2 slot vdesk t
  | some e, none => some (trapArrival s1 slot t [t, w] 2 e)

/-- What the matching of R134 makes of a token with what waits at its desk: nothing where nothing of its activation waits; else the
state, none while the token must stay where it is. -/
def matchHere (s : State) (slot vdesk opc : Nat) (d : Desk) (t : Token) : Option (Option State) :=
  match (waitingHere d).find? fun w => sameActivation w t && destPort w.dest != destPort t.dest with
  | some w => some (meetPartner s slot vdesk opc d t w)
  | none =>
    if (waitingHere d).any fun w => sameActivation w t then some (some (trapArrival s slot t [t] 1 (mkTrap 0x03 2))) else none

/-- A token of a dyadic node delivered (R134, R37): none while it must stay in the latch. -/
def placeDyad (s : State) (slot vdesk opc : Nat) (t : Token) : Option State :=
  match findLaunch s slot with
  | none => none
  | some l => (matchHere s slot vdesk opc (deskOf l vdesk) t).getD (placeUnmatched s slot vdesk t)

/-- A token withdrawn on arrival for a parked frame (R240): one that needs no partner goes to the pool, another as a waiting
token does. None while the pool has no entry. -/
def withdrawArrival (s : State) (slot vdesk : Nat) (t : Token) (waits : Bool) : Option State :=
  if waits then withdrawToken s slot vdesk t else poolToken s slot vdesk t

/-- Whether a desk withdraws what arrives for a frame (R240): its park notice has come. -/
def withdraws (d : Desk) (f : Frame) : Bool := parked f && d.noticed.contains f.fh

/-- A token delivered to its desk (R134): none while the arrival latch must hold it. -/
def deliver (s : State) (slot : Nat) (t : Token) : Option State :=
  let v := destDesk t.dest
  if !headerOk t then some (headerFault s slot t)
  else
    match findLaunch s slot, findFrame s t.fh with
    | some l, some f =>
      if f.state == .draining then some (consume s t.fh 1)
      else if !payloadOk t then some (trapArrival s slot t [t] 0 (mkTrap 0x05 0))
      else
        match destRec l t with
        | none => some (consume s t.fh 1)
        | some (opc, r) =>
          let held := heldToken s l t opc r
          if withdraws (deskOf l v) f then withdrawArrival s slot v t (held || needsPartner l t opc r)
          else if held then placeWaiting s slot v t
          else if needsPartner l t opc r then placeDyad s slot v opc t
          else placeSolo s slot v t
    | _, _ => some s

/-- An event put back at the head of the agenda. -/
def putBack (s : State) (c : Chan) (i : Instr) : State := { s with agenda := ⟨c, i⟩ :: s.agenda }

/-- The desk whose latch holds an arrival. -/
def latched (l : Launch) (id : Nat) : Option (Nat × Token) :=
  l.desks.findSome? fun d => match d.latch with
    | some (k, t) => if k == id then some (d.vdesk, t) else none
    | none => none

/-- Whether a desk accepts an arrival (R135): its latch holds nothing, neither an arrival nor what its spill path has brought
back (R134; DESIGN CHOICE, log entry 47), nor a withdrawal that found the pool full (R240). -/
def accepts (l : Launch) (d : Desk) : Bool := d.latch.isNone && d.aside.isEmpty && !withdrawing l d

/-- TOKEN_ARRIVAL (R134, R135): a token from its route, or the one in a latch tried again; a full latch keeps it waiting. -/
def execTokenArrival (slot id : Nat) (s : State) : Out :=
  match findLaunch s slot with
  | none => .next s
  | some l =>
    match latched l id with
    | some (v, t) =>
      let s1 := modLaunch s slot fun l => modDesk l v fun d => { d with latch := none, blocked := false }
      .next ((deliver s1 slot t).getD s)
    | none =>
      match assoc l.flights id with
      | none => .next s
      | some t =>
        let v := destDesk t.dest
        if !accepts l (deskOf l v) then .next (putBack s (tokenChan slot t) (.tokenArrival slot id))
        else
          let s1 := modLaunch s slot fun l => modDesk { l with flights := assocDel l.flights id } v fun d => d
          match deliver s1 slot t with
          | some s2 => .next s2
          | none => .next (modLaunch s1 slot fun l => modDesk l v fun d => { d with latch := some (id, t) })

/-! ### The spill path (R34, R37, R136) -/

/-- The head of a desk's spill path taken off. -/
def popSpill (s : State) (slot vdesk : Nat) : State :=
  modLaunch s slot fun l => modDesk l vdesk fun d => { d with spill := d.spill.drop 1 }

/-- A set's count lowered by one. -/
def lowerCount (s : State) (slot vdesk : Nat) (t : Token) : State :=
  modLaunch s slot fun l => modDesk l vdesk fun d => setCount d (setOf t) (· - 1)

/-- The spill slot a token would take (R35), with what it holds. -/
def spillAt (s : State) (l : Launch) (t : Token) : Nat × Option SpillSlot :=
  match findFrame s t.fh with
  | none => (0, none)
  | some f =>
    let k := slotOf f.spilld t
    (k, l.spill.find? fun p => p.fh == t.fh && p.slot == k)

/-- A spill slot's PRES cleared (R36, R37): its set's count falls. -/
def clearSlot (s : State) (slot vdesk : Nat) (p : SpillSlot) : State :=
  lowerCount (modLaunch s slot fun l => { l with spill := l.spill.filter fun q => !(q.fh == p.fh && q.slot == p.slot) })
    slot vdesk p.tok

/-- What the spill path has brought back put beside the latch until it can be placed (R134, R135). The rules name one latch, which
may hold another arrival by then: the model keeps what comes back in a list beside it, of any length, and the desk accepts no
arrival while it holds anything (DESIGN CHOICE, log entry 47). -/
def putAside (s : State) (slot vdesk : Nat) (x : Aside) : State :=
  modLaunch s slot fun l => modDesk l vdesk fun d => { d with aside := d.aside ++ [x] }

/-- What the spill path has brought back placed in its set (R134): a token that found no partner in its slot looks for it at its desk
again. None while its ways, or a spill entry for what it displaces, are not there. -/
def placeBack (s : State) (slot vdesk : Nat) (x : Aside) : Option State :=
  match x.partner, findLaunch s slot with
  | some w, _ => (makeWays s slot vdesk (setOf x.tok) none 2 waySteps).map fun s => makePair s slot vdesk x.tok w
  | none, none => none
  | none, some l =>
    if x.ready then placeSolo s slot vdesk x.tok
    else (matchHere s slot vdesk (destOpcode l x.tok) (deskOf l vdesk) x.tok).getD (placeWaiting s slot vdesk x.tok)

/-- What the spill path has brought back placed at once, or put aside (R134). -/
def bringBack (s : State) (slot vdesk : Nat) (x : Aside) : State := (placeBack s slot vdesk x).getD (putAside s slot vdesk x)

/-- The queued write at the head performed (R34, R136): it is checked for parity as it leaves its way (R12), and a slot taken
already collides. -/
def spillWrite (s : State) (l : Launch) (vdesk : Nat) (t : Token) : State :=
  let s1 := popSpill s l.slot vdesk
  match findFrame s t.fh with
  | none => lowerCount s1 l.slot vdesk t
  | some f =>
    if f.state == .draining then consume (lowerCount s1 l.slot vdesk t) t.fh 1
    else
      match parityFault (lowerCount s1 l.slot vdesk t) l.slot t with
      | some s2 => s2
      | none =>
        match spillAt s l t with
        | (k, none) => modLaunch s1 l.slot fun l => { l with spill := l.spill ++ [{ fh := t.fh, slot := k, tok := t }] }
        | (_, some _) => trapArrival (lowerCount s1 l.slot vdesk t) l.slot t [t] 1 (mkTrap 0x02 0)

/-- SPILL_WRITE_DONE (R34, R136). -/
def execSpillWriteDone (slot vdesk : Nat) (s : State) : Out :=
  match findLaunch s slot with
  | none => .next s
  | some l =>
    match (deskOf l vdesk).spill with
    | .write t :: _ => .next (spillWrite s l vdesk t)
    | _ => .next s

/-- What a probe does with the token it reads from a slot (R37), whose parity is checked as it is read (R12): one with a bad payload
is kept with its ticket, and the arriving token waits for another; the partner makes the pair ready, or traps; an operand of the
same port traps RATE_MISMATCH; another activation traps SPILL_COLLISION. A token that a park has put in its slot is none of the
waiting tokens that R37 counts: the arriving token is placed as after a miss (DEDUCED from R427, log entry 47). -/
def probeHit (s : State) (slot vdesk opc : Nat) (t : Token) (p : SpillSlot) : State :=
  let s1 := clearSlot s slot vdesk p
  match parityFault s1 slot p.tok, pairTrap opc t p.tok with
  | some s2, _ => bringBack s2 slot vdesk ⟨t, none, false⟩
  | none, e =>
    if !sameActivation p.tok t then
      if p.withdrawn then bringBack s slot vdesk ⟨t, none, false⟩ else trapArrival s slot t [t] 1 (mkTrap 0x02 0)
    else if destPort p.tok.dest == destPort t.dest then trapArrival s slot t [t] 1 (mkTrap 0x03 2)
    else match e with
      | some e => trapArrival s1 slot t [t, p.tok] 2 e
      | none => bringBack s1 slot vdesk ⟨t, some p.tok, true⟩

/-- What a probe finds (R37). The path goes on whatever it finds (R136). -/
def probeReturn (s : State) (slot vdesk : Nat) (t : Token) : State :=
  let s1 := popSpill s slot vdesk
  match findLaunch s1 slot, findFrame s1 t.fh with
  | some l, some f =>
    if f.state == .draining then consume s1 t.fh 1
    else if withdraws (deskOf l vdesk) f then (withdrawArrival s1 slot vdesk t true).getD (putAside s1 slot vdesk ⟨t, none, false⟩)
    else
      match destRec l t, spillAt s1 l t with
      | none, _ => consume s1 t.fh 1
      | some _, (_, none) => bringBack s1 slot vdesk ⟨t, none, false⟩
      | some (opc, _), (_, some p) => probeHit s1 slot vdesk opc t p
  | _, _ => s1

/-! ### Held tokens (R115, R226, R234, R439) -/

/-- The order of a frame's SYNC tokens: node address, then tag (R115). -/
def syncLt (t u : Token) : Bool :=
  let n := nodeAddr (destDesk t.dest) (destNode t.dest)
  let m := nodeAddr (destDesk u.dest) (destNode u.dest)
  decide (n < m) || (n == m && tagLt t.tag t.fill u.tag u.fill)

/-- Whether a SYNC token is the next of its frame to fire (R115): they fire together, one after another in their order. -/
def syncNext (l : Launch) (t : Token) : Bool := (l.syncQueue.find? fun u => u.fh == t.fh) == some t

/-- A SYNC token is the next of its frame to fire (R115), or a WAITCNT's phase has come (R226), or a MODE is the
next to act (R234): whether a held token may fire. -/
def holdOver (s : State) (l : Launch) (t : Token) : Bool :=
  match destRec l t, findFrame s t.fh with
  | some (opc, r), some f =>
    !parked f && f.state != .draining && match opc with
      | 0x98 => syncNext l t
      | 0xB5 => r.arity == .mono && !heldToken s l t opc r
      | 0xB6 => r.arity == .mono && (l.modeQueue.head? == some t || !heldToken s l t opc r)
      | _ => false
  | _, _ => false

/-- A read of a held token's slot comes back (R439): the token is placed READY where its condition holds, else it stays. -/
def backReturn (s : State) (slot vdesk : Nat) (t : Token) : State :=
  let s1 := popSpill s slot vdesk
  match findLaunch s1 slot with
  | none => s1
  | some l =>
    match l.spill.find? fun p => p.tok == t with
    | none => s1
    | some p =>
      if !holdOver s1 l t then s1
      else
        let s2 := clearSlot s1 slot vdesk p
        (parityFault s2 slot t).getD (bringBack s2 slot vdesk ⟨t, none, true⟩)

/-- SPILL_PROBE_RETURN (R37, R439): the read at the head of the spill path comes back. -/
def execSpillProbeReturn (slot vdesk : Nat) (s : State) : Out :=
  match findLaunch s slot with
  | none => .next s
  | some l =>
    match (deskOf l vdesk).spill with
    | .probe t :: _ => .next (probeReturn s slot vdesk t)
    | .back t :: _ => .next (backReturn s slot vdesk t)
    | _ => .next s

/-- What stands beside the latch placed, once its ways are there (R134, R135): none while they are not, or while it is to be
withdrawn. -/
def asidePlaced (s : State) (slot vdesk : Nat) (x : Aside) : Option State :=
  let s1 := modLaunch s slot fun l => modDesk l vdesk fun d => { d with aside := d.aside.erase x }
  match findLaunch s slot, findFrame s x.tok.fh with
  | some l, some f =>
    if f.state == .draining then some (consume s1 x.tok.fh (1 + x.partner.toList.length))
    else if withdraws (deskOf l vdesk) f then none
    else placeBack s1 slot vdesk x
  | _, _ => some s1

/-- Whether a token is one of a node, in a frame, at a desk. -/
def atNode (vdesk node fh : Nat) (t : Token) : Bool := t.fh == fh && destDesk t.dest == vdesk && destNode t.dest == node

/-- The held tokens of a node in a frame woken (R439): those in ways whose condition holds become ready, and every slot of the
node that holds a token is read back, in slot order. -/
def wakeNode (due : Token → Bool) (s : State) (slot vdesk node fh : Nat) : State :=
  match findLaunch s slot with
  | none => s
  | some l =>
    let ways := sortBy (fun t u => tagLt t.tag t.fill u.tag u.fill)
      ((deskOf l vdesk).waiting.filter fun t => atNode vdesk node fh t && due t)
    let slots := sortBy (fun p q => decide (p.slot < q.slot)) (l.spill.filter fun p => atNode vdesk node fh p.tok)
    let s1 := ways.foldl (fun s t => makeReady (takeWay s slot vdesk t) slot vdesk t none) s
    modLaunch s1 slot fun l => modDesk l vdesk fun d =>
      { d with spill := d.spill ++ (slots.map fun p => SpillOp.back p.tok).filter fun o => !d.spill.contains o }

/-- The SYNC tokens of a frame let go together (R115): from now on they fire in their order, each as it reaches a way (R439). -/
def wakeSync (s : State) (slot fh : Nat) : State :=
  modLaunch s slot fun l => { l with syncQueue := l.syncQueue ++ sortBy syncLt (syncHeld l fh) }

/-- The SYNC tokens let go that a launch still holds: ready, in a way, in a slot or on their way back, or in a park pool. -/
def syncStays (l : Launch) (t : Token) : Bool :=
  l.spill.any (fun p => p.tok == t) || l.desks.any fun d =>
    d.waiting.contains t || d.park.contains t || (d.ready.any fun r => r.firing.a == t) || d.aside.any fun x => x.tok == t

/-! ### Aging and latches (R135, R138) -/

/-- FIRING_AGED (R138): the firing at a place of the ready queue has been ready for 4,096 live cycles. -/
def execFiringAged (slot vdesk index : Nat) (s : State) : Out :=
  .next (modLaunch s slot fun l => modDesk l vdesk fun d => { d with ready := modAt d.ready index fun r => { r with aged := true } })

/-- LATCH_BLOCKED (R135): a latch held longer than 4,096 cycles marks its desk. -/
def execLatchBlocked (slot vdesk : Nat) (s : State) : Out :=
  .next (modLaunch s slot fun l => modDesk l vdesk fun d => { d with blocked := d.latch.isSome })

/-! ### Handles (R23) -/

/-- HANDLE_RETURN (R23). -/
def execHandleReturn (fh : Nat) (s : State) : Out :=
  match findFrame s fh with
  | none => .next s
  | some f => .next (if returnable f then returnHandle s fh else s)

/-! ### Halts and folds (R149, R150, R310, R379) -/

/-- A region halted (R150, R310): its tiles stop service, its couriers keep the state they left. -/
def haltRegion (l : Launch) : Launch :=
  { l with
    phase := .halting
    tiles := l.tiles.map fun t =>
      if t.state == .running || t.state == .folded then { t with state := .halting } else t
    couriers := l.couriers.map fun q =>
      if q.state == .running || q.state == .waiting then { q with resume := q.state, state := .halted } else q }

/-- Whether a desk's latch waits for nothing but a firing (R135, R150): with no spill traffic left, it cannot be placed now. -/
def latchStill (s : State) (l : Launch) (d : Desk) : Bool :=
  (match d.latch with
    | none => true
    | some (_, t) =>
      (deliver (modLaunch s l.slot fun l => modDesk l d.vdesk fun d => { d with latch := none }) l.slot t).isNone) &&
    d.aside.all fun x => (asidePlaced s l.slot d.vdesk x).isNone

/-- The slots of the group of a virtual depot under a fold (R363). -/
def groupSize (l : Launch) (j : Nat) : Nat := min l.fold (l.man.depots - j / l.fold * l.fold)

/-- Whether a virtual tile's bank is live (R149, R379). -/
def bankLive (l : Launch) (vtile : Nat) : Bool :=
  let j := vtile / 8
  l.fold ≤ 1 || j % l.fold == l.live % groupSize l j

/-- Whether a virtual tile's bank is in its tile, live or shadow, and not in the fold area (R379). -/
def bankLoaded (l : Launch) (vtile : Nat) : Bool :=
  let j := vtile / 8
  bankLive l vtile || decide (l.fold ≤ 2) || j % l.fold == (l.live + 1) % groupSize l j

/-- Whether a tile takes what arrives for it: a halted one is frozen (R148), and what comes for a bank in the fold area waits in
its arrival queue there (R379). -/
def tileTakes (l : Launch) (vtile : Nat) : Bool := (tileOf l vtile).state != .halted && bankLoaded l vtile

/-- Whether a request is a tile access that goes on at once (R150, R212): its predecessor is performed, or it is and its successors
are about to learn of it. One whose predecessor has not issued waits through a halt. -/
def tileReqActive (l : Launch) (q : Req) : Bool :=
  q.space == .sram && (q.state == .performed || (q.state == .buffered && (waveReady l q).isSome))

/-- Whether nothing is active on a virtual tile (R150): no block, no tensor entry, no tile access that can be made, no spill
traffic, no latch waiting on anything but a firing. A COPY stops between its copies, and a bank in the fold area has issued
nothing (R379). -/
def tileIdle (s : State) (l : Launch) (t : Tile) : Bool :=
  t.ctxs.isEmpty && t.tq.isEmpty && !(l.reqs.any fun q => fTile q.firing == t.vtile && tileReqActive l q) &&
    (!bankLoaded l t.vtile ||
      (l.desks.filter fun d => d.vdesk / 16 == t.vtile).all fun d => d.spill.isEmpty && latchStill s l d)

/-- Whether a token that a round has issued can still be performed at its target (R310): its desk accepts it. One for a desk that
accepts no further arrival waits on its route (R150). -/
def roundFlight (l : Launch) (t : Token) : Bool :=
  (l.couriers.any fun q => t.src == 1 <<< 24 + q.node) && tileTakes l (destDesk t.dest / 16) && accepts l (deskOf l (destDesk t.dest))

/-- Whether cargo is the work of an issued firing or instruction on a tile of its own region (R150, R310). -/
def cargoOwn (l : Launch) (g : Cargo) : Bool :=
  match g with
  | .deliver _ _ _ _ _ _ _ _ _ | .xsend _ _ _ _ _ _ => true
  | .send f _ _ _ _ _ _ => (arcFrom l (fNode f)).any fun a => a.kind == 1
  | .freed _ _ _ _ | .popped _ _ _ _ _ | .arcMsg _ _ _ | .sendHeld _ _ => false

/-- Whether a halting tile's halt is complete (R150, R310). -/
def haltReady (s : State) (l : Launch) (t : Tile) : Bool :=
  t.state == .halting && tileIdle s l t && l.couriers.all (fun q => q.pending == 0) && !(l.cargo.any fun p => cargoOwn l p.2) &&
    !(l.flights.any fun p => roundFlight l p.2)

/-- HALT_COMPLETE (R150): a halting tile with nothing active is halted; with the last, the region. -/
def execHaltComplete (slot vtile : Nat) (s : State) : Out :=
  match findLaunch s slot with
  | none => .next s
  | some l =>
    if !haltReady s l (tileOf l vtile) then .next s
    else
      let l1 := modTile l vtile fun t => { t with state := .halted }
      let all := l1.phase == .halting && l1.tiles.all fun t => t.state == .halted || t.state == .offline
      .next (setLaunch s (if all then { l1 with phase := .halted } else l1))

/-- A region's service resumed (R148, R309). -/
def resumeRegion (l : Launch) : Launch :=
  { l with
    phase := .running
    tiles := l.tiles.map fun t => if t.state == .halted || t.state == .halting then { t with state := if l.fold > 1 then .folded else .running } else t
    couriers := l.couriers.map fun q => if q.state == .halted then { q with state := q.resume, held := false } else q }

/-- FOLD_EXCHANGE (R149, R379): once nothing is active on the live banks, the next slot's banks go live. -/
def execFoldExchange (slot : Nat) (s : State) : Out :=
  match findLaunch s slot with
  | none => .next s
  | some l =>
    if l.fold > 1 && l.phase == .running && l.tiles.all fun t => !bankLive l t.vtile || tileIdle s l t then
      .next (setLaunch s { l with live := (l.live + 1) % l.fold })
    else .next s

/-- The state of a physical tile (R148), by its global number: that of the virtual tile it runs; in no region, a tile in the
bad-node register, or of a depot in it, is OFFLINE (R255, R256), another IDLE. -/
def tileState (s : State) (g : Nat) : TileState :=
  match s.launches.findSome? fun l => if l.depots.contains (g / 8) then some l else none with
  | some l => (tileOf l (l.depots.idxOf (g / 8) * l.fold * 8 + g % 8)).state
  | none => if bit (badWord s (g / 8)) (g % 8) || bit (badWord s (g / 8)) 16 then .offline else .idle

/-! ### Flits (R254, R255) -/

/-- A token with one word of a flit left corrupt (R250, R255): header words first, then the lanes. -/
def corruptToken (t : Token) (flit word : Nat) : Token :=
  if flit == 0 && word < 4 then { t with hp := t.hp ^^^ BitVec.ofNat 4 (1 <<< word) }
  else
    let lane := if flit == 0 then word - 4 else 12 + 16 * (flit - 1) + word
    if lane < t.lanes.length then { t with lpar := t.lpar ^^^ BitVec.ofNat 32 (1 <<< lane) } else t

/-- Whether a launch has what a flit would belong to under way (R250): a flit of a token is one of those it travels as. -/
def flitUnderWay (l : Launch) (of : FlitOf) (flit : Nat) : Bool :=
  match of with
  | .token id => (assoc l.flights id).any fun t => decide (flit < tokenFlits t.lanes.length)
  | .cargo id => (assoc l.cargo id).isSome
  | .request id | .reply id => (findReq l id).isSome
  | .spill v => !(deskOf l v).spill.isEmpty
  | .barrier | .control => true

/-- FLIT_RECEIVE (R254, R255): a flit of a launch is received at a port of a depot. One that its retry repairs is counted; after a
second failure the hop is logged and the failing side enters the bad-node register: a token flit is passed on with wrong parity,
a flit of any other class ends its launch. -/
def execFlitReceive (slot : Nat) (of : FlitOf) (depot port flit word : Nat) (corrupt retryCorrupt : Bool) (s : State) : Out :=
  match findLaunch s slot with
  | none => .next s
  | some l =>
    if !corrupt || !portExists depot port || !flitUnderWay l of flit then .next s
    else if !retryCorrupt then .next (countRetry s depot)
    else
      match of with
      | .token id =>
        .next (modLaunch (failHop s depot port 0 word) slot fun l =>
          { l with flights := l.flights.map fun p => if p.1 == id then (p.1, corruptToken p.2 flit word) else p })
      | .cargo id => .next (endFault (failHop s depot port (flitClass of (assoc l.cargo id)) word) slot 0x05 3 none)
      | .request _ | .reply _ | .spill _ | .barrier | .control =>
        .next (endFault (failHop s depot port (flitClass of none) word) slot 0x05 3 none)

/-- A write of a hop log word (R257): writing 1 to VALID clears the word. -/
def writeHoplog (s : State) (depot : Nat) (value : BitVec 64) : State :=
  if bit value.toNat 63 then { s with hoplog := modWord s.hoplog depot fun _ => 0 } else s

/-- HOPLOG_CLEAR (R257). -/
def execHoplogClear (depot : Nat) (value : BitVec 64) (s : State) : Out := .next (writeHoplog s depot value)

end Sys2Proof.Machine
end

