-- ==== Sys2Proof/Machine/Tasks.lean ====
section
/-! DEFINITION. Postmarked tasks (R328 to R350): entries into the mailbag, re-spawns, the frontier's epochs, entry into
TASK_FRONT and commit. -/

namespace Sys2Proof.Machine

/-! ### Mailbag lines (R334 to R336) -/

/-- Lines in use on a tile. -/
def usedLines (t : Tile) : Nat := t.lines.length

/-- Whether `n` more lines fit within the fold limit (R145). -/
def linesFit (l : Launch) (vtile n : Nat) : Bool := decide (usedLines (tileOf l vtile) + n ≤ lineLimit l.man)

/-- The mask of `n` bytes at an address within its line (R335). -/
def byteMask (a n : Nat) : BitVec 64 := BitVec.ofNat 64 (ones n <<< (a % 64))

/-- Whether an entry is the store line of a task on a line. -/
def storeLine (ctx line : Nat) (x : Line) : Bool := x.ctx == ctx && x.kind == 1 && x.addr == line

/-- Bytes merged into a store line (R334): later bytes replace earlier ones. -/
def mergeLine (x : Line) (a va : Nat) (bs : List Byte) (g : Nat) : Line :=
  { x with
    bmask := x.bmask ||| byteMask a bs.length
    data := x.data.mapIdx fun i b => if a % 64 ≤ i ∧ i < a % 64 + bs.length then bs.getD (i - a % 64) 0 else b
    vas := x.vas ++ [va], acc := x.acc ++ [g] }

/-- Whether an entry on a line stands behind the last store line of a task there and holds some of the bytes of a mask. -/
def atomAfter (t : Tile) (ctx line : Nat) (m : BitVec 64) : Bool :=
  ((t.lines.reverse.takeWhile fun x => !storeLine ctx line x).any fun x =>
    x.ctx == ctx && x.kind == 2 && x.addr == line && x.bmask &&& m != 0)

/-- A store held (R334): merged into the task's last line of its address, or a line of its own where there is none, or where an
atomic held since then holds some of its bytes, so that a read finds the entries in the order they came (R336); an atomic entry
whose bytes it all replaces is freed with it (DEDUCED, log entry 31). -/
def holdStore (t0 : Tile) (ctx order a va : Nat) (bs : List Byte) (g : Nat) : Tile :=
  let line := a / 64
  let m := byteMask a bs.length
  let t := { t0 with lines := t0.lines.filter fun x => !(x.ctx == ctx && x.kind == 2 && x.addr == line && x.bmask &&& ~~~ m == 0) }
  match (t.lines.reverse.find? (storeLine ctx line)), atomAfter t ctx line m with
  | some y, false => { t with lines := t.lines.map fun x => if x == y then mergeLine x a va bs g else x }
  | _, _ =>
    let x : Line :=
      { ctx, kind := 1, aop := 0, type := .u32, addr := line, bmask := 0, data := List.replicate 64 0, order, vas := [], acc := [] }
    { t with lines := t.lines ++ [mergeLine x a va bs g] }

/-- An atomic held in a line of its own (R334). -/
def holdAtom (t : Tile) (ctx order a va op : Nat) (ty : Ty) (bs : List Byte) (g : Nat) : Tile :=
  { t with lines := t.lines ++
      [{ ctx, kind := 2, aop := op, type := ty, addr := a / 64, bmask := byteMask a bs.length, data := bs, order, vas := [va], acc := [g] }] }

/-- The units of a request entered in the mailbag, in ascending order (R334). -/
def holdUnits (ty : Ty) (t : Frame) (q : Req) (g : Nat) (tl : Tile) : Nat → Nat → List Nat → Tile
  | _, _, [] => tl
  | u, order, a :: as =>
    let bs := leBytes q.unit (unitVal ty q.data u)
    let va := q.addrs.getD u 0
    let tl1 := match q.op with
      | .atomP op => holdAtom tl t.tcidx order a va op ty bs g
      | _ => holdStore tl t.tcidx order a va bs g
    holdUnits ty t q g tl1 (u + 1) (order + 1) as

/-- New lines a held request needs (R334). -/
def linesFor (l : Launch) (t : Frame) (q : Req) (places : List Nat) : Nat :=
  let tl := tileOf l t.vtile
  (holdUnits .u32 t q 0 tl 0 0 places).lines.length - tl.lines.length

/-- LINES and SENDS of a context counted from its entries (R331). -/
def countCtx (t : Tile) (ctx : Nat) : Tile :=
  { t with tasks := modAt t.tasks ctx fun c =>
      { c with
        lines := (t.lines.filter fun x => x.ctx == ctx).length
        sends := (t.sends.filter fun x => x.ctx == ctx).length } }

/-- A checked request enters the mailbag of its task (R285, R334): its access is recorded, younger readers abort, its lines
are taken and its output leaves. -/
def enterReq (s : State) (l : Launch) (c : Ctx) (t : Frame) (q : Req) (places : List Nat) : State :=
  let slot := c.f.slot
  let p := newGroup s
  match checkAccesses p.1 slot (reqAccesses p.1 l c.r.type q p.2 places) with
  | .error e => raceReq s slot q e
  | .ok s1 =>
    let s2 := specAccess s1 slot t true places q.unit
    let order := s2.nextId
    let s3 := modLaunch { s2 with nextId := order + places.length } slot fun l => modTile l t.vtile fun tl =>
      countCtx (holdUnits c.r.type t q p.2 tl 0 order places) t.tcidx
    let hb := unionNat q.hb [p.2]
    let s4 := markPerformed s3 slot q (unionNat (firingHb c.f) hb)
    if q.emitted then s4
    else
      match outBoth c oneZero false false hb with
      | .error t => trapReq s slot q t
      | .ok es => complete (rateAdvance s4 c es 0) c es 0

/-- A held request tried at the mailbag (R273, R334, R336): checked, walked for, parked for a line, or entered. -/
def tryEnter (s : State) (l : Launch) (c : Ctx) (t : Frame) (q : Req) : State :=
  let at_ := portOf l q.firing
  match checkUnits s l at_ false false (needOf q.op) q.unit (unitLane c.r.type) 0 q.addrs with
  | .trap tr => trapReq s l.slot q tr
  | .lost n => askRecovery s l.slot n
  | .miss _ _ => pushAlone (parkReq s l.slot q .walking) (.walkComplete l.slot q.id)
  | .ok places =>
    if linesFit l t.vtile (linesFor l t q places) then enterReq (fillTile s l at_ false q.addrs) l c t q places
    else parkReq s l.slot q .held

/-- The lines a SEND needs (R334). -/
def sendLines (f : Firing) : Nat := max 1 ((4 * f.a.lanes.length + 63) / 64)

/-- The lines of a held SEND, one for each 64 bytes of its message (R334, R335); each names the node as the DEST layout does. -/
def sendParts (s : State) (t : Frame) (f : Firing) : List Line :=
  let bs := laneBytes f.a.lanes
  (upTo (sendLines f)).map fun p =>
    let part := (bs.drop (64 * p)).take 64
    { ctx := t.tcidx, kind := 3, aop := p % 2, type := .u32, addr := placeDesk f.vdesk * 64 + f.node * 2,
      bmask := byteMask 0 part.length, data := part, order := s.nextId + p, vas := [], acc := [] }

/-- A SEND enters the mailbag and its output leaves (R236, R334). -/
def enterSend (s : State) (c : Ctx) (t : Frame) : State :=
  let slot := c.f.slot
  let n := sendLines c.f
  let s1 := modLaunch { s with nextId := s.nextId + n } slot fun l => modTile l t.vtile fun tl =>
    countCtx { tl with
      lines := tl.lines ++ sendParts s t c.f
      sends := tl.sends ++ [{ ctx := t.tcidx, order := s.nextId, firing := c.f }] } t.tcidx
  match outBoth c oneZero false false [] with
  | .error tr => trapFiring s c.f tr
  | .ok es => complete (rateAdvance s1 c es 1) c es 0

/-- A held request's turn at the mailbag. -/
def reqEntry (s : State) (slot : Nat) (q0 : Req) : State :=
  let s1 := if q0.state == .held then endWait s slot q0.firing.a.fh else s
  let q := { q0 with state := .issued }
  let s2 := setReq s1 slot q
  match findLaunch s2 slot, specTask s2 q.firing with
  | some l, some t =>
    match recOf l q.firing with
    | none => s2
    | some r => match reqCtx s2 q.firing r with
      | none => dropReq s2 slot q.id
      | some c => tryEnter s2 l c t q
  | _, _ => performReq s2 slot q false

/-- A held SEND's turn at the mailbag: one whose task stands at the frontier fires again as SENDs there do, once its desk has ways
for its operands (R131, R134). -/
def sendEntry (s : State) (slot id : Nat) (f : Firing) (wasParked : Bool) : State :=
  let s1 := if wasParked then endWait s slot f.a.fh else s
  let s2 := modLaunch s1 slot fun l => { l with cargo := assocDel l.cargo id }
  match findLaunch s2 slot with
  | none => s2
  | some l =>
    match recOf l f with
    | none => s2
    | some r =>
      match ctxOf s2 f r with
      | none => s2
      | some c =>
        if c.fr.state == .draining then consume s2 f.a.fh (operandCount f)
        else
          match specTask s2 f with
          | none => bringBack s2 slot f.vdesk ⟨f.a, f.b, true⟩
          | some t =>
            if linesFit l t.vtile (sendLines f) then enterSend s2 c t
            else
              parkWait (modLaunch s2 slot fun l => { l with cargo := l.cargo ++ [(id, .sendHeld f true)] }) slot f.a.fh

/-- MAILBAG_ENTRY (R334): a speculative store, atomic or SEND enters its task's mailbag after its checks. -/
def execMailbagEntry (slot id : Nat) (s : State) : Out :=
  match findLaunch s slot with
  | none => .next s
  | some l =>
    match findReq l id, assoc l.cargo id with
    | some q, _ => .next (if q.state == .issued || q.state == .held then reqEntry s slot q else s)
    | none, some (.sendHeld f p) => .next (sendEntry s slot id f p)
    | none, _ => .next s

/-! ### Re-spawns (R340) -/

/-- The virtual tile that holds a task's context: that of its DSTA desk (R330). -/
def homeTile (r : SpawnRec) : Nat := destDesk r.dest / 16

/-- Whether a re-spawn can be made (R113, R340): its tile has a free context, and a handle and a spill area are free. -/
def respawnReady (s : State) (l : Launch) (r : SpawnRec) : Bool :=
  r.pending && (freeTaskCtx l.man (tileOf l (homeTile r))).isSome && poolFree s l.slot

/-- TASK_RESPAWN (R340): the head of an abort starts again from its spawn record, once its tile has a free context. -/
def execTaskRespawn (slot id : Nat) (s : State) : Out :=
  match findLaunch s slot, s.spawns.find? fun r => r.id == id with
  | some l, some r =>
    let v := homeTile r
    if !respawnReady s l r then .next s
    else
      match freeTaskCtx l.man (tileOf l v) with
      | none => .next s
      | some i =>
        let s0 := { s with spawns := s.spawns.map fun x => if x.id == id then { x with respawn := min 0xFFFF (x.respawn + 1) } else x }
        let p := startTask s0 l v i r.parent r.fid r.ffill r.postmark id r.addr
        .next (emitToken p.1 slot
          { dest := r.dest, fh := p.2, tag := 0, fill := 0, dl := false, lp := false, sp := false, lanes := r.lanes, lpar := 0,
            hp := 0, src := 1 <<< 22 + id, hb := r.hb })
  | _, _ => .next s

/-! ### The frontier (R258, R344, R345) -/

/-- The unfinished tasks of a launch on a tile, those whose re-spawn is due included (R329, R339, R340). -/
def unfinishedKeys (s : State) (slot vtile : Nat) : List Key :=
  ((s.frames.filter fun f => f.kind == .task && f.slot == slot && f.vtile == vtile &&
      (standing f == .taskSpec || standing f == .taskFront)).map keyOf) ++
    ((s.spawns.filter fun r => r.slot == slot && r.pending && homeTile r == vtile).map fun r => ⟨r.postmark, r.fid, r.ffill⟩)

/-- A tile's report for the epoch (R344): the least key unfinished at any time since its last report. -/
def reportKey (s : State) (l : Launch) (vtile : Nat) : Key :=
  (((unfinishedKeys s l.slot vtile).foldl keyMin (tileOf l vtile).least).getD keyTop)

/-- FRONTIER_REPORT (R258, R344): a tile reports once in an epoch, after the last F has reached it. -/
def execFrontierReport (slot vtile : Nat) (s : State) : Out :=
  match findLaunch s slot with
  | none => .next s
  | some l =>
    if (tileOf l vtile).report.isSome || l.bcast.contains vtile then .next s
    else
      let k := reportKey s l vtile
      let l1 := modTile { l with regs := l.regs.filter fun r => r.1 != vtile } vtile fun t =>
        { t with
          report := some k, least := none
          tasks := t.tasks.map fun c => if c.phase == .spec || c.phase == .front then { c with unf := BitVec.ofNat 16 l.epoch } else c }
      .next (setLaunch s l1)

/-- EPOCH_CLOSE (R344): with every tile's report the package stage forms F, the registered keys included, and broadcasts it. -/
def execEpochClose (slot : Nat) (s : State) : Out :=
  match findLaunch s slot with
  | none => .next s
  | some l =>
    if l.tiles.any fun t => t.report.isNone then .next s
    else
      let f := (l.tiles.filterMap (·.report) ++ l.regs.map (·.2)).foldl keyMin none
      let s1 := setLaunch s { l with
        epoch := l.epoch + 1, formed := some (f.getD keyTop), bcast := l.tiles.map (·.vtile)
        tiles := l.tiles.map fun t => { t with report := none } }
      .next (pushAll s1 (l.tiles.map fun t => .frontierBroadcast slot t.vtile))

/-- FRONTIER_BROADCAST (R345). -/
def execFrontierBroadcast (slot vtile : Nat) (s : State) : Out :=
  match findLaunch s slot with
  | none => .next s
  | some l =>
    if l.bcast.contains vtile then
      .next (setLaunch s (modTile { l with bcast := l.bcast.filter fun v => v != vtile } vtile fun t => { t with frontier := l.formed }))
    else .next s

/-! ### Commit and TASK_FRONT (R346 to R350) -/

/-- The uncommitted tasks of a launch (R346). -/
def uncommitted (s : State) (slot : Nat) : List Frame :=
  s.frames.filter fun f => f.kind == .task && f.slot == slot &&
    (standing f == .taskSpec || standing f == .taskDone || standing f == .taskFront)

/-- Whether every task before one in the order of R27 has committed, those whose re-spawn is due included. -/
def leastTask (s : State) (slot : Nat) (f : Frame) : Bool :=
  (uncommitted s slot).all (fun g => !taskLt g f) &&
    !s.spawns.any fun r => r.slot == slot && r.pending && keyLt ⟨r.postmark, r.fid, r.ffill⟩ (keyOf f)

/-- Whether commits of a domain may proceed (R350). -/
def commitsRun (l : Launch) : Bool :=
  l.phase == .running && l.tiles.all fun t => t.state != .halting && t.state != .halted

/-- A task's lines performed in order: the held bytes of a store, an atomic combined (R346, R347); a lost line that a store writes
whole is lost no more (R400). -/
def performLines (s : State) (slot : Nat) (ls : List Line) : State :=
  ls.foldl (fun s x =>
    let a := 64 * x.addr
    let idx := maskBytes x.bmask
    let old := readBytes s.mem a 64
    let new := applyLine old x
    let t := idx.foldl (fun s i => writeDevice s slot (a + i) [new.getD i 0]) s
    if x.kind == 1 && idx.length == 64 then clearLost t [(a, 64)] else t) s

/-- The first lost line that performing lines in order would read, to combine an atomic with it (R274). -/
def lostAtom : List Nat → List Line → Option Nat
  | _, [] => none
  | lost, x :: xs =>
    if x.kind == 2 && lost.contains x.addr then some x.addr
    else lostAtom (if x.kind == 1 && x.bmask == BitVec.allOnes 64 then lost.filter (· != x.addr) else lost) xs

/-- The store and atomic lines of a task. -/
def dataLines (t : Tile) (ctx : Nat) : List Line := t.lines.filter fun x => x.ctx == ctx && (x.kind == 1 || x.kind == 2)

/-- A task's store and atomic lines freed. -/
def freeLines (s : State) (f : Frame) : State :=
  modLaunch s f.slot fun l => modTile l f.vtile fun t =>
    countCtx { t with lines := t.lines.filter fun x => !(x.ctx == f.tcidx && (x.kind == 1 || x.kind == 2)) } f.tcidx

/-- The held SENDs of a task, in the order they entered. -/
def heldSends (l : Launch) (f : Frame) : List HeldSend := (tileOf l f.vtile).sends.filter fun h => h.ctx == f.tcidx

/-- Whether a released SEND is still under way. -/
def sendOut (l : Launch) : Bool := l.cargo.any fun p => match p.2 with
  | .send _ _ _ _ _ held _ => held
  | _ => false

/-- A task's held SEND leaves the mailbag with its lines. -/
def dropSend (l : Launch) (f : Frame) (h : HeldSend) : Launch :=
  modTile l f.vtile fun t =>
    countCtx { t with
      sends := t.sends.filter fun x => !(x.ctx == h.ctx && x.order == h.order)
      lines := t.lines.filter fun x => !(x.kind == 3 && h.order ≤ x.order && x.order < h.order + sendLines h.firing) } f.tcidx

/-- Whether the first held SEND of a task can be released now (R346): its arc admits it or it fails. -/
def sendGo (l : Launch) (h : HeldSend) : Bool :=
  match arcFrom l (fNode h.firing) with
  | none => false
  | some a => match arcOf l a.arc with
    | none => false
    | some x => match arcGate x with
      | .ok go => go
      | .error _ => true

/-- The accesses of a task so far, by their groups. -/
def taskGroups (l : Launch) (f : Frame) : List Nat := dedup ((l.accesses.filter fun a => a.party.task == some f.fh).map (·.group))

/-- A held SEND's firing as it is released: all that its task did happens before the message (R294, R346). -/
def releasedFiring (l : Launch) (f : Frame) (g : Firing) : Firing := { g with a := { g.a with hb := unionNat g.a.hb (taskGroups l f) } }

/-- The first held SEND of a task released (R346, R347): it takes its credit, or its failure ends the launch; the length of a
message whose arc was not bound when it fired is compared now (R218, R236). -/
def releaseSend (s : State) (l : Launch) (f : Frame) (h : HeldSend) : State :=
  match arcFrom l (fNode h.firing), recOf l h.firing with
  | some a, some r =>
    match arcOf l a.arc with
    | none => s
    | some x =>
      match arcGate x with
      | .error t => failCommit s h.firing (.inl t)
      | .ok true =>
        if 4 * h.firing.a.lanes.length > x.slotb then failCommit s h.firing (.inl (mkTrap 0x10 1))
        else launchSend (setLaunch s (dropSend l f h)) l.slot (releasedFiring l f h.firing) r x true
      | .ok false => s
  | _, _ => s

/-- What a commit does last (R346, R348): entries, context and spawn record go, H advances, waits end, and a parent outside
the tasks carries the task's accesses; a kept name marks them once its handle is free. -/
def finishCommit (s : State) (l : Launch) (f : Frame) : State :=
  let mine := taskGroups l f
  let name := f.fh + (s.nextId + 1) <<< 20
  let s0 := modLaunch { s with nextId := s.nextId + 1 } l.slot fun l =>
    { modTile l f.vtile (fun t => { t with least := if standing f == .taskFront then keyMin t.least (keyOf f) else t.least }) with
      accesses := l.accesses.map fun a => if a.party.task == some f.fh then { a with party := { a.party with task := some name } } else a
      horizon := some (keyOf f) }
  let s1 := dropTaskCtx s0 f
  let s2 := { s1 with spawns := s1.spawns.filter fun r => r.fh != f.fh }
  let s3 := if (taskOf s2 f.parent).isNone then modFrame s2 f.parent fun g => { g with hb := unionNat g.hb mine } else s2
  endOlders (drainFrame s3 l.slot f.fh) l.slot [f.fh]

/-- Whether an unfinished task of a launch has a key (R329), a re-spawn that is due included. -/
def keyUnfinished (s : State) (slot : Nat) (k : Key) : Bool :=
  (s.frames.any fun f => f.kind == .task && f.slot == slot && standing f == .taskSpec && keyOf f == k) ||
    s.spawns.any fun r => r.slot == slot && r.pending && (⟨r.postmark, r.fid, r.ffill⟩ : Key) == k

/-- Whether a finished task stands below F (R346): by its key, or, where an unfinished task of equal key formed F, by its handle,
before which the least uncommitted task comes (R26, R27). -/
def belowFrontier (s : State) (f : Frame) (k : Key) : Bool :=
  keyLt (keyOf f) k || (keyOf f == k && keyUnfinished s f.slot k)

/-- Whether a task may commit: finished below F, or finished at the frontier (R346, R347), least of its domain, and with every
direct write it made performed: what it wrote is there before any later task commits (R349; log entry 31, DEDUCED). A launch that
has read a lost line commits no more (R274). -/
def commitDue (s : State) (l : Launch) (f : Frame) : Bool :=
  commitsRun l && leastTask s l.slot f && (l.reqs.all fun q => (partyOf s q.firing).task != some f.fh) &&
    !recoveryAsked s l.slot &&
    (match standing f, (tileOf l f.vtile).frontier with
      | .taskDone, some k => belowFrontier s f k
      | .taskFront, _ => taskOver s f
      | _, _ => false)

/-- TASK_COMMIT (R346): the lines are performed, in the order held: the bytes are those of store lines first and atomic lines
then, and where a store followed an atomic on its bytes those that R349 demands (DEDUCED, log entry 31); held SENDs released one after another, and the task's
entries, context and spawn record removed. -/
def execTaskCommit (slot fh : Nat) (s : State) : Out :=
  match findLaunch s slot, findFrame s fh with
  | some l, some f =>
    if !commitDue s l f then .next s
    else
      let ls := dataLines (tileOf l f.vtile) f.tcidx
      if !ls.isEmpty then
        match lostAtom s.lost ls with
        | some n => .next (askRecovery s slot n)
        | none => .next (freeLines (performLines s slot ls) f)
      else
        match heldSends l f with
        | h :: _ => .next (if sendOut l then s else releaseSend s l f h)
        | [] => .next (if sendOut l then s else finishCommit s l f)
  | _, _ => .next s

/-- The order in which a task's pending faults are posted (R343): (FID, TAG, FILL, node); equal FIDs follow the handles (R26). -/
def faultLt (x y : List FaultRec × FaultRec) : Bool :=
  let p := x.2
  let q := y.2
  if fidLt p.fid p.ffill q.fid q.ffill then true
  else if fidLt q.fid q.ffill p.fid p.ffill then false
  else if p.fh != q.fh then decide (p.fh < q.fh)
  else if tagLt p.tag p.fill q.tag q.fill then true
  else if tagLt q.tag q.fill p.tag p.fill then false
  else decide (nodeAddr p.vdesk p.node < nodeAddr q.vdesk q.node)

/-- One deferred fault posted (R343): companions, then the record, whose ticket its frame waits for. -/
def postDeferred (s : State) (slot : Nat) (x : List FaultRec × FaultRec) : State :=
  let s1 := x.1.foldl (fun s c => postRecord s slot c) s
  match findLaunch s1 slot with
  | none => s1
  | some l =>
    let ticket := l.tickets
    modFrame (postRecord s1 slot x.2) x.2.fh fun f => { f with opens := f.opens ++ [ticket], defers := f.defers - 1 }

/-- A task's deferred faults posted in order (R343, R347). -/
def postFaults (s : State) (l : Launch) (f : Frame) : State :=
  let mine (x : List FaultRec × FaultRec) : Bool := taskOf s x.2.fh == some f.fh
  let s1 := modLaunch s l.slot fun l => { l with deferred := l.deferred.filter fun x => !mine x }
  let s2 := modTaskCtx s1 f fun c => { c with defer := 0 }
  (sortBy faultLt (l.deferred.filter mine)).foldl (fun s x => postDeferred s l.slot x) s2

/-- The held requests of a task made at their homes (R236, R336, R347). -/
def freeHeld (s : State) (l : Launch) (f : Frame) : State :=
  (l.reqs.filter fun q => q.state == .held && (partyOf s q.firing).task == some f.fh).foldl (fun s q =>
    let s1 := modLaunch (endWait s l.slot q.firing.a.fh) l.slot fun l =>
      { l with reqs := l.reqs.map fun x => if x.id == q.id then { x with state := .issued } else x }
    pushAlone s1 (.memoryPerform l.slot q.id)) s

/-- Whether the output of a request leaves at its acceptance where its task is not speculative (R215, R271): a store or an ATOMP
with DONEF clear. -/
def leavesEarly (q : Req) (r : NodeRec) : Bool :=
  q.space == .device && !bit r.modx.toNat 3 && match q.op with
    | .write | .atomP _ => true
    | _ => false

/-- The outputs that a task's accepted requests still withhold (R215, R271, R285): at the frontier they leave. -/
def emitAccepted (s : State) (l : Launch) (f : Frame) : State :=
  (l.reqs.filter fun q => !q.emitted && (partyOf s q.firing).task == some f.fh && ((recOf l q.firing).map (leavesEarly q)).getD false).foldl
    (fun s q =>
      match (recOf l q.firing).bind (reqCtx s q.firing), findLaunch s l.slot with
      | some c, some l1 =>
        match findReq l1 q.id, outBoth c oneZero false false [] with
        | some q1, .ok es => complete (rateAdvance (setReq s l.slot { q1 with emitted := true }) c es 0) c es 0
        | _, _ => s
      | _, _ => s) s

/-- Whether a task may enter TASK_FRONT (R347). -/
def frontDue (s : State) (l : Launch) (f : Frame) : Bool :=
  !recoveryAsked s l.slot && commitsRun l && standing f == .taskSpec && (tileOf l f.vtile).frontier == some (keyOf f) && leastTask s l.slot f

/-- Entry into TASK_FRONT (R347): lines performed in the order held, frames released, the outputs of accepted requests and the held
requests let go, deferred faults posted. -/
def enterFront (s : State) (l : Launch) (f : Frame) : State :=
  let s1 := freeLines (performLines s l.slot (dataLines (tileOf l f.vtile) f.tcidx)) f
  let s2 := modFrame s1 f.fh fun g =>
    if parked g then { g with home := .taskFront } else { g with state := .taskFront, home := .taskFront }
  let s3 := modTaskCtx s2 f fun c => { c with phase := .front }
  let s4 := freeHeld (emitAccepted s3 l f) l f
  match findLaunch s4 l.slot with
  | none => s4
  | some l4 => postFaults s4 l4 f

/-- TASK_FRONT_ENTRY (R347): a task whose key is F enters TASK_FRONT; the SENDs it held are then released in order. -/
def execTaskFrontEntry (slot fh : Nat) (s : State) : Out :=
  match findLaunch s slot, findFrame s fh with
  | some l, some f =>
    if frontDue s l f then
      match lostAtom s.lost (dataLines (tileOf l f.vtile) f.tcidx) with
      | some n => .next (askRecovery s slot n)
      | none => .next (enterFront s l f)
    else if standing f == .taskFront && commitsRun l then
      match heldSends l f with
      | h :: _ => .next (if sendOut l then s else releaseSend s l f h)
      | [] => .next s
    else .next s
  | _, _ => .next s

end Sys2Proof.Machine
end

