-- ==== Sys2Proof/Machine/Fabric.lean ====
section
/-! DEFINITION. Cross-package arcs (R409 to R417): ARCOUT and ARCIN, arriving arc messages and credits. -/

namespace Sys2Proof.Machine

/-! ### Cross-package arcs (R409) -/

/-- Whether an arc of a launch is of KIND 3. -/
def crossArc (l : Launch) (x : Arc) : Bool := l.man.arcs.any fun a => a.arc == x.arc && a.kind == 3

/-- The domain number of the package at an arc's other end (R407, R409). -/
def peerPkg (s : State) (l : Launch) (x : Arc) : Nat :=
  match l.man.arcs.find? fun a => a.arc == x.arc, s.comms[l.part]? with
  | some a, some c => ((c.entries[a.peer / 256]?).map (·.pkg)).getD 0
  | _, _ => 0

/-! ### Messages (R412) -/

/-- A slot's descriptor (R412). -/
def descriptor (msg : Nat) (dl lp : Bool) (lanes : Nat) : Nat :=
  low 32 msg <<< 32 + b2n dl <<< 6 + b2n lp <<< 5 + (lanes - 1)

/-- A message as its slot holds it (R412). -/
def arcBytes (msg : Nat) (dl lp : Bool) (lanes : List Lane) : List Byte :=
  leBytes 8 (descriptor msg dl lp lanes.length) ++ laneBytes lanes

/-- A fault record from its 64 bytes (R238), as a record of another package: it keeps nothing to resolve. -/
def recordFrom (x : Nat) : FaultRec :=
  { ticket := field x 384 32, code := field x 504 8, vdesk := field x 491 13, node := field x 486 5, port := field x 485 1,
    lane := field x 480 5, colour := field x 475 5, carry := 0, defer := bit x 472, dlout := true, detail := field x 416 32,
    fid := BitVec.ofNat 64 (x >>> 320), ffill := field x 313 7, fill := field x 306 7, fh := field x 286 20,
    tag := BitVec.ofNat 64 (x >>> 192), postmark := BitVec.ofNat 64 (x >>> 128), opa := BitVec.ofNat 64 (x >>> 64),
    opb := BitVec.ofNat 64 x, firing := none, carried := [], req := none, round := none, deadlock := false, arrival := false,
    opens := false }

/-! ### ARCOUT (R413) -/

/-- The arc a fabric node names (R411). -/
def nodeArc (c : Ctx) : Option Arc := arcOf c.l (low 16 c.r.lit.toNat)

/-- What an arc's binding does to every firing of its nodes (R410, R419): a trap; `broken` is asked of those that need the arc. -/
def bindTrap (x : Arc) (broken : Bool) : Option Trap :=
  match x.bind with
  | .delay d => some (mkTrap 0x19 d)
  | .broken d => if broken then some (mkTrap 0x18 d) else none
  | .unbound | .bound | .mismatch | .ended => none

/-- One message sent on an arc (R413): held, trapped, or sent with one credit taken. -/
def arcSend (s : State) (c : Ctx) (dl lp : Bool) (lanes : List Lane) (out : Except Trap (List Emission)) : Res :=
  match nodeArc c with
  | none => .hold
  | some x =>
    match bindTrap x true with
    | some t => .trap t
    | none =>
      if x.bind != .bound || x.credit == 0 then .hold
      else if 8 + 4 * lanes.length > x.slotb then .trap (mkTrap 0x10 1)
      else
        let s1 := sendFlit s x.plane (peerPkg s c.l x) (.message x.peerSlot x.peerArc x.sent (arcBytes x.sent dl lp lanes))
        let s2 := modLaunch s1 c.f.slot fun l => modArc l x.arc fun x => { x with credit := x.credit - 1, sent := x.sent + 1 }
        doneWith s2 out 0

/-- A last post of a fabric node is held until the ORD counter equals its TAG (R411). -/
def arcLp (go : State → Ctx → Res) (s : State) (c : Ctx) : Res :=
  if ctxTag c == ordNext (deskOf c.l c.f.vdesk) c.f.node c.f.a.fh then go s c else .hold

/-- ARCOUT and ARCIN trap in a speculative task, a last post or a dead letter too (R342, R417). -/
def arcSpec (go : State → Ctx → Res) (s : State) (c : Ctx) : Res :=
  if speculative s c.f.a.fh then .trap (mkTrap 0x0B 3) else go s c

/-- The record that a dead letter stands for (R29, R413). -/
def originRecord (c : Ctx) : List Lane :=
  match c.l.faults.find? fun r => r.ticket == poisonIdx c.f.a with
  | some r => recordLanes r
  | none => List.replicate 16 0

/-- ARCOUT (R413). -/
def execArcout (r : NodeRec) (s : State) : Out :=
  runNode s r { plain with spec := some 3, stream := true } (fun _ => 1)
    (arcLp (arcSpec fun s c => arcSend s c false true oneZero (outBoth c oneZero false true [])))
    (arcSpec fun s c => arcSend s c true false (originRecord c) (outBoth c (poisonLanes (laneCount c) (poisonOf c)) true false []))
    (fun s c =>
      if wide c.r.type && laneCount c % 2 == 1 then .trap (mkTrap 0x04 1)
      else arcSend s c false false c.f.a.lanes (outBoth c oneZero false false []))

/-! ### ARCIN (R414) -/

/-- The declaration of a fabric node's arc. -/
def nodeDecl (c : Ctx) : Option ArcDecl := c.l.man.arcs.find? fun a => a.arc == low 16 c.r.lit.toNat

/-- Whether message `m` has been written into a letterbox, in distances modulo 2^16 (R216, R414). -/
def written (b : Letterbox) (m : Nat) : Bool :=
  let d := (b.wseq - BitVec.ofNat 16 m).toNat
  decide (0 < d) && decide (d ≤ b.slots)

/-- A message taken (R414): RSEQ and FSEQ advance and one credit goes back. -/
def takeArc (s : State) (c : Ctx) (x : Arc) (lb m : Nat) (hb : List Nat) : State :=
  let s1 := modLaunch s c.f.slot fun l =>
    modArc (modTile l (fTile c.f) fun t => modLb t lb fun b =>
        { b with rseq := b.rseq + 1, fseq := b.fseq + 1, wrote := b.wrote.filter fun w => w.1 != low 16 m })
      x.arc fun x => { x with frees := x.frees ++ [hb] }
  if x.bind == .bound then sendFlit s1 x.plane (peerPkg s c.l x) (.credit x.peerSlot x.peerArc) else s1

/-- The accesses to a message in a slot (R287, R412): its descriptor, then its payload lane by lane. -/
def arcAccesses (s : State) (f : Firing) (g : Nat) (kind : AccKind) (o n : Nat) : List Access :=
  sramBy s f g 0 kind o 8 0 ++ (upTo n).flatMap fun k => sramBy s f g 0 kind (o + 8 + 4 * k) 4 k

/-- ARCIN takes message `m` (R414, R417): its output follows the message's write, and carries no access of its own (R291). -/
def arcTake (s0 : State) (c : Ctx) (x : Arc) (lb m : Nat) : Res :=
  let t := tileOf c.l (fTile c.f)
  let b := lbOf t lb
  let o := slotOffset b m
  let d := readNat t.sram o 8
  let n := field d 0 5 + 1
  let hb := match b.wrote.find? fun w => w.1 == low 16 m with
    | some w => w.2
    | none => []
  let p := newGroup s0
  let xs := (arcAccesses p.1 c.f p.2 .read o n).map fun a => { a with hb := unionNat a.hb hb }
  withAccesses p.1 c.f.slot xs fun s =>
    let fin (s : State) : State := takeArc s c x lb m (unionNat (unionNat (firingHb c.f) hb) [p.2])
    if badRange t o (8 + 4 * n) then
      let e := postDlout s c.f (badLane t c.r.type (o + 8) n)
      doneWith (fin e.1) (outBoth c (poisonLanes (laneCount c) e.2) true false hb) 0
    else if bit d 6 then
      let k := match findLaunch s c.f.slot with
        | some l => l.tickets
        | none => 0
      let s1 := postRecord s c.f.slot (recordFrom (readNat t.sram (o + 8) 64))
      doneWith (fin s1) (outBoth c (poisonLanes n k) true false hb) 0
    else if bit d 5 then doneWith (fin s) (outBoth c oneZero false true hb) 0
    else doneWith (fin s) (outBoth c (bytesLanes (readBytes t.sram (o + 8) (4 * n))) false false hb) 0

/-- ARCIN's own effect (R414): firing j is that of tag j (R140). From DELAY on, a only releases a message, and R14 does not apply
to it. -/
def arcinBody (s : State) (c : Ctx) : Res :=
  match nodeDecl c, nodeArc c with
  | some a, some x =>
    let j := ctxTag c
    if j < a.delay then
      if wide c.r.type && laneCount c % 2 == 1 then .trap (mkTrap 0x04 1)
      else
        match bindTrap x false, outBoth c c.f.a.lanes false false [] with
        | some t, _ => .trap t
        | none, .error t => .trap t
        | none, .ok es => .later (complete s c es 0)
    else
      match bindTrap x false with
      | some t => .trap t
      | none =>
        if written (lbOf (tileOf c.l (fTile c.f)) a.lb) (j - a.delay) then arcTake s c x a.lb (j - a.delay)
        else match bindTrap x true with
          | some t => .trap t
          | none => .hold
  | _, _ => .hold

/-- A last post or a dead letter of ARCIN traps as its other firings do where the arc's binding failed (R410), and, from DELAY on, where
the arc is broken (R408, R419). -/
def arcPass (go : State → Ctx → Res) (s : State) (c : Ctx) : Res :=
  match nodeArc c, nodeDecl c with
  | some x, some a => match bindTrap x (decide (a.delay ≤ ctxTag c)) with
    | some t => .trap t
    | none => go s c
  | _, _ => go s c

/-- ARCIN (R414). -/
def execArcin (r : NodeRec) (s : State) : Out :=
  runNode s r { plain with spec := some 3, stream := true } (fun _ => 1) (arcLp (arcSpec (arcPass lpOut)))
    (arcSpec (arcPass dlOut)) arcinBody

/-! ### Arrivals (R413, R415) -/

/-- The write of an arriving message as an activation of its ARCIN node, for its access and its record (R415). -/
def arcWriter (slot : Nat) (a : ArcDecl) (msg : Nat) (bytes : List Byte) : Firing :=
  let dest := placeDest (BitVec.ofNat 19 a.dst)
  { since := 0, slot, vdesk := destDesk dest, node := destNode dest, port := 0,
    a := makeToken dest 0xFFFFF (BitVec.ofNat 64 msg) 32 false false false (bytesLanes (bytes.drop 8)) 0 [], b := none }

/-- An arriving message written into its slot (R415), or the records that end the launch (R296). -/
def arcWrite (s0 : State) (l : Launch) (a : ArcDecl) (x : Arc) (msg : Nat) (bytes : List Byte) : State :=
  let f := arcWriter l.slot a msg bytes
  let v := fTile f
  let t := tileOf l v
  let b := lbOf t a.lb
  let o := slotOffset b msg
  let p := newGroup s0
  let hb := freedHb x b.slots msg
  let xs := (arcAccesses p.1 f p.2 .write o ((bytes.length - 8) / 4)).map fun e => { e with hb := hb }
  match checkAccesses p.1 l.slot xs with
  | .error e => postEnd s0 l.slot [companionOf e.1 e.2] (recordOf s0 f ⟨0x09, raceDetail e.1 e.2, e.2.lane⟩)
  | .ok s1 =>
    if badPartial t o bytes.length then postEnd s0 l.slot [] (recordOf s0 f ⟨0x06, 1, badPart t o bytes.length - 2⟩)
    else
      modLaunch s1 l.slot fun l =>
        modArc (modTile l v fun t => modLb (writeSram t o bytes) a.lb fun b =>
          { b with wseq := b.wseq + 1, wrote := b.wrote ++ [(low 16 msg, unionNat hb [p.2])] }) a.arc fun x => { x with sent := x.sent + 1 }

/-- ARC_MESSAGE_ARRIVAL (R415): a message passes the arc-arrival meter and is written; one of a broken arc is never
delivered (R419). -/
def execArcMessageArrival (slot id : Nat) (s : State) : Out :=
  match takeCargo s slot id with
  | some (s1, l, .arcMsg arc msg bytes) =>
    match l.man.arcs.find? fun a => a.arc == arc, arcOf l arc with
    | some a, some x =>
      if x.bind != .bound then .next s1
      else if !meterHas l 2 bytes.length then .next (putBack s ⟨8, slot, arc, 0⟩ (.arcMessageArrival slot id))
      else
        let l1 := meterTake l 2 bytes.length
        .next (arcWrite (setLaunch s1 l1) l1 a x msg bytes)
    | _, _ => .next s1
  | _ => .next s

/-- ARC_CREDIT (R413). -/
def execArcCredit (slot arc : Nat) (s : State) : Out :=
  .next (modLaunch s slot fun l => modArc l arc fun x => { x with credit := x.credit + 1 })

end Sys2Proof.Machine
end

