-- ==== Sys2Proof/Machine/Image.lean ====
section
/-! DEFINITION. A manifest image as the loader reads it (R85 to R92): header, section table, entries and declaration records,
each with the errors (offset and reason of R93) that its own bits decide. An image is the number its bytes spell. -/

namespace Sys2Proof.Machine

/-- An error of an image: the offset of what is wrong and its reason (R93). -/
abbrev ImgErr := Nat × Nat

/-- The bits of an image at a byte offset. -/
def imgField (img off lo n : Nat) : Nat := field img (8 * off + lo) n

/-- Reasons put at an offset. -/
def errsAt (off : Nat) (rs : List Nat) : List ImgErr := rs.map fun r => (off, r)

/-- Whether an error comes first (R93). -/
def errLt (a b : ImgErr) : Bool := decide (a.1 < b.1) || (a.1 == b.1 && decide (a.2 < b.2))

/-- The error that is reported (R93). -/
def leastErr (es : List ImgErr) : Option ImgErr := leastBy errLt es

/-! ### Header and section table (R85, R86, R92) -/

/-- SIZE of a header (R85). -/
def hdrSize (img : Nat) : Nat := imgField img 0 64 32

/-- DEPOTS of a header (R85). -/
def hdrDepots (img : Nat) : Nat := imgField img 0 96 6

/-- The PIN entries of a header (R85). -/
def hdrPins (img : Nat) : List Nat := (upTo 36).map fun k => imgField img 0 (256 + 6 * k) 6

/-- Whether a list of pins is right (R85): those in use name distinct depots, the others are zero. -/
def pinsOk (img : Nat) : Bool :=
  let n := if imgField img 0 102 1 == 1 then hdrDepots img else 0
  let used := (hdrPins img).take n
  used.all (fun p => decide (low 4 p ≤ 8)) && decide ((dedup used).length = used.length) &&
    ((hdrPins img).drop n).all fun p => p == 0

/-- The errors of a header (R85, R86, R92). -/
def headerErrors (img : Nat) : List ImgErr :=
  let f := imgField img 0
  let size := hdrSize img
  errsAt 0
    (why (f 0 32 != 0x4D5A4543 || f 32 16 != 1 || size % 64 != 0 || decide (size < 64 + 16 * f 48 8) ||
        f 96 6 == 0 || decide (f 96 6 > 36) || !pinsOk img || decide (f 105 4 > 10)) 1 ++
      why (f 48 8 == 0 || decide (f 48 8 > 5)) 2 ++
      why (f 56 8 != 0 || f 114 14 != 0 || f 472 40 != 0) 5)

/-- A section table entry (R86). -/
structure Section where
  at_ : Nat
  kind : Nat
  count : Nat
  off : Nat
  size : Nat
  deriving DecidableEq, Repr

/-- The section table (R86). -/
def sectionsOf (img : Nat) : List Section :=
  (upTo (imgField img 0 48 8)).map fun i =>
    let o := 64 + 16 * i
    ⟨o, imgField img o 0 16, imgField img o 32 32, imgField img o 64 32, imgField img o 96 32⟩

/-- Whether two stretches of bytes share one. -/
def overlaps (a m b n : Nat) : Bool := decide (a < b + n) && decide (b < a + m) && m != 0 && n != 0

/-- The errors of the section table (R86). -/
def sectionErrors (img : Nat) : List ImgErr :=
  let ss := sectionsOf img
  (ss.flatMap fun x =>
    let before := ss.filter fun y => y.at_ < x.at_
    errsAt x.at_
      (why (x.kind == 0 || decide (x.kind > 5) || before.any (fun y => y.kind == x.kind) || x.off % 64 != 0 ||
          decide (x.off + x.size > hdrSize img) || before.any (fun y => overlaps y.off y.size x.off x.size) ||
          (x.kind == 5 && x.count != 0)) 2 ++
        why (imgField img x.at_ 16 16 != 0) 5)) ++
    (if ss.any fun x => x.kind == 1 then [] else [(64, 2)])

/-- The section of a kind; an absent one is empty. -/
def sectionOf (img kind : Nat) : Section :=
  ((sectionsOf img).find? fun x => x.kind == kind).getD ⟨0, kind, 0, 0, 0⟩

/-! ### Nodes (R87) -/

/-- A record, entry or word with its offset: where it stands and what it is. -/
structure NodeEntry where
  off : Nat
  addr : Nat
  word : Nat
  deriving DecidableEq, Repr

/-- The offsets of the desk entries that lie inside the nodes section (R87). Bytes of the section behind its entries are not examined, as
no rule speaks of them (DESIGN CHOICE, log entry 32). -/
def deskOffs (x : Section) : List Nat := (upTo (min x.count (x.size / 400))).map fun i => x.off + 400 * i

/-- The node records that are present (R87). -/
def nodesIn (img : Nat) : List NodeEntry :=
  (deskOffs (sectionOf img 1)).flatMap fun o => (upTo 32).filterMap fun n =>
    let p := o + 16 + 12 * n
    if imgField img o n 1 == 1 then some ⟨p, nodeAddr (imgField img o 32 13) n, imgField img p 0 96⟩ else none

/-- The reason of a word that is no instruction. -/
def wordReason (e : Except Nat Instr) : List Nat :=
  match e with
  | .ok _ => []
  | .error r => [r]

/-- The errors of the nodes section that its entries decide alone (R87, R92). -/
def nodeSectionErrors (img : Nat) : List ImgErr :=
  let x := sectionOf img 1
  let os := deskOffs x
  (if x.count > os.length then [(x.off + 400 * os.length, 8)] else []) ++
  (os.flatMap fun o =>
    errsAt o
      (why (imgField img o 45 83 != 0) 5 ++ why (decide (imgField img o 32 13 ≥ hdrDepots img * 128)) 7 ++
        why (o != x.off && decide (imgField img o 32 13 ≤ imgField img (o - 400) 32 13)) 8) ++
    (upTo 32).flatMap fun n =>
      let p := o + 16 + 12 * n
      let w := imgField img p 0 96
      errsAt p (if imgField img o n 1 == 1 then wordReason (decodeNode w) else why (w != 0) 5))

/-! ### Blocks and rounds (R88, R89) -/

/-- A block or round entry: its descriptor's offset, the descriptor and the words. -/
structure CodeEntry where
  off : Nat
  desc : Nat
  words : List Nat
  deriving DecidableEq, Repr

/-- The entries of a section of code from an offset on: `lenLo` and `lenN` place LEN − 1 in the descriptor. Of an entry whose
words run past the section the descriptor alone is read, with no words. Bytes of the section behind its entries are not examined (DESIGN
CHOICE, log entry 32). -/
def codeIn (img stop lenLo lenN : Nat) : Nat → Nat → List CodeEntry × List ImgErr
  | 0, _ => ([], [])
  | n + 1, o =>
    let len := imgField img o lenLo lenN + 1
    if o + 8 > stop then ([], [(o, 8)])
    else if o + 8 + 8 * len > stop then ([⟨o, imgField img o 0 64, []⟩], [(o, 8)])
    else
      let p := codeIn img stop lenLo lenN n (o + 8 + 8 * len)
      (⟨o, imgField img o 0 64, (upTo len).map fun i => imgField img (o + 8 + 8 * i) 0 64⟩ :: p.1, p.2)

/-- The entries of the blocks section, and one that overruns it. -/
def blocksIn (img : Nat) : List CodeEntry × List ImgErr :=
  let x := sectionOf img 2
  codeIn img (x.off + x.size) 24 5 (min x.count (x.size / 16 + 1)) x.off

/-- The entries of the rounds section, and one that overruns it. -/
def roundsIn (img : Nat) : List CodeEntry × List ImgErr :=
  let x := sectionOf img 3
  codeIn img (x.off + x.size) 16 10 (min x.count (x.size / 16 + 1)) x.off

/-- The offset of a word of an entry. -/
def wordOff (e : CodeEntry) (i : Nat) : Nat := e.off + 8 + 8 * i

/-- Errors of each word of an entry. -/
def wordErrors (e : CodeEntry) (f : Nat → Nat → List Nat) : List ImgErr :=
  (e.words.zipIdx).flatMap fun p => errsAt (wordOff e p.2) (f p.2 p.1)

/-- VTILE of a block's descriptor (R88). -/
def blkTile (e : CodeEntry) : Nat := low 9 e.desc

/-- INDEX of a block's descriptor (R88). -/
def blkIndex (e : CodeEntry) : Nat := field e.desc 16 8

/-- ROUNDID of a round's descriptor (R89). -/
def roundId (e : CodeEntry) : Nat := low 16 e.desc

/-- Whether an entry repeats the key of an earlier one. -/
def repeated (key : CodeEntry → Nat) (es : List CodeEntry) (e : CodeEntry) : Bool :=
  es.any fun x => decide (x.off < e.off) && key x == key e

/-- The errors of the blocks section that its entries decide alone (R88, R92, R145). -/
def blockSectionErrors (img blocks : Nat) : List ImgErr :=
  let p := blocksIn img
  p.2 ++ p.1.flatMap fun e =>
    errsAt e.off
      (why (field e.desc 9 7 != 0 || field e.desc 29 35 != 0) 5 ++ why (decide (blkTile e ≥ hdrDepots img * 8)) 7 ++
        why (repeated (fun x => blkTile x * 256 + blkIndex x) p.1 e) 8 ++ why (decide (blkIndex e ≥ blocks)) 9) ++
    wordErrors e fun _ w => wordReason (decodeBlock w)

/-- The errors of the rounds section that its entries decide alone (R89, R92). -/
def roundSectionErrors (img : Nat) : List ImgErr :=
  let p := roundsIn img
  p.2 ++ p.1.flatMap fun e =>
    errsAt e.off (why (e.desc >>> 26 != 0) 5 ++ why (repeated roundId p.1 e) 8) ++
    wordErrors e fun _ w => wordReason (decodeRound w)

/-! ### Declarations (R90, R91) -/

/-- A declaration record: its offset, its kind, the fields of its body in order. -/
structure DeclRec where
  off : Nat
  kind : Nat
  fields : List Nat
  deriving DecidableEq, Repr

/-- A body field: its width, and whether it must be zero (R90, R91). -/
abbrev BodyField := Nat × Bool

/-- The body of a declaration of a kind, its counted fields included; empty for a reserved kind (R91). -/
def bodyLayout (kind body : Nat) : List BodyField :=
  let v (n : Nat) : BodyField := (n, false)
  let z (n : Nat) : BodyField := (n, true)
  match kind with
  | 1 => [v 4, v 16, v 7, z 5] ++ List.replicate (2 * field body 20 7) (v 16)
  | 2 => [v 16, v 3, v 19, v 19, v 6, z 1, v 32, v 16]
  | 3 => [v 9, v 6, z 1, v 22, v 17, v 9]
  | 4 => [v 16, v 9, v 4, z 3, v 32]
  | 5 => [v 16, v 2, z 14, v 52, z 12, v 48, z 16]
  | 6 => [v 8, z 56] ++ List.replicate 256 (v 8)
  | 7 => [v 19, v 7, v 5, v 1, v 64] ++ List.replicate (field body 26 5 + 1) (v 32)
  | 8 => [v 19, z 13, v 16, z 16]
  | 9 => [v 19, z 45]
  | 10 => [v 1, v 9, z 6, v 16, v 32, v 32, v 32]
  | 11 => [v 9, v 1, z 6, v 19, z 29]
  | _ => []

/-- One record read at an offset of a number (R90): the record, its length, its errors. A length that cannot be a record's
gives none. -/
def declAt (img stop o : Nat) : Option (DeclRec × Nat × List ImgErr) × List ImgErr :=
  let kind := imgField img o 0 16
  let len := imgField img o 16 16
  let head := why (kind == 0 || decide (kind ≥ 12)) 4 ++ why (imgField img o 32 32 != 0) 5
  if o + 8 > stop then (none, [(o, 8)])
  else if len < 8 ∨ len % 8 ≠ 0 ∨ o + len > stop then (none, errsAt o (head ++ [8]))
  else
    let body := imgField img (o + 8) 0 (8 * (len - 8))
    let l := bodyLayout kind body
    let bits := (l.map (·.1)).sum
    let vals := takeFields (l.map (·.1)) body
    let zeros := (l.zip vals).all fun p => !p.1.2 || p.2 == 0
    let es :=
      head ++ why (kind != 0 && decide (kind < 12) && (!zeros || body >>> bits != 0)) 5 ++
      why (decide (bits > 8 * (len - 8))) 8
    (some (⟨o, kind, (l.zip vals).filterMap fun p => if p.1.2 then none else some p.2⟩, len, errsAt o es), [])

/-- The records from an offset on. Bytes of the section behind its records are not examined (DESIGN CHOICE, log entry 32). -/
def declsFrom (img stop : Nat) : Nat → Nat → List DeclRec × List ImgErr
  | 0, _ => ([], [])
  | n + 1, o =>
    match declAt img stop o with
    | (none, es) => ([], es)
    | (some (d, len, es), _) =>
      let p := declsFrom img stop n (o + len)
      (d :: p.1, es ++ p.2)

/-- The records of the declarations section, and their own errors. -/
def declsIn (img : Nat) : List DeclRec × List ImgErr :=
  let x := sectionOf img 4
  declsFrom img (x.off + x.size) (min x.count (x.size / 8 + 1)) x.off

/-- The records of a SEEDX of so many bytes (R356): all of its bytes are records. -/
def seedxRecs (x bytes : Nat) : Nat → Nat → List DeclRec × List ImgErr
  | 0, _ => ([], [])
  | n + 1, o =>
    if o ≥ bytes then ([], [])
    else
      match declAt x bytes o with
      | (none, es) => ([], es)
      | (some (d, len, es), _) =>
        let p := seedxRecs x bytes n (o + len)
        (d :: p.1, es ++ p.2)

/-- A field of a record's body by its place among the fields that hold something. -/
def dField (d : DeclRec) (i : Nat) : Nat := d.fields.getD i 0

/-- The records of a kind. -/
def ofKind (ds : List DeclRec) (k : Nat) : List DeclRec := ds.filter fun d => d.kind == k

end Sys2Proof.Machine
end

