-- ==== Sys2Proof/Machine/Loader.lean ====
section
/-! DEFINITION. The loader's checks that span records (R84, R88, R91, R104, R106, R145, R158, R170, R181, R208, R266, R304,
R306, R315, R409, R416), the report of R93, and the manifest that an accepted image gives. -/

namespace Sys2Proof.Machine

/-- A node record of an image. -/
structure LNode where
  off : Nat
  addr : Nat
  opc : Nat
  rcd : NodeRec
  deriving DecidableEq, Repr

/-- What an image holds, for the checks that span its records. -/
structure Parts where
  depots : Nat
  fold : Nat
  rsets : Nat
  nodes : List LNode
  blocks : List CodeEntry
  rounds : List CodeEntry
  decls : List DeclRec
  dataSize : Nat
  deriving DecidableEq, Repr

/-- The fold a header declares (R145). -/
def hdrFold (img : Nat) : Nat := if imgField img 0 104 1 == 1 then 4 else if imgField img 0 103 1 == 1 then 2 else 1

/-- A present record as the checks that span records see it (R92): its fields, with a reserved code read as code 0. The record
itself is rejected by the check of its own word. -/
def looseNode (w : Nat) : Nat × NodeRec :=
  match takeFields nodeLayout w with
  | [lit, dstb, dsta, modx, ord, ar, tg, rn, ty, opc] =>
    (opc, ⟨(tyOfCode ty).getD .i32, (rndOf rn).getD .rne, (tagopOf tg).getD .same, (arityOf ar).getD .mono, ord == 1,
      BitVec.ofNat 5 modx, BitVec.ofNat 19 dsta, BitVec.ofNat 19 dstb, BitVec.ofNat 32 lit⟩)
  | _ => (0, ⟨.i32, .rne, .same, .mono, false, 0, 0x7FFFF, 0x7FFFF, 0⟩)

/-- The parts of an image; `seeds` are the records of SEEDX, checked with it (R364). -/
def partsOf (img : Nat) (seeds : List DeclRec) : Parts :=
  { depots := hdrDepots img, fold := hdrFold img, rsets := imgField img 0 110 4,
    nodes := (nodesIn img).map fun e => ⟨e.off, e.addr, (looseNode e.word).1, (looseNode e.word).2⟩,
    blocks := (blocksIn img).1.filter (!·.words.isEmpty), rounds := (roundsIn img).1.filter (!·.words.isEmpty),
    decls := (declsIn img).1 ++ seeds,
    dataSize := (sectionOf img 5).size }

/-- The node at an address. -/
def nodeAt (p : Parts) (addr : Nat) : Option LNode := p.nodes.find? fun n => n.addr == addr

/-- The node a destination names (R68): none for the all-ones value, and none outside the region of DEPOTS × 128 desks. -/
def nodeTo (p : Parts) (d : Nat) : Option LNode :=
  if d == 0x7FFFF || decide (d / 64 ≥ p.depots * 128) then none else nodeAt p (d / 2)

/-- Opcode of the node a destination names; 0 where there is none. -/
def opcTo (p : Parts) (d : Nat) : Nat := match nodeTo p d with
  | some n => n.opc
  | none => 0

/-- Whether a destination is port b of a GATE (R104). -/
def gateB (p : Parts) (d : Nat) : Bool := opcTo p d == 0x92 && d % 2 == 1

/-- The SRAM limit of the declared fold (R145). -/
def sramTop (p : Parts) : Nat := 0x400000 / p.fold

/-- Virtual tiles of the region (R68). -/
def tileCount (p : Parts) : Nat := p.depots * 8

/-! ### Nodes (R67, R104, R181, R208, R304, R306) -/

/-- Bits of LIT that name a unit of the tile, by opcode: each field of two bits at these places (R180). -/
def unitFields (opc : Nat) : List Nat :=
  if [0xC0, 0xC1, 0xC2, 0xC3, 0xC7, 0xC8, 0xC9, 0xCC].contains opc then [0]
  else if opc == 0xCA || opc == 0xCB then [0, 2] else []

/-- The barrier object a node names (R207). -/
def nodeBar (n : LNode) : Option Nat :=
  let lit := n.rcd.lit.toNat
  if n.opc == 0xB0 then (if bit n.rcd.modx.toNat 0 then some (field lit 15 16) else none)
  else if n.opc == 0xB3 || n.opc == 0xB4 || n.opc == 0xB5 then some (low 16 lit) else none

/-- The reasons of one destination of a node (R68, R104). -/
def destReasons (p : Parts) (n : LNode) (d : Nat) : List Nat :=
  why (d != 0x7FFFF && (nodeTo p d).isNone) 7 ++ why (gateB p d && n.opc != 0x93) 7

/-- ROUND nodes on the virtual depot of an address that come before it or are it (R304). -/
def roundsBefore (p : Parts) (n : LNode) : Nat :=
  (p.nodes.filter fun m => m.opc == 0xD0 && m.addr / 4096 == n.addr / 4096 && decide (m.off ≤ n.off)).length

/-- The reasons of a node that its manifest decides. -/
def crossReasons (p : Parts) (n : LNode) : List Nat :=
  let lit := n.rcd.lit.toNat
  let vt := n.addr / 512
  destReasons p n n.rcd.dsta.toNat ++ destReasons p n n.rcd.dstb.toNat ++
  why (n.opc == 0x93 && !gateB p n.rcd.dsta.toNat) 7 ++
  why (n.opc == 0x99 && !p.blocks.any fun e => blkTile e == vt && blkIndex e == low 8 lit) 7 ++
  why ((unitFields n.opc).any fun k => decide (field lit k 2 ≥ 4 / p.fold)) 9 ++
  why (n.opc == 0xCA && n.rcd.arity == .mono && decide (field lit 4 9 ≥ tileCount p)) 7 ++
  why (n.opc == 0xD2 && !(ofKind p.decls 6).any fun d => dField d 0 == low 8 lit) 7 ++
  why ((n.opc == 0xD0 || n.opc == 0xD1) && !p.rounds.any fun e => roundId e == low 16 lit) 7 ++
  why (n.opc == 0xD0 && decide (roundsBefore p n > 2)) 9 ++
  why (match nodeBar n with
    | some k => decide (64 * k + 64 > sramTop p)
    | none => false) 9 ++
  why (n.opc == 0xB6 && (decide (low 4 lit > p.rsets) || (bit lit 4 && low 4 lit != 0))) 9 ++
  why (n.opc == 0xB6 && bit lit 4 && n.rcd.dstb == 0x7FFFF) 7

/-! ### Tag shapes (R106) -/

/-- A shape, innermost width first. -/
abbrev Shape := List Nat

/-- The shape one field gives; width 0 gives none. -/
def oneField (f : Nat) : Shape := if f == 0 then [] else [f]

/-- Fields a tag rule needs (R106). -/
def ruleNeed (t : TagOp) : Nat :=
  match t with
  | .same => 0
  | .iter | .pop | .zero => 1
  | .outer => 2

/-- The shape under a tag rule (R106). -/
def ruleShape (sh : Shape) (t : TagOp) : Shape := if t == .pop then sh.drop 1 else sh

/-- The tag rule of STEER's DSTB (R120). -/
def secondRule (r : NodeRec) : TagOp := (tagopOf (low 3 r.modx.toNat)).getD .same

/-- Fields a node needs in its shape (R106). -/
def shapeNeed (n : LNode) : Nat :=
  let d := n.rcd.modx.toNat
  let own := match n.opc with
    | 0x81 => 1
    | 0x82 | 0x83 => d + 1
    | 0x84 => if n.rcd.type == .u64 && d == 31 then 0 else d + 1
    | 0x90 => ruleNeed (secondRule n.rcd)
    | _ => 0
  max own (ruleNeed n.rcd.tagop)

/-- The shapes a node sends to its destinations (R106, R125, R127, R192). -/
def outShapes (n : LNode) (sh : Shape) : List (Nat × Shape) :=
  let a := n.rcd.dsta.toNat
  let b := n.rcd.dstb.toNat
  let w := n.rcd.modx.toNat + 1
  let ruled := ruleShape sh n.rcd.tagop
  match n.opc with
  | 0x80 => [(a, w :: sh), (b, w :: sh)]
  | 0x81 => [(a, sh.drop 1), (b, sh.drop 1)]
  | 0x85 | 0x86 | 0x87 => [(a, []), (b, ruled)]
  | 0x90 => [(a, ruled), (b, ruleShape sh (secondRule n.rcd))]
  | 0x91 => let o := if bit n.rcd.modx.toNat 0 then 1 :: ruled else ruled; [(a, o), (b, o)]
  | 0x93 => [(a, sh), (b, ruled)]
  | 0x94 => [(a, w :: sh), (b, ruled)]
  | 0x96 => if bit n.rcd.modx.toNat 0 then [(a, ruled), (b, ruled)] else [(a, sh), (a, ruled), (b, sh), (b, ruled)]
  | 0xC2 => [(a, (field n.rcd.lit.toNat 14 3 + 1) :: sh), (b, ruled)]
  | _ => [(a, ruled), (b, ruled)]

/-- The TOKEN instructions of a round, with their places (R319). -/
def roundTokens (e : CodeEntry) : List (Nat × Nat × Nat) :=
  (e.words.zipIdx).filterMap fun p => match decodeRound p.1 with
    | .ok (.token dest _ fill) => some (p.2, dest.toNat, fill.toNat)
    | _ => none

/-- Where shapes start: seeds, TOKENs, the handler's records (R106, R242, R319). -/
def shapeSources (p : Parts) : List (Nat × Shape) :=
  ((ofKind p.decls 7).map fun d => (dField d 0, oneField (dField d 1))) ++
  ((ofKind p.decls 9).map fun d => (dField d 0 / 2 * 2, [2, 32])) ++
  p.rounds.flatMap fun e => (roundTokens e).map fun t => (t.2.1, oneField t.2.2)

/-- Shapes spread over the nodes, first come first kept, with the errors met (R106): one of more than 64 bits is an error at its
node, and goes on to the nodes after it. -/
def spreadShapes (p : Parts) : Nat → List (Nat × Shape) → List (Nat × Shape) → List ImgErr → List (Nat × Shape) × List ImgErr
  | 0, _, acc, es => (acc, es)
  | _ + 1, [], acc, es => (acc, es)
  | k + 1, (d, sh) :: rest, acc, es =>
    match nodeTo p d with
    | none => spreadShapes p k rest acc es
    | some n =>
      match assoc acc n.addr with
      | some old => spreadShapes p k rest acc (if old == sh then es else es ++ [(n.off, 8)])
      | none =>
        spreadShapes p k (rest ++ outShapes n sh) (acc ++ [(n.addr, sh)]) (if sh.sum > 64 then es ++ [(n.off, 9)] else es)

/-- The shapes of a manifest's nodes, and the errors met. -/
def shapesOf (p : Parts) : List (Nat × Shape) × List ImgErr :=
  let src := shapeSources p
  spreadShapes p (src.length + 4 * p.nodes.length + 1) src [] []

/-- The errors of tag shapes (R104, R106, R111). -/
def shapeErrors (p : Parts) : List ImgErr :=
  let q := shapesOf p
  q.2 ++ p.nodes.flatMap fun n =>
    let sh := (assoc q.1 n.addr).getD []
    errsAt n.off
      (why (decide (sh.length < shapeNeed n)) 8 ++
        why (n.opc == 0x83 && n.rcd.arity == .lit && decide (n.rcd.modx.toNat < sh.length) &&
          decide (n.rcd.lit.toNat > ones (sh.getD n.rcd.modx.toNat 0))) 9)

/-! ### Wave chains (R266) -/

/-- The members of wave chains. -/
def waveNodes (p : Parts) : List LNode :=
  p.nodes.filter fun n => decide (0xA0 ≤ n.opc) && decide (n.opc ≤ 0xA9) && waveNum n.rcd != 0x3FF

/-- The errors of wave chains. -/
def waveErrors (p : Parts) : List ImgErr :=
  let ws := waveNodes p
  let at_ (k : Nat) : Option LNode := ws.find? fun n => waveNum n.rcd == k
  ws.flatMap fun n =>
    let w := waveNum n.rcd
    let s := waveSucc n.rcd
    let q := wavePred n.rcd
    errsAt n.off
      (why (decide (w > 0x3FC) || ws.any (fun m => decide (m.off < n.off) && waveNum m.rcd == w) ||
        (decide (s ≤ 0x3FC) && (decide (s ≤ w) || match at_ s with
          | some m => !(wavePred m.rcd == w || wavePred m.rcd == 0x3FD)
          | none => true)) ||
        (decide (q ≤ 0x3FC) && match at_ q with
          | some m => !(waveSucc m.rcd == w || waveSucc m.rcd == 0x3FD)
          | none => true)) 8)

/-! ### Blocks (R145, R158, R170) -/

/-- The registers a block instruction reads, its mask apart (R75, R158, R170). -/
def blockReads (opc : Nat) (b : BlockRec) : List Nat :=
  let a := [b.a.toNat]
  let rb := if b.bsel == .reg then [b.b.toNat] else []
  if opc < 0x80 then
    match (shInfo opc).cls with
    | .unary => a
    | .binary | .index => a ++ rb
    | .ternary => a ++ rb ++ [b.c.toNat]
    | .const => []
  else
    match opc with
    | 0x81 | 0x83 => a
    | 0x82 | 0x84 => a ++ [b.b.toNat]
    | 0x85 => if bit b.imm.toNat 0 then a ++ [b.b.toNat] else a
    | _ => []

/-- Whether a block instruction writes wD. -/
def blockWrites (opc : Nat) : Bool := opc < 0x80 || [0x80, 0x83, 0x86, 0x87].contains opc

/-- The registers a prefix of a block has written. -/
def writtenBy (ws : List Nat) : List Nat :=
  ws.filterMap fun w => match parseBlock w with
    | some (opc, b) => if blockWrites opc then some b.d.toNat else none
    | none => none

/-- The SEQ nodes that run a block. -/
def seqsOf (p : Parts) (e : CodeEntry) : List LNode :=
  p.nodes.filter fun n => n.opc == 0x99 && n.addr / 512 == blkTile e && low 8 n.rcd.lit.toNat == blkIndex e

/-- Whether a block word is an EMIT or an EMITC. -/
def isEmit (w : Nat) : Bool := match parseBlock w with
  | some (opc, _) => opc == 0x81 || opc == 0x82
  | none => false

/-- The reasons of one instruction of a block that the rest decides. -/
def blockWordReasons (p : Parts) (e : CodeEntry) (i w : Nat) : List Nat :=
  match parseBlock w with
  | none => []
  | some (opc, b) =>
    let before := writtenBy (e.words.take i)
    let reads := blockReads opc b ++ (if b.m == 0 then [] else [b.m.toNat])
    let dst := low 2 b.imm.toNat
    why (reads.any (fun r => !before.contains r) || (blockWrites opc && b.m != 0 && !before.contains b.d.toNat)) 8 ++
    why (isEmit w && (seqsOf p e).any fun n =>
      (bit dst 0 && n.rcd.dsta == 0x7FFFF) || (bit dst 1 && n.rcd.dstb == 0x7FFFF)) 7 ++
    why (isEmit w && decide (((e.words.take i).filter isEmit).length ≥ 8)) 9 ++
    why (opc == 0x85 && decide (low 2 b.d.toNat ≥ 4 / p.fold)) 9

/-- The errors of blocks that span words. -/
def blockErrors (p : Parts) : List ImgErr := p.blocks.flatMap fun e => wordErrors e fun i w => blockWordReasons p e i w

/-! ### Rounds (R84, R319) -/

/-- The index of the ENDL that a LOOP at `i` pairs with (R84). A word that its own checks reject is no ENDL, so that its LOOP is
unpaired, and no TOKEN, so that it gives no shape (DESIGN CHOICE, log entry 41). -/
def loopEnd (e : CodeEntry) (i : Nat) : Option Nat :=
  match (e.words[i]?).map decodeRound with
  | some (.ok (.loop gd skip _)) =>
    let j := i + skip.toNat - 1
    match (e.words[j]?).map decodeRound with
    | some (.ok (.endl gd2 back)) => if decide (j > i + 1) && gd == gd2 && back.toNat + i + 1 == j then some j else none
    | _ => none
  | _ => none

/-- The pairs of a round. -/
def loopPairs (e : CodeEntry) : List (Nat × Nat) := (upTo e.words.length).filterMap fun i => (loopEnd e i).map fun j => (i, j)

/-- The register an instruction of a loop's body writes with SETG, ADDG or ADDGG. -/
def writesG (w : Nat) : Option Nat :=
  match decodeRound w with
  | .ok (.setg gd _) => some gd.toNat
  | .ok (.addg gd _ _) => some gd.toNat
  | .ok (.addgg gd _ _ _) => some gd.toNat
  | _ => none

/-- The counter of a LOOP. -/
def loopReg (w : Nat) : Option Nat :=
  match decodeRound w with
  | .ok (.loop gd _ _) => some gd.toNat
  | _ => none

/-- The reasons of one instruction of a round that the rest decides (R84). R84 does not say which word offends: of two crossing
loops it is the later LOOP, of a round without END its last word (DESIGN CHOICE, log entry 41). -/
def roundWordReasons (p : Parts) (e : CodeEntry) (i w : Nat) : List Nat :=
  let pairs := loopPairs e
  why (match decodeRound w with
    | .ok (.loop _ _ _) => !pairs.any fun q => q.1 == i
    | .ok (.endl _ _) => (pairs.filter fun q => q.2 == i).length != 1
    | _ => false) 8 ++
  why (pairs.any fun q => q.1 == i && pairs.any fun r => decide (r.1 < i) && decide (i < r.2) && decide (r.2 < q.2)) 8 ++
  why (match writesG w with
    | some g => pairs.any fun q => decide (q.1 < i) && decide (i < q.2) && (e.words[q.1]?).bind loopReg == some g
    | none => false) 8 ++
  why (i + 1 == e.words.length && match decodeRound w with
    | .ok .endRound => false
    | _ => true) 8 ++
  why (match decodeRound w with
    | .ok (.token d _ _) => (nodeTo p d.toNat).isNone || gateB p d.toNat
    | _ => false) 7

/-- The errors of rounds that span words. -/
def roundErrors (p : Parts) : List ImgErr := p.rounds.flatMap fun e => wordErrors e fun i w => roundWordReasons p e i w

end Sys2Proof.Machine
end

