-- ==== Sys2Proof/Machine/Manifest.lean ====
section
/-! DEFINITION. The checks of declarations (R91, R208, R315, R409, R416), the report for a whole image with its SEEDX (R93,
R364), the range checks (R299, R300), and the manifest an accepted image gives (R94). -/

namespace Sys2Proof.Machine

/-! ### Declarations (R91, R208, R409, R416) -/

/-- The records of a kind that stand before one. -/
def earlier (p : Parts) (d : DeclRec) : List DeclRec := (ofKind p.decls d.kind).filter fun x => decide (x.off < d.off)

/-- The virtual tile of an arc's letterbox (R208). -/
def lbTileOf (p : Parts) (d : DeclRec) : Option Nat :=
  let src := dField d 2
  let dst := dField d 3
  if opcTo p dst != 0 && opcTo p dst != 0xD0 then some (dst / 1024)
  else if opcTo p src == 0xB0 then (nodeTo p src).map fun n => field n.rcd.lit.toNat 6 9
  else none

/-- Whether an arc has a letterbox of this region: KIND 1, or the consumer end of KIND 2 or 3 (R208). -/
def ownsLb (d : DeclRec) : Bool := dField d 1 == 1 || ((dField d 1 == 2 || dField d 1 == 3) && dField d 2 == 0x7FFFF)

/-- Whether an arc's letterbox is a given one. -/
def lbIs (p : Parts) (d : DeclRec) (vt lb : Nat) : Bool := ownsLb d && lbTileOf p d == some vt && dField d 4 == lb

/-- The reasons of an arc (R208, R409). Two `.arc` records of one number, and two `.letterbox` records of one (VTILE, LB), are
rejected as duplicates; two `.tensor`, `.codetab` or `.actor` records of one number are not (DESIGN CHOICE, log entry 41). -/
def arcReasons (p : Parts) (d : DeclRec) : List Nat :=
  let kind := dField d 1
  let src := dField d 2
  let dst := dField d 3
  let noSrc := src == 0x7FFFF
  let noDst := dst == 0x7FFFF
  let so := opcTo p src
  let dto := opcTo p dst
  let lb := dField d 4
  let delay := dField d 5
  why (decide (kind > 3)) 4 ++
  why ((!noSrc && (nodeTo p src).isNone) || (!noDst && (nodeTo p dst).isNone)) 7 ++
  why ((earlier p d).any fun x => dField x 0 == dField d 0) 8 ++
  why (kind == 0 && (noSrc || noDst)) 7 ++
  why (kind == 1 && noDst) 7 ++
  why (kind == 1 && so != 0xB0 && so != 0xD0) 8 ++
  why (kind == 2 && !((so == 0xB0 && noDst) || (noSrc && dto == 0xB2))) 8 ++
  why (kind == 3 && !((so == 0xB7 && noDst) || (noSrc && dto == 0xB8))) 8 ++
  why (kind == 3 && decide (dField d 6 / 256 ≥ 144)) 7 ++
  why (kind == 3 && (decide (delay > 0xFFFF) || (!noSrc && lb != 0))) 0x0A ++
  why (decide (kind < 3) && delay != 0) 0x0A ++
  if !ownsLb d || (kind == 2 && dto != 0xB2) || (kind == 3 && dto != 0xB8) then []
  else
    match lbTileOf p d with
    | none => [7]
    | some vt =>
      why (!(ofKind p.decls 3).any fun x => dField x 0 == vt && dField x 1 == lb) 7 ++
      why ((earlier p d).any fun x => lbIs p x vt lb) 8

/-- The reasons of a rate declaration (R91, R208, R416). A SET above RSETS is accepted: no check of it is stated (DESIGN CHOICE, log
entry 41). -/
def rateReasons (p : Parts) (d : DeclRec) : List Nat :=
  let arc := (ofKind p.decls 2).find? fun x => dField x 0 == dField d 1
  let n := dField d 2
  let cons := (upTo n).map fun i => dField d (4 + 2 * i)
  why arc.isNone 7 ++ why (n == 0 || decide (n > 64)) 0x0A ++
  why ((earlier p d).any fun x => dField x 0 == dField d 0 && dField x 1 == dField d 1) 0x0A ++
  why (match arc with
    | some a => dField a 1 != 1 && cons.any fun c => c != 1
    | none => false) 0x0A

/-- The reasons of a letterbox (R91, R216). -/
def lbReasons (p : Parts) (d : DeclRec) : List Nat :=
  let base := dField d 2
  let slotb := dField d 3
  let slots := dField d 4
  why (decide (dField d 0 ≥ tileCount p)) 7 ++
  why ((earlier p d).any fun x => dField x 0 == dField d 0 && dField x 1 == dField d 1) 8 ++
  why (base % 64 != 0 || slotb % 64 != 0 || slotb == 0 || decide (slotb > 65536) || slots == 0 || decide (slots > 256) ||
    decide (base + slots * slotb > sramTop p)) 9 ++
  why ((earlier p d).any fun x => dField x 0 == dField d 0 && dField x 1 != dField d 1 &&
    overlaps (dField x 2) (dField x 3 * dField x 4) base (slotb * slots)) 0x0A

/-- The reasons of a data placement (R91, R101). -/
def dataReasons (p : Parts) (d : DeclRec) : List Nat :=
  let off := dField d 3
  let n := dField d 5
  why (decide (dField d 1 ≥ tileCount p)) 7 ++ why (decide (dField d 4 + n > p.dataSize)) 0x0A ++
  if dField d 0 == 1 then why (!(ofKind p.decls 5).any fun x => dField x 0 == dField d 2) 7
  else
    why (decide (off + n > sramTop p)) 9 ++
    why ((earlier p d).any fun x => dField x 0 == 0 && dField x 1 == dField d 1 && overlaps (dField x 3) (dField x 5) off n) 0x0A

/-- The reasons of a seed (R17, R91, R104). -/
def seedReasons (p : Parts) (d : DeclRec) : List Nat :=
  let dest := dField d 0
  why ((nodeTo p dest).isNone || gateB p dest) 7 ++ why (decide (dField d 1 > 64)) 9 ++
  why (dField d 4 >>> dField d 1 != 0 || (dField d 3 == 1 && (dField d 2 != 0 || dField d 5 != 0))) 0x0A

/-- The reasons of a code table (R91). -/
def tabReasons (d : DeclRec) : List Nat :=
  let ls := d.fields.drop 1
  why (ls.any (fun n => decide (n > 15)) || decide (((ls.filter (· != 0)).map fun n => 1 <<< (15 - n)).sum > 32768)) 0x0A

/-- The reasons of a record that its manifest decides (R91). -/
def declReasons (p : Parts) (d : DeclRec) : List Nat :=
  match d.kind with
  | 1 => rateReasons p d
  | 2 => arcReasons p d
  | 3 => lbReasons p d
  | 4 => why (decide (dField d 1 ≥ tileCount p)) 7
  | 5 => why (dField d 1 == 0) 4
  | 6 => tabReasons d
  | 7 => seedReasons p d
  | 8 => why ((nodeTo p (dField d 0)).isNone || !(ofKind p.decls 5).any fun x => dField x 0 == dField d 1) 7
  | 9 => why (nodeTo p (dField d 0)).isNone 7 ++
      why (!(earlier p d).isEmpty || match nodeTo p (dField d 0) with
        | some n => n.rcd.arity == .dyad
        | none => false) 8
  | 10 => dataReasons p d
  | 11 => why (decide (dField d 0 ≥ tileCount p) || opcTo p (dField d 2) != 0xD0) 7 ++
      why ((earlier p d).any fun x => dField x 0 == dField d 0 && dField x 1 == dField d 1) 8
  | _ => []

/-- The reasons of a node that letterboxes and arcs decide (R208, R315, R409). -/
def streamReasons (p : Parts) (n : LNode) : List Nat :=
  let lit := n.rcd.lit.toNat
  let arcs := ofKind p.decls 2
  let vt := n.addr / 512
  match n.opc with
  | 0xB0 =>
    let mine := arcs.filter fun a => dField a 2 / 2 == n.addr && (dField a 1 == 1 || dField a 1 == 2)
    why (mine.isEmpty || mine.any fun a =>
      !(dField a 4 == low 6 lit && (dField a 1 == 2 || lbTileOf p a == some (field lit 6 9)))) 7
  | 0xB1 | 0xB2 =>
    match arcs.find? fun a => lbIs p a vt (low 6 lit) with
    | none => [7]
    | some a => why (opcTo p (dField a 3) == 0xD0) 7
  | 0xB7 => why (!arcs.any fun a => dField a 0 == low 16 lit && dField a 1 == 3 && dField a 2 / 2 == n.addr) 7
  | 0xB8 => why (!arcs.any fun a => dField a 0 == low 16 lit && dField a 1 == 3 && dField a 3 / 2 == n.addr) 7
  | _ => []

/-- Arcs that some rate set declares (R232). -/
def ratedArcs (p : Parts) : List DeclRec :=
  (ofKind p.decls 2).filter fun a => (ofKind p.decls 1).any fun r => dField r 1 == dField a 0

/-- The records that take a monitor slot on a tile, by offset (R208, R232): actors, and each end of a rated arc. -/
def slotOffs (p : Parts) (vt : Nat) : List Nat :=
  let ends := (ratedArcs p).flatMap fun a =>
    ((([dField a 2, dField a 3].filter fun d => d != 0x7FFFF).filter fun d => d / 1024 == vt).map fun _ => a.off)
  sortBy (fun a b => decide (a < b)) (((ofKind p.decls 4).filter fun d => dField d 1 == vt).map (·.off) ++ ends)

/-- A 65th monitor slot of a tile (R208). -/
def slotErrors (p : Parts) : List ImgErr :=
  (upTo (tileCount p)).filterMap fun vt => ((slotOffs p vt)[64]?).map fun o => (o, 9)

/-! ### The whole image (R92, R93, R364) -/

/-- The seeds of SEEDX, at offsets past SIZE, and whatever is wrong with their form (R364). -/
def seedxIn (img seedx bytes : Nat) : List DeclRec × List ImgErr :=
  let p := seedxRecs seedx bytes (bytes / 8 + 1) 0
  let size := hdrSize img
  ((p.1.filter fun d => d.kind == 7).map fun d => { d with off := size + d.off },
    p.2.map (fun e => (size + e.1, 0x0A)) ++ (p.1.filter fun d => d.kind != 7).map fun d => (size + d.off, 0x0A))

/-- Every error of an image and its SEEDX whose header and section table are right (R92); that of a seed record past SIZE has
reason 0x0A (R364). -/
def bodyErrors (img seedx bytes : Nat) : List ImgErr :=
  let x := seedxIn img seedx bytes
  let p := partsOf img x.1
  let es :=
    nodeSectionErrors img ++ blockSectionErrors img (256 / hdrFold img) ++ roundSectionErrors img ++ (declsIn img).2 ++
    (p.nodes.flatMap fun n => errsAt n.off (crossReasons p n ++ streamReasons p n)) ++ shapeErrors p ++ waveErrors p ++
    blockErrors p ++ roundErrors p ++ slotErrors p
  let reasons (d : DeclRec) : List Nat := if d.off ≥ hdrSize img then (declReasons p d).map fun _ => 0x0A else declReasons p d
  x.2 ++ es ++ p.decls.flatMap fun d => errsAt d.off (reasons d)

/-- What an image is rejected with (R92, R93): the header first, then the section table, then the rest. -/
def imageError (img seedx bytes : Nat) : Option ImgErr :=
  match leastErr (headerErrors img) with
  | some e => some e
  | none => match leastErr (sectionErrors img) with
    | some e => some e
    | none => leastErr (bodyErrors img seedx bytes)

/-- The detail of MANIFEST_INVALID (R93). -/
def errDetail (e : ImgErr) : Nat := min e.1 0xFFFFFF * 256 + e.2

/-! ### The manifest (R94) -/

/-- A node record with its destinations placed (R68). -/
def placeRecord (opc : Nat) (r : NodeRec) : Nat :=
  packFields (nodeLayout.zip (nodeFields opc { r with dsta := placeDest r.dsta, dstb := placeDest r.dstb }))

/-- A round's word with a TOKEN's destination placed (R319). -/
def placeRoundWord (w : Nat) : Nat :=
  match decodeRound w with
  | .ok (.token d ga fill) => ((encode (.token (placeDest d) ga fill)).map (·.2)).getD w
  | _ => w

/-- Bytes of the data section (R86, R91). -/
def dataBytes (img off n : Nat) : List Byte := leBytes n (imgField img ((sectionOf img 5).off + off) 0 (8 * n))

/-- A seed record as a seed. -/
def seedOf (d : DeclRec) : SeedDecl :=
  { dest := dField d 0, fill := dField d 1, lp := dField d 3 == 1, tag := dField d 4,
    lanes := (d.fields.drop 5).map fun x => BitVec.ofNat 32 x }

/-- The manifest of an accepted image and its SEEDX (R94, R364): the seeds of SEEDX follow its own. -/
def manifestOf (img seedx bytes : Nat) : Manifest :=
  let p := partsOf img (seedxIn img seedx bytes).1
  let k := ofKind p.decls
  { depots := p.depots, pinned := imgField img 0 102 1 == 1,
    pin := (hdrPins img).take p.depots, rsets := p.rsets, opens := imgField img 0 109 1 == 1,
    spilld := imgField img 0 105 4, fold2 := imgField img 0 103 1 == 1, fold4 := imgField img 0 104 1 == 1,
    size := hdrSize img,
    nodes := p.nodes.map fun n => (n.addr, placeRecord n.opc n.rcd),
    blocks := p.blocks.map fun e => (blkTile e, blkIndex e, e.words),
    rounds := p.rounds.map fun e => (roundId e, e.words.map placeRoundWord),
    rates := (k 1).map fun d =>
      { set := dField d 0, arc := dField d 1, prod := (upTo (dField d 2)).map fun i => dField d (3 + 2 * i),
        cons := (upTo (dField d 2)).map fun i => dField d (4 + 2 * i) },
    arcs := (k 2).map fun d =>
      { arc := dField d 0, kind := dField d 1, src := dField d 2 / 2, dst := dField d 3, lb := dField d 4,
        delay := dField d 5, peer := dField d 6 },
    lbs := (k 3).map fun d =>
      { vtile := dField d 0, lb := dField d 1, base := dField d 2, slotb := dField d 3, slots := dField d 4 },
    actors := (k 4).map fun d => (dField d 0, dField d 1, dField d 2, dField d 3),
    tensors := (k 5).map fun d =>
      { tensor := dField d 0, access := dField d 1, base := dField d 2, bytes := dField d 3, off := d.off },
    codetabs := (k 6).map fun d => (dField d 0, d.fields.drop 1),
    seeds := (k 7).map seedOf,
    sinks := (k 8).map fun d => (dField d 0 / 2, dField d 1),
    handler := ((k 9).head?).map fun d => dField d 0 / 2,
    data := (k 10).map fun d =>
      { tensor := if dField d 0 == 1 then some (dField d 2) else none, vtile := dField d 1, offset := dField d 3,
        bytes := dataBytes img (dField d 4) (dField d 5) },
    feeds := (k 11).map fun d => (dField d 1, dField d 0, dField d 2 / 2),
    shapes := (shapesOf p).1 }

/-! ### Ranges (R299, R300) -/

/-- Whether two ranges share a byte with a writer among them (R299). -/
def rangeHit (a b : TensorDecl) : Bool :=
  overlaps a.base a.bytes b.base b.bytes && (bit a.access 1 || bit b.access 1)

/-- The offset that the ranges of one launch report (R299): the later record of the lowest such pair. -/
def ownOverlap (ts : List TensorDecl) : Option Nat :=
  leastBy (fun a b => decide (a < b))
    ((ts.filter fun t => ts.any fun u => decide (u.off < t.off) && rangeHit u t).map (·.off))

/-- The offset that a new launch's ranges report against another launch's (R300). -/
def crossOverlap (mine theirs : List TensorDecl) : Option Nat :=
  leastBy (fun a b => decide (a < b)) ((mine.filter fun t => theirs.any fun u => rangeHit t u).map (·.off))

end Sys2Proof.Machine
end

