-- ==== Sys2Proof/Machine/Records.lean ====
section
/-! DEFINITION. Queues and their records (R352 to R360): reading a record, waits, completion, and the dispatcher. -/

namespace Sys2Proof.Machine

/-! ### Package memory (R352, R354, R391)

The command processor's own addresses select host memory by bit 63: bus addresses there, physical addresses of device memory
elsewhere. DEDUCED (log entry 17). -/

/-- Bytes that the command processor reads at an address. -/
def cpRead (s : State) (a n : Nat) : Nat := leNat (readRun (if bit a 63 then s.bus else s.mem) (low 52 a) n)

/-- Bytes that the command processor writes at an address. -/
def cpWrite (s : State) (a : Nat) (bs : List Byte) : State :=
  if bit a 63 then { s with bus := writeBytes s.bus (low 52 a) bs } else storeMem s (low 52 a) bs

/-- Whether a read of the command processor fails (R274, R364): beyond device memory, or in a line that is lost. -/
def cpFails (s : State) (a n : Nat) : Bool :=
  !bit a 63 && n != 0 && (decide (low 52 a + n > s.cfg.memBytes) || (lostLine s [low 52 a] n).isSome)

/-! ### Records (R353, R354) -/

/-- The records of a ring: 2^(LOGN + 4), LOGN above 11 behaving as 11 (R352). -/
def ringSize (q : Queue) : Nat := 1 <<< (min q.logn 11 + 4)

/-- The address of a ring's record (R352). -/
def recordAddr (q : Queue) (k : Nat) : Nat :=
  let b := q.base.toNat
  (b >>> 63) <<< 63 + low 52 b + 128 * (k % ringSize q)

/-- Whether a record's fields are bad (R354): a reserved KIND, a field that its KIND does not use, MAXFOLD 11, a misaligned
CREC. -/
def recordBad (x : Nat) : Bool :=
  let kind := low 4 x
  let body (lo : Nat) : Bool := x >>> lo != 0
  let launchOnly := field x 34 5 != 0 || bit x 40 || field x 41 2 != 0
  kind == 0 || decide (kind > 4) || field x 4 29 != 0 || field x 41 2 == 3 || field x 512 7 != 0 ||
    (match kind with
      | 1 => bit x 33 || body 736
      | 2 => launchOnly || bit x 33 || body 752
      | 3 => launchOnly || bit x 33 || field x 43 21 != 0 || body 576
      | _ => launchOnly || body 704)

/-- A record from its 128 bytes (R354). -/
def parseRecord (x index : Nat) (tailed : Bool) : Rec :=
  { kind := low 4 x, crec := field x 512 64, sigv := BitVec.ofNat 64 (x >>> 448), siga := field x 384 64, w1v := field x 320 64,
    w1a := field x 256 64, w0v := field x 192 64, w0a := field x 128 64, user := BitVec.ofNat 64 (x >>> 64), pasid := field x 44 20,
    pasidv := bit x 43, maxfold := field x 41 2, permissive := bit x 40, sigadd := bit x 39,
    arithen := BitVec.ofNat 5 (x >>> 34), hostinv := bit x 33, body0 := field x 576 64, body1 := field x 640 64,
    body2 := if low 4 x == 1 then field x 704 32 else field x 704 48, bad := recordBad x, index := low 32 index, tailed }

/-- A queue's next record (R353): the head of its head list, else the ring's. -/
def nextRecord (s : State) (q : Queue) : Option Rec :=
  match q.headList with
  | r :: _ => some r
  | [] => if q.head == q.tail then none else some (parseRecord (cpRead s (recordAddr q q.head.toNat) 128) q.head.toNat false)

/-- A queue whose next record changes: its waits are still to be read (R355). -/
def rewait (q : Queue) : Queue := { q with hostOk := false, devOk := false, devDue := true }

/-- A queue's next record taken (R352). -/
def takeRecord (q : Queue) (r : Rec) : Queue :=
  let q1 := rewait { q with running := some r }
  match q.headList with
  | _ :: rest => { q1 with headList := rest }
  | [] => { q1 with head := q.head + 1 }

/-- A record put back at the head of its queue (R360, R366). -/
def putRecord (q : Queue) (r : Rec) : Queue :=
  let q1 := rewait { q with running := none }
  if r.tailed then { q1 with headList := r :: q.headList } else { q1 with head := q.head - 1 }

/-! ### Waits and eligibility (R355, R358) -/

/-- Whether a wait is satisfied (R355); an address of 0 means none. -/
def waitOk (s : State) (a v : Nat) : Bool := a == 0 || decide (v ≤ cpRead s a 8)

/-- A record's waits, none for a bad one (R354). -/
def recordWaits (r : Rec) : List (Nat × Nat) :=
  if r.bad then [] else [(r.w0a, r.w0v), (r.w1a, r.w1v)].filter fun w => w.1 != 0

/-- A record's waits on host memory. -/
def hostWaits (r : Rec) : List (Nat × Nat) := (recordWaits r).filter fun w => bit w.1 63

/-- A record's waits on device memory. -/
def deviceWaits (r : Rec) : List (Nat × Nat) := (recordWaits r).filter fun w => !bit w.1 63

/-- What a reading of waits acquires (R292): what the signals that it observes release. -/
def waitHb (s : State) (ws : List (Nat × Nat)) : List Nat :=
  ws.foldl (fun h w => unionNat h (acquired s (bit w.1 63) (low 52 w.1) none)) []

/-- Whether the waits of a queue's next record are satisfied (R355), each kind as of its last reading; one reading finds all of a
kind satisfied. -/
def waitsOk (q : Queue) (r : Rec) : Bool :=
  ((deviceWaits r).isEmpty || q.devOk) && ((hostWaits r).isEmpty || q.hostOk)

/-- The device memory waits of a queue's next record read, once none of its records runs (R353, R355): found satisfied, they stay
so, and the reading acquires. -/
def readWaits (s : State) (q : Queue) : Queue :=
  if !q.devDue || q.running.isSome then q
  else
    match nextRecord s q with
    | none => { q with devDue := false }
    | some r =>
      let met := (deviceWaits r).all fun w => waitOk s w.1 w.2
      if q.devOk || !met then { q with devDue := false }
      else { q with devDue := false, devOk := true, hb := unionNat q.hb (waitHb s (deviceWaits r)) }

/-- Every reading of device memory waits that is due (R355): at a queue's new record, and after a signal at package scope. -/
def readQueues (s : State) : State := { s with queues := s.queues.map (readWaits s) }

/-- Whether a queue's host waits would be found satisfied by a reading now. -/
def pollFinds (s : State) (q : Queue) : Bool :=
  match nextRecord s q with
  | none => false
  | some r => q.running.isNone && !q.hostOk && !(hostWaits r).isEmpty && (hostWaits r).all fun w => waitOk s w.1 w.2

/-- The host memory waits of a queue's next record read: found satisfied, they stay so, and the reading acquires. -/
def pollWaits (s : State) (q : Queue) : Queue :=
  match pollFinds s q, nextRecord s q with
  | true, some r => { q with hostOk := true, hb := unionNat q.hb (waitHb s (hostWaits r)) }
  | _, _ => q

/-- QUEUE_WAIT_POLL (R355): the host memory waits of every queue's next record are read again. -/
def execQueueWaitPoll (s : State) : Out := .next { s with queues := s.queues.map (pollWaits s) }

/-- The highest priority of a partition's launches that wait blocked (R360); none where no queue is blocked. -/
def blockedPrio (s : State) (part : Nat) : Option Nat :=
  leastBy (fun a b => decide (b < a)) ((s.queues.filter fun q => q.part == part && q.blocked).map (·.prio))

/-- Whether the revoke ring is full (R401). -/
def revokeFull (s : State) : Bool := decide ((s.revTail - s.revHead).toNat ≥ 1 <<< s.revLogn)

/-- Whether a LAUNCH of a queue may start now (R360, R401). -/
def launchAllowed (s : State) (q : Queue) : Bool :=
  !revokeFull s &&
    (((s.parts[q.part]?).map (·.backfill)).getD false ||
      match blockedPrio s q.part with
      | none => true
      | some p => decide (p ≤ q.prio))

/-- Whether a queue is eligible (R358, R360). -/
def eligible (s : State) (q : Queue) : Bool :=
  q.en && !q.pause && q.running.isNone && !q.blocked &&
    match nextRecord s q with
    | none => false
    | some r => waitsOk q r && (r.bad || r.kind != 1 || launchAllowed s q)

/-! ### Completion (R355, R357) -/

/-- The fields of a completion record (R357). -/
structure Completion where
  code : Nat
  detail : Nat
  faulted : Bool
  stopped : Bool
  range : Option Nat
  moffset : Nat
  tickets : Nat
  fault : Option FaultRec
  deriving DecidableEq, Repr

/-- A completion with a code and a detail. -/
def plainDone (code detail : Nat) : Completion :=
  { code, detail, faulted := false, stopped := false, range := none, moffset := 0, tickets := 0, fault := none }

/-- The 128 bytes of a completion record (R357). -/
def completionBits (c : Completion) (user : Dword) : Nat :=
  low 8 c.code + b2n c.faulted <<< 8 + b2n c.stopped <<< 9 + b2n c.range.isSome <<< 10 + low 32 c.detail <<< 16 +
    user.toNat <<< 64 + low 32 (c.range.getD 0) <<< 128 + low 64 c.moffset <<< 160 + low 32 c.tickets <<< 256 +
    (match c.fault with
      | some r => recordBits r
      | none => 0) <<< 512

/-- A completion record written at a record's CREC (R354, R357), where it has an aligned one. -/
def writeCompletion (s : State) (r : Rec) (c : Completion) : State :=
  if r.crec == 0 || r.crec % 128 != 0 then s else cpWrite s r.crec (leBytes 128 (completionBits c r.user))

/-- A record's completion signal (R355): performed at system scope, it releases what the record did (R293). -/
def makeSignal (s : State) (r : Rec) (hb : List Nat) : State :=
  if r.siga == 0 then s
  else
    let v := if r.sigadd then low 64 (cpRead s r.siga 8 + r.sigv.toNat) else r.sigv.toNat
    addSignal (cpWrite s r.siga (leBytes 8 v))
      { host := bit r.siga 63, addr := low 52 r.siga, isSet := !r.sigadd, scope := .system, port := none, hb }

/-- DONE advances and ERR is set by a CODE of 0x80 or above (R352, R355). -/
def closeRecord (s : State) (q code : Nat) : State :=
  modQueue s q fun x => { x with running := none, done := x.done + 1, err := x.err || decide (code ≥ 0x80) }

/-- A record completed (R355): completion record, signal, DONE. The signal releases what the queue's records acquired and did up to
here (R292, R293); the queue's later records come after that too. -/
def finishRecord (s : State) (q : Nat) (r : Rec) (c : Completion) (hb : List Nat) : State :=
  let all := unionNat (queueOf s q).hb hb
  closeRecord (makeSignal (writeCompletion (modQueue s q fun x => { x with hb := all }) r c) r all) q c.code

/-! ### The dispatcher (R359) -/

/-- A queue's weight; 0 behaves as 1 (R352). -/
def queueWeight (q : Queue) : Nat := max 1 q.weight

/-- The next partition in rotation that has an eligible queue (R359). -/
def nextPart (s : State) : Option Nat :=
  ((upTo 8).map fun k => (s.rotation + k) % 8).find? fun p => s.queues.any fun q => q.part == p && eligible s q

/-- The eligible queues of the highest priority of a partition (R359). -/
def contenders (s : State) (part : Nat) : List Queue :=
  let qs := s.queues.filter fun q => q.part == part && eligible s q
  qs.filter fun q => qs.all fun x => decide (x.prio ≤ q.prio)

/-- The queue that is chosen, by counters already raised (R359): the largest, the lowest number on ties. -/
def chosen (qs : List Queue) : Option Queue :=
  leastBy (fun a b => decide (a.cnt > b.cnt) || (a.cnt == b.cnt && decide (a.q < b.q))) qs

/-- DISPATCH (R359): the next queue's record is taken; a bad one completes at once (R354). -/
def execDispatch (s : State) : Out :=
  match nextPart s with
  | none => .next s
  | some p =>
    let qs := contenders s p
    let raised := qs.map fun q => { q with cnt := q.cnt + queueWeight q }
    match chosen raised with
    | none => .next s
    | some w =>
      let total := (qs.map queueWeight).sum
      let s1 := { s with
        rotation := (p + 1) % 8
        queues := s.queues.map fun q => match raised.find? fun x => x.q == q.q with
          | some x => if x.q == w.q then { x with cnt := x.cnt - total } else x
          | none => q }
      match nextRecord s w with
      | none => .next s1
      | some r =>
        let s2 := modQueue s1 w.q fun q => takeRecord q r
        .next (if r.bad then finishRecord s2 w.q r (plainDone 0x80 0) [] else s2)

/-- QUEUE_PRIO_WEIGHT_CHANGE (R352, R359): Oatin writes PART, PRIO and WEIGHT; a change of PRIO or WEIGHT resets the counter. -/
def execQueuePrioWeightChange (queue part prio weight : Nat) (s : State) : Out :=
  .next (modQueue s queue fun q =>
    { q with
      part := low 3 part, prio := low 2 prio, weight := low 16 weight
      cnt := if q.prio == low 2 prio && q.weight == low 16 weight then q.cnt else 0 })

/-! ### FENCE and INVAL (R356) -/

/-- The record that a queue runs, of a kind. -/
def runningKind (s : State) (q kind : Nat) : Option Rec :=
  match (queueOf s q).running with
  | some r => if r.kind == kind then some r else none
  | none => none

/-- FENCE (R356): nothing beyond its waits and completion. -/
def execFence (queue : Nat) (s : State) : Out :=
  match runningKind s queue 3 with
  | none => .next s
  | some r => .next (finishRecord s queue r (plainDone 0 0) [])

/-- Whether a launch stands placed: its completion has not been written. -/
def placedNow (l : Launch) : Bool := l.phase != .closed

/-- INVAL (R282, R356): refused where a placed launch of the partition maps the range; else the invalidation of R283 begins and
its completion completes the record. -/
def execInval (queue : Nat) (s : State) : Out :=
  match runningKind s queue 4 with
  | none => .next s
  | some r =>
    let part := (queueOf s queue).part
    let mapped := rangeMapped s part r.body0 r.body1
    if s.invals.any fun v => v.queue == some queue then .next s
    else if !r.hostinv && mapped then .next (finishRecord s queue r (plainDone 0x81 0) [])
    else
      let id := s.nextId
      let sc : InvalScope := if r.hostinv then .pasid r.pasid r.body0 r.body1 else .part part r.body0 r.body1
      .next (beginInval { s with nextId := id + 1 } id sc (some queue))

/-- INVALIDATION_COMPLETE (R283): posted once every request translated under a removed entry is performed. -/
def execInvalidationComplete (id : Nat) (s : State) : Out :=
  match s.invals.find? fun v => v.id == id with
  | none => .next s
  | some v =>
    if !invalDone s v then .next (pushAlone s (.invalidationComplete id))
    else
      let s1 := { s with invals := s.invals.filter fun x => x.id != id }
      match v.queue with
      | none => .next s1
      | some q => match runningKind s1 q 4 with
        | some r => .next (finishRecord s1 q r (plainDone 0 0) [])
        | none => .next s1

/-! ### COPY (R356) -/

/-- The range of a COPY's end in device virtual space, for the comparison of R300. -/
def copyRange (a n access : Nat) : List TensorDecl :=
  if bit a 63 then [] else [{ tensor := 0, access, base := low 52 a, bytes := n, off := 0 }]

end Sys2Proof.Machine
end

