-- ==== Sys2Proof/Machine/Place.lean ====
section
/-! DEFINITION. Placement (R361 to R363), what a launch is at its placement, shrink victims (R377), and what a region leaves
when it is released. -/

namespace Sys2Proof.Machine

/-! ### Depots and couriers that are free (R256, R304, R361) -/

/-- Whether a depot may take a region (R256, R259): its switch is usable and so is each of its tiles. A region takes whole depots, so
a depot with one tile offline takes none, whatever the manifest uses of it (DESIGN CHOICE, log entry 42). -/
def depotGood (s : State) (d : Nat) : Bool :=
  let w := (s.badnode.getD d 0).toNat
  decide (d < Config.depots) && field w 0 8 == 0 && !bit w 16

/-- The depots of a partition that may take a region. -/
def ownDepots (s : State) (part : Nat) : List Nat :=
  (((s.parts[part]?).map (·.depots)).getD []).filter (depotGood s)

/-- Depots that stand in some region. -/
def usedDepots (s : State) : List Nat := (s.launches.filter placedNow).flatMap (·.depots)

/-- The depots of a partition that are free. -/
def freeDepots (s : State) (part : Nat) : List Nat := (ownDepots s part).filter fun d => !(usedDepots s).contains d

/-- Couriers of a die that are bound (R304). -/
def boundCouriers (s : State) (die : Nat) : Nat :=
  ((s.launches.filter placedNow).flatMap fun l => l.couriers.filter fun q => q.die == die).length

/-- Couriers of a die that are free (R2, R304, R390): three stacks of eight. -/
def freeCouriers (s : State) (die : Nat) : Nat := popCount 24 (field s.cfg.courierMap (24 * die) 24) - boundCouriers s die

/-- ROUND nodes of a manifest by address. -/
def roundNodes (m : Manifest) : List Nat := (m.nodes.filter fun n => field n.2 88 8 == 0xD0).map (·.1)

/-- ROUND nodes on each group of virtual depots under a fold (R363). -/
def groupRounds (m : Manifest) (fold : Nat) : List Nat :=
  (upTo ((m.depots + fold - 1) / fold)).map fun g => ((roundNodes m).filter fun a => a / 4096 / fold == g).length

/-- A die for every group, so that no die lacks depots or couriers (R304, R361): the first that `order` offers and the rest
admits. -/
def pickDies (order : Nat → List Nat) : List Nat → List (Nat × Nat) → Option (List Nat)
  | [], _ => some []
  | r :: rest, caps =>
    (order rest.length).findSome? fun d =>
      match caps[d]? with
      | none => none
      | some c =>
        if c.1 == 0 || decide (c.2 < r) then none
        else (pickDies order rest (modAt caps d fun c => (c.1 - 1, c.2 - r))).map fun ds => d :: ds

/-- A depot for every group from the free ones of its die: which one, placement decides (R361). -/
def pickDepots (pick : Nat → Nat) : List Nat → List Nat → List Nat
  | [], _ => []
  | d :: ds, free =>
    let mine := free.filter fun x => x / 9 == d
    let p := mine.getD (pick ds.length % mine.length) 0
    p :: pickDepots pick ds (free.filter (· != p))

/-- The depots of a region under a fold (R361, R363): those of PIN, else as Oatin's policy decides (log entry 15); none where
it cannot be placed. -/
def findRegion (s : State) (part : Nat) (m : Manifest) (fold : Nat) : Option (List Nat) :=
  let free := freeDepots s part
  let rounds := groupRounds m fold
  let caps := (upTo 4).map fun d => ((free.filter fun x => x / 9 == d).length, freeCouriers s d)
  if m.pinned then
    let pins := m.pin.map fun p => p >>> 4 * 9 + low 4 p
    let ok := pins.all (free.contains ·) && (upTo 4).all fun d =>
      decide ((((pins.zip rounds).filter fun x => x.1 / 9 == d).map (·.2)).sum ≤ freeCouriers s d)
    if fold == 1 && ok then some pins else none
  else
    (pickDies (fun g => (upTo 4).map fun k => (Config.placement s.tick g + k) % 4) rounds caps).map fun ds =>
      pickDepots (fun g => Config.placement s.tick (64 + g)) ds free

/-- The folds a manifest declares and a record allows (R360, R363, R377). -/
def allowedFolds (m : Manifest) (maxfold : Nat) : List Nat :=
  (if m.fold2 && decide (maxfold ≥ 1) then [2] else []) ++ (if m.fold4 && decide (maxfold ≥ 2) then [4] else [])

/-- A region and its fold: unfolded where it can be placed so, else the least fold that fits. -/
def findPlace (s : State) (part : Nat) (m : Manifest) (maxfold : Nat) : Option (Nat × List Nat) :=
  (1 :: allowedFolds m maxfold).findSome? fun f => (findRegion s part m f).map fun ds => (f, ds)

/-- Whether a region can never be placed on its partition (R360): even folded, it needs more depots than the partition owns,
or pins one it does not own. -/
def unplaceable (s : State) (part : Nat) (m : Manifest) (maxfold : Nat) : Bool :=
  let own := ownDepots s part
  let f := (allowedFolds m maxfold).foldl max 1
  if m.pinned then !(m.pin.all fun p => own.contains (p >>> 4 * 9 + low 4 p))
  else decide ((m.depots + f - 1) / f > own.length)

/-! ### Shrink victims (R377) -/

/-- The depots that a launch keeps under a larger fold (R363, R378): those of slot 0. -/
def keptDepots (l : Launch) (f : Nat) : List Nat :=
  (upTo ((l.man.depots + f - 1) / f)).map fun g => l.depots.getD (g * f / l.fold) 0

/-- Depots that a launch would free under a fold. -/
def freedBy (l : Launch) (f : Nat) : List Nat := l.depots.filter fun d => !(keptDepots l f).contains d

/-- The victims of a requester, in the order they are taken. -/
def victims (s : State) (part prio : Nat) : List Launch :=
  let prioOf (l : Launch) : Nat := (queueOf s l.queue).prio
  sortBy (fun a b => decide (prioOf a < prioOf b) || (prioOf a == prioOf b && decide (a.queue > b.queue)))
    (s.launches.filter fun l => l.part == part && l.phase == .running && l.target == l.fold && decide (prioOf l < prio) &&
      (allowedFolds l.man l.rcd.maxfold).any fun f => decide (f > l.fold))

/-- Victims with their folds, until what they free is enough; none where it never is. -/
def planShrink (enough : List Nat → Bool) : List Nat → List Launch → Option (List (Nat × Nat))
  | got, [] => if enough got then some [] else none
  | got, v :: vs =>
    if enough got then some []
    else
      let fs := (allowedFolds v.man v.rcd.maxfold).filter fun f => decide (f > v.fold)
      let f := (fs.find? fun f => enough (got ++ freedBy v f)).getD (fs.foldl max v.fold)
      (planShrink enough (got ++ freedBy v f) vs).map fun p => (v.slot, f) :: p

/-- The depots that the shrinks under way will free (R360). -/
def freedSoon (s : State) (part : Nat) : List Nat :=
  (s.launches.filter fun l => l.part == part && placedNow l && decide (l.target > l.fold)).flatMap fun l => freedBy l l.target

/-- The victims that make room for a launch (R360, R377), beside the shrinks under way; none where nothing does, or nothing more
is needed. -/
def shrinkFor (s : State) (part prio : Nat) (m : Manifest) (maxfold : Nat) : Option (List (Nat × Nat)) :=
  let free := freeDepots s part ++ freedSoon s part
  let vs := victims s part prio
  let plan (f : Nat) : Option (List (Nat × Nat)) :=
    planShrink (fun got =>
      if m.pinned then f == 1 && m.pin.all fun p => (free ++ got).contains (p >>> 4 * 9 + low 4 p)
      else decide ((m.depots + f - 1) / f ≤ (free ++ got).length)) [] vs
  (1 :: allowedFolds m maxfold).findSome? fun f => match plan f with
    | some (x :: xs) => some (x :: xs)
    | _ => none

/-! ### A launch at its placement (R362 to R364, R381) -/

/-- The lowest launch slot not in use (R362). -/
def freeSlot (s : State) : Nat := nthFree (sortBy (fun a b => decide (a < b)) (s.launches.map (·.slot))) 0

/-- The cap of a meter's RATE in 1,024 cycles (R381): 128 B per cycle for each bound courier, 64 B for the other ports. -/
def meterCap (couriers k : Nat) : Nat := 1024 * (if k == 0 then 128 * couriers else 64)

/-- Whether a region stands on a die whose thermal trip has not cleared (R382). -/
def tripped (s : State) (depots : List Nat) : Bool := depots.any fun d => s.trips.getD (d / 9) false

/-- The RATE of a meter of a region (R381, R382): Oatin's setting under the cap, and 1/16 of the cap under a thermal trip. -/
def meterRate (s : State) (slot : Nat) (depots : List Nat) (couriers k : Nat) : Nat :=
  let cap := meterCap couriers k
  if tripped s depots then cap / 16 else min (s.cfg.meterRate.getD (4 * slot + k) 0) cap

/-- The meters of a region (R381), full at its placement (log entry 18): courier deliveries, seeds, arc arrivals, host
writes. -/
def regionMeters (s : State) (slot : Nat) (depots : List Nat) (couriers : Nat) : List Meter :=
  (upTo 4).map fun k =>
    let depth := min (s.cfg.meterDepth.getD (4 * slot + k) 0) 65536
    { rate := meterRate s slot depots couriers k, depth, level := depth }

/-- The meters of a launch at the rates that stand (R381, R382). -/
def resetRates (s : State) (l : Launch) : Launch :=
  { l with meters := l.meters.mapIdx fun k m => { m with rate := meterRate s l.slot l.depots l.couriers.length k } }

/-- Where a virtual tile's SRAM lies (R363): its physical tile and the offset in it. -/
def sramPlace (l : Launch) (v : Nat) : Nat × Nat := (depotOf l (v / 8) * 8 + v % 8, (v / 8 % l.fold) * sramLimit l.man)

/-- A part of a memory moved to begin at 0. -/
def sliceMem (m : Memory) (a n : Nat) : Memory :=
  (m.filter fun c => decide (a ≤ c.1) && decide (c.1 < a + n)).map fun c => (c.1 - a, c.2)

/-- What a physical tile's SRAM holds from the regions before (R146). -/
def leftOn (s : State) (tile : Nat) : Memory × List Nat :=
  match s.sramLeft.find? fun x => x.1 == tile with
  | some x => (x.2.1, x.2.2)
  | none => ([], [])

/-- Whether an arc has a letterbox of its own region (R208). -/
def holdsLb (a : ArcDecl) : Bool := a.kind == 1 || ((a.kind == 2 || a.kind == 3) && a.src == 0x3FFFF)

/-- A tile's letterbox table at the seal (R216). -/
def sealLbs (l : Launch) (v : Nat) : List Letterbox :=
  (upTo 64).map fun k =>
    match l.man.lbs.find? fun d => d.vtile == v && d.lb == k with
    | none => emptyLb
    | some d =>
      let arc := l.man.arcs.find? fun a => holdsLb a && a.lb == k && arcTile l a == v
      { wseq := 0, rseq := 0, fseq := 0, arc := (arc.map (·.arc)).getD 0, slots := d.slots, slotb := d.slotb, base := d.base,
        valid := true, wrote := [] }

/-- A monitor slot at the seal (R232). -/
def sealMonitor (kind role arc node : Nat) : Monitor :=
  { count := 0, firings := 0, fh := 0xFFFFF, phases := 0, role, arc, kind, node }

/-- A tile's monitor slots at the seal (R232): its actors, and its ends of arcs that any rate set declares. -/
def sealMonitors (m : Manifest) (v : Nat) : List Monitor :=
  let rated := m.arcs.filter fun a => m.rates.any fun r => r.arc == a.arc
  ((m.actors.filter fun a => a.2.1 == v).map fun _ => sealMonitor 1 0 0 0x3FFFF) ++
    rated.flatMap fun a =>
      (if a.src != 0x3FFFF && a.src / 512 == v then [sealMonitor 2 0 a.arc a.src] else []) ++
      (if a.dst != 0x7FFFF && a.dst / 1024 == v then [sealMonitor 2 1 a.arc (a.dst / 2)] else [])

/-- An arc at the seal (R218, R376, R410): one of KIND 1 is bound within its launch, the others are unbound. -/
def sealArc (l : Launch) (a : ArcDecl) : Arc :=
  let lb := if holdsLb a then l.man.lbs.find? fun d => d.lb == a.lb && d.vtile == arcTile l a else none
  let slots := (lb.map (·.slots)).getD 0
  let slotb := (lb.map (·.slotb)).getD 0
  { arc := a.arc, credit := if a.kind == 1 then slots else 0, bind := if a.kind == 1 then .bound else .unbound, slots, slotb,
    peerSlot := l.slot, peerArc := a.arc, peerTile := globalTile l (arcTile l a), plane := 0, cver := 0, sent := 0, fired := 0, frees := [] }

/-- The courier of a ROUND node at the seal (R304, R309). -/
def sealCourier (l : Launch) (node : Nat) : Courier :=
  { node, die := depotOf l (node / 4096) / 9, state := .idle, resume := .idle, held := false, g := List.replicate 8 0, pc := 0,
    round := 0, firing := none, bufs := List.replicate 4 [], slots := List.replicate 4 none, credits := [], delivered := [],
    sunk := [], hb := [], pending := 0 }

/-- The configuration that a manifest's seal gives a launch: tables, monitors, arcs (R144, R216, R232, R365). -/
def configure (l : Launch) : Launch :=
  loadPhases { l with
    arcs := (l.man.arcs.filter fun a => a.kind != 0).map (sealArc l)
    tiles := l.tiles.map fun t => { t with lbs := sealLbs l t.vtile, monitors := sealMonitors l.man t.vtile } }

/-- The state of a tile whose region runs under a fold (R148). -/
def runState (fold : Nat) : TileState := if fold > 1 then .folded else .running

/-- A launch that holds nothing yet. -/
def emptyLaunch (slot queue part : Nat) (r : Rec) (m : Manifest) : Launch :=
  { slot, queue, rcd := r, part, phase := .staging, live := 0, depots := [], fold := 1, target := 1, before := [], man := m, staged := none,
    reconf := none, root := 0, office := 0, active := 0, desks := [], tiles := [], couriers := [], arcs := [], flights := [],
    cargo := [], reqs := [], performed := [], olders := [], accesses := [], faults := [], deferred := [], gone := [], tickets := 0,
    faulted := false, stopped := false, range := none, joint := [], tails := [], posted := [], modeQueue := [], spill := [],
    spec := [], horizon := none, regs := [], epoch := 0, formed := none, bcast := [], undo := [], undoFull := false,
    meters := [], placed := [], seedsLeft := [], code := 0, detail := 0, moffset := 0, fault := none, hb := [] }

/-- A launch placed on depots (R361 to R364): its tiles hold what the physical SRAM holds, and enter STAGING. -/
def placeLaunch (s : State) (queue : Nat) (r : Rec) (m : Manifest) (fold : Nat) (depots : List Nat) (hb : List Nat) : Launch :=
  let l0 := { emptyLaunch (freeSlot s) queue (queueOf s queue).part r m with fold, target := fold, depots, hb }
  let tiles := (upTo (m.depots * 8)).map fun v =>
    let p := sramPlace l0 v
    let x := leftOn s p.1
    let n := sramLimit m
    { emptyTile v with
      state := .staging, sram := sliceMem x.1 p.2 n
      bad := (x.2.filter fun w => decide (p.2 ≤ 8 * w) && decide (8 * w < p.2 + n)).map fun w => w - p.2 / 8 }
  let cs := (roundNodes m).map (sealCourier l0)
  configure { l0 with tiles, couriers := cs, meters := regionMeters s l0.slot depots cs.length }

/-! ### What a region leaves (R146) -/

/-- A virtual tile's SRAM left in its physical tile. -/
def leaveTile (s : State) (l : Launch) (t : Tile) : State :=
  let p := sramPlace l t.vtile
  let x := leftOn s p.1
  let n := sramLimit l.man
  let outside (a : Nat) : Bool := decide (a < p.2) || decide (p.2 + n ≤ a)
  let below := x.1.filter fun c => decide (c.1 < p.2)
  let above := x.1.filter fun c => decide (p.2 + n ≤ c.1)
  let sram := below ++ ((sliceMem t.sram 0 n).map fun c => (c.1 + p.2, c.2)) ++ above
  let bad := (x.2.filter fun w => outside (8 * w)) ++ t.bad.map fun w => w + p.2 / 8
  { s with sramLeft := (s.sramLeft.filter fun y => y.1 != p.1) ++ [(p.1, sram, bad)] }

/-- A region's SRAM left in its physical tiles. -/
def leaveRegion (s : State) (l : Launch) : State := l.tiles.foldl (fun s t => leaveTile s l t) s

/-- The queues of a partition that waited for room are blocked no longer (R360). -/
def unblock (s : State) (part : Nat) : State :=
  { s with queues := s.queues.map fun q => if q.part == part then { q with blocked := false } else q }

end Sys2Proof.Machine
end

