-- ==== Sys2Proof/Machine/Launches.lean ====
section
/-! DEFINITION. From a LAUNCH record to a running region: fetch and validation (R364, R367), placement and staging, the seal's
waves (R365, R366), reconfiguring MODE (R235), halts of staging regions, and the binding of arcs (R376, R408, R410). -/

namespace Sys2Proof.Machine

/-! ### Fetch and validation (R92, R95, R364, R367) -/

/-- What stops a load: a read that fails, or a rejection. -/
inductive LoadErr where
  | fetch
  | invalid (e : ImgErr)
  deriving DecidableEq, Repr

/-- An image and a SEEDX read and validated: the header first, then the rest (R92). `rd` reads bytes at an offset of the
image; none is a read that fails. -/
def loadImage (rd : Nat → Nat → Option Nat) (seedx : Option Nat) (bytes : Nat) : Except LoadErr Nat :=
  match rd 0 64 with
  | none => .error .fetch
  | some h =>
    match leastErr (headerErrors h) with
    | some e => .error (.invalid e)
    | none =>
      match rd 64 (hdrSize h - 64), seedx with
      | none, _ => .error .fetch
      | _, none => .error .fetch
      | some rest, some x =>
        let img := h + rest <<< 512
        match imageError img x bytes with
        | some e => .error (.invalid e)
        | none => .ok img

/-- A read of the command processor that may fail. -/
def cpTry (s : State) (a n : Nat) : Option Nat := if cpFails s a n then none else some (cpRead s a n)

/-- The image of a LAUNCH record loaded (R364): reused from the manifest cache where it is held there (R367). The whole image is
read in one step, so one of the outcomes of R95 is taken, that of bytes read together (DESIGN CHOICE, log entry 1). -/
def loadLaunch (s : State) (part : Nat) (r : Rec) : Except LoadErr (State × Manifest) :=
  let a := r.body0
  let bytes := r.body2
  let hit := s.cache.find? fun c => c.part == part && c.addr == a &&
    (cpTry s a 64).map hdrSize == some c.size
  match hit, bytes with
  | some c, 0 => .ok (s, c.man)
  | _, _ =>
    match loadImage (fun o n => cpTry s (a + o) n) (if bytes == 0 then some 0 else cpTry s r.body1 bytes) bytes with
    | .error e => .error e
    | .ok img =>
      let seedx := if bytes == 0 then 0 else cpRead s r.body1 bytes
      let m := manifestOf img seedx bytes
      if bit a 63 || bytes != 0 || hit.isSome then .ok (s, m)
      else .ok ({ s with cache := s.cache ++ [{ part, addr := a, size := m.size, man := m }] }, m)

/-- The completion of a load that failed (R357, R364). -/
def loadDone (e : LoadErr) : Completion :=
  match e with
  | .fetch => plainDone 0x16 0
  | .invalid e => { plainDone 0x17 (errDetail e) with moffset := e.1 }

/-- The places of one `.data` record in device memory, with the virtual address and the bytes of each (R364), or the trap of R273.
A page table entry in a lost line (R274) is a read that fails (DEDUCED, log entry 16). -/
def dataPlaces (s : State) (l : Launch) (m : Manifest) (d : DataDecl) : Except Trap (List (Nat × Nat × List Byte)) :=
  match d.tensor with
  | none => .ok []
  | some t =>
    let base := ((m.tensors.find? fun x => x.tensor == t).map (·.base)).getD 0
    let ps := rowPieces 16 (base + d.offset) d.bytes.length
    match checkUnits s l hostPort false true ⟨false, true⟩ 1 (fun _ => 0) 0 (ps.map (·.1)) with
    | .ok places => .ok ((ps.zip places).map fun x => (x.2, x.1.1, (d.bytes.drop (x.1.1 - (base + d.offset))).take x.1.2))
    | .trap t => .error t
    | .lost _ => .error (mkTrap 0x16 0)
    | .miss _ _ => .ok []

/-- The placement buffer of a manifest (R364): its device bytes with their places. -/
def stageData (s : State) (l : Launch) (m : Manifest) : List DataDecl → Except Trap (List (Nat × Nat × List Byte))
  | [] => .ok []
  | d :: ds =>
    match dataPlaces s l m d with
    | .error t => .error t
    | .ok p => match stageData s l m ds with
      | .error t => .error t
      | .ok q => .ok (p ++ q)

/-! ### LAUNCH (R299, R300, R360 to R364, R377) -/

/-- A LAUNCH that cannot be placed now (R360): victims are asked to shrink, and the queue is blocked with its record put
back. -/
def blockLaunch (s : State) (queue : Nat) (r : Rec) (m : Manifest) : State :=
  let x := queueOf s queue
  let s1 := modQueue s queue fun q => { putRecord q r with blocked := true }
  match shrinkFor s x.part x.prio m r.maxfold with
  | none => s1
  | some plan => plan.foldl (fun s v =>
      pushAll (modLaunch s v.1 fun l => { l with target := v.2 }) [.haltRequest v.1, .regionShrink v.1]) s1

/-- The launches of a partition that a new one's ranges overlap (R300), with the offset each reports. -/
def rangeFoes (s : State) (part : Nat) (ts : List TensorDecl) : List (Nat × Nat) :=
  (s.launches.filter fun o => o.part == part && placedNow o).filterMap fun o =>
    (crossOverlap ts (launchRanges o)).map fun k => (o.slot, k)

/-- The offset that R299 and R300 report for a launch flagged with a manifest: that of its own overlap, else the lowest against
another launch. -/
def rangeFlag (ts : List TensorDecl) (foes : List (Nat × Nat)) : Option Nat :=
  match ownOverlap ts with
  | some k => some k
  | none => leastBy (fun a b => decide (a < b)) (foes.map (·.2))

/-- A launch staged on the place found for it (R300, R364). -/
def stageLaunch (s : State) (queue : Nat) (r : Rec) (m : Manifest) (fold : Nat) (depots : List Nat) : State :=
  let part := (queueOf s queue).part
  let foes := rangeFoes s part m.tensors
  let low_ := leastBy (fun a b => decide (a < b)) (foes.map (·.2))
  match r.permissive, low_ with
  | false, some k => finishRecord s queue r (loadDone (.invalid (k, 0x0B))) []
  | _, _ =>
    let l := { placeLaunch s queue r m fold depots (queueOf s queue).hb with
      joint := foes.map (·.1), range := rangeFlag m.tensors foes }
    match stageData s l m m.data with
    | .error t => finishRecord s queue r (plainDone t.code t.detail) []
    | .ok placed => { s with launches := s.launches ++ [{ l with placed }] }

/-- The route tables before a placement (R251, R255): written anew where a link has failed since, once no launch is placed; none
while the placement must wait for that. -/
def routedState (s : State) : Option State :=
  if routesFresh s then some s
  else if s.launches.any placedNow then none
  else some (writeRoutes s)

/-- LAUNCH (R364): fetched, validated, compared, placed and staged; or completed, or blocked (R360). -/
def execLaunch (queue : Nat) (s : State) : Out :=
  match runningKind s queue 1 with
  | none => .next s
  | some r =>
    let part := (queueOf s queue).part
    if s.launches.any fun l => l.queue == queue && placedNow l then .next s
    else
      match loadLaunch s part r with
      | .error e => .next (finishRecord s queue r (loadDone e) [])
      | .ok (s1, m) =>
        match r.permissive, ownOverlap m.tensors with
        | false, some k => .next (finishRecord s1 queue r (loadDone (.invalid (k, 0x0B))) [])
        | _, _ =>
          if unplaceable s1 part m r.maxfold then .next (finishRecord s1 queue r (plainDone 0x82 0) [])
          else
            match routedState s1 with
            | none => .next (modQueue s1 queue fun q => { putRecord q r with blocked := true })
            | some s2 =>
              match findPlace s2 part m r.maxfold with
              | none => .next (blockLaunch s2 queue r m)
              | some (fold, depots) => .next (stageLaunch s2 queue r m fold depots)

/-! ### The seal (R365) -/

/-- SEAL_WAVE (R365): a staged tile answers. -/
def execSealWave (slot vtile : Nat) (s : State) : Out :=
  .next (modLaunch s slot fun l =>
    let l1 := modTile l vtile fun t => if t.state == .staging then { t with answered := true } else t
    if l1.phase == .staging && l1.tiles.all (·.answered) then { l1 with phase := .sealed } else l1)

/-- Bytes a seed takes of the seed ingress meter (R365, R381): a header of 16 and four for each lane. DESIGN CHOICE (log entry
18). -/
def seedBytes (d : SeedDecl) : Nat := 16 + 4 * d.lanes.length

/-- Seeds injected in order while the meter holds their bytes (R365, R381). -/
def injectSeeds (s : State) (slot : Nat) : List SeedDecl → State
  | [] => modLaunch s slot fun l => { l with seedsLeft := [] }
  | d :: ds =>
    match findLaunch s slot with
    | none => s
    | some l =>
      if meterHas l 1 (seedBytes d) then
        injectSeeds (emitToken (setLaunch s (meterTake l 1 (seedBytes d))) slot
          { dest := placeDest (BitVec.ofNat 19 d.dest), fh := l.root, tag := BitVec.ofNat 64 d.tag, fill := d.fill, dl := false,
            lp := d.lp, sp := false, lanes := d.lanes, lpar := 0, hp := 0, src := 1 <<< 23, hb := l.hb }) slot ds
      else modLaunch s slot fun l => { l with seedsLeft := d :: ds }

/-- Who the seal's data placement is (R287): no desk, no frame. DESIGN CHOICE (log entry 45). -/
def sealParty (slot : Nat) : Party :=
  { slot, vdesk := 0x1FFF, node := 0, fh := 0xFFFFF, fid := 0, ffill := 0, tag := 0, fill := 0, postmark := 0, round := none,
    task := none, key := keyTop }

/-- A write of the seal's data placement to one granule (R287). -/
def sealAccess (l : Launch) (g : Nat) (space : Space) (place loc va gva : Nat) : Access :=
  { id := 0, group := g, space, place, loc, kind := .write, party := sealParty l.slot, lane := 0, va, gva, index := 0, hb := [] }

/-- The accesses of the seal's data placement (R287): device granules by physical address, SRAM granules by virtual tile. -/
def sealAccesses (l : Launch) (g : Nat) (m : Manifest) (placed : List (Nat × Nat × List Byte)) : List Access :=
  (m.data.flatMap fun d => match d.tensor with
    | some _ => []
    | none => (granules d.offset d.bytes.length).map fun k => sealAccess l g .sram d.vtile k (4 * k) (4 * k)) ++
  placed.flatMap fun p => (granules p.1 p.2.2.length).map fun k =>
    sealAccess l g .device 0 k p.2.1 (p.2.1 / 4 * 4 + 4 * (k - p.1 / 4))

/-- A race of the seal's data placement (R287, R295, R300): the launch ends with the records of both accesses, since no activation
can be charged. DESIGN CHOICE (log entry 45). -/
def sealRace (s : State) (l : Launch) (e x : Access) : State :=
  let r : FaultRec := { companionOf x e with ticket := l.tickets + 1, detail := raceDetail e x }
  endFault (setLaunch s { l with
    tickets := l.tickets + 2, faulted := true, faults := l.faults ++ [{ companionOf e x with ticket := l.tickets }, r] })
    l.slot 0x09 r.detail (some r)

/-- The `.data` bytes of a manifest written to their places (R364, R365); what the launch does afterwards comes after them (R293). -/
def placeBytes (s : State) (slot g : Nat) (m : Manifest) (placed : List (Nat × Nat × List Byte)) : State :=
  let s1 := modLaunch s slot fun l =>
    m.data.foldl (fun l d => match d.tensor with
      | some _ => l
      | none => modTile l d.vtile fun t => writeSram t d.offset d.bytes) { l with placed := [], hb := unionNat l.hb [g] }
  clearLost (placed.foldl (fun s p => writeDevice s slot p.1 p.2.2) s1) (placed.map fun p => (p.1, p.2.2.length))

/-- The seal's data placement (R287, R365): checked as accesses of its launch, then made; a race makes none of it. -/
def placeData (s : State) (slot : Nat) (m : Manifest) (placed : List (Nat × Nat × List Byte)) : State :=
  match findLaunch s slot with
  | none => s
  | some l =>
    let p := newGroup s
    match checkAccesses p.1 slot (sealAccesses l p.2 m placed) with
    | .error e => sealRace p.1 l e.1 e.2
    | .ok s1 => placeBytes s1 slot p.2 m placed

/-- The root and office frames of a launch (R25, R242, R365). The office frame has no creator, and its PARENT is all ones, as the
root's is (DESIGN CHOICE, log entry 43). -/
def sealFrames (s : State) (slot : Nat) : State :=
  match findLaunch s slot with
  | none => s
  | some l =>
    let root := freeHandle s
    let s1 := addFrame s (makeFrame s l root 0xFFFFF .root 0 0 0)
    let office := freeHandle s1
    let s2 := addFrame s1 (makeFrame s1 l office 0xFFFFF .ordinary 0 0 0)
    modLaunch s2 slot fun l => { l with root, office }

/-- The binding of the arcs that leave a launch, after its seal (R376, R410). -/
def bindArcs (s : State) (slot : Nat) (m : Manifest) : State :=
  pushAll s ((m.arcs.filter fun a => decide (a.kind ≥ 2)).map fun a => .arcBind slot a.arc none)

/-- Whether a launch's effects have stopped (R369). -/
def effectsOver (s : State) (slot : Nat) : Bool := ((findLaunch s slot).map fun l => l.phase == .ended).getD true

/-- The commit wave of a launch (R365). -/
def commitLaunch (s : State) (l : Launch) : State :=
  let s1 := setLaunch s { l with
    phase := .running, tiles := l.tiles.map fun t => { t with state := runState l.fold, answered := false } }
  let s2 := placeData s1 l.slot l.man l.placed
  if effectsOver s2 l.slot then s2
  else injectSeeds (bindArcs (sealFrames s2 l.slot) l.slot l.man) l.slot l.man.seeds

/-- Every number of an access of a launch. -/
def allAccesses (l : Launch) : List Nat := dedup (l.accesses.map (·.group))

/-- A held MODE token taken from where it is held (R234, R439), and how many tokens go with it: its firing, its way, its spill
slot, or its place beside the latch. -/
def takeMode (s : State) (l : Launch) (t : Token) : State × Nat :=
  let v := destDesk t.dest
  let d := deskOf l v
  match d.ready.find? fun r => r.firing.a == t with
  | some r => (setLaunch s (modDesk l v fun d => { d with ready := d.ready.erase r }), operandCount r.firing)
  | none =>
    match l.spill.find? fun p => p.tok == t with
    | some p => (clearSlot s l.slot v p, 1)
    | none => (setLaunch s (modDesk l v fun d =>
        { d with waiting := d.waiting.erase t, aside := d.aside.filter fun x => x.tok != t }), 1)

/-- A held MODE token discarded with the operand it was paired with (R234). -/
def discardMode (s : State) (slot : Nat) (t : Token) : State :=
  match findLaunch s slot with
  | none => s
  | some l =>
    let p := takeMode s l t
    consume p.1 t.fh p.2

/-- The MODE tokens that follow one that reconfigures discarded (R234). -/
def discardModes (s : State) (slot : Nat) (t : Token) : State :=
  match findLaunch s slot with
  | none => s
  | some l =>
    (l.modeQueue.filter fun u => u != t).foldl (fun s t => discardMode s slot t) (setLaunch s { l with modeQueue := [] })

/-- The couriers of a launch under a new manifest: a binding lasts until the launch ends, and a new ROUND node takes a free one
(R304). -/
def rebindCouriers (l : Launch) : List Courier :=
  l.couriers ++ ((roundNodes l.man).filter fun n => (courierOf l n).isNone).map (sealCourier l)

/-- Whether every die has a free courier for each ROUND node that a manifest adds there to a launch (R304). -/
def couriersFree (s : State) (l : Launch) (m : Manifest) : Bool :=
  (upTo 4).all fun d =>
    decide (((roundNodes m).filter fun n => (courierOf l n).isNone && depotOf l (n / 4096) / 9 == d).length ≤ freeCouriers s d)

/-- The messages that an arc of a launch has delivered (R401): of its producer those sent, but for the ones still on their way; of its
consumer those written. -/
def delivered (l : Launch) (a : ArcDecl) : Nat :=
  (((arcOf l a.arc).map (·.sent)).getD 0) - (l.cargo.filter fun p => match p.2 with
    | .send f _ _ _ _ _ _ => (arcFrom l (fNode f)).any fun b => b.arc == a.arc
    | _ => false).length

/-- The arcs that a launch's messages have left or reached it by, with the messages delivered (R401, R420): those of its manifest, with
what an arc of the same number, kind and PEER delivered under the manifests before, then the others of those manifests. -/
def arcCounts (l : Launch) : List (ArcDecl × Nat) :=
  let mine := l.man.arcs.filter fun a => a.kind == 3 || (a.kind == 2 && a.src != 0x3FFFF)
  let same (a b : ArcDecl) : Bool := a.arc == b.arc && a.kind == b.kind && a.peer == b.peer
  (mine.map fun a => (a, delivered l a + ((l.past.filter fun p => same p.1 a).map (·.2)).sum)) ++
    l.past.filter fun p => !mine.any (same p.1)

/-- The ends that other launches' arcs have in a launch, free to be bound again (R376). -/
def freeEnds (s : State) (slot : Nat) : State :=
  { s with launches := s.launches.map fun o =>
      if o.slot == slot then o
      else { o with arcs := o.arcs.map fun x =>
        if o.man.arcs.any (fun a => a.arc == x.arc && a.kind == 2) && x.peerSlot == slot && (x.bind == .bound || x.bind == .mismatch)
        then { x with bind := .unbound, credit := 0 } else x } }

/-- The commit wave of a reconfiguring MODE (R235, R365): the new configuration, set 0, its `.data` bytes, then its seeds. Its ranges
are flagged as a launch's are (R299, R300). -/
def commitMode (s : State) (l : Launch) (m : Manifest) (f : Firing) : State :=
  let s1 := consume (discardModes s l.slot f.a) f.a.fh (operandCount f)
  match findLaunch s1 l.slot with
  | none => s1
  | some l1 =>
    let foes := if l1.rcd.permissive then (rangeFoes s1 l1.part m.tensors).filter fun f => f.1 != l1.slot else []
    let l2 : Launch := { l1 with
      man := m, staged := none, reconf := none, active := 0, desks := [], posted := [], past := arcCounts l1
      joint := unionNat l1.joint (foes.map (·.1))
      range := if l1.rcd.permissive && l1.range.isNone then rangeFlag m.tensors foes else l1.range
      tiles := l1.tiles.map fun t => { t with state := runState l1.fold, answered := false, bound := [] } }
    let l3 : Launch := configure { l2 with couriers := rebindCouriers l2, hb := unionNat l2.hb (allAccesses l2) }
    let s2 := placeData (setLaunch (freeEnds s1 l.slot) l3) l.slot m l3.placed
    if effectsOver s2 l.slot then s2 else injectSeeds (bindArcs s2 l.slot m) l.slot m.seeds

/-- COMMIT_WAVE (R365): the banks are exchanged and what follows is done; seeds that the meter held back go on. -/
def execCommitWave (slot : Nat) (s : State) : Out :=
  match findLaunch s slot with
  | none => .next s
  | some l =>
    match l.phase, l.staged, l.reconf with
    | .sealed, _, _ => .next (commitLaunch s l)
    | .running, some m, some f => if l.tiles.all (·.answered) then .next (commitMode s l m f) else .next s
    | .running, _, _ => .next (injectSeeds s slot l.seedsLeft)
    | _, _, _ => .next s

/-! ### MODE with RECONF (R233 to R235) -/

/-- A read of an image by partition virtual address (R233, R275); none where it fails. -/
def virtualTry (s : State) (l : Launch) (a n : Nat) : Option Nat :=
  let ps := rowPieces 16 a n
  if n == 0 then some 0
  else
    match checkUnits s l hostPort false true ⟨true, false⟩ 1 (fun _ => 0) 0 (ps.map (·.1)) with
    | .ok places =>
      let xs := (ps.zip places).map fun x => (x.1.1, x.2, x.1.2)
      if xs.any fun x => (lostLine s [x.2.1] x.2.2).isSome then none else some (leNat (readPieces s false xs))
    | .trap _ | .lost _ | .miss _ _ => none

/-- The manifest of a reconfiguring MODE loaded (R235, R299, R300, R304, R364): the region stays as it is, so DEPOTS must be its own, and
its dies must have the couriers. DESIGN CHOICE (log entry 19). -/
def loadMode (s : State) (l : Launch) (a : Nat) : Except LoadErr Manifest :=
  match loadImage (fun o n => virtualTry s l (a + o) n) (some 0) 0 with
  | .error e => .error e
  | .ok img =>
    let m := manifestOf img 0 0
    let foes := (rangeFoes s l.part m.tensors).filter fun f => f.1 != l.slot
    match l.rcd.permissive, rangeFlag m.tensors foes with
    | false, some k => .error (.invalid (k, 0x0B))
    | _, _ =>
      if m.depots == l.man.depots && (l.fold == 1 || declFold m == declFold l.man) && couriersFree s l m then .ok m
      else .error (.invalid (0, 1))

/-- The status token of a MODE that fails (R235): code, detail and the full offset, to DSTB under TAGOP. -/
def modeStatus (c : Ctx) (code detail off : Nat) : Except Trap (List Emission) :=
  outPorts c [1] ([BitVec.ofNat 32 code, BitVec.ofNat 32 detail] ++ lanesOf64 off) c.r.tagop false false []

/-- A reconfiguring MODE that fails (R235): the old configuration stays, its status leaves, the tokens after it go. -/
def failMode (s : State) (c : Ctx) (code detail off : Nat) : Res :=
  doneWith (discardModes s c.f.slot c.f.a) (modeStatus c code detail off) 0

/-- A reconfiguring MODE's own effect (R233, R235): it stages the manifest at the address in b. -/
def modeReconfBody (s : State) (c : Ctx) : Res :=
  if (bLanes c).length < 2 then .trap (mkTrap 0x04 2)
  else if !modeNext c.l c.f then .hold
  else
    match loadMode s c.l (lanes64 (bLanes c) 0) with
    | .error .fetch => failMode s c 0x16 0 0
    | .error (.invalid e) => failMode s c 0x17 (errDetail e) e.1
    | .ok m =>
      match stageData s c.l m m.data with
      | .error t => failMode s c t.code t.detail 0
      | .ok placed =>
        .later (modLaunch s c.f.slot fun l => { l with
          staged := some m, reconf := some c.f, placed
          tiles := l.tiles.map fun t => { t with state := .staging, answered := false } })

/-- MODE with RECONF (R235). -/
def execModeReconf (r : NodeRec) (s : State) : Out := runPlain s r { plain with spec := some 3 } modeReconfBody

/-! ### Halt requests (R150, R366) -/

/-- A staged MODE given up (R235, R366): RECONF_ABORTED. -/
def abortMode (s : State) (l : Launch) (f : Firing) : State :=
  let s1 := setLaunch s { l with
    staged := none, reconf := none, placed := []
    tiles := l.tiles.map fun t => { t with state := runState l.fold, answered := false } }
  match recOf l f with
  | none => s1
  | some r => match ctxOf s1 f r with
    | none => s1
    | some c => settle s1 c 0 true (failMode s1 c 0x15 0 0)

/-- A staging launch given up (R366): its record returns to the head of its queue, and its region to its partition (R360). -/
def abandonLaunch (s : State) (l : Launch) : State :=
  let s1 := { s with launches := s.launches.filter fun x => x.slot != l.slot }
  unblock (modQueue s1 l.queue fun q => putRecord q l.rcd) l.part

/-- HALT_REQUEST (R150, R366): a running region stops service; a staging one is given up before its seal wave returns, and
halts after its commit wave otherwise. -/
def execHaltRequest (slot : Nat) (s : State) : Out :=
  match findLaunch s slot with
  | none => .next s
  | some l =>
    match l.phase with
    | .staging => .next (abandonLaunch s l)
    | .sealed => .next (pushAlone s (.haltRequest slot))
    | .running =>
      match l.reconf with
      | none => .next (setLaunch s (haltRegion l))
      | some f =>
        if l.tiles.all (·.answered) then .next (pushAlone s (.haltRequest slot))
        else .next (modLaunch (abortMode s l f) slot haltRegion)
    | .halting | .halted | .ended | .closed => .next s

/-! ### ARC_BIND (R376, R408, R410) -/

/-- The SEND of an arc's producer names its consumer's letterbox (R376). -/
def sendMatches (p : Launch) (a : ArcDecl) (b : ArcDecl) : Bool :=
  match nodeWord p a.src with
  | some w => field w 6 9 == b.dst / 1024 && low 6 w == b.lb
  | none => false

/-- A pair of KIND 2 bound, or marked mismatched (R376): `p` produces, `c` consumes. The messages of an earlier binding free no slot
of this one (R221). -/
def bindPair (s : State) (p : Launch) (a : ArcDecl) (c : Launch) (b : ArcDecl) : State :=
  if !sendMatches p a b then modLaunch s p.slot fun l => modArc l a.arc fun x => { x with bind := .mismatch, peerSlot := c.slot }
  else
    match arcOf c b.arc with
    | none => s
    | some y =>
      let s1 := modLaunch s p.slot fun l => modArc l a.arc fun x =>
        { x with
          bind := .bound, credit := y.slots, slots := y.slots, slotb := y.slotb, peerSlot := c.slot, peerArc := b.arc
          peerTile := globalTile c (arcTile c b), frees := List.replicate x.sent [] }
      modLaunch s1 c.slot fun l => modArc l b.arc fun x =>
        { x with bind := .bound, peerSlot := p.slot, peerArc := a.arc, peerTile := globalTile p (a.src / 512) }

/-- Whether an arc is to be bound at a seal: it is unbound, or, of KIND 2, its consumer has ended or did not match (R376). -/
def unboundArc (l : Launch) (a : ArcDecl) : Bool :=
  ((arcOf l a.arc).map fun x => x.bind == .unbound || (a.kind == 2 && (x.bind == .ended || x.bind == .mismatch))).getD false

/-- The launch and arc that a KIND 2 arc joins (R376): placed, of the named partition, the same rendezvous, the other end. -/
def arcPartner (s : State) (l : Launch) (a : ArcDecl) : Option (Launch × ArcDecl) :=
  (s.launches.filter fun o => o.part == a.peer >>> 13 && o.phase != .staging && o.phase != .ended && placedNow o).findSome? fun o =>
    (o.man.arcs.find? fun b => b.kind == 2 && b.peer >>> 13 == l.part && low 13 b.peer == low 13 a.peer &&
      (b.src == 0x3FFFF) != (a.src == 0x3FFFF) && unboundArc o b).map fun b => (o, b)

/-- The plane of a flow (R408): the set bit of PLANES that its rendezvous number picks. -/
def planeOf (e : CommEntry) (v : Nat) : Option Nat :=
  let ps := (upTo 18).filter fun p => bit e.planes.toNat p
  if !e.valid || ps.isEmpty then none else ps[v % ps.length]?

/-- An arc's rate declarations by set (R410). -/
def arcRates (m : Manifest) (arc : Nat) : List (Nat × List Nat × List Nat) :=
  sortBy (fun a b => decide (a.1 < b.1)) ((m.rates.filter fun r => r.arc == arc).map fun r => (r.set, r.prod, r.cons))

/-- This package's rank in a partition's communicator (R405, R407): the place of the entry that names its domain number and the
partition. -/
def ownRank (s : State) (part : Nat) : Option Nat :=
  (s.comms[part]?).bind fun c => c.entries.findIdx? fun e => e.valid && e.pkg == s.cfg.domain && e.rpart == part

/-- Whether an arc is declared by its producer. -/
def producerEnd (a : ArcDecl) : Bool := a.src != 0x3FFFF

/-- A launch's declaration of its end of a cross-package arc (R409, R410). -/
def declaration (s : State) (l : Launch) (a : ArcDecl) : ArcPeer :=
  let x := arcOf l a.arc
  { pkg := s.cfg.domain, part := l.part, rank := a.peer / 256, rendezvous := a.peer % 256, producer := producerEnd a, slot := l.slot,
    arc := a.arc, delay := a.delay, slots := (x.map (·.slots)).getD 0, slotb := (x.map (·.slotb)).getD 0, rates := arcRates l.man a.arc }

/-- Whether a declaration is of an arc's other end (R410): from the package and partition of the rank that the arc names, naming this
package's rank and the same rendezvous number. -/
def otherEnd (s : State) (l : Launch) (a : ArcDecl) (e : CommEntry) (p : ArcPeer) : Bool :=
  e.pkg == p.pkg && e.rpart == p.part && ownRank s l.part == some p.rank && p.rendezvous == a.peer % 256 && p.producer != producerEnd a

/-- The route entry of the rank that an arc names, and the plane of its flow (R407, R408). -/
def arcRoute (s : State) (l : Launch) (a : ArcDecl) : Option (CommEntry × Nat) :=
  ((s.comms[l.part]?).bind fun c => c.entries[a.peer / 256]?).bind fun e => (planeOf e (a.peer % 256)).map fun p => (e, p)

/-- A KIND 3 arc whose peer's declaration has come (R410): bound, or its binding failed. -/
def bindCross (x : Arc) (l : Launch) (a : ArcDecl) (p : ArcPeer) (plane cver : Nat) : Arc :=
  if p.delay != a.delay then { x with bind := .delay 0 }
  else if sortBy (fun a b => decide (a.1 < b.1)) p.rates != arcRates l.man a.arc then { x with bind := .delay 1 }
  else
    let y := { x with bind := .bound, peerSlot := p.slot, peerArc := p.arc, plane, cver }
    if producerEnd a then { y with credit := p.slots, slots := p.slots, slotb := p.slotb } else y

/-- A cross-package arc to be bound (R408, R410): without a plane it is broken; without a declaration of the other end its own goes to
the peer, on its plane; with one it is bound, or its binding fails. -/
def bindOver (s : State) (l : Launch) (a : ArcDecl) (peer : Option ArcPeer) : State :=
  match arcRoute s l a, peer with
  | none, _ => modLaunch s l.slot fun l => modArc l a.arc fun x => { x with bind := .broken 3 }
  | some (e, plane), none => sendFlit s plane e.pkg (.declare (declaration s l a) false)
  | some (e, plane), some p =>
    if otherEnd s l a e p then
      modLaunch s l.slot fun l => modArc l a.arc fun x =>
        bindCross x l a p plane (((s.comms[l.part]?).map fun c => c.cver.toNat).getD 0)
    else s

/-- ARC_BIND (R376, R408, R410): an unbound arc is bound to its peer where that is placed, or marked. -/
def execArcBind (slot arc : Nat) (peer : Option ArcPeer) (s : State) : Out :=
  match findLaunch s slot with
  | none => .next s
  | some l =>
    match l.man.arcs.find? fun a => a.arc == arc with
    | none => .next s
    | some a =>
      if !unboundArc l a then .next s
      else if a.kind == 2 then
        match arcPartner s l a with
        | none => .next s
        | some (o, b) => .next (if a.src == 0x3FFFF then bindPair s o b l a else bindPair s l a o b)
      else .next (bindOver s l a peer)

end Sys2Proof.Machine
end

