-- ==== Sys2Proof/Machine/Links.lean ====
section
/-! DEFINITION. The Lomcel Link (R403 to R406) and its failures (R418 to R420): flits as they stand on the lanes, acknowledgements and
replay, the management flow, link failures and communicator rebuilds. -/

namespace Sys2Proof.Machine

/-! ### Flits and arcs (R403, R404, R418) -/

/-- The numbers that the header of a flit's payload holds (R405), its package first. -/
def linkNumbers (pkg : Nat) (k : LinkKind) : List Nat :=
  pkg :: match k with
    | .message slot arc msg _ => [0, slot, arc, msg]
    | .credit slot arc => [1, slot, arc]
    | .idle => [2]
    | .again => [3]
    | .notice plane p => [4, plane, p]
    | .declare p answer =>
      [5, p.pkg, p.part, p.rank, p.rendezvous, b2n p.producer, p.slot, p.arc, p.delay, p.slots, p.slotb, b2n answer] ++
        p.rates.flatMap fun r => r.1 :: r.2.1.length :: r.2.1 ++ r.2.2
    | .routes comm es => 6 :: comm :: es.flatMap fun e => [b2n e.valid, e.pkg, e.rpart, e.planes.toNat]
    | .relay _ => [7]

/-- The bytes that a flit carries behind its header. -/
def linkData (k : LinkKind) : List Byte :=
  match k with
  | .message _ _ _ bytes => bytes
  | .relay bytes => bytes
  | .credit _ _ | .idle | .again | .notice _ _ | .declare _ _ | .routes _ _ => []

/-- The first `n` bytes of a list, zeros behind its end. -/
def fitBytes (n : Nat) (bs : List Byte) : List Byte := (upTo n).map fun i => bs.getD i 0

/-- The bytes of a flit that its CRC covers (R403): SEQ, ACK, VC, zeros, the payload. -/
def flitBody (f : LinkFlit) : List Byte :=
  leBytes 2 f.seq ++ leBytes 2 f.ack ++ leBytes 1 (linkVc f.kind) ++ leBytes 3 0 ++
    fitBytes 240 (Config.linkHeader (linkNumbers f.pkg f.kind) ++ linkData f.kind)

/-- A link flit as its 256 bytes (R403). -/
def flitBytes (f : LinkFlit) : List Byte := flitBody f ++ leBytes 8 (Config.crc64 (flitBody f)).toNat

/-! ### Failures (R404, R418, R420) -/

/-- Bound cross-package arcs broken where a condition holds (R418). -/
def breakArcs (s : State) (detail : Nat) (p : Launch → Arc → Bool) : State :=
  { s with launches := s.launches.map fun l =>
      { l with arcs := l.arcs.map fun x =>
          if crossArc l x && x.bind == .bound && p l x then { x with bind := .broken detail } else x } }

/-- The packages that bound arcs of a plane lead to. -/
def planePeers (s : State) (plane : Nat) : List Nat :=
  dedup (s.launches.flatMap fun l => (l.arcs.filter fun x => crossArc l x && x.bind == .bound && x.plane == plane).map (peerPkg s l))

/-- The entries that a communicator will have: those of its last rebuild under way, else its own. -/
def entriesDue (s : State) (comm : Nat) : List CommEntry :=
  (s.agenda.reverse.findSome? fun p => match p.act with
    | .communicatorRebuild c es => if c == comm then some es else none
    | _ => none).getD (((s.comms[comm]?).map (·.entries)).getD [])

/-- The communicators that a failure makes Oatin rebuild (R420): those of which an entry that it concerns uses the plane, whose bit goes
from it. -/
def askRebuild (s : State) (plane : Nat) (hit : CommEntry → Bool) : State :=
  (upTo s.comms.length).foldl (fun s k =>
    let es := entriesDue s k
    let uses (e : CommEntry) : Bool := e.valid && hit e && bit e.planes.toNat plane
    if es.any uses then
      push s ⟨12, k, 0, 0⟩ (.communicatorRebuild k (es.map fun e =>
        if uses e then { e with planes := e.planes &&& ~~~ BitVec.ofNat 18 (1 <<< plane) } else e))
    else s) s

/-- The port that the management flow takes from here (R406): the first that is up. DESIGN CHOICE (log entry 37). -/
def managePort (s : State) : Option Nat := (upTo 18).find? fun p => ((s.ports[p]?).map (·.up)).getD false

/-- A package's notice of a port of its own that is down (R418), to the packages that its flows there lead to. -/
def sendNotices (s : State) (plane : Nat) (pkgs : List Nat) : State :=
  match managePort s with
  | some p => pkgs.foldl (fun s g => sendFlit s p g (.notice plane s.cfg.domain)) s
  | none => s

/-- A port goes down (R404): its arcs break with detail 0, peers are told (R418), communicators that use its plane are rebuilt
(R420). -/
def portDown (s : State) (p : Nat) : State :=
  if ((s.ports[p]?).map (·.up)).getD false then
    let s1 := modPort s p fun q => { q with up := false, replay := [], out := 0, buffers := [[], [], []] }
    askRebuild (breakArcs (sendNotices s1 p (planePeers s p)) 0 fun _ x => x.plane == p) p fun _ => true
  else s

/-- Whether a SEQ is at or before another, modulo 2^16. -/
def seqLe (a b : Nat) : Bool := decide ((BitVec.ofNat 16 b - BitVec.ofNat 16 a).toNat < 0x8000)

/-- Flits acknowledged leave the replay buffer; with progress the count of resends starts again (R404). -/
def takeAck (q : LinkPort) (ack : Nat) : LinkPort :=
  let left := q.replay.filter fun f => !seqLe f.seq ack
  { q with
    replay := left, out := q.out - (q.replay.length - left.length)
    resends := if left.length < q.replay.length then 0 else q.resends }

/-- The next flit in its order taken in (R404): a retry that succeeded is counted, and, where nothing waits to carry the
acknowledgement, one goes of its own. An acknowledgement alone is not answered by another (DESIGN CHOICE, log entry 37). -/
def acceptFlit (q : LinkPort) (k : LinkKind) : LinkPort :=
  let q1 := { q with rcvd := q.rcvd + 1, attempts := 0, retries := if q.attempts == 0 then q.retries else q.retries + 1 }
  if k == .idle || !q1.buffers.flatten.isEmpty || q1.out < q1.replay.length then q1
  else { q1 with buffers := modAt q1.buffers 1 (· ++ [(0, .idle)]) }

/-- A peer's declaration of an arc (R410): the launch that declares the other end binds, and answers one that is no answer. -/
def takeDeclare (s : State) (p : ArcPeer) (answer : Bool) : State :=
  let ends := s.launches.flatMap fun l =>
    if l.phase == .staging || l.phase == .ended || !placedNow l then []
    else l.man.arcs.filterMap fun a => match arcRoute s l a with
      | some (e, plane) => if a.kind == 3 && unboundArc l a && otherEnd s l a e p then some (l, a, e, plane) else none
      | none => none
  match ends with
  | [] => s
  | (l, a, e, plane) :: _ =>
    let s1 := pushAlone s (.arcBind l.slot a.arc (some p))
    if answer then s1 else sendFlit s1 plane e.pkg (.declare (declaration s l a) true)

/-- What an intact flit brings (R403 to R406). An attestation relay is between the Oatin instances alone. -/
def takeFlit (s : State) (p : Nat) (k : LinkKind) : State :=
  match k with
  | .message slot arc msg bytes =>
    let id := s.nextId
    push (modLaunch { s with nextId := id + 1 } slot fun l => { l with cargo := l.cargo ++ [(id, .arcMsg arc msg bytes)] })
      ⟨8, slot, arc, 0⟩ (.arcMessageArrival slot id)
  | .credit slot arc => push s ⟨11, slot, arc, 0⟩ (.arcCredit slot arc)
  | .notice plane pkg => pushAlone s (.failureNotice plane pkg)
  | .declare peer answer => takeDeclare s peer answer
  | .routes comm es => push s ⟨12, comm, 0, 0⟩ (.communicatorRebuild comm es)
  | .idle | .relay _ => s
  | .again =>
    let s1 := modPort s p fun q => { q with resends := q.resends + 1, out := 0 }
    if ((s1.ports[p]?).map (·.resends)).getD 0 ≥ 8 then portDown s1 p else s1

/-- LINK_FLIT_RECEIVE (R404): a flit that fails its CRC is discarded and the stream asked for again, the eighth failure in a row takes
the port down; one out of order is discarded; an intact one is taken. -/
def execLinkFlitReceive (port seq ack : Nat) (kind : LinkKind) (crcOk : Bool) (s : State) : Out :=
  match s.ports[port]? with
  | none => .next s
  | some q =>
    if !q.up then .next s
    else if !crcOk then
      let s1 := modPort s port fun q => { q with attempts := q.attempts + 1 }
      .next (if q.attempts + 1 ≥ 8 then portDown s1 port else sendFlit s1 port 0 .again)
    else
      let s1 := modPort s port fun q => takeAck q ack
      if low 16 seq != q.rcvd.toNat then .next s1
      else .next (takeFlit (modPort s1 port fun q => acceptFlit q kind) port kind)

/-- LINK_ACK_TIMEOUT (R404): flits sent and not acknowledged for 10 µs take the port down. -/
def execLinkAckTimeout (port : Nat) (s : State) : Out :=
  .next (if ((s.ports[port]?).map fun q => q.replay.isEmpty).getD true then s else portDown s port)

/-- LINK_TRAINING_FAIL (R404). -/
def execLinkTrainingFail (port : Nat) (s : State) : Out := .next (portDown s port)

/-- FAILURE_NOTICE (R418): from the switch of a plane (no package below 144 named), or for one peer's port; communicators that use it
are rebuilt (R420). -/
def execFailureNotice (plane pkg : Nat) (s : State) : Out :=
  .next (askRebuild (breakArcs s 1 fun l x => x.plane == plane && (decide (pkg ≥ 144) || peerPkg s l x == pkg)) plane fun e =>
    decide (pkg ≥ 144) || e.pkg == pkg)

/-- COMMUNICATOR_REBUILD (R420): the entries are rewritten, CVER rises, arcs bound under another CVER break. -/
def execCommunicatorRebuild (comm : Nat) (entries : List CommEntry) (s : State) : Out :=
  let s1 := { s with comms := modAt s.comms comm fun c => { cver := c.cver + 1, entries := entries } }
  let v := ((s1.comms[comm]?).map fun c => c.cver.toNat).getD 0
  .next (breakArcs s1 2 fun l x => l.part == comm && x.cver != v)

end Sys2Proof.Machine
end

