-- ==== Sys2Proof/Machine/Package.lean ====
section
/-! DEFINITION. COPY (R356), the end of a launch (R362, R369, R374), shrink and restoration (R378, R379), meters and power
(R381, R382), and the deadlock detector (R383, R384). -/

namespace Sys2Proof.Machine

/-! ### COPY (R356) -/

/-- What checking one end of a COPY comes to (R273): its pieces with their places, a trap, or a host page it waits for. -/
def copyEnd (s : State) (l : Launch) (a n : Nat) (need : Need) : Except UnitCheck (List (Nat × Nat × Nat)) :=
  let host := bit a 63
  let v := a - (a >>> 63) <<< 63
  let ps := rowPieces (pageBits host) v n
  match checkUnits s l hostPort host true need 1 (fun _ => 0) 0 (ps.map (·.1)) with
  | .ok places => .ok ((ps.zip places).map fun x => (x.1.1, x.2, x.1.2))
  | e => .error e

/-- The launch-like setting in which a queue's record is translated: its partition and PASID. -/
def recordSetting (s : State) (queue : Nat) (r : Rec) : Launch :=
  emptyLaunch 4096 queue (queueOf s queue).part r
    { depots := 0, pinned := false, pin := [], rsets := 0, opens := false, spilld := 0, fold2 := false, fold4 := false, size := 0,
      nodes := [], blocks := [], rounds := [], rates := [], arcs := [], lbs := [], actors := [], tensors := [], codetabs := [],
      seeds := [], sinks := [], handler := none, data := [], feeds := [], shapes := [] }

/-- Bytes read for a copy: those of a line that is lost are free (log entry 16). -/
def copyBytes (s : State) (host : Bool) (ps : List (Nat × Nat × Nat)) : List Byte :=
  ps.flatMap fun p =>
    if host then readRun s.bus p.2.1 p.2.2
    else (readRun s.mem p.2.1 p.2.2).mapIdx fun i b =>
      if s.lost.contains ((p.2.1 + i) / 64) then Config.lostByte s.tick (p.2.1 + i) else b

/-- Copied bytes written to pieces, in order. -/
def copyWrite (s : State) (host : Bool) : List (Nat × Nat × Nat) → List Byte → State
  | [], _ => s
  | p :: ps, bs =>
    let b := bs.take p.2.2
    copyWrite (if host then { s with bus := writeBytes s.bus p.2.1 b } else storeMem s p.2.1 b) host ps (bs.drop p.2.2)

/-- The host page a COPY waits for. -/
def copyPage (s : State) (queue : Nat) : Option HostPage :=
  match runningKind s queue 2 with
  | none => none
  | some r =>
    let l := recordSetting s queue r
    (fun v => (l.part, r.pasid, v)) <$> match copyEnd s l r.body0 r.body2 ⟨true, false⟩, copyEnd s l r.body1 r.body2 ⟨false, true⟩ with
    | .error (.miss _ v), _ => some v
    | .error _, _ => none
    | .ok _, .error (.miss _ v) => some v
    | .ok _, _ => none

/-- COPY_RECORD (R356): checked, compared with every placed launch of the partition, then made; it waits for host translations. A
page table entry in a lost line fails it with CODE 0x16 (log entry 16). -/
def execCopyRecord (queue : Nat) (s : State) : Out :=
  match runningKind s queue 2 with
  | none => .next s
  | some r =>
    let l := recordSetting s queue r
    let n := r.body2
    let fail (u : UnitCheck) : Out := match u with
      | .trap t => .next (finishRecord s queue r (plainDone t.code t.detail) [])
      | .lost _ => .next (finishRecord s queue r (plainDone 0x16 0) [])
      | .miss _ _ | .ok _ => .next s
    match copyEnd s l r.body0 n ⟨true, false⟩ with
    | .error u => fail u
    | .ok src =>
      match copyEnd s l r.body1 n ⟨false, true⟩ with
      | .error u => fail u
      | .ok dst =>
        if !(rangeFoes s l.part (copyRange r.body0 n 1 ++ copyRange r.body1 n 2)).isEmpty then
          .next (finishRecord s queue r (plainDone 0x81 0) [])
        else
          let s1 := clearPieces (copyWrite s (bit r.body1 63) dst (copyBytes s (bit r.body0 63) src)) (bit r.body1 63) dst
          .next (finishRecord s1 queue r (plainDone 0 0) [])

/-- The queues whose COPY waits for a host page. -/
def copyWaiters (s : State) (pg : HostPage) : List Nat := (s.queues.filter fun q => copyPage s q.q == some pg).map (·.q)

/-- The couriers and COPYs that wait for a host page. -/
def pageUsers (s : State) (pg : HostPage) : List Port :=
  ((courierWaiters s pg).map fun x => courierPort x.2) ++ (copyWaiters s pg).map fun _ => hostPort

/-- A granted translation cached where couriers and COPYs wait for it (R279, R281). -/
def grantOthers (s : State) (pg : HostPage) (answer : AtsAnswer) (t : State) : State :=
  match answer with
  | .granted frame r w => (pageUsers s pg).foldl (fun t p => cachePage t p (grantedPage pg frame r w)) t
  | .notPresent | .refused => t

/-- The COPYs that wait for a page fail with TRANSLATION_FAULT (R281, R356). -/
def failCopies (s : State) (qs : List Nat) (detail : Nat) : State :=
  qs.foldl (fun s q => match runningKind s q 2 with
    | some r => finishRecord s q r (plainDone 0x07 detail) []
    | none => s) s

/-- ATS_ANSWER (R281): to the requests, couriers and COPYs that wait for the page. -/
def execAtsAnswer (space : HostSpace) (vpn : Nat) (answer : AtsAnswer) (s : State) : Out :=
  let pg : HostPage := (space.part, space.pasid, vpn)
  let s1 := grantOthers s pg answer (atsRequests s pg answer)
  match answer with
  | .granted _ _ _ | .notPresent => .next s1
  | .refused => .next (failCopies (failCouriers s1 (courierWaiters s pg) 6) (copyWaiters s pg) 6)

/-- PRI_RESPONSE (R281): to the requests, couriers and COPYs that wait for the page. -/
def execPriResponse (space : HostSpace) (vpn : Nat) (success : Bool) (s : State) : Out :=
  let pg : HostPage := (space.part, space.pasid, vpn)
  let s1 := priRequests s pg success
  if success || !(outstanding s space.part).contains pg then .next s1
  else .next (failCopies (failCouriers s1 (courierWaiters s pg) 5) (copyWaiters s pg) 5)

/-! ### The end of a launch (R369) -/

/-- Whether cargo is an access still to be made: a message, an exact register or a delivery on its way. -/
def cargoOut (g : Cargo) : Bool :=
  match g with
  | .send _ _ _ _ _ _ _ | .xsend _ _ _ _ _ _ | .deliver _ _ _ _ _ _ _ _ _ | .sendHeld _ _ => true
  | .freed _ _ _ _ | .popped _ _ _ _ _ | .arcMsg _ _ _ => false

/-- Whether every access of a launch has been performed (R267, R369). -/
def accessesDone (l : Launch) : Bool :=
  l.reqs.isEmpty && !(l.cargo.any fun p => cargoOut p.2) && l.couriers.all (fun q => q.pending == 0) &&
    l.tiles.all fun t => t.ctxs.isEmpty && t.tq.isEmpty && t.lines.isEmpty

/-- Whether a launch has ended (R123, R369): its `.sink` nodes hold last post, or, with none, it is quiescent with no token
held; its accesses are performed, its tasks have committed, its couriers are IDLE and its tickets resolved. -/
def endDue (s : State) (l : Launch) : Bool :=
  l.phase == .running && l.staged.isNone && l.seedsLeft.isEmpty &&
    (if l.man.sinks.isEmpty then quiescent s l && modeCount s l == 0 else l.man.sinks.all fun k => l.posted.contains k.1) &&
    accessesDone l && (uncommitted s l.slot).isEmpty && !(s.spawns.any fun r => r.slot == l.slot) &&
    l.couriers.all (fun q => q.state == .idle) && l.faults.all fun r => !r.opens

/-- The completion of a launch (R357). -/
def launchDone (l : Launch) : Completion :=
  { code := l.code, detail := l.detail, faulted := l.faulted, stopped := l.stopped, range := l.range, moffset := l.moffset,
    tickets := l.tickets, fault := l.fault }

/-- The order in which TAILL registrations are taken (R374): (FID, TAG, FILL, node); equal FIDs follow the handles (R26). -/
def tailLt (a b : Tail) : Bool :=
  if fidLt a.fid a.ffill b.fid b.ffill then true
  else if fidLt b.fid b.ffill a.fid a.ffill then false
  else if a.fh != b.fh then decide (a.fh < b.fh)
  else if tagLt a.tag a.fill b.tag b.fill then true
  else if tagLt b.tag b.fill a.tag a.fill then false
  else decide (a.node < b.node)

/-- Tail-launched records dropped (R374): each gets CODE 0x83 at its own CREC, and ERR is set. -/
def dropTails (s : State) (queue : Nat) (rs : List Rec) : State :=
  let s1 := rs.foldl (fun s r => writeCompletion s r (plainDone 0x83 0)) s
  if rs.isEmpty then s1 else modQueue s1 queue fun q => { q with err := true }

/-- The TAILLs of a launch that ends entered in the head list, or dropped (R373, R374). -/
def enterTails (s : State) (l : Launch) : State :=
  let rs := (sortBy tailLt l.tails).map fun t => parseRecord (cpRead s t.addr 128) l.rcd.index true
  if l.code != 0 then dropTails s l.queue rs
  else
    let room := 64 - (queueOf s l.queue).headList.length
    dropTails (modQueue s l.queue fun q => { q with headList := rs.take room ++ q.headList, hostOk := false }) l.queue (rs.drop room)

/-- An arc of KIND 2 whose peer's launch has ended (R376): a producer's consumer has ended; a consumer's end is free again. -/
def endArc (l : Launch) (slot : Nat) (x : Arc) : Arc :=
  if x.peerSlot == slot && (x.bind == .bound || x.bind == .mismatch) then
    match l.man.arcs.find? fun a => a.arc == x.arc && a.kind == 2 with
    | some a => { x with bind := if a.src == 0x3FFFF then .unbound else .ended }
    | none => x
  else x

/-- What a launch's end does to the other launches (R300, R376). -/
def endArcs (s : State) (slot : Nat) : State :=
  { s with launches := s.launches.map fun l =>
      if l.slot == slot then l
      else { l with joint := l.joint.filter fun x => x != slot, arcs := l.arcs.map (endArc l slot) } }

/-- A launch released (R148, R362, R369): tokens, frames and records of what was under way go, SRAM stays where it is, its
queue-mates may be placed; its slot stays until SLOT_RELEASE. -/
def releaseLaunch (s : State) (l : Launch) : State :=
  let s1 := leaveRegion s l
  let s2 := endArcs s1 l.slot
  let gone := { emptyLaunch l.slot l.queue l.part l.rcd l.man with phase := .closed }
  unblock
    { s2 with
      frames := s2.frames.filter fun f => f.slot != l.slot
      spawns := s2.spawns.filter fun r => r.slot != l.slot
      launches := s2.launches.map fun x => if x.slot == l.slot then gone else x } l.part

/-- A launch's completion (R355, R369, R374): record, tail-launched children, signal, DONE. -/
def completeLaunch (s : State) (l : Launch) : State :=
  let hb := unionNat l.hb (allAccesses l)
  releaseLaunch (finishRecord (enterTails s l) l.queue l.rcd (launchDone l) hb) l

/-- LAUNCH_END (R369): the end conditions hold, or the launch's effects have stopped. -/
def execLaunchEnd (slot : Nat) (s : State) : Out :=
  match findLaunch s slot with
  | none => .next s
  | some l => .next (if l.phase == .ended || endDue s l then completeLaunch s l else s)

/-- The launch slot an event names, where it names one. -/
def eventSlot (i : Instr) : Option Nat :=
  match i with
  | .blockCommit s _ _ | .tensorQueueStart s _ | .xsendArrival s _ | .messageWrite s _ | .freedSlotNotice s _
  | .quiescenceDetected s | .waveIssue s _ | .memoryPerform s _ | .performedNotice s _ | .walkComplete s _
  | .semwaitHostPoll s _ | .parkNotice s _ _ | .arcMessageArrival s _ | .arcCredit s _ | .deliveryArrival s _
  | .tokenArrival s _ | .spillProbeReturn s _ | .spillWriteDone s _ | .firingAged s _ _ | .latchBlocked s _
  | .haltRequest s | .haltComplete s _ | .foldExchange s | .flitReceive s _ _ _ _ _ _ _ | .frontierReport s _
  | .epochClose s | .frontierBroadcast s _ | .mailbagEntry s _ | .taskRespawn s _ | .taskFrontEntry s _ | .taskCommit s _
  | .sealWave s _ | .commitWave s | .arcBind s _ _ | .launchEnd s | .slotRelease s | .regionShrink s | .foldRestore s
  | .deadlockIdle s | .recovery (.read s _) | .recovery (.owned s) => some s
  | _ => none

/-- SLOT_RELEASE (R362): nothing carries the slot any longer. -/
def execSlotRelease (slot : Nat) (s : State) : Out :=
  match findLaunch s slot with
  | none => .next s
  | some l =>
    if l.phase != .closed then .next s
    else
      .next { s with
        launches := s.launches.filter fun x => x.slot != slot
        agenda := s.agenda.filter fun p => eventSlot p.act != some slot }

/-! ### Shrink and restoration (R378, R379) -/

/-- REGION_SHRINK (R378): the halted region moves into fewer depots and resumes folded; the vacated depots are free. -/
def execRegionShrink (slot : Nat) (s : State) : Out :=
  match findLaunch s slot with
  | none => .next s
  | some l =>
    if l.phase != .halted then .next s
    else if l.target ≤ l.fold then .next (setLaunch s (resumeRegion l))
    else
      let l1 := resetRates s { l with
        depots := keptDepots l l.target, fold := l.target, live := 0, before := (l.fold, l.depots) :: l.before }
      .next (unblock (setLaunch (leaveRegion s l) (resumeRegion l1)) l.part)

/-- The launch that a restoration gives back (R379): its last shrink undone, once the depots it vacated then are free again; none
while they are not, or where it never shrank. -/
def restored (s : State) (l : Launch) : Option Launch :=
  match l.before with
  | [] => none
  | (fold, depots) :: rest =>
    let free := freeDepots s l.part
    if depots.all fun d => free.contains d || l.depots.contains d then
      some (resetRates s { l with depots, fold, target := fold, live := 0, before := rest })
    else none

/-- FOLD_RESTORE (R379): Oatin restores a folded launch onto its depots: it halts, moves back and resumes. -/
def execFoldRestore (slot : Nat) (s : State) : Out :=
  match findLaunch s slot with
  | none => .next s
  | some l =>
    match l.phase, restored s l with
    | .running, some _ => .next (pushAll s [.haltRequest slot, .foldRestore slot])
    | .halted, some l1 => .next (setLaunch (leaveRegion s l) (resumeRegion l1))
    | .halted, none => .next (setLaunch s (resumeRegion l))
    | _, _ => .next s

/-! ### Meters and power (R381, R382) -/

/-- METER_REFILL (R381): each meter gains RATE bytes, up to DEPTH. -/
def execMeterRefill (s : State) : Out :=
  .next { s with launches := s.launches.map fun l =>
    { l with meters := l.meters.map fun m => { m with level := min m.depth (m.level + m.rate) } } }

/-- The meters of the regions on a die at the rates that stand (R382). -/
def setMeters (s : State) (die : Nat) : State :=
  { s with launches := s.launches.map fun l => if l.depots.any fun d => d / 9 == die then resetRates s l else l }

/-- CLOCK_STEP (R382): between 1.2 and 2.4 GHz, in steps of 100 MHz. -/
def execClockStep (die mhz : Nat) (s : State) : Out :=
  .next (if decide (1200 ≤ mhz) && decide (mhz ≤ 2400) && mhz % 100 == 0 && !s.trips.getD die false then
      { s with clocks := modAt s.clocks die fun _ => mhz } else s)

/-- THERMAL_TRIP (R382): the meters of the die at 1/16 of their caps, its clock at 1.2 GHz. -/
def execThermalTrip (die : Nat) (s : State) : Out :=
  .next (setMeters { s with trips := modAt s.trips die fun _ => true, clocks := modAt s.clocks die fun _ => 1200 } die)

/-- THERMAL_CLEAR (R382): Oatin's settings and the nominal clock come back; a region that stands on another tripped die stays at 1/16
of its caps. -/
def execThermalClear (die : Nat) (s : State) : Out :=
  .next (setMeters { s with trips := modAt s.trips die fun _ => false, clocks := modAt s.clocks die fun _ => 2400 } die)

/-! ### The deadlock detector (R383, R384) -/

/-- The member of the wait-for relation that a node belongs to (R383): the courier of a ROUND node, the actor that declares the
node, else the node itself; numbered beside its launch slot. -/
def memberOf (l : Launch) (addr : Nat) : Nat :=
  let base := l.slot * (1 <<< 22)
  if isRound l addr then base + addr
  else match l.man.actors.find? fun a => a.2.1 * 16 + a.2.2.1 == addr / 32 && bit a.2.2.2 (addr % 32) with
    | some a => base + 1 <<< 20 + a.1
    | none => base + 1 <<< 21 + addr

/-- A wait of the relation (R383): who waits, for whom, and the firing that does. -/
structure WaitEdge where
  src : Nat
  dst : Nat
  slot : Nat
  firing : Firing
  deriving DecidableEq, Repr

/-- The arc of a letterbox of a tile. -/
def letterArc (l : Launch) (vt lb : Nat) : Option ArcDecl := l.man.arcs.find? fun a => holdsLb a && a.lb == lb && arcTile l a == vt

/-- The launch that a bound KIND 2 arc joins with, and the arc there (R376). -/
def peerEnd (s : State) (l : Launch) (a : ArcDecl) : Option (Launch × ArcDecl) :=
  match arcOf l a.arc with
  | none => none
  | some x =>
    if a.kind == 2 && x.bind == .bound then
      (findLaunch s x.peerSlot).bind fun o => (o.man.arcs.find? fun b => b.arc == x.peerArc).map fun b => (o, b)
    else none

/-- The member at the other end of an arc, in the peer's launch for a KIND 2 arc (R376). -/
def arcMember (s : State) (l : Launch) (a : ArcDecl) (consumer : Bool) : Option Nat :=
  if consumer then
    if a.dst == 0x7FFFF then (peerEnd s l a).map fun p => memberOf p.1 (arcDst p.2) else some (memberOf l (arcDst a))
  else if a.src == 0x3FFFF then (peerEnd s l a).map fun p => memberOf p.1 p.2.src else some (memberOf l a.src)

/-- The wait of a held firing: a SEND on credit, a RECV on an empty letterbox (R383). -/
def firingWait (s : State) (l : Launch) (f : Firing) : Option WaitEdge :=
  let edge (m : Option Nat) : Option WaitEdge := m.map fun d => ⟨memberOf l (fNode f), d, l.slot, f⟩
  match opRecOf l f with
  | some (0xB0, _) =>
    match arcFrom l (fNode f) with
    | none => none
    | some a => match arcOf l a.arc with
      | some x => if x.credit == 0 then edge (arcMember s l a true) else none
      | none => none
  | some (0xB1, r) =>
    let b := lbOf (tileOf l (fTile f)) (recLb r)
    if b.rseq == b.wseq then (letterArc l (fTile f) (recLb r)).bind fun a => edge (arcMember s l a false) else none
  | _ => none

/-- The wait of a courier: a DELIVER on credit, a SINK on a message (R383). -/
def courierWait (s : State) (l : Launch) (q : Courier) : Option WaitEdge :=
  match q.state, q.ending, q.firing with
  | .waiting, false, some f =>
    let edge (m : Option Nat) : Option WaitEdge := m.map fun d => ⟨memberOf l q.node, d, l.slot, f⟩
    match decodeRound ((roundWords l q.round).getD q.pc 0) with
    | .ok (.deliver gt _ tgt) =>
      let vt := (gReg q gt).toNat
      let short := match q.credits.find? fun k => k.vtile == vt && k.tgt == tgt.toNat with
        | some k => creditUnits k == 0
        | none => false
      if decide (tgt.toNat < 64) && short then (letterArc l vt tgt.toNat).bind fun a => edge (arcMember s l a true) else none
    | .ok (.courierSink _ _ gt _ tgt _ _) =>
      let vt := (gReg q gt).toNat
      let b := lbOf (tileOf l vt) tgt.toNat
      if b.rseq == b.wseq then (letterArc l vt tgt.toNat).bind fun a => edge (arcMember s l a false) else none
    | _ => none
  | _, _, _ => none

/-- The wait-for relation (R383); what a parked frame holds is withdrawn, and waits for its handler (R240). -/
def waitEdges (s : State) : List WaitEdge :=
  ((s.launches.filter fun l => l.phase == .running).flatMap fun l =>
    ((l.desks.flatMap fun d => (d.ready.filter (·.held)).map (·.firing)).filterMap (firingWait s l)) ++
      l.couriers.filterMap (courierWait s l)).filter fun e => !((findFrame s e.firing.a.fh).any parked)

/-- What can be reached from a set in as many steps as there are edges. -/
def reachable (es : List WaitEdge) : Nat → List Nat → List Nat
  | 0, xs => xs
  | k + 1, xs => reachable es k (unionNat xs (dedup ((es.filter fun e => xs.contains e.src).map (·.dst))))

/-- The edges that lie on a cycle. -/
def cycleEdges (es : List WaitEdge) : List WaitEdge := es.filter fun e => (reachable es es.length [e.dst]).contains e.src

/-- The order of (FID, TAG, FILL) of firings (R138, R384); equal FIDs follow the handles (R26). -/
def activationLt (s : State) (f g : Firing) : Bool :=
  let p := partyOf s f
  let q := partyOf s g
  if fidLt p.fid p.ffill q.fid q.ffill then true
  else if fidLt q.fid q.ffill p.fid p.ffill then false
  else if p.fh != q.fh then decide (p.fh < q.fh)
  else tagLt p.tag p.fill q.tag q.fill

/-- The order of (FID, TAG, FILL, node) of the firings of a region (R384), a node by its address. -/
def firingLt (s : State) (f g : Firing) : Bool :=
  if activationLt s f g then true else if activationLt s g f then false else decide (fNode f < fNode g)

/-- A DEADLOCK raised against the least of the firings concerned (R384). -/
def trapDeadlock (s : State) (slot detail : Nat) (fs : List Firing) : State :=
  match leastBy (firingLt s) fs with
  | none => s
  | some f => takeTrap s slot [] { recordOf s f (mkTrap 0x0C detail) with deadlock := true }

/-- The cycles that a sample and the one before both show, with no member's firing issued between (R383). -/
def lastingCycle (s : State) : List WaitEdge :=
  let old (m : Nat) : Bool := s.detector.cycle.contains m && !s.detector.issued.contains m
  cycleEdges ((waitEdges s).filter fun e => old e.src && old e.dst)

/-- Whether two edges lie on one cycle. -/
def sameCycle (es : List WaitEdge) (x y : WaitEdge) : Bool :=
  (reachable es es.length [x.dst]).contains y.src && (reachable es es.length [y.dst]).contains x.src

/-- The least member of each cycle (R384). -/
def cycleHeads (s : State) (es : List WaitEdge) : List WaitEdge :=
  es.filter fun e => es.all fun x => !(sameCycle es e x && firingLt s x.firing e.firing)

/-- DEADLOCK_SAMPLE (R383): a cycle that lasts traps against its least member (R384), and each cycle once. -/
def execDeadlockSample (s : State) : Out :=
  let now := cycleEdges (waitEdges s)
  let lasting := lastingCycle s
  let s1 := { s with detector := { cycle := dedup (now.map (·.src)), issued := [] } }
  .next ((cycleHeads s lasting).foldl (fun s e => trapDeadlock s e.slot 0 [e.firing]) s1)

/-- Whether a queue waits with its next record (R355, R384). -/
def queueWaits (s : State) (q : Queue) : Bool :=
  q.en && !q.pause && q.running.isNone && match nextRecord s q with
    | some r => !waitsOk q r
    | none => false

/-- Whether a wait of R384 exempts a region: a SEMWAIT, a queue wait of its partition, a host page request, an arc that is
waiting. -/
def idleExempt (s : State) (l : Launch) : Bool :=
  (s.queues.any fun q => q.part == l.part && queueWaits s q) ||
  (l.reqs.any fun q => q.op == .semWait || q.state == .paging || (q.state == .walking && q.space == .host)) ||
  (l.couriers.any fun q => q.state == .waiting && ((courierPage s l q).isSome || (match decodeRound ((roundWords l q.round).getD q.pc 0) with
    | .ok (.courierSemwait _ _) => true
    | _ => false))) ||
  l.desks.any fun d => d.ready.any fun r => r.held && (match opRecOf l r.firing with
    | some (opc, rcd) =>
      let arc := if opc == 0xB0 then arcFrom l (fNode r.firing)
        else if opc == 0xB1 then letterArc l (fTile r.firing) (recLb rcd)
        else if opc == 0xB7 || opc == 0xB8 then l.man.arcs.find? fun a => a.arc == low 16 rcd.lit.toNat
        else none
      match arc with
      | some a => decide (a.kind ≥ 2) && ((arcOf l a.arc).map fun x => x.bind == .bound).getD false
      | none => false
    | none => false)

/-- The firing whose operands cargo still holds (R384): a SEND on its way or parked for its mailbag, an XSEND. -/
def cargoFiring (g : Cargo) : Option Firing :=
  match g with
  | .send f _ _ _ _ held _ => if held then none else some f
  | .sendHeld f _ | .xsend f _ _ _ _ _ => some f
  | .deliver _ _ _ _ _ _ _ _ _ | .freed _ _ _ _ | .popped _ _ _ _ _ | .arcMsg _ _ _ => none

/-- The held firings and tokens of a launch, each as a firing (R384): those whose request or message is not yet performed among
them. -/
def heldFirings (s : State) (l : Launch) : List Firing :=
  (l.desks.flatMap fun d =>
    (d.ready.map (·.firing)) ++ d.copying.toList ++
      ((d.waiting ++ d.park ++ d.aside.map (·.tok) ++ (d.latch.map (·.2)).toList).map (soloFiring s l.slot))) ++
    (l.spill.map fun p => soloFiring s l.slot p.tok) ++ l.couriers.filterMap (·.firing) ++
    ((l.reqs.filter fun q => reqKeeps q != 0).map (·.firing)) ++ l.cargo.filterMap fun p => cargoFiring p.2

end Sys2Proof.Machine
end

