-- ==== Sys2Proof/Machine/Host.lean ====
section
/-! DEFINITION. The host interface (R385 to R402): registers, doorbells, boot, attestation, telemetry, the host error log,
recovery and resets; and the registers as the host reads them. -/

namespace Sys2Proof.Machine

/-! ### Doorbells (R386, R389) -/

/-- Whether a function sees a queue (R386): the PF every one, a VF those of its partition. -/
def seesQueue (s : State) (fn queue : Nat) : Bool :=
  decide (queue < 16384) && (fn == 0 || (queueOf s queue).part + 1 == fn)

/-- DOORBELL (R386, R389): a write of a doorbell page of BAR2 by the PF (function 0) or a VF: TAIL, or a rejected write: ERR and a log
entry. A page that a VF does not see ignores it. -/
def execDoorbell (page : BarPage) (value : BitVec 64) (s : State) : Out :=
  let queue := page.queue
  if (s.dev != .ready && s.dev != .recovering) || !seesQueue s page.fn queue then .next s
  else
    let q := queueOf s queue
    let v : BitVec 32 := value.setWidth 32
    if (v - q.head).toNat ≤ ringSize q then .next (modQueue s queue fun q => rewait { q with tail := v })
    else
      .next (logEntry (modQueue s queue fun q => { q with err := true })
        { kind := 1, part := q.part, queue, lslot := 0, value, user := 0 })

/-- A 64-bit read of BAR2 (R386): zero from a page that the function does not see. What a doorbell page reads as is not given: a
free value (DESIGN CHOICE, log entry 46). -/
def readBar2 (s : State) (fn offset : Nat) : Nat :=
  if seesQueue s fn (offset / 4096) then (Config.doorbellRead s.tick).toNat else 0

/-! ### Boot (R392 to R394) -/

/-- A write of BOOTGO (R394): in WAITIMG or FAILED the ROM starts to fetch. -/
def writeBootgo (s : State) (value : BitVec 64) : State :=
  if bit value.toNat 0 && (s.dev == .waitImg || s.dev == .failed) then
    pushAlone { s with dev := .loading, failcode := 0 } (.bootImageChecked true)
  else s

/-- BOOTGO (R394). -/
def execBootgo (value : BitVec 64) (s : State) : Out := .next (writeBootgo s value)

/-- A field of an Oatin image's header (R392). -/
def hdrField (bs : List Byte) (lo n : Nat) : Nat := field (leNat (bs.take 64)) lo n

/-- Body bytes of an image (R392). -/
def bodyLen (bs : List Byte) : Nat := hdrField bs 64 32

/-- Whether an image's header is right for its length (R392). -/
def oatinHeaderOk (bs : List Byte) : Bool :=
  decide (64 ≤ bs.length) && hdrField bs 0 32 == 0x46415A43 && hdrField bs 32 16 == 1 && hdrField bs 104 408 == 0 &&
    bodyLen bs % 64 == 0 && decide (bodyLen bs ≤ 1 <<< 26) && decide (hdrField bs 96 8 ≤ 3) && bs.length == 64 + bodyLen bs + 1280

/-- What an image fails with (R392 to R394), in the order header, revoked slot, key and signature, SVN; none where it is good. -/
def imageFail (bs : List Byte) : Option Nat :=
  let slot := hdrField bs 96 8
  let signed := bs.take (64 + bodyLen bs)
  if !oatinHeaderOk bs then some 2
  else if Config.keyRevoked slot then some 5
  else if Config.shake256 (Config.fusedKey slot) != Config.fusedHash slot ||
      !Config.falconVerify (Config.fusedKey slot) (Config.shake256 signed) (bs.drop (64 + bodyLen bs)) then some 3
  else if hdrField bs 48 16 < Config.minSvn then some 4
  else none

/-- BOOT_IMAGE_CHECKED (R394): the image is checked; INIT, or FAILED with its code. -/
def execBootImageChecked (fetched : Bool) (s : State) : Out :=
  if s.dev != .loading then .next s
  else if !fetched then .next { s with dev := .failed, failcode := 1 }
  else
    let bs := readRun s.bus (low 52 s.bootaddr.toNat) s.bootlen.toNat
    match imageFail bs with
    | some k => .next { s with dev := .failed, failcode := k }
    | none => .next { s with dev := .init, image := bs }

/-- The couriers that a stack map leaves in service (R2): a failed stack takes its eight with it. -/
def stackCouriers (stackMap : Nat) : Nat := (upTo 12).foldl (fun acc k => acc + if bit stackMap k then 0xFF <<< (8 * k) else 0) 0

/-- What Oatin publishes, within what the package is (R1, R2, R4): twelve stacks of 48 GiB, the couriers of the working ones, 18
links, a power budget of 2,400 W at most (R3), a certificate chain of the length given. -/
def partSettings (c : BootConfig) : BootConfig :=
  let sm := low 12 c.stackMap
  { c with
    stackMap := sm, courierMap := c.courierMap &&& stackCouriers sm, memBytes := Config.stackBytes * popCount 12 sm
    linkMap := low 18 c.linkMap, budget := min c.budget 2400, attLength := c.chain.length }

/-- BOOT_READY (R251, R394): Oatin's initialisation ends: READY with what it brought and the route tables it builds, or FAILED with
code 6. -/
def execBootReady (cfg : BootConfig) (s : State) : Out :=
  if s.dev != .init then .next s
  else if !cfg.ok then .next { s with dev := .failed, failcode := 6 }
  else
    let c := partSettings cfg
    .next (writeRoutes { s with
      dev := .ready, cfg := c, budget := c.budget, epoch := 0, queues := [], rotation := 0
      badnode := s.badnode.mapIdx fun i w => w ||| (cfg.badnode.getD i 0 &&& BitVec.ofNat 64 (badnodeMask i))
      parts := (upTo 8).map fun k => match cfg.parts[k]? with
        | some p => { depots := p.depots, root := p.root, backfill := p.backfill }
        | none => partReset
      ports := s.ports.mapIdx fun i p => { p with up := bit cfg.linkMap i } })

/-! ### The capability list (R390) -/

/-- Whether a global tile works (R256). -/
def tileWorks (s : State) (g : Nat) : Bool :=
  let w := (s.badnode.getD (g / 8) 0).toNat
  !bit w 16 && !bit w (g % 8)

/-- A map of `n` bits. -/
def bitMap (n : Nat) (f : Nat → Bool) : Nat := (upTo n).foldl (fun acc i => acc + b2n (f i) <<< i) 0

/-- A capability entry (R390): NEXT, LEN, VERSION 1 (log entry 21), ID, then its fields. -/
def capEntry (id len next : Nat) (fields : Nat) : List Byte :=
  leBytes 8 (id + 1 <<< 16 + len <<< 32 + next <<< 48) ++ leBytes (len - 8) fields

/-- The GEOMETRY entry (R390). -/
def geometry (s : State) : List Byte :=
  let tm := bitMap 288 (tileWorks s)
  let cm := s.cfg.courierMap
  let sm := s.cfg.stackMap
  capEntry 1 0x58 0x68
    (popCount 288 tm + popCount 12 sm <<< 16 + popCount 96 cm <<< 24 + tm <<< 64 + sm <<< 352 +
      cm <<< 384)

/-- The capability list (R390); zero until READY. The order and offsets of its entries are the model's (log entry 21). -/
def capList (s : State) : List Byte :=
  if s.dev != .ready && s.dev != .recovering then []
  else
    let c := s.cfg
    leBytes 16 (0x50414345 + 0x10 <<< 32) ++ geometry s ++
    capEntry 2 0x28 0x90 (low 64 c.memBytes + low 64 c.reservedBase <<< 64 + low 64 c.reservedBytes <<< 128 + low 64 c.undoBytes <<< 192) ++
    capEntry 3 0x10 0xA0 (16384 + 8 <<< 16 + 4 <<< 24) ++ capEntry 4 0x10 0xB0 (2400 + 1200 <<< 16 + 100 <<< 32) ++
    capEntry 5 0x10 0xC0 c.linkMap ++ capEntry 6 0x10 0xD0 (low 32 c.attOffset + low 32 c.attLength <<< 32) ++
    capEntry 7 0x10 0 (low 32 c.version + hdrField s.image 48 16 <<< 32)

/-! ### Attestation (R395) -/

/-- A write of the attestation control register (R395): a report is started unless one is being built, once firmware runs. -/
def writeAttest (s : State) (value : BitVec 64) : State :=
  if bit value.toNat 0 && !s.attBusy && (s.dev == .ready || s.dev == .recovering) then
    pushAlone { s with attBusy := true, attDone := false } .attestReportDone
  else s

/-- ATTEST_GO (R395). -/
def execAttestGo (value : BitVec 64) (s : State) : Out := .next (writeAttest s value)

/-- The first 256 bytes of a report (R395). -/
def reportBody (s : State) : List Byte :=
  fitBytes 32 s.nonce ++ fitBytes 64 (Config.shake256 (s.image.take (64 + bodyLen s.image))) ++ leBytes 2 (hdrField s.image 48 16) ++
    leBytes 6 0 ++ fitBytes 16 Config.deviceId ++ leBytes 8 s.epoch.toNat ++ fitBytes 88 (geometry s) ++ leBytes 40 0

/-- ATTEST_REPORT_DONE (R395): the signed report is written. -/
def execAttestReportDone (s : State) : Out :=
  if !s.attBusy then .next s
  else
    let b := reportBody s
    .next { s with
      attBusy := false, attDone := true, report := b ++ fitBytes 1280 (Config.falconSign (Config.shake256 b)) }

/-! ### Telemetry (R396) -/

/-- Whether a telemetry word is a sensor's: temperature, power. -/
def sensed (i : Nat) : Bool := (decide (24 ≤ i) && decide (i < 28)) || i == 40

/-- Whether a telemetry word counts what the model does not show: corrected errors, meter wait cycles. -/
def outsideCount (i : Nat) : Bool :=
  decide (i < 4) || (decide (8 ≤ i) && decide (i < 12)) || (decide (48 ≤ i) && decide (i < 56))

/-- A telemetry word at a sample (R396): a sensor's reading, a tile clock, a counter with what it has gained. -/
def telemetryWord (s : State) (i : Nat) (w : Dword) : Dword :=
  if sensed i then Config.sensor s.tick i
  else if outsideCount i then w + Config.sensor s.tick i
  else if decide (32 ≤ i) && decide (i < 36) then BitVec.ofNat 64 (s.clocks.getD (i - 32) 0) else w

/-- TELEMETRY_SAMPLE (R396): the counters go on from the values they reached, and a read returns the sample. -/
def execTelemetrySample (s : State) : Out :=
  let ws := s.telemetry.mapIdx (telemetryWord s)
  .next { s with telemetry := ws, sampled := ws }

/-! ### Recovery (R398 to R401) -/

/-- Pre-images written back (R400). -/
def undoLines (s : State) (l : Launch) : State := l.undo.foldl (fun s p => storeMem s (64 * p.1) p.2) s

/-- The items of a revoke record (R401): `.sink` ranges, arcs with the messages delivered on them, lost lines. -/
def revokeItems (l : Launch) (lost : List Nat) : List Nat :=
  (l.man.sinks.filterMap fun k => (l.man.tensors.find? fun t => t.tensor == k.2).map fun t =>
    1 + low 52 t.base <<< 8 + low 48 t.bytes <<< 64 + low 16 t.tensor <<< 112) ++
  ((arcCounts l).map fun x =>
    2 + low 16 x.1.arc <<< 8 + low 3 x.1.kind <<< 24 + low 16 x.1.peer <<< 32 + low 64 x.2 <<< 64) ++
  lost.map fun n => 3 + low 46 n <<< 8

/-- A revoke record's bytes (R401). -/
def revokeBytes (s : State) (l : Launch) (items : List Nat) : List Byte :=
  let n := min items.length 252
  leBytes 8 s.epoch.toNat ++ leBytes 8 l.rcd.user.toNat ++ leBytes 2 l.queue ++ leBytes 2 0 ++ leBytes 4 l.rcd.index ++
    leBytes 1 (l.part % 8 + b2n (!l.undoFull) <<< 3 + b2n (decide (items.length > 252)) <<< 4) ++ leBytes 1 n ++ leBytes 38 0 ++
    (items.take n).flatMap (leBytes 16)

/-- A revoke record posted (R401): over the oldest where the ring is full. DESIGN CHOICE (log entry 22). -/
def postRevoke (s : State) (l : Launch) (lost : List Nat) : State :=
  let a := low 52 s.revokebase.toNat + 4096 * (s.revTail.toNat % (1 <<< s.revLogn))
  { s with bus := writeBytes s.bus a (revokeBytes s l (revokeItems l lost)), revTail := s.revTail + 1 }

/-- One launch recovered (R400): effects stop, pre-images return, the epoch rises, its queue pauses, the revoke record and the
completion are written; no signal is made and no child runs. -/
def recoverLaunch (s : State) (slot : Nat) (line : Option Nat) : State :=
  match findLaunch s slot with
  | none => s
  | some l =>
    if l.phase == .closed then s
    else
      let s1 := undoLines s l
      let s2 := { s1 with epoch := s1.epoch + 1, telemetry := modAt s1.telemetry 64 (· + 1) }
      let s3 := modQueue s2 l.queue fun q => { q with pause := true, err := true }
      let lost := match line with
        | some n => if s3.lost.contains n then [n] else []
        | none => []
      let s4 := postRevoke s3 l lost
      let l1 := { l with code := 0x84, detail := 0, moffset := 0, fault := none }
      let s5 := closeRecord (writeCompletion (enterTails s4 l1) l.rcd (launchDone l1)) l.queue 0x84
      logEntry (releaseLaunch s5 l1)
        { kind := 3, part := l.part, queue := l.queue, lslot := slot, value := s2.epoch, user := l.rcd.user }

/-- A line of device memory lost. -/
def loseLine (s : State) (n : Nat) : State := if s.lost.contains n then s else { s with lost := s.lost ++ [n] }

/-- Whether a launch's recovery has begun and is not over. -/
def inRecovery (s : State) (slot : Nat) : Bool := s.recovering.any fun p => p.1 == slot

/-- A recovery begun (R400): the launch's effects stop, so that its own end does not come, and STATE is RECOVERING. -/
def beginRecovery (s : State) (slot : Nat) (line : Option Nat) : State :=
  match findLaunch s slot with
  | none => s
  | some l =>
    if l.phase == .closed || inRecovery s slot then s
    else
      pushAlone { setLaunch s { l with phase := .ended } with
        dev := .recovering, recovering := s.recovering ++ [(slot, line)],
        agenda := s.agenda.filter fun p => match p.act with
          | .launchEnd k => k != slot
          | _ => true } (.recovery (.owned slot))

/-- The first recovery in the order of detection done (R400): with the last, STATE is READY again. -/
def endRecovery (s : State) (slot : Nat) (line : Option Nat) : State :=
  let rest := s.recovering.drop 1
  { recoverLaunch s slot line with recovering := rest, dev := if rest.isEmpty then .ready else .recovering }

/-- RECOVERY (R248, R398, R400): an uncorrectable error: the recovery of the launches it concerns begins, and comes again to be
done in the order of detection; a word of a tile's SRAM or an unread line is marked. -/
def execRecovery (err : MemError) (s : State) : Out :=
  match err with
  | .read slot n => .next (beginRecovery (loseLine s n) slot (some n))
  | .owned slot =>
    match s.recovering.head? with
    | none => .next (beginRecovery s slot none)
    | some (k, line) =>
      .next (if k == slot then endRecovery s slot line
        else if inRecovery s slot then pushAlone s (.recovery (.owned slot)) else beginRecovery s slot none)
  | .die d =>
    .next (((s.launches.filter fun l => l.depots.any fun x => x / 9 == d).map (·.slot)).foldl (fun s k => beginRecovery s k none) s)
  | .sram slot vtile word =>
    .next (modLaunch s slot fun l => modTile l vtile fun t => { t with bad := unionNat t.bad [word] })
  | .line n => .next (loseLine s n)

/-! ### Resets (R402) -/

/-- Whether a launch of a partition is being recovered, so that an FLR of its VF waits (R402). -/
def partRecovers (s : State) (part : Nat) : Bool := s.launches.any fun l => l.part == part && inRecovery s l.slot

/-- VF_FLR (R402): the partition's launches stop with no completion and no signal, its queues are reset; it waits for a recovery to
post its revoke record. -/
def execVfFlr (part : Nat) (s : State) : Out :=
  if partRecovers s part then .next (pushAlone s (.vfFlr part))
  else
    let s1 := (s.launches.filter fun l => l.part == part && l.phase != .closed).foldl (fun s l => releaseLaunch s l) s
    .next { s1 with
      queues := s1.queues.map fun q =>
        if q.part == part then
          rewait { q with
            en := false, head := 0, tail := 0, done := 0, headList := [], running := none, blocked := false, hb := [] }
        else q
      invals := s1.invals.map fun v => match v.queue with
        | some q => if (queueOf s q).part == part then { v with queue := none } else v
        | none => v }

/-- Whether an event is the host's, and so is still to come after a reset. -/
def hostInput (i : Instr) : Bool :=
  match i with
  | .doorbell _ _ | .registerWrite _ _ _ | .bootgo _ | .attestGo _ | .hoplogClear _ _ | .vfFlr _ | .pfReset | .powerUp => true
  | _ => false

/-- The machine after a reset (R402): host memory and what the host does next are not the device's state. -/
def resetState (s : State) : State :=
  { State.reset with bus := s.bus, agenda := s.agenda.filter fun p => hostInput p.act, nextId := s.nextId, tick := s.tick }

/-- PF_RESET (R402): a PF FLR, hot reset or link down: all but the set bits of the bad-node register. -/
def execPfReset (s : State) : Out := .next { resetState s with badnode := s.badnode }

/-- POWER_UP (R402). -/
def execPowerUp (s : State) : Out := .next (resetState s)

/-! ### Registers (R386 to R388) -/

/-- A queue descriptor word written by the host (R388). -/
def writeDescriptor (q : Queue) (word v : Nat) : Queue :=
  match word with
  | 0 =>
    { q with en := bit v 0, pause := bit v 4, err := q.err && !bit v 6 }
  | 2 => if q.en then q else { q with logn := field v 48 4 }
  | 3 => if q.en then q else { q with base := BitVec.ofNat 64 ((v >>> 63) <<< 63 + field v 12 40 <<< 12) }
  | _ => q

/-- REGISTER_WRITE (R386 to R388, R395): a write of BAR0 by the PF (function 0) or a VF (its number plus 1). One of fewer than 64
bits is ignored (R387, and for the other registers log entry 46). -/
def execRegisterWrite (fn : Nat) (span : BarSpan) (value : BitVec 64) (s : State) : Out :=
  let v := value.toNat
  let offset := span.offset
  if span.bytes != 8 || offset % 8 != 0 then .next s
  else if decide (0x100000 ≤ offset) then
    let k := offset - 0x100000
    if seesQueue s fn (k / 32) then
      .next (modQueue s (k / 32) fun q => rewait (writeDescriptor q (k / 8 % 4) v))
    else .next s
  else if fn != 0 then .next s
  else if decide (0x2200 ≤ offset) && decide (offset < 0x2200 + 8 * 36) then
    .next (writeHoplog s ((offset - 0x2200) / 8) value)
  else if decide (0x7000 ≤ offset) && decide (offset < 0x7020) then
    .next { s with nonce := s.nonce.take (offset - 0x7000) ++ leBytes 8 v ++ s.nonce.drop (offset - 0x7000 + 8) }
  else
    match offset with
    | 0x1008 => .next { s with bootaddr := BitVec.ofNat 64 (v >>> 12 <<< 12) }
    | 0x1010 => .next { s with bootlen := value.setWidth 32 }
    | 0x1018 => .next (writeBootgo s value)
    | 0x1048 => .next { s with revokebase := value }
    | 0x1050 => .next { s with revLogn := low 4 v, revHead := BitVec.ofNat 16 (v >>> 16) }
    | 0x7020 => .next (writeAttest s value)
    | _ => .next s

/-- The code of a device state (R393). -/
def devCode (d : DevState) : Nat :=
  match d with
  | .waitImg => 0
  | .loading => 1
  | .init => 2
  | .ready => 3
  | .failed => 4
  | .recovering => 5

/-- A queue's descriptor (R352). -/
def descriptorBits (q : Queue) : Nat :=
  b2n q.en + b2n q.pause <<< 4 + b2n q.err <<< 6 + low 2 q.prio <<< 7 + low 3 q.part <<< 9 + q.done.toNat <<< 64 +
    q.tail.toNat <<< 96 + q.head.toNat <<< 128 + low 16 q.weight <<< 160 + low 4 q.logn <<< 176 + q.base.toNat <<< 192

/-- The bits of a log entry, the `n`-th ever written (R397). -/
def logBits (n : Nat) (e : LogEntry) : Nat :=
  e.user.toNat <<< 256 + e.value.toNat <<< 320 + low 12 e.lslot <<< 406 + low 14 e.queue <<< 418 + low 3 e.part <<< 432 +
    low 8 e.kind <<< 440 + (Config.timestamp n).toNat <<< 448

/-- The bits of the host error log's entry `k` (R397). -/
def logSlot (s : State) (k : Nat) : Nat :=
  if k == 0 then s.logCount.toNat
  else
    match (s.log.mapIdx fun i e => (s.logCount.toNat - s.log.length + i, e)).find? fun p => p.1 % 255 + 1 == k with
    | some p => logBits p.1 p.2
    | none => 0

/-- The word of eight bytes at an offset of a list of bytes. -/
def wordAt (bs : List Byte) (o : Nat) : Nat := leNat ((bs.drop o).take 8)

/-- A 64-bit read of BAR0 (R386, R387, R395) by the PF (function 0) or a VF: the registers, and the certificate chain where ATTEST
names it, which only the PF reads, as it alone has the mailbox. -/
def readBar0 (s : State) (fn offset : Nat) : Nat :=
  let pf := fn == 0
  if offset % 8 != 0 then 0
  else if offset < 0x1000 then wordAt (capList s) offset
  else if offset < 0x2000 then
    match offset with
    | 0x1000 => devCode s.dev + s.failcode <<< 16
    | 0x1008 => if pf then s.bootaddr.toNat else 0
    | 0x1010 => if pf then s.bootlen.toNat else 0
    | 0x1040 => s.epoch.toNat
    | 0x1048 => s.revokebase.toNat
    | 0x1050 => low 4 s.revLogn + s.revHead.toNat <<< 16 + s.revTail.toNat <<< 32
    | _ => 0
  else if offset < 0x2200 then (s.badnode.getD ((offset - 0x2000) / 8) 0).toNat
  else if offset < 0x3000 then (if pf then (s.hoplog.getD ((offset - 0x2200) / 8) 0).toNat else 0)
  else if offset < 0x7000 then (if pf then field (logSlot s ((offset - 0x3000) / 64)) (8 * (offset % 64)) 64 else 0)
  else if offset < 0x8000 then
    if !pf then 0
    else if offset < 0x7020 then wordAt s.nonce (offset - 0x7000)
    else if offset == 0x7020 then b2n s.attBusy <<< 1 + b2n s.attDone <<< 2
    else if offset == 0x7028 then 1536
    else if offset < 0x7100 then 0
    else wordAt s.report (offset - 0x7100)
  else if decide (0x10000 ≤ offset) && decide (offset < 0x10208) then
    let i := (offset - 0x10000) / 8
    if pf || i + 1 == 48 + fn then (s.sampled.getD i 0).toNat else 0
  else if decide (0x100000 ≤ offset) then
    let k := offset - 0x100000
    if seesQueue s fn (k / 32) then field (descriptorBits (queueOf s (k / 32))) (64 * (k / 8 % 4)) 64 else 0
  else if pf && decide (s.cfg.attOffset ≤ offset) then wordAt s.cfg.chain (offset - s.cfg.attOffset)
  else 0

/-- A read of BAR0 of some bytes (R387): a narrower one reads zero in the page of DEVSTAT, and elsewhere the bytes it names (log
entry 46). -/
def readRegister (s : State) (fn offset bytes : Nat) : Nat :=
  if bytes == 8 then readBar0 s fn offset
  else if decide (0x1000 ≤ offset) && decide (offset < 0x2000) then 0
  else field (readBar0 s fn (offset / 8 * 8)) (8 * (offset % 8)) (8 * bytes)

end Sys2Proof.Machine
end

