-- ==== Sys2Proof/Machine/Sched.lean ====
section
/-! DEFINITION. What may happen next: the actions that are enabled in a state, in any order of which timing picks one (log
entry 1), and how an action is brought to its instruction. -/

namespace Sys2Proof.Machine

/-- An enabled action: an event of the agenda, an event that the state itself brings about, a ready firing, a COPY's next copy, the
waking of a node's held tokens, the letting go of a frame's SYNC tokens, the placing of what the spill path brought back, a block's or a
round's next instruction, a link port's next flit. -/
inductive Act where
  | event (k : Nat)
  | make (i : Instr)
  | fire (slot vdesk : Nat) (r : Ready)
  | copy (slot vdesk : Nat)
  | wake (slot vdesk node fh : Nat)
  | sync (slot fh : Nat)
  | aside (slot vdesk : Nat) (x : Aside)
  | block (slot vtile ctx : Nat)
  | round (slot node : Nat)
  | link (port vc : Nat)
  deriving DecidableEq, Repr

/-! ### Service (R137 to R139, R142) -/

/-- The order of keys (FID, TAG, FILL, node, port) (R138): a node by its number at its desk, so that firings of two desks may have
equal keys (R142). -/
def serviceKeyLt (s : State) (f g : Firing) : Bool :=
  if activationLt s f g then true
  else if activationLt s g f then false
  else if f.node != g.node then decide (f.node < g.node)
  else decide (f.port < g.port)

/-- The order of service at a desk (R138): aged firings first, earliest ready first; then by the mode of the launch. -/
def serviceLt (s : State) (opens : Bool) (x y : Ready) : Bool :=
  if x.aged != y.aged then x.aged
  else if (x.aged || opens) && x.firing.since != y.firing.since then decide (x.firing.since < y.firing.since)
  else serviceKeyLt s x.firing y.firing

/-- Whether a tile serves firings (R148, R149): the live bank keeps running while a MODE stages. -/
def tileServes (l : Launch) (v : Nat) : Bool :=
  let t := tileOf l v
  l.phase == .running && (t.state == .running || t.state == .folded || t.state == .staging)

/-- Whether a firing takes a block context (R142): that of a SEQ node, neither a last post nor a dead letter (R129). -/
def takesContext (l : Launch) (f : Firing) : Bool := destOpcode l f.a == 0x99 && !f.a.lp && !anyDl f

/-- Whether a desk withholds a ready firing (R240): its frame's park notice has come. -/
def withheld (s : State) (d : Desk) (f : Firing) : Bool := ((findFrame s f.a.fh).map (withdraws d)).getD false

/-- Firings of a desk that may issue: not held, nor waiting for a mode change, nor to be withdrawn. -/
def desksReady (s : State) (l : Launch) (d : Desk) : List Ready :=
  d.ready.filter fun r => !r.held && !modeWaits s l r && !withheld s d r.firing

/-- Whether an ORD firing is not due (R139, R140). -/
def ordWaits (s : State) (l : Launch) (f : Firing) : Bool :=
  match (recOf l f).bind (ctxOf s f) with
  | none => false
  | some c =>
    match ordRes c f.a.lp (deskOf l f.vdesk) with
    | some .hold => true
    | _ => false

/-- The due SEQ firings of a tile that compete for its contexts (R138, R142): a held one never delays another (R139). -/
def seqRivals (s : State) (l : Launch) (v : Nat) : List Ready :=
  (l.desks.filter fun d => d.vdesk / 16 == v).flatMap fun d =>
    (desksReady s l d).filter fun x => takesContext l x.firing && !ordWaits s l x.firing

/-- Whether a SEQ firing may take a context (R142): fewer come before it than contexts are free; equal keys go to the lower desk. -/
def seqFirst (s : State) (l : Launch) (r : Ready) : Bool :=
  let v := fTile r.firing
  let lt := serviceLt s l.man.opens
  decide (((seqRivals s l v).filter fun x =>
    lt x r || (!lt r x && decide (x.firing.vdesk < r.firing.vdesk))).length < 8 - (tileOf l v).ctxs.length)

/-- The order of a MERGE's firings: tag, then port (R121). -/
def mergeLt (x y : Firing) : Bool :=
  if tagLt x.a.tag x.a.fill y.a.tag y.a.fill then true
  else if tagLt y.a.tag y.a.fill x.a.tag x.a.fill then false
  else decide (x.port < y.port)

/-- Whether a firing's own node lets it go next (R121): a MERGE's lowest of its node and frame. -/
def nodeFirst (s : State) (l : Launch) (d : Desk) (f : Firing) : Bool :=
  match destOpcode l f.a with
  | 0x91 => (desksReady s l d).all fun x =>
    !(x.firing.node == f.node && x.firing.a.fh == f.a.fh && mergeLt x.firing f)
  | _ => true

/-- The firing that a desk would issue next (R137, R138); none beside a COPY in progress (R122). -/
def nextFiring (s : State) (l : Launch) (d : Desk) : Option Ready :=
  if d.copying.isSome then none
  else leastBy (serviceLt s l.man.opens) ((desksReady s l d).filter fun r =>
    nodeFirst s l d r.firing && (!takesContext l r.firing || seqFirst s l r))

/-- Whether a slot's token is being read back already (R439). -/
def backQueued (l : Launch) (t : Token) : Bool := (deskOf l (destDesk t.dest)).spill.contains (.back t)

/-- The tokens of a launch in ways, and in slots that are not being read back. -/
def restingTokens (l : Launch) : List Token :=
  l.desks.flatMap (·.waiting) ++ (l.spill.map (·.tok)).filter fun t => !backQueued l t

/-- The waking of the nodes and frames that have a held token whose condition holds (R115, R226, R234, R439). -/
def wakeActs (s : State) (l : Launch) : List (Nat × Act) :=
  (dedup (((restingTokens l).filter fun t => holdOver s l t).map fun t =>
    (destDesk t.dest, destNode t.dest, t.fh))).map fun k => (k.1 / 16, .wake l.slot k.1 k.2.1 k.2.2)

/-- The frames whose SYNC tokens may now all fire (R115). -/
def syncActs (s : State) (l : Launch) : List Act :=
  if l.phase != .running || !l.modeQueue.isEmpty then []
  else
    (s.frames.filter fun f => f.slot == l.slot && syncDue s l f && !l.syncQueue.any fun t => t.fh == f.fh).map fun f =>
      .sync l.slot f.fh

/-- What the desks of a launch would issue or wake, each with its virtual tile (R137, R226, R234): after a mode change is decided,
its tokens alone, in order. -/
def deskActs (s : State) (l : Launch) : List (Nat × Act) :=
  match l.modeQueue with
  | t :: _ =>
    let v := destDesk t.dest
    match (deskOf l v).ready.find? fun r => r.firing.a == t with
    | some r => [(v / 16, .fire l.slot v r)]
    | none => if (restingTokens l).contains t then [(v / 16, .wake l.slot v (destNode t.dest) t.fh)] else []
  | [] =>
    (l.desks.filterMap fun d =>
      if d.copying.isSome then some (d.vdesk / 16, .copy l.slot d.vdesk)
      else (nextFiring s l d).map fun r => (d.vdesk / 16, .fire l.slot d.vdesk r)) ++ wakeActs s l

/-! ### Memory, spill and tasks -/

/-- Whether a waiting semaphore request would be satisfied, or would trap, if it were read now (R372). -/
def semDue (s : State) (l : Launch) (q : Req) : Bool :=
  q.op == .semWait && q.state == .waiting &&
    if !q.places.isEmpty then (lostRead s q q.places).isSome || !semShort s q q.places
    else
      match checkUnits s l (portOf l q.firing) (q.space == .host) false (needOf q.op) q.unit (fun u => u) 0 q.addrs with
      | .ok places => (lostRead s q places).isSome || !semShort s q places
      | .trap _ | .lost _ | .miss _ _ => true

/-- The waits on device semaphores that the last update satisfied (R372): the home checks again after every update. -/
def performWaits (s : State) : State :=
  ((s.launches.filter fun l => l.phase != .ended && l.phase != .closed).flatMap fun l =>
      (l.reqs.filter fun q => q.space == .device && semDue s l q).map fun q => (l.slot, q)).foldl
    (fun s p => performReq s p.1 p.2 false) s

/-- Whether a held request of a speculative task finds room in its mailbag (R336). -/
def entryDue (s : State) (l : Launch) (q : Req) : Bool :=
  q.state == .held &&
    (match q.op with
      | .write | .atomP _ => true
      | _ => false) &&
    match specTask s q.firing with
    | none => false
    | some t =>
      match checkUnits s l (portOf l q.firing) false false (needOf q.op) q.unit (fun u => u) 0 q.addrs with
      | .ok places => linesFit l t.vtile (linesFor l t q places)
      | .trap _ | .lost _ | .miss _ _ => true

/-- Whether a parked SEND of a speculative task finds room in its mailbag (R336). -/
def sendEntryDue (s : State) (l : Launch) (g : Cargo) : Bool :=
  match g with
  | .sendHeld f true =>
    (match specTask s f with
      | none => true
      | some t => linesFit l t.vtile (sendLines f))
  | _ => false

/-- The actions of a launch's requests (R265, R336, R372). -/
def reqActs (s : State) (l : Launch) : List Act :=
  (l.reqs.flatMap fun q =>
    (if q.state == .buffered && (waveReady l q).isSome && reqGoes l q then [Act.make (.waveIssue l.slot q.id)] else []) ++
    (if q.space == .host && semDue s l q then [Act.make (.semwaitHostPoll l.slot q.id)] else []) ++
    (if entryDue s l q then [Act.make (.mailbagEntry l.slot q.id)] else [])) ++
  (l.cargo.filter fun p => sendEntryDue s l p.2).map fun p => .make (.mailbagEntry l.slot p.1)

/-- The arrival in a desk's latch, where it can be placed now (R135). -/
def latchActs (s : State) (l : Launch) (d : Desk) : List Act :=
  match d.latch with
  | none => []
  | some (id, t) =>
    let s1 := modLaunch s l.slot fun l => modDesk l d.vdesk fun d => { d with latch := none }
    if (deliver s1 l.slot t).isSome then [.make (.tokenArrival l.slot id)] else []

/-- The head of a desk's spill path (R136, R439). -/
def spillActs (l : Launch) (d : Desk) : List Act :=
  match d.spill with
  | .write _ :: _ => [.make (.spillWriteDone l.slot d.vdesk)]
  | .probe _ :: _ | .back _ :: _ => [.make (.spillProbeReturn l.slot d.vdesk)]
  | [] => []

/-- What the spill path has brought back to a desk, where it can be placed now (R134). -/
def asideActs (s : State) (l : Launch) (d : Desk) : List Act :=
  (d.aside.filter fun x => (asidePlaced s l.slot d.vdesk x).isSome).map fun x => .aside l.slot d.vdesk x

/-- The aging of a firing, where it would be served sooner by it (R138), and the mark of a latch that stays (R135): time alone brings
either about. -/
def ageActs (s : State) (l : Launch) (d : Desk) : List Act :=
  (if (desksReady s l d).length < 2 then []
    else ((d.ready.mapIdx fun k r => (k, r)).filter fun x => !x.2.aged && !x.2.held).map fun x => .make (.firingAged l.slot d.vdesk x.1)) ++
  (if d.latch.isSome && !d.blocked && (latchActs s l d).isEmpty then [.make (.latchBlocked l.slot d.vdesk)] else [])

/-- What goes on at a desk beside its firings (R134 to R136), on a tile that is not frozen (R148). -/
def desksWork (s : State) (l : Launch) (d : Desk) : List Act :=
  if !tileTakes l (d.vdesk / 16) then []
  else latchActs s l d ++ spillActs l d ++ asideActs s l d ++ (if bankLive l (d.vdesk / 16) then ageActs s l d else [])

/-- The key that an epoch closed now would form (R344). -/
def dueKey (s : State) (l : Launch) : Key := ((l.tiles.map fun t => reportKey s l t.vtile).foldl keyMin none).getD keyTop

/-- Whether an epoch of the frontier has begun, or would tell the tiles anything new (R344). -/
def epochDue (s : State) (l : Launch) : Bool :=
  !l.regs.isEmpty || l.tiles.any (fun t => t.least.isSome || t.report.isSome) || l.formed != some (dueKey s l)

/-- The frontier's actions (R344); a halt does not stop them (R350). -/
def frontierActs (s : State) (l : Launch) : List Act :=
  if (l.phase == .running || l.phase == .halting || l.phase == .halted) && epochDue s l then
    if l.tiles.all fun t => t.report.isSome then [.make (.epochClose l.slot)]
    else
      (l.tiles.filter fun t => t.report.isNone && !l.bcast.contains t.vtile).map fun t => .make (.frontierReport l.slot t.vtile)
  else []

/-- Whether the first held SEND of a task may be released. -/
def sendDue (l : Launch) (f : Frame) : Bool :=
  !sendOut l && match heldSends l f with
    | h :: _ => sendGo l h
    | [] => false

/-- A task's commit, its entry into TASK_FRONT, the SENDs it releases (R346, R347). -/
def taskActs (s : State) (l : Launch) : List Act :=
  (uncommitted s l.slot).flatMap fun f =>
    (if commitDue s l f && (!(dataLines (tileOf l f.vtile) f.tcidx).isEmpty || sendDue l f ||
        ((heldSends l f).isEmpty && !sendOut l)) then [Act.make (.taskCommit l.slot f.fh)] else []) ++
    (if frontDue s l f || (standing f == .taskFront && commitsRun l && sendDue l f) then
      [Act.make (.taskFrontEntry l.slot f.fh)] else [])

/-- Re-spawns that a free context, handle and spill area allow (R340). -/
def respawnActs (s : State) (l : Launch) : List Act :=
  (s.spawns.filter fun r => r.slot == l.slot && r.pending && respawnReady s l r).map fun r => .make (.taskRespawn l.slot r.id)

/-! ### Launches -/

/-- The tiles whose halt is complete (R150). -/
def haltActs (s : State) (l : Launch) : List Act :=
  (l.tiles.filter (haltReady s l)).map fun t => .make (.haltComplete l.slot t.vtile)

/-- The virtual tile that cargo goes to, where it waits in an arrival queue for its bank (R379). -/
def cargoTile (l : Launch) (g : Cargo) : Option Nat :=
  match g with
  | .send f _ vt _ _ _ _ => if (arcFrom l (fNode f)).any fun a => a.kind == 1 then some vt else none
  | .xsend _ _ vt _ _ _ => some vt
  | .deliver _ vt _ _ _ _ _ _ _ => some vt
  | .freed _ _ _ _ | .popped _ _ _ _ _ | .arcMsg _ _ _ | .sendHeld _ _ => none

/-- Whether anything waits for a bank in the fold area (R379): an arrival, the reading back of a held token (R439), a latch that
can be placed there. -/
def bankAwaited (s : State) (l : Launch) : Bool :=
  (l.flights.any fun p => !bankLoaded l (destDesk p.2.dest / 16)) ||
    (l.cargo.any fun p => (cargoTile l p.2).any fun v => !bankLoaded l v) ||
    l.desks.any fun d => !bankLoaded l (d.vdesk / 16) && (!d.spill.isEmpty || !latchStill s l d)

/-- A fold's exchange (R149): nothing is active on the live banks, and another bank has something to issue or to take. -/
def foldActs (s : State) (l : Launch) (acts : List (Nat × Act)) : List Act :=
  if l.fold > 1 && l.phase == .running && (l.tiles.all fun t => !bankLive l t.vtile || tileIdle s l t) &&
      (bankAwaited s l || acts.any fun x => !bankLive l x.1) then [.make (.foldExchange l.slot)]
  else []

/-- The seal's and the end's actions (R123, R362, R365, R369). -/
def lifeActs (s : State) (l : Launch) : List Act :=
  match l.phase with
  | .closed => [.make (.slotRelease l.slot)]
  | .ended => []
  | .sealed => [.make (.commitWave l.slot)]
  | .staging => (l.tiles.filter fun t => t.state == .staging && !t.answered).map fun t => .make (.sealWave l.slot t.vtile)
  | .running =>
    if l.staged.isSome then
      if l.tiles.all (·.answered) then [.make (.commitWave l.slot)]
      else (l.tiles.filter fun t => t.state == .staging && !t.answered).map fun t => .make (.sealWave l.slot t.vtile)
    else
      (match l.seedsLeft with
        | d :: _ => if meterHas l 1 (seedBytes d) then [.make (.commitWave l.slot)] else []
        | [] => []) ++
      (if quiescent s l && l.modeQueue.isEmpty && !(modeHeld s l).isEmpty then [.make (.quiescenceDetected l.slot)] else []) ++
      (if endDue s l then [.make (.launchEnd l.slot)] else [])
  | .halting | .halted => []

/-- Everything a launch may do of itself. -/
def launchActs (s : State) (l : Launch) : List Act :=
  if l.phase == .ended || l.phase == .closed || l.phase == .staging || l.phase == .sealed then lifeActs s l
  else
    let ds := deskActs s l
    ((ds.filter fun x => tileServes l x.1 && bankLive l x.1).map (·.2)) ++
      (l.tiles.flatMap fun t =>
        (if bankLive l t.vtile then (t.ctxs.map fun k =>
            if k.pc < (blockWords l k.firing).length then Act.block l.slot t.vtile k.idx
            else .make (.blockCommit l.slot t.vtile k.idx)) else []) ++
        (if bankLive l t.vtile && !t.tq.isEmpty then [Act.make (.tensorQueueStart l.slot t.vtile)] else [])) ++
      ((l.couriers.filter fun q => l.phase == .running && q.pending == 0 && !q.ending &&
          (q.state == .running || (q.state == .waiting && !q.held))).map fun q => .round l.slot q.node) ++
      syncActs s l ++ reqActs s l ++ l.desks.flatMap (desksWork s l) ++
      frontierActs s l ++ taskActs s l ++ respawnActs s l ++ haltActs s l ++ foldActs s l ds ++ lifeActs s l

/-- The command processor's actions (R355, R356, R359, R364). -/
def queueActs (s : State) : List Act :=
  if s.dev != .ready && s.dev != .recovering then []
  else
    (if (nextPart s).isSome then [Act.make .dispatch] else []) ++
    (if s.queues.any (pollFinds s) then [.make .queueWaitPoll] else []) ++
    s.queues.flatMap fun q =>
      match q.running with
      | none => []
      | some r =>
        match r.kind with
        | 1 => if s.launches.any fun l => l.queue == q.q && placedNow l then [] else [.make (.launch q.q)]
        | 2 => if (copyPage s q.q).isSome then [] else [.make (.copyRecord q.q)]
        | 3 => [.make (.fence q.q)]
        | _ => if s.invals.any fun v => v.queue == some q.q then [] else [.make (.inval q.q)]

/-! ### The agenda -/

/-- Whether an answer of the host's translation agent has something that waits for it (R281). -/
def pageWanted (s : State) (pg : HostPage) : Bool :=
  s.pages.contains pg || !(courierWaiters s pg).isEmpty || !(copyWaiters s pg).isEmpty ||
    s.launches.any fun l => !(pageWaiters s l .walking pg).isEmpty || !(pageWaiters s l .paging pg).isEmpty

/-- The die whose walker a walk's end belongs to (R279). -/
def walkDie (s : State) (i : Instr) : Option Nat :=
  match i with
  | .walkComplete slot id => (findLaunch s slot).bind fun l => (findReq l id).map fun q => (portOf l q.firing).die
  | _ => none

/-- Whether a walk is among the 256 that its die makes at once (R279): those that began before it come first. -/
def walkTurn (s : State) (i : Instr) : Bool :=
  decide ((((s.agenda.map (·.act)).takeWhile (· != i)).filter fun j => (walkDie s j).isSome && walkDie s j == walkDie s i).length < 256)

/-- The homes that a request travels to (R252, R267): the host interface, or the stacks of the lines that its translated units stand in
(R274; the interleave is Oatin's, log entry 13). -/
def reqHomes (s : State) (l : Launch) (q : Req) : List Nat :=
  if q.space == .host then [12]
  else q.addrs.filterMap fun a => (cachedPage s (portOf l q.firing) false l.part 0 (a >>> 16)).map fun e =>
    Config.home ((e.frame <<< 16 + low 16 a) / 64)

/-- Whether a request's turn at its homes has come (R252): none that left the same tile before it goes to one of them. -/
def homeTurn (s : State) (l : Launch) (id : Nat) : Bool :=
  match findReq l id with
  | none => true
  | some q =>
    let hs := reqHomes s l q
    ((s.agenda.map (·.act)).takeWhile (· != .memoryPerform l.slot id)).all fun i => match i with
      | .memoryPerform slot j => slot != l.slot || ((findReq l j).map fun x =>
          fTile x.firing != fTile q.firing || !(reqHomes s l x).any hs.contains).getD true
      | _ => true

/-- Whether the tile that cargo goes to takes it (R148, R379): a message's target is in the launch that its arc joins. -/
def cargoTakes (s : State) (l : Launch) (g : Cargo) : Bool :=
  match g with
  | .send f _ vt _ _ _ _ =>
    match ((arcFrom l (fNode f)).bind fun a => arcOf l a.arc).bind fun x => findLaunch s x.peerSlot with
    | some o => tileTakes o vt
    | none => true
  | .xsend _ _ vt _ _ _ => tileTakes l vt
  | .deliver _ vt _ _ _ _ _ _ _ => tileTakes l vt
  | .arcMsg arc _ bytes =>
    ((arcOf l arc).map fun x => x.bind != .bound).getD true ||
      (meterHas l 2 bytes.length && (l.man.arcs.find? fun a => a.arc == arc).all fun a => tileTakes l (arcTile l a))
  | .freed _ _ _ _ | .popped _ _ _ _ _ | .sendHeld _ _ => true

/-- Whether a park notice does anything now (R240): its frame is parked no longer, or what the desk holds of it can go somewhere. -/
def noticeReady (s : State) (slot v fh : Nat) : Bool :=
  match findLaunch s slot, findFrame s fh with
  | some l, some f =>
    !parked f || !holdsStill l (deskOf l v) fh || !(deskOf l v).noticed.contains fh ||
      match execParkNotice slot v fh s with
      | .next t => findLaunch t slot != some l
      | .fault _ | .refused _ => true
  | _, _ => true

/-- Whether what an event of the agenda waits for is there: its launch still has effects, its tile is not frozen and its bank is
loaded, a latch is empty, a meter has the bytes, a walker is free, a request's turn at its homes has come, a halt is over, the park pool has room, an invalidation's
requests are performed, a translation is wanted, a recovery has its turn or is over. -/
def eventReady (s : State) (i : Instr) : Bool :=
  match i, (eventSlot i).bind (findLaunch s) with
  | .launchEnd _, _ => true
  | .atsAnswer a v _, _ => pageWanted s (a.part, a.pasid, v)
  | .priResponse a v _, _ =>
    !s.pages.contains (a.part, a.pasid, v) || (outstanding s a.part).contains (a.part, a.pasid, v)
  | .recovery (.owned k), _ => s.recovering.head?.all (fun p => p.1 == k) || !inRecovery s k
  | .recovery _, _ => true
  | .vfFlr p, _ => !partRecovers s p
  | .invalidationComplete id, _ => (s.invals.find? fun v => v.id == id).all (invalDone s)
  | _, none => true
  | .tokenArrival _ id, some l =>
    l.phase != .ended && match assoc l.flights id with
      | some t => tileTakes l (destDesk t.dest / 16) && accepts l (deskOf l (destDesk t.dest))
      | none => (latched l id).isNone
  | .messageWrite _ id, some l | .xsendArrival _ id, some l | .deliveryArrival _ id, some l | .arcMessageArrival _ id, some l =>
    l.phase != .ended && (assoc l.cargo id).all (cargoTakes s l)
  | .walkComplete slot id, some l => l.phase != .ended && walkTurn s (.walkComplete slot id)
  | .memoryPerform _ id, some l => l.phase != .ended && l.phase != .closed && homeTurn s l id
  | .parkNotice slot v fh, some l =>
    l.phase != .ended && l.phase != .closed && (tileOf l (v / 16)).state != .halted && noticeReady s slot v fh
  | .haltRequest _, some l => l.phase != .sealed && !(l.staged.isSome && l.tiles.all (·.answered))
  | .regionShrink _, some l => l.phase != .halting && l.phase != .running && l.phase != .sealed
  | .foldRestore _, some l => l.phase != .halting && l.phase != .sealed && l.phase != .staging
  | _, some l => l.phase != .ended && l.phase != .closed

/-- The events of the agenda that may come next: the first of each channel. -/
def eventActs (s : State) : List Act :=
  ((s.agenda.mapIdx fun k p => (k, p)).filter fun x =>
    !((s.agenda.take x.1).any fun p => p.chan == x.2.chan) && eventReady s x.2.act).map fun x => .event x.1

/-! ### What is enabled -/

/-- The flits that link ports may put on their lanes (R403, R404): each virtual channel by itself. -/
def linkActs (s : State) : List Act :=
  (s.ports.mapIdx fun p q => ((upTo 3).filter (portSends q)).map fun vc => Act.link p vc).flatten

/-- Everything that may happen but the timers. -/
def workActs (s : State) : List Act :=
  eventActs s ++ linkActs s ++ s.launches.flatMap (launchActs s) ++
    ((s.frames.filter returnable).map fun f => .make (.handleReturn f.fh)) ++ queueActs s

/-- Whether a launch waits for a meter that a refill raises (R381). -/
def meterWanted (l : Launch) : Bool :=
  placedNow l && (l.meters.any fun m => decide (m.level < m.depth) && decide (0 < m.rate)) &&
    (!l.seedsLeft.isEmpty || l.couriers.any (fun q => q.state == .waiting) || l.cargo.any fun p => match p.2 with
      | .arcMsg _ _ _ => true
      | _ => false)

/-! ### The detector's timers (R383, R384) -/

/-- Whether a request goes on by itself (R265 to R281): it is on its way, or it may issue or enter its mailbag. -/
def reqBusy (s : State) (l : Launch) (q : Req) : Bool :=
  match q.state with
  | .issued | .walking | .paging | .performed => true
  | .buffered => (waveReady l q).isSome
  | .held => entryDue s l q
  | .waiting => false

/-- Whether something that ends the waits of a launch, or makes a member of its relation fire, is under way: what waits for a firing
itself, as an arrival in a latch may (R135), is not. -/
def memberBusy (s : State) (l : Launch) (m : Nat) : Bool :=
  let mine (f : Firing) : Bool := memberOf l (fNode f) == m
  let at_ (t : Token) : Bool := mine (soloFiring s l.slot t)
  (l.cargo.any fun p => match p.2 with
    | .sendHeld _ _ => false
    | _ => true) ||
  (l.flights.any fun p => at_ p.2) || (l.reqs.any fun q => reqBusy s l q && mine q.firing) ||
  (l.tiles.any fun t => (t.ctxs.any fun k => mine k.firing) || t.tq.any mine) ||
  l.desks.any fun d => ((desksReady s l d).any fun r => mine r.firing) || d.copying.any mine ||
    (d.latch.any fun p => at_ p.2 && !(latchActs s l d).isEmpty) || d.aside.any fun x => at_ x.tok && (asidePlaced s l.slot d.vdesk x).isSome

/-- Whether the detector's next sample finds a cycle of waits that nothing is about to end (R383). -/
def sampleDue (s : State) : Bool :=
  let es := cycleEdges (waitEdges s)
  !es.isEmpty && es.all fun e => ((findLaunch s e.slot).map fun l => !memberBusy s l e.src).getD false

/-- The slots that an event of the agenda concerns: its launch's, and that of the launch a message or a notice goes to. -/
def eventSlots (s : State) (i : Instr) : List Nat :=
  let far (slot id : Nat) : List Nat :=
    match (findLaunch s slot).bind fun l => (assoc l.cargo id).map fun g => (l, g) with
    | some (l, .send f _ _ _ _ _ _) => (((arcFrom l (fNode f)).bind fun a => arcOf l a.arc).map (·.peerSlot)).toList
    | some (_, .freed ps _ _ _) => [ps]
    | _ => []
  (eventSlot i).toList ++ match i with
    | .messageWrite slot id | .freedSlotNotice slot id => far slot id
    | _ => []

/-- Whether nothing of a launch goes on (R384): no firing, access or delivery of it can come. -/
def launchIdle (s : State) (l : Launch) : Bool :=
  (launchActs s l).isEmpty && !meterWanted l && !(s.frames.any fun f => f.slot == l.slot && returnable f) &&
    s.agenda.all fun p => !((eventSlots s p.act).contains l.slot && eventReady s p.act)

/-- Whether a region has been idle while it holds a token, with no exempting wait outstanding (R384). -/
def idleDue (s : State) (l : Launch) : Bool :=
  l.phase == .running && !idleExempt s l && !(heldFirings s l).isEmpty && launchIdle s l

/-- DEADLOCK_IDLE (R384): a region that has been idle while it holds a token traps, unless an exempting wait is
outstanding. -/
def execDeadlockIdle (slot : Nat) (s : State) : Out :=
  match findLaunch s slot with
  | none => .next s
  | some l => .next (if idleDue s l then trapDeadlock s slot 1 (heldFirings s l) else s)

/-- What time alone brings about, beside whatever else goes on: a refill that a transfer waits for, a sample of the detector, the
end of a region's idle period (R381, R383, R384). -/
def timeActs (s : State) : List Act :=
  (if s.launches.any meterWanted then [.make .meterRefill] else []) ++
  (if sampleDue s then [.make .deadlockSample] else []) ++
  (s.launches.filter (idleDue s)).map fun l => .make (.deadlockIdle l.slot)

/-- The actions that are enabled in a state. -/
def enabled (s : State) : List Act := workActs s ++ timeActs s

/-- The action taken: the only one, or the one that timing picks (log entry 1). -/
def picked (s : State) : Option Act :=
  match enabled s with
  | [] => none
  | [a] => some a
  | a :: as => some ((a :: as).getD (Config.choice s.tick % (as.length + 1)) a)

/-! ### Running an action -/

/-- A word decoded and run. -/
def runWord (exec : Instr → State → Out) (dec : Except Nat Instr) (word : Nat) (s : State) : Out :=
  match dec with
  | .ok i => exec i s
  | .error _ => .refused (.illegalWord word)

/-- A firing issued: its node's word is decoded and run. -/
def runFiring (exec : Instr → State → Out) (s : State) (f : Firing) : Out :=
  let w := match findLaunch s f.slot with
    | some l => (nodeWord l (fNode f)).getD 0
    | none => 0
  runWord exec (decodeNode w) w { s with issue := .node f }

/-- The next instruction of a block context run (R143). -/
def runBlockNext (exec : Instr → State → Out) (s : State) (slot vtile ctx : Nat) : Out :=
  let w := match findLaunch s slot with
    | none => 0
    | some l => match findCtx l vtile ctx with
      | none => 0
      | some k => (blockWords l k.firing).getD k.pc 0
  runWord exec (decodeBlock w) w { s with issue := .block slot vtile ctx }

/-- The next instruction of a round run (R311). -/
def runRoundNext (exec : Instr → State → Out) (s : State) (slot node : Nat) : Out :=
  let w := match findLaunch s slot with
    | none => 0
    | some l => match courierOf l node with
      | none => 0
      | some q => (roundWords l q.round).getD q.pc 0
  runWord exec (decodeRound w) w { s with issue := .round slot node }

/-- A ready firing taken from its desk: its ways become free (R137). -/
def takeReady (s : State) (slot vdesk : Nat) (r : Ready) : State :=
  modLaunch s slot fun l => modDesk l vdesk fun d => { d with ready := d.ready.erase r }

/-- An action run. -/
def runAct (exec : Instr → State → Out) (s : State) (a : Act) : Out :=
  match a with
  | .event k =>
    match s.agenda[k]? with
    | none => .next s
    | some p => exec p.act { s with agenda := s.agenda.eraseIdx k }
  | .make i => exec i s
  | .fire slot vdesk r => runFiring exec (takeReady s slot vdesk r) r.firing
  | .copy slot vdesk =>
    match (findLaunch s slot).bind fun l => (deskOf l vdesk).copying with
    | none => .next s
    | some f => runFiring exec (modLaunch s slot fun l => modDesk l vdesk fun d => { d with copying := none }) f
  | .wake slot vdesk node fh =>
    match findLaunch s slot with
    | none => .next s
    | some l => .next (wakeNode (holdOver s l) s slot vdesk node fh)
  | .sync slot fh => .next (wakeSync s slot fh)
  | .aside slot vdesk x => .next ((asidePlaced s slot vdesk x).getD s)
  | .block slot vtile ctx => runBlockNext exec s slot vtile ctx
  | .round slot node => runRoundNext exec s slot node
  | .link port vc => .next (modPort s port fun q => portSend q vc)

/-! ### After an action -/

/-- Whether an action found that it must wait, and changed nothing else (R139, R309). -/
def foundHeld (a : Act) (t : State) : Bool :=
  match a with
  | .fire slot vdesk r =>
    ((findLaunch t slot).map fun l => (deskOf l vdesk).ready.any fun x => x.held && x.firing == r.firing).getD false
  | .round slot node =>
    (((findLaunch t slot).bind fun l => courierOf l node).map fun q => q.state == .waiting && q.held).getD false
  | .make (.foldExchange _) => true
  | _ => false

/-- What waited is tried again. -/
def releaseHolds (s : State) : State :=
  { s with launches := s.launches.map fun l =>
      { l with
        desks := l.desks.map fun d => { d with ready := d.ready.map fun r => { r with held := false } }
        couriers := l.couriers.map fun q => { q with held := false } } }

/-- The nodes whose firings an action issued, as the detector counts them (R383). -/
def issuedBy (s : State) (a : Act) : List Nat :=
  let node (slot addr : Nat) : List Nat := ((findLaunch s slot).map fun l => memberOf l addr).toList
  match a with
  | .fire slot _ r => node slot (fNode r.firing)
  | .round slot n => node slot n
  | .event _ | .make _ | .copy _ _ | .wake _ _ _ _ | .sync _ _ | .aside _ _ _ | .block _ _ _ | .link _ _ => []

/-- MODE and SYNC tokens that nothing holds any longer leave the orders of R115 and R234. -/
def dropStale (s : State) : State :=
  { s with launches := s.launches.map fun l =>
      if l.modeQueue.isEmpty && l.syncQueue.isEmpty then l
      else { l with modeQueue := l.modeQueue.filter (modeHeld s l).contains, syncQueue := l.syncQueue.filter (syncStays l) } }

/-- The state that an action leaves, settled for the next one: nothing is issued, semaphores are read again where their waits are
(R355, R372), what waited may be tried again. -/
def settleAct (s : State) (a : Act) (t : State) : State :=
  let u := readQueues (performWaits (dropStale { t with issue := .none, tick := s.tick + 1 }))
  if foundHeld a t then u
  else
    releaseHolds { u with detector := { u.detector with
      issued := unionNat u.detector.issued ((issuedBy s a).filter u.detector.cycle.contains) } }

/-- One step of a machine whose instructions mean what `exec` says. -/
def stepWith (exec : Instr → State → Out) (s : State) : Out :=
  match picked s with
  | none => .next s
  | some a =>
    match runAct exec s a with
    | .next t => .next (settleAct s a t)
    | .fault r => .fault r
    | .refused r => .refused r

end Sys2Proof.Machine
end

