-- ==== Sys2Proof/Machine/Bench.lean ====
section
/-! DEFINITION. A launch whose next instruction is a given word: what a loaded program of one word would be, placed from
outside the machine (log entry 23). -/

namespace Sys2Proof.Machine

/-- A record with none of its options. -/
def benchRec : Rec :=
  { kind := 1, crec := 0, sigv := 0, siga := 0, w1v := 0, w1a := 0, w0v := 0, w0a := 0, user := 0, pasid := 0, pasidv := false,
    maxfold := 0, permissive := false, sigadd := false, arithen := 0, hostinv := false, body0 := 0, body1 := 0, body2 := 0,
    bad := false, index := 0, tailed := false }

/-- A manifest of one depot that declares nothing but nodes, blocks and rounds. -/
def benchManifest (nodes : List (Nat × Nat)) (blocks : List (Nat × Nat × List Nat)) (rounds : List (Nat × List Nat)) : Manifest :=
  { depots := 1, pinned := false, pin := [], rsets := 0, opens := false, spilld := 0, fold2 := false, fold4 := false, size := 0,
    nodes, blocks, rounds, rates := [], arcs := [], lbs := [], actors := [], tensors := [], codetabs := [], seeds := [],
    sinks := [], handler := none, data := [], feeds := [], shapes := [] }

/-- A token of two zero lanes for a port of node 0 of virtual desk 0, in the root frame. -/
def benchToken (port : Nat) : Token :=
  makeToken (BitVec.ofNat 19 port) 0 0 0 false false false [0, 0] 0 []

/-- A firing of node 0 of virtual desk 0, with an operand b where its record says so. -/
def benchFiring (dyad : Bool) : Firing :=
  { since := 0, slot := 0, vdesk := 0, node := 0, port := 0, a := benchToken 0, b := if dyad then some (benchToken 1) else none }

/-- A running launch in slot 0 on depot 0, with no task and that frontier broadcast (R344). -/
def benchLaunch (m : Manifest) : Launch :=
  let l := { emptyLaunch 0 0 0 benchRec m with phase := .running, depots := [0], root := 0, office := 1, formed := some keyTop }
  { l with
    tiles := (upTo 8).map fun v => { emptyTile v with state := .running, frontier := some keyTop }
    couriers := [sealCourier l 0] }

/-- The root and office frames of that launch; the root holds the tokens of one firing. -/
def benchFrames (s : State) (l : Launch) (tokens : Nat) : List Frame :=
  [{ makeFrame s l 0 0xFFFFF .root 0 0 0 with tokens := tokens, spillbase := 0 },
    { makeFrame s l 1 0xFFFFF .ordinary 0 0 0 with spillbase := 0 }]

/-- A state in which that launch alone is under way. -/
def benchState (s : State) (l : Launch) (tokens : Nat) : State :=
  { s with launches := [l], frames := benchFrames s l tokens, spawns := [], queues := [], agenda := [], issue := .none }

/-- A record of a node that emits to none, of an opcode. -/
def benchNode (opc : Nat) : Nat :=
  packFields (nodeLayout.zip (nodeFields opc ⟨.i32, .rne, .same, .mono, false, 0, 0x7FFFF, 0x7FFFF, 0⟩))

/-- A node record as the next firing. -/
def benchNodeWord (s : State) (w : Nat) : State :=
  let f := benchFiring (field w 72 2 == 1)
  let l := benchLaunch (benchManifest [(0, w)] [] [])
  let l1 := modDesk l 0 fun d => { d with ready := [⟨f, false, false⟩] }
  benchState s (if opcodeOf 96 w == 0xB6 then { l1 with modeQueue := [f.a] } else l1) (operandCount f)

/-- A block instruction as the next of a running block. -/
def benchBlockWord (s : State) (w : Nat) : State :=
  let l := benchLaunch (benchManifest [(0, benchNode 0x99)] [(0, 0, [w])] [])
  let k : BlockCtx :=
    { idx := 0, firing := benchFiring false, pc := 0, started := 0, group := 0,
      w := (upTo 8).map fun r => (upTo 32).map fun n => Config.blockReg s.tick r n, stores := [], adds := [], emits := [],
      flags := 0 }
  benchState s (modTile l 0 fun t => { t with ctxs := [k] }) 1

/-- A round instruction as the next of a running round. -/
def benchRoundWord (s : State) (w : Nat) : State :=
  let l := benchLaunch (benchManifest [(0, benchNode 0xD0)] [] [(0, [w])])
  benchState s (modCourier l 0 fun q => { q with state := .running, firing := some (benchFiring false) }) 1

/-- A word of the opcode table as the next instruction, by the form it decodes in. -/
def placeWord (s : State) (nbits w : Nat) : State :=
  let x := low nbits w
  if nbits > 64 then benchNodeWord s x
  else if (okInstr (decodeBlock x)).isSome then benchBlockWord s x
  else benchRoundWord s x

end Sys2Proof.Machine
end

