-- ==== Sys2Proof/Machine/Dispatch.lean ====
section
/-! DEFINITION. The dispatch of an instruction to its meaning: one arm for each constructor. -/

namespace Sys2Proof.Machine

/-- What an instruction does. -/
def exec (i : Instr) (s : State) : Host.Outcome State Fault Refusal :=
  match i with
  | .add w => Sys2Proof.Machine.execAdd w s
  | .sub w => Sys2Proof.Machine.execSub w s
  | .adds w => Sys2Proof.Machine.execAdds w s
  | .subs w => Sys2Proof.Machine.execSubs w s
  | .mul w => Sys2Proof.Machine.execMul w s
  | .mulh w => Sys2Proof.Machine.execMulh w s
  | .div w => Sys2Proof.Machine.execDiv w s
  | .rem w => Sys2Proof.Machine.execRem w s
  | .min w => Sys2Proof.Machine.execMin w s
  | .max w => Sys2Proof.Machine.execMax w s
  | .abs w => Sys2Proof.Machine.execAbs w s
  | .neg w => Sys2Proof.Machine.execNeg w s
  | .and w => Sys2Proof.Machine.execAnd w s
  | .or w => Sys2Proof.Machine.execOr w s
  | .xor w => Sys2Proof.Machine.execXor w s
  | .andn w => Sys2Proof.Machine.execAndn w s
  | .not w => Sys2Proof.Machine.execNot w s
  | .shl w => Sys2Proof.Machine.execShl w s
  | .shr w => Sys2Proof.Machine.execShr w s
  | .sar w => Sys2Proof.Machine.execSar w s
  | .rol w => Sys2Proof.Machine.execRol w s
  | .clz w => Sys2Proof.Machine.execClz w s
  | .ctz w => Sys2Proof.Machine.execCtz w s
  | .popc w => Sys2Proof.Machine.execPopc w s
  | .brev w => Sys2Proof.Machine.execBrev w s
  | .bfx w => Sys2Proof.Machine.execBfx w s
  | .bfi w => Sys2Proof.Machine.execBfi w s
  | .mad w => Sys2Proof.Machine.execMad w s
  | .idx w => Sys2Proof.Machine.execIdx w s
  | .sel w => Sys2Proof.Machine.execSel w s
  | .mov w => Sys2Proof.Machine.execMov w s
  | .const w => Sys2Proof.Machine.execConst w s
  | .ceq w => Sys2Proof.Machine.execCeq w s
  | .cne w => Sys2Proof.Machine.execCne w s
  | .clt w => Sys2Proof.Machine.execClt w s
  | .cle w => Sys2Proof.Machine.execCle w s
  | .cgt w => Sys2Proof.Machine.execCgt w s
  | .cge w => Sys2Proof.Machine.execCge w s
  | .cun w => Sys2Proof.Machine.execCun w s
  | .classify w => Sys2Proof.Machine.execClassify w s
  | .test w => Sys2Proof.Machine.execTest w s
  | .fadd w => Sys2Proof.Machine.execFadd w s
  | .fsub w => Sys2Proof.Machine.execFsub w s
  | .fmul w => Sys2Proof.Machine.execFmul w s
  | .fma w => Sys2Proof.Machine.execFma w s
  | .fms w => Sys2Proof.Machine.execFms w s
  | .fnma w => Sys2Proof.Machine.execFnma w s
  | .fdiv w => Sys2Proof.Machine.execFdiv w s
  | .fsqrt w => Sys2Proof.Machine.execFsqrt w s
  | .fmin w => Sys2Proof.Machine.execFmin w s
  | .fmax w => Sys2Proof.Machine.execFmax w s
  | .fabs w => Sys2Proof.Machine.execFabs w s
  | .fneg w => Sys2Proof.Machine.execFneg w s
  | .fcpys w => Sys2Proof.Machine.execFcpys w s
  | .frint w => Sys2Proof.Machine.execFrint w s
  | .fscale w => Sys2Proof.Machine.execFscale w s
  | .fexpo w => Sys2Proof.Machine.execFexpo w s
  | .fmant w => Sys2Proof.Machine.execFmant w s
  | .frac w => Sys2Proof.Machine.execFrac w s
  | .cvt w => Sys2Proof.Machine.execCvt w s
  | .cvts w => Sys2Proof.Machine.execCvts w s
  | .pkbf w => Sys2Proof.Machine.execPkbf w s
  | .bcast w => Sys2Proof.Machine.execBcast w s
  | .lget w => Sys2Proof.Machine.execLget w s
  | .lset w => Sys2Proof.Machine.execLset w s
  | .shuf w => Sys2Proof.Machine.execShuf w s
  | .rot w => Sys2Proof.Machine.execRot w s
  | .lsum w => Sys2Proof.Machine.execLsum w s
  | .lmin w => Sys2Proof.Machine.execLmin w s
  | .lmax w => Sys2Proof.Machine.execLmax w s
  | .scan w => Sys2Proof.Machine.execScan w s
  | .compact w => Sys2Proof.Machine.execCompact w s
  | .pusht r => Sys2Proof.Machine.execPusht r s
  | .popt r => Sys2Proof.Machine.execPopt r s
  | .iter r => Sys2Proof.Machine.execIter r s
  | .sett r => Sys2Proof.Machine.execSett r s
  | .gett r => Sys2Proof.Machine.execGett r s
  | .frame r => Sys2Proof.Machine.execFrame r s
  | .spawn r => Sys2Proof.Machine.execSpawn r s
  | .spawnt r => Sys2Proof.Machine.execSpawnt r s
  | .free r => Sys2Proof.Machine.execFree r s
  | .ctxw r => Sys2Proof.Machine.execCtxw r s
  | .pack r => Sys2Proof.Machine.execPack r s
  | .unpack r => Sys2Proof.Machine.execUnpack r s
  | .recol r => Sys2Proof.Machine.execRecol r s
  | .steer r => Sys2Proof.Machine.execSteer r s
  | .merge r => Sys2Proof.Machine.execMerge r s
  | .gate r => Sys2Proof.Machine.execGate r s
  | .gaterel r => Sys2Proof.Machine.execGaterel r s
  | .copy r => Sys2Proof.Machine.execCopy r s
  | .sink r => Sys2Proof.Machine.execSink r s
  | .lpost r => Sys2Proof.Machine.execLpost r s
  | .waitlp r => Sys2Proof.Machine.execWaitlp r s
  | .sync r => Sys2Proof.Machine.execSync r s
  | .seq r => Sys2Proof.Machine.execSeq r s
  | .get b => Sys2Proof.Machine.execGet b s
  | .emit b => Sys2Proof.Machine.execEmit b s
  | .emitc b => Sys2Proof.Machine.execEmitc b s
  | .ldtb b => Sys2Proof.Machine.execLdtb b s
  | .sttb b => Sys2Proof.Machine.execSttb b s
  | .xadd b => Sys2Proof.Machine.execXadd b s
  | .rdsysb b => Sys2Proof.Machine.execRdsysb b s
  | .lmask b => Sys2Proof.Machine.execLmask b s
  | .blockCommit slot vtile ctx => Sys2Proof.Machine.execBlockCommit slot vtile ctx s
  | .mma r => Sys2Proof.Machine.execMma r s
  | .mmaz r => Sys2Proof.Machine.execMmaz r s
  | .accrd r => Sys2Proof.Machine.execAccrd r s
  | .accz r => Sys2Proof.Machine.execAccz r s
  | .fskip r => Sys2Proof.Machine.execFskip r s
  | .tensorQueueStart slot vtile => Sys2Proof.Machine.execTensorQueueStart slot vtile s
  | .corner r => Sys2Proof.Machine.execCorner r s
  | .range r => Sys2Proof.Machine.execRange r s
  | .lut r => Sys2Proof.Machine.execLut r s
  | .lutLoad r => Sys2Proof.Machine.execLutLoad r s
  | .reduce r => Sys2Proof.Machine.execReduce r s
  | .xread r => Sys2Proof.Machine.execXread r s
  | .xsend r => Sys2Proof.Machine.execXsend r s
  | .xsendArrival slot id => Sys2Proof.Machine.execXsendArrival slot id s
  | .xmerge r => Sys2Proof.Machine.execXmerge r s
  | .xclr r => Sys2Proof.Machine.execXclr r s
  | .decodetab r => Sys2Proof.Machine.execDecodetab r s
  | .ldt r => Sys2Proof.Machine.execLdt r s
  | .stt r => Sys2Proof.Machine.execStt r s
  | .atomp r => Sys2Proof.Machine.execAtomp r s
  | .atomr r => Sys2Proof.Machine.execAtomr r s
  | .casr r => Sys2Proof.Machine.execCasr r s
  | .send r => Sys2Proof.Machine.execSend r s
  | .messageWrite slot id => Sys2Proof.Machine.execMessageWrite slot id s
  | .recv r => Sys2Proof.Machine.execRecv r s
  | .freeslot r => Sys2Proof.Machine.execFreeslot r s
  | .freedSlotNotice slot id => Sys2Proof.Machine.execFreedSlotNotice slot id s
  | .barinit r => Sys2Proof.Machine.execBarinit r s
  | .arrive r => Sys2Proof.Machine.execArrive r s
  | .waitcnt r => Sys2Proof.Machine.execWaitcnt r s
  | .mode r => Sys2Proof.Machine.execMode r s
  | .modeReconf r => Sys2Proof.Machine.execModeReconf r s
  | .quiescenceDetected slot => Sys2Proof.Machine.execQuiescenceDetected slot s
  | .ldm r => Sys2Proof.Machine.execLdm r s
  | .stm r => Sys2Proof.Machine.execStm r s
  | .done r => Sys2Proof.Machine.execDone r s
  | .gather r => Sys2Proof.Machine.execGather r s
  | .scatter r => Sys2Proof.Machine.execScatter r s
  | .waveIssue slot id => Sys2Proof.Machine.execWaveIssue slot id s
  | .memoryPerform slot id => Sys2Proof.Machine.execMemoryPerform slot id s
  | .performedNotice slot id => Sys2Proof.Machine.execPerformedNotice slot id s
  | .walkComplete slot id => Sys2Proof.Machine.execWalkComplete slot id s
  | .atsAnswer space vpn answer => Sys2Proof.Machine.execAtsAnswer space vpn answer s
  | .priResponse space vpn success => Sys2Proof.Machine.execPriResponse space vpn success s
  | .invalidation id remap => Sys2Proof.Machine.execInvalidation id remap s
  | .invalidationComplete id => Sys2Proof.Machine.execInvalidationComplete id s
  | .semsig r => Sys2Proof.Machine.execSemsig r s
  | .semwait r => Sys2Proof.Machine.execSemwait r s
  | .semwaitHostPoll slot id => Sys2Proof.Machine.execSemwaitHostPoll slot id s
  | .nop r => Sys2Proof.Machine.execNop r s
  | .rdsys r => Sys2Proof.Machine.execRdsys r s
  | .taill r => Sys2Proof.Machine.execTaill r s
  | .trap r => Sys2Proof.Machine.execTrap r s
  | .brk r => Sys2Proof.Machine.execBrk r s
  | .resumeSubstitute r => Sys2Proof.Machine.execResumeSubstitute r s
  | .resumeRetry r => Sys2Proof.Machine.execResumeRetry r s
  | .resumePoison r => Sys2Proof.Machine.execResumePoison r s
  | .killf r => Sys2Proof.Machine.execKillf r s
  | .parkNotice slot vdesk fh => Sys2Proof.Machine.execParkNotice slot vdesk fh s
  | .arcout r => Sys2Proof.Machine.execArcout r s
  | .arcin r => Sys2Proof.Machine.execArcin r s
  | .arcMessageArrival slot id => Sys2Proof.Machine.execArcMessageArrival slot id s
  | .arcCredit slot arc => Sys2Proof.Machine.execArcCredit slot arc s
  | .round r => Sys2Proof.Machine.execRound r s
  | .roundstop r => Sys2Proof.Machine.execRoundstop r s
  | .setg gd imm => Sys2Proof.Machine.execSetg gd imm s
  | .addg gd ga imm => Sys2Proof.Machine.execAddg gd ga imm s
  | .addgg gd ga gb sh => Sys2Proof.Machine.execAddgg gd ga gb sh s
  | .loop gd skip count => Sys2Proof.Machine.execLoop gd skip count s
  | .endl gd back => Sys2Proof.Machine.execEndl gd back s
  | .fetch ga gs buf host rows rowb => Sys2Proof.Machine.execFetch ga gs buf host rows rowb s
  | .waitslot gt tgt n => Sys2Proof.Machine.execWaitslot gt tgt n s
  | .decode bi bo tab => Sys2Proof.Machine.execDecode bi bo tab s
  | .deliver gt buf tgt => Sys2Proof.Machine.execDeliver gt buf tgt s
  | .deliveryArrival slot id => Sys2Proof.Machine.execDeliveryArrival slot id s
  | .courierArrive gt bidx bytes => Sys2Proof.Machine.execCourierArrive gt bidx bytes s
  | .token dest ga fill => Sys2Proof.Machine.execToken dest ga fill s
  | .courierSemwait ga gv => Sys2Proof.Machine.execCourierSemwait ga gv s
  | .courierSemsig ga gv add scope => Sys2Proof.Machine.execCourierSemsig ga gv add scope s
  | .courierSink ga gs gt host tgt rows rowb => Sys2Proof.Machine.execCourierSink ga gs gt host tgt rows rowb s
  | .endRound => Sys2Proof.Machine.execEndRound s
  | .tokenArrival slot id => Sys2Proof.Machine.execTokenArrival slot id s
  | .spillProbeReturn slot vdesk => Sys2Proof.Machine.execSpillProbeReturn slot vdesk s
  | .spillWriteDone slot vdesk => Sys2Proof.Machine.execSpillWriteDone slot vdesk s
  | .firingAged slot vdesk index => Sys2Proof.Machine.execFiringAged slot vdesk index s
  | .latchBlocked slot vdesk => Sys2Proof.Machine.execLatchBlocked slot vdesk s
  | .handleReturn fh => Sys2Proof.Machine.execHandleReturn fh s
  | .haltRequest slot => Sys2Proof.Machine.execHaltRequest slot s
  | .haltComplete slot vtile => Sys2Proof.Machine.execHaltComplete slot vtile s
  | .foldExchange slot => Sys2Proof.Machine.execFoldExchange slot s
  | .flitReceive slot of depot port flit word corrupt retryCorrupt => Sys2Proof.Machine.execFlitReceive slot of depot port flit word corrupt retryCorrupt s
  | .hoplogClear depot value => Sys2Proof.Machine.execHoplogClear depot value s
  | .frontierReport slot vtile => Sys2Proof.Machine.execFrontierReport slot vtile s
  | .epochClose slot => Sys2Proof.Machine.execEpochClose slot s
  | .frontierBroadcast slot vtile => Sys2Proof.Machine.execFrontierBroadcast slot vtile s
  | .mailbagEntry slot id => Sys2Proof.Machine.execMailbagEntry slot id s
  | .taskRespawn slot id => Sys2Proof.Machine.execTaskRespawn slot id s
  | .taskFrontEntry slot fh => Sys2Proof.Machine.execTaskFrontEntry slot fh s
  | .taskCommit slot fh => Sys2Proof.Machine.execTaskCommit slot fh s
  | .doorbell page value => Sys2Proof.Machine.execDoorbell page value s
  | .registerWrite fn span value => Sys2Proof.Machine.execRegisterWrite fn span value s
  | .dispatch => Sys2Proof.Machine.execDispatch s
  | .queueWaitPoll => Sys2Proof.Machine.execQueueWaitPoll s
  | .launch queue => Sys2Proof.Machine.execLaunch queue s
  | .copyRecord queue => Sys2Proof.Machine.execCopyRecord queue s
  | .fence queue => Sys2Proof.Machine.execFence queue s
  | .inval queue => Sys2Proof.Machine.execInval queue s
  | .sealWave slot vtile => Sys2Proof.Machine.execSealWave slot vtile s
  | .commitWave slot => Sys2Proof.Machine.execCommitWave slot s
  | .arcBind slot arc peer => Sys2Proof.Machine.execArcBind slot arc peer s
  | .launchEnd slot => Sys2Proof.Machine.execLaunchEnd slot s
  | .slotRelease slot => Sys2Proof.Machine.execSlotRelease slot s
  | .regionShrink slot => Sys2Proof.Machine.execRegionShrink slot s
  | .foldRestore slot => Sys2Proof.Machine.execFoldRestore slot s
  | .meterRefill => Sys2Proof.Machine.execMeterRefill s
  | .clockStep die mhz => Sys2Proof.Machine.execClockStep die mhz s
  | .thermalTrip die => Sys2Proof.Machine.execThermalTrip die s
  | .thermalClear die => Sys2Proof.Machine.execThermalClear die s
  | .deadlockSample => Sys2Proof.Machine.execDeadlockSample s
  | .deadlockIdle slot => Sys2Proof.Machine.execDeadlockIdle slot s
  | .bootgo value => Sys2Proof.Machine.execBootgo value s
  | .bootImageChecked fetched => Sys2Proof.Machine.execBootImageChecked fetched s
  | .bootReady cfg => Sys2Proof.Machine.execBootReady cfg s
  | .attestGo value => Sys2Proof.Machine.execAttestGo value s
  | .attestReportDone => Sys2Proof.Machine.execAttestReportDone s
  | .telemetrySample => Sys2Proof.Machine.execTelemetrySample s
  | .recovery err => Sys2Proof.Machine.execRecovery err s
  | .vfFlr part => Sys2Proof.Machine.execVfFlr part s
  | .pfReset => Sys2Proof.Machine.execPfReset s
  | .powerUp => Sys2Proof.Machine.execPowerUp s
  | .linkFlitReceive port seq ack kind crcOk => Sys2Proof.Machine.execLinkFlitReceive port seq ack kind crcOk s
  | .linkAckTimeout port => Sys2Proof.Machine.execLinkAckTimeout port s
  | .linkTrainingFail port => Sys2Proof.Machine.execLinkTrainingFail port s
  | .failureNotice plane pkg => Sys2Proof.Machine.execFailureNotice plane pkg s
  | .communicatorRebuild comm entries => Sys2Proof.Machine.execCommunicatorRebuild comm entries s
  | .queuePrioWeightChange queue part prio weight => Sys2Proof.Machine.execQueuePrioWeightChange queue part prio weight s

end Sys2Proof.Machine
end

