-- ==== Sys2Proof/Machine/Step.lean ====
section
/-! DEFINITION. The step of the machine, and the state whose next step runs a given word. -/

namespace Sys2Proof.Machine

/-- One step: an enabled action runs; with none enabled the machine stays as it is (log entry 1). -/
def step (s : State) : Host.Outcome State Fault Refusal := stepWith exec s

/-- The state with a word of the opcode table placed where the next step runs it (log entry 23). -/
def State.withFetchWord (s : State) (nbits w : Nat) : State := placeWord s nbits w

end Sys2Proof.Machine
end

