-- ==== Sys2Proof/Safety.lean ====
section
/-! DEFINITION. What counts as a safe run: no fault and no refusal, a memory in its canonical form, a bad-node register that
loses no bit. -/

namespace Sys2Proof.Safety

open Machine

/-- A step that answers a next state. -/
def answers (s : State) : Prop := ∃ t, step s = .next t

/-- Device and host memory in their canonical form (R274, R280). -/
def memoriesWf (s : State) : Bool := Memory.wf s.mem && Memory.wf s.bus

/-- No bit of the bad-node register is lost between two states (R256). -/
def badnodeKept (s t : State) : Prop :=
  ∀ d k : Nat, bit (s.badnode.getD d 0).toNat k = true → bit (t.badnode.getD d 0).toNat k = true

/-- Everything of a state but its launches, frames and spawn records and what is under way between them: the host's and
Oatin's registers, queues, partitions, fabric, memories, translations. -/
def outside (s : State) : State :=
  { s with frames := [], spawns := [], launches := [], agenda := [], nextId := 0 }

/-- What only the host, Oatin, power management and the fabric's error path change: device state and boot registers, bad-node
register and hop logs, nonce and report, telemetry samples, configuration and partitions, clocks (R256, R382, R386 to R396). -/
def hostView (s : State) : State :=
  { State.reset with
    dev := s.dev, failcode := s.failcode, bootaddr := s.bootaddr, bootlen := s.bootlen, revokebase := s.revokebase
    revLogn := s.revLogn, revHead := s.revHead, badnode := s.badnode, hoplog := s.hoplog, nonce := s.nonce
    attBusy := s.attBusy, attDone := s.attDone, report := s.report, image := s.image, sampled := s.sampled, cfg := s.cfg
    parts := s.parts, clocks := s.clocks, trips := s.trips, budget := s.budget }

/-! ### When an issued instruction has its own effect -/

/-- A firing that its desk has issued (R137) and that nothing turns away before its own effect: its launch and frame exist,
the frame does not drain (R23), its operands have their parity (R12), and ORD finds it due (R140). -/
abbrev issued (s : State) (c : Ctx) (p : Policy) : Prop :=
  s.issue = .node c.f ∧ ctxOf s c.f c.r = some c ∧ c.fr.state ≠ .draining ∧ firingFault s c.f = none ∧
    ordRes c (isLp p c.f) (deskOf c.l c.f.vdesk) = none

/-- An issued firing of data, allowed where it stands (R217, R229, R342). -/
abbrev fires (s : State) (c : Ctx) (p : Policy) : Prop :=
  issued s c p ∧ isLp p c.f = false ∧ anyDl c.f = false ∧ preTrap s p c = none

/-- An issued firing that is a last post (R124), in the frame its node may fire in (R217, R229). -/
abbrev firesLp (s : State) (c : Ctx) (p : Policy) : Prop := issued s c p ∧ isLp p c.f = true ∧ frameTrap s p c = none

/-- An issued firing with a dead letter that is no last post (R30), in the frame its node may fire in (R217, R229). -/
abbrev firesDl (s : State) (c : Ctx) (p : Policy) : Prop :=
  issued s c p ∧ isLp p c.f = false ∧ anyDl c.f = true ∧ frameTrap s p c = none

/-- A data firing completed from the state its own effect leaves: its node's rate monitors advance (R232), then its flags
are merged, its tokens leave and its operands are consumed. -/
def completed (s : State) (c : Ctx) (es : List Emission) (flags : Flags) : State :=
  complete (rateAdvance s c es 0) c es flags

/-- A block instruction that its engine has issued in a context (R143). -/
abbrev runs (s : State) (c : BCtx) : Prop :=
  s.issue = .block c.slot c.vtile c.k.idx ∧ bctxOf s c.slot c.vtile c.k.idx c.b = some c

/-- A shared function: its instruction, the code of its opcode, what it computes (R78, R153). -/
structure SharedRow where
  instr : Shared → Instr
  code : Nat
  fn : ShArgs → ShOut

/-- The integer and select functions (R160, R161). -/
def integerRows : List SharedRow :=
  [⟨.add, 0x00, fnAdd⟩,
    ⟨.sub, 0x01, fnSub⟩,
    ⟨.adds, 0x02, fnAdds⟩,
    ⟨.subs, 0x03, fnSubs⟩,
    ⟨.mul, 0x04, fnMul⟩,
    ⟨.mulh, 0x05, fnMulh⟩,
    ⟨.div, 0x06, fnDiv⟩,
    ⟨.rem, 0x07, fnRem⟩,
    ⟨.min, 0x08, fnMin⟩,
    ⟨.max, 0x09, fnMax⟩,
    ⟨.abs, 0x0A, fnAbs⟩,
    ⟨.neg, 0x0B, fnNeg⟩,
    ⟨.and, 0x0C, fnAnd⟩,
    ⟨.or, 0x0D, fnOr⟩,
    ⟨.xor, 0x0E, fnXor⟩,
    ⟨.andn, 0x0F, fnAndn⟩,
    ⟨.not, 0x10, fnNot⟩,
    ⟨.shl, 0x11, fnShl⟩,
    ⟨.shr, 0x12, fnShr⟩,
    ⟨.sar, 0x13, fnSar⟩,
    ⟨.rol, 0x14, fnRol⟩,
    ⟨.clz, 0x15, fnClz⟩,
    ⟨.ctz, 0x16, fnCtz⟩,
    ⟨.popc, 0x17, fnPopc⟩,
    ⟨.brev, 0x18, fnBrev⟩,
    ⟨.bfx, 0x19, fnBfx⟩,
    ⟨.bfi, 0x1A, fnBfi⟩,
    ⟨.mad, 0x1B, fnMad⟩,
    ⟨.idx, 0x1C, fnIdx⟩,
    ⟨.sel, 0x1D, fnSel⟩,
    ⟨.mov, 0x1E, fnMov⟩,
    ⟨.const, 0x1F, fnConst⟩]

/-- The compare functions (R162). -/
def compareRows : List SharedRow :=
  [⟨.ceq, 0x20, fnCeq⟩,
    ⟨.cne, 0x21, fnCne⟩,
    ⟨.clt, 0x22, fnClt⟩,
    ⟨.cle, 0x23, fnCle⟩,
    ⟨.cgt, 0x24, fnCgt⟩,
    ⟨.cge, 0x25, fnCge⟩,
    ⟨.cun, 0x26, fnCun⟩,
    ⟨.classify, 0x27, fnClass⟩,
    ⟨.test, 0x28, fnTest⟩]

/-- The floating-point functions (R163). -/
def floatRows : List SharedRow :=
  [⟨.fadd, 0x30, fnFadd⟩,
    ⟨.fsub, 0x31, fnFsub⟩,
    ⟨.fmul, 0x32, fnFmul⟩,
    ⟨.fma, 0x33, fnFma⟩,
    ⟨.fms, 0x34, fnFms⟩,
    ⟨.fnma, 0x35, fnFnma⟩,
    ⟨.fdiv, 0x36, fnFdiv⟩,
    ⟨.fsqrt, 0x37, fnFsqrt⟩,
    ⟨.fmin, 0x38, fnFmin⟩,
    ⟨.fmax, 0x39, fnFmax⟩,
    ⟨.fabs, 0x3A, fnFabs⟩,
    ⟨.fneg, 0x3B, fnFneg⟩,
    ⟨.fcpys, 0x3C, fnFcpys⟩,
    ⟨.frint, 0x3D, fnFrint⟩,
    ⟨.fscale, 0x3E, fnFscale⟩,
    ⟨.fexpo, 0x3F, fnFexpo⟩,
    ⟨.fmant, 0x40, fnFmant⟩,
    ⟨.frac, 0x41, fnFrac⟩]

/-- The conversion and lane functions (R164 to R169). -/
def laneRows : List SharedRow :=
  [⟨.cvt, 0x50, fnCvt⟩,
    ⟨.cvts, 0x51, fnCvts⟩,
    ⟨.pkbf, 0x52, fnPkbf⟩,
    ⟨.bcast, 0x60, fnBcast⟩,
    ⟨.lget, 0x61, fnLget⟩,
    ⟨.lset, 0x62, fnLset⟩,
    ⟨.shuf, 0x63, fnShuf⟩,
    ⟨.rot, 0x64, fnRot⟩,
    ⟨.lsum, 0x65, fnLsum⟩,
    ⟨.lmin, 0x66, fnLmin⟩,
    ⟨.lmax, 0x67, fnLmax⟩,
    ⟨.scan, 0x68, fnScan⟩,
    ⟨.compact, 0x69, fnCompact⟩]

/-- Every shared function. -/
def sharedRows : List SharedRow := integerRows ++ compareRows ++ floatRows ++ laneRows

/-- The policy of a node illegal in a speculative task, by its SPEC_ILLEGAL detail (R342). -/
def specOf (d : Nat) : Policy := { plain with spec := some d }

/-- The same for a stream node, which fires in one frame only (R217). -/
def streamOf (d : Nat) : Policy := { specOf d with stream := true }

/-- The policy of SEND (R217, R342). -/
def sendPolicy : Policy := { plain with stream := true, domain := true }

/-- The nodes with the standard treatment of last posts and dead letters (R30, R124), with their policies. -/
def standardNodes : List ((NodeRec → Instr) × Policy) :=
    [(.gett, plain), (.ctxw, plain), (.pack, plain), (.unpack, plain), (.recol, plain), (.range, plain), (.lut, plain),
    (.nop, plain), (.rdsys, plain), (.trap, plain), (.brk, plain), (.resumeSubstitute, plain), (.resumeRetry, plain),
    (.resumePoison, plain), (.killf, plain), (.gate, { plain with trigger := true }), (.mma, unitPolicy true),
    (.mmaz, unitPolicy true), (.xread, unitPolicy true), (.accz, unitPolicy false), (.fskip, unitPolicy false),
    (.reduce, unitPolicy false), (.xsend, unitPolicy false), (.xmerge, unitPolicy false), (.xclr, unitPolicy false),
    (.corner, specOf 0), (.lutLoad, specOf 0), (.barinit, specOf 3), (.waitcnt, specOf 3), (.mode, specOf 3),
    (.modeReconf, specOf 3), (.semsig, specOf 3), (.semwait, specOf 3), (.decodetab, specOf 4), (.taill, specOf 4),
    (.roundstop, specOf 4), (.round, streamOf 4), (.send, sendPolicy), (.recv, streamOf 3), (.freeslot, streamOf 3)] ++
    sharedRows.map fun row => (fun r => row.instr (.node r), plain)

/-- Every node instruction but ARCOUT and ARCIN. -/
def nodeForms : List (NodeRec → Instr) :=
    [.pusht, .popt, .iter, .sett, .frame, .spawn, .spawnt, .free, .sync, .steer, .merge, .gaterel, .copy, .sink, .lpost,
    .waitlp, .seq, .accrd, .ldt, .stt, .atomp, .atomr, .casr, .arrive, .ldm, .stm, .done, .gather, .scatter] ++ standardNodes.map (·.1)

/-- The block instructions that are no shared functions (R174 to R181), and the block form of each shared function. -/
def blockForms : List (BlockRec → Instr) :=
  [.get, .emit, .emitc, .ldtb, .sttb, .xadd, .rdsysb, .lmask] ++ sharedRows.map fun row => fun b => row.instr (.block b)

/-- What may change the host's view: the host's own accesses, boot, power management, and the fabric's error path. -/
def hostEvent (i : Instr) : Bool :=
  match i with
  | .attestGo _ | .attestReportDone | .bootImageChecked _ | .bootReady _ | .bootgo _ | .clockStep _ _
  | .flitReceive _ _ _ _ _ _ _ _ | .hoplogClear _ _ | .pfReset | .powerUp | .recovery _ | .registerWrite _ _ _ | .telemetrySample
  | .thermalTrip _ | .thermalClear _ => true
  | _ => false

/-- What a firing with its own effect sees of the state in which it starts. -/
abbrev own (s : State) (c : Ctx) (p : Policy) : Ctx := startedCtx (started s c p) c

/-- Node `i`, fired on data under its policy, completes: whatever state, emissions and flags `ok` gives for the state in which
its own effect starts (its order counter there, its node bound: R140, R217) and for what the firing sees of it, `exec` answers
that completion, unless the emissions break a declared rate (R229). -/
def completes (i : NodeRec → Instr) (p : Policy) (ok : State → Ctx → State → List Emission → Flags → Prop) : Prop :=
  ∀ s c s1 es fl, fires s c p → ok (started s c p) (own s c p) s1 es fl → rateTrap c es 0 = none →
    exec (i c.r) s = .next (completed s1 c es fl)

/-- The same for a node whose firing counts `msgs` messages of its arc (R217, R229, R411). -/
def completesMsgs (i : NodeRec → Instr) (p : Policy) (msgs : Ctx → Nat)
    (ok : State → Ctx → State → List Emission → Flags → Prop) : Prop :=
  ∀ s c s1 es fl, fires s c p → ok (started s c p) (own s c p) s1 es fl → rateTrap c es (msgs c) = none →
    exec (i c.r) s = .next (complete (rateAdvance s1 c es (msgs c)) c es fl)

/-- A node that only computes and emits: it changes no state of its own and raises no flag. -/
def emits (i : NodeRec → Instr) (ok : Ctx → List Emission → Prop) : Prop :=
  completes i plain fun s c s1 es fl => s1 = s ∧ fl = 0 ∧ ok c es

/-- Node `i`, fired on data, completes later or in a state of its own: `exec` answers the state that `ok` gives for the one in
which its own effect starts. -/
def answersNext (i : NodeRec → Instr) (p : Policy) (ok : State → Ctx → State → Prop) : Prop :=
  ∀ s c t, fires s c p → ok (started s c p) (own s c p) t → exec (i c.r) s = .next t

/-- Node `i`, fired on data, is held: it stays ready, and nothing else happens (R139). -/
def holds (i : NodeRec → Instr) (p : Policy) (ok : State → Ctx → Prop) : Prop :=
  ∀ s c, fires s c p → ok (started s c p) (own s c p) → exec (i c.r) s = .next (holdFiring s c.f)

/-- Node `i` fired on a last post: it emits what `ok` gives, with no flag and no rate counted (R124). -/
def passesLp (i : NodeRec → Instr) (p : Policy) (ok : Ctx → List Emission → Prop) : Prop :=
  ∀ s c es, firesLp s c p → ok (own s c p) es → exec (i c.r) s = .next (complete (started s c p) c es 0)

/-- Node `i` fired on a dead letter: it emits what `ok` gives, with no flag and no rate counted (R30). -/
def passesDl (i : NodeRec → Instr) (p : Policy) (ok : Ctx → List Emission → Prop) : Prop :=
  ∀ s c es, firesDl s c p → ok (own s c p) es → exec (i c.r) s = .next (complete (started s c p) c es 0)

/-- A block instruction completes: its context changed, the next instruction of the block due (R143, R177). -/
def runsTo (i : BlockRec → Instr) (ok : State → BCtx → State → BlockCtx → Prop) : Prop :=
  ∀ s c s1 k, runs s c → ok s c s1 k → exec (i c.b) s = .next (stepBlock s1 c k)

/-- A round instruction that its courier has issued (R309): its launch, its courier, now RUNNING, and its ROUND firing. -/
abbrev inRound (s : State) (r : RCtx) : Prop :=
  s.issue = .round r.f.slot r.q.node ∧ findLaunch s r.f.slot = some r.l ∧
    ∃ q rec, courierOf r.l r.q.node = some q ∧ q.firing = some r.f ∧ r.q = { q with state := .running } ∧
      recOf r.l r.f = some rec ∧ ctxOf s r.f rec = some r.c

/-- A round instruction completes: its courier as given, with the effects beside it. -/
def roundRuns (i : Instr) (ok : State → RCtx → State → Courier → Prop) : Prop :=
  ∀ s r s1 q, inRound s r → ok s r s1 q → exec i s = .next (putCourier s1 r.f.slot q)

/-- A round instruction traps: its round is FAULTED, its record is taken (R325). -/
def roundTraps (i : Instr) (ok : State → RCtx → Trap → Prop) : Prop :=
  ∀ s r t, inRound s r → ok s r t → exec i s = .next (trapRound s r.l r.q r.f [] t)

/-- A round instruction waits (R309). -/
def roundWaits (i : Instr) (ok : State → RCtx → Prop) : Prop :=
  ∀ s r, inRound s r → ok s r → exec i s = .next (putCourier s r.f.slot { r.q with state := .waiting, held := true })

/-- A trap of node `i` fired on data: its record is taken, its order counter stays (R140), and nothing else of the firing happens,
nor is its node bound by it (R31, R217, R240). -/
def traps (i : NodeRec → Instr) (p : Policy) (ok : State → Ctx → Trap → Prop) : Prop :=
  ∀ s c t, fires s c p → ok (started s c p) (own s c p) t → exec (i c.r) s = .next (trapFiring (counted s c p) c.f t)

end Sys2Proof.Safety
end

