-- ==== Sys2Proof/Certificates/Slice0/Obligations.lean ====
section
/-! DEFINITION. The statements for the provers. `fires`, `firesLp`, `firesDl`, `runs` and `completed` of Safety.lean say when an
issued instruction has its own effect and what a completed node firing leaves. -/

open Sys2Proof Sys2Proof.Machine Sys2Proof.Safety

/-- For every well-formed instruction that is written as a node record, decoding its 96-bit word answers exactly that
instruction, in the decoder of words, in the decoder of bytes and in the decoder of opcode-table words.
(spec/03_instruction_words.md.) -/
def Obligations.NodeWordsDecodeBack : Prop :=
  ∀ i opc r w, wellFormed i = true → formOf i = .node opc r → encode i = some (96, w) →
    decodeNode w = .ok i ∧ decodeNodeBytes (leBytes 12 w) = .ok i ∧ decodeTableWord 96 w = some i

/-- For every well-formed instruction that is written as a block instruction, decoding its 64-bit word answers exactly that
instruction, in the decoder of words, in the decoder of bytes and in the decoder of opcode-table words.
(spec/03_instruction_words.md.) -/
def Obligations.BlockWordsDecodeBack : Prop :=
  ∀ i opc b w, wellFormed i = true → formOf i = .block opc b → encode i = some (64, w) →
    decodeBlock w = .ok i ∧ decodeBlockBytes (leBytes 8 w) = .ok i ∧ decodeTableWord 64 w = some i

/-- For every well-formed instruction that is written as a round instruction, decoding its 64-bit word as a round word, from
the number and from its bytes, answers exactly that instruction. (spec/03_instruction_words.md.) -/
def Obligations.RoundWordsDecodeBack : Prop :=
  ∀ i opc fs w, wellFormed i = true → formOf i = .round opc fs → encode i = some (64, w) →
    decodeRound w = .ok i ∧ decodeRoundBytes (leBytes 8 w) = .ok i

/-- A node record, block word or round word that the decoder accepts decodes to a well-formed instruction whose encoding is
that very word, so no bit of an accepted word is dropped and no two words decode to one instruction.
(spec/03_instruction_words.md.) -/
def Obligations.DecodedWordsEncodeBack : Prop :=
  (∀ i w, w < 2 ^ 96 → decodeNode w = .ok i → wellFormed i = true ∧ encode i = some (96, w)) ∧
  (∀ i w, w < 2 ^ 64 → decodeBlock w = .ok i → wellFormed i = true ∧ encode i = some (64, w)) ∧
  (∀ i w, w < 2 ^ 64 → decodeRound w = .ok i → wellFormed i = true ∧ encode i = some (64, w))

/-- A compare node, a GATE node, a SEND node and a MMAZ node of 96 bits, an FADD and an EMIT of a block, and a LOOP, a TOKEN
and an ENDL of a round, each written bit by bit from its encoding, decode to that instruction with its operands.
(spec/03_instruction_words.md, spec/04_tag_frame_steering_instructions.md, spec/06_arithmetic_instructions.md,
spec/13_couriers.md.) -/
def Obligations.SpecWordsDecode : Prop :=
  decodeNode 0x226010000017FFFF00000000 =
    .ok (.clt (.node ⟨.bf16, .rne, .same, .dyad, false, 0, 2, 0x7FFFF, 0⟩)) ∧
  decodeNode 0x921020000027FFFF00000003 = .ok (.gate ⟨.u32, .rne, .same, .lit, false, 0, 4, 0x7FFFF, 3⟩) ∧
  decodeBlock 0x3044841000000000 = .ok (.fadd (.block ⟨2, 1, 1, 0, .f32, .rne, .operand, 0, 0⟩)) ∧
  decodeNode 0xB010083FFFFFFFFF00000042 = .ok (.send ⟨.u32, .rne, .same, .mono, true, 0, 0x7FFFF, 0x7FFFF, 0x42⟩) ∧
  decodeNode 0xC16018400017FFFF00000000 = .ok (.mmaz ⟨.bf16, .rne, .same, .dyad, true, 1, 2, 0x7FFFF, 0⟩) ∧
  decodeBlock 0x810C000000000001 = .ok (.emit ⟨0, 3, 0, 0, .i32, .rne, .reg, 0, 1⟩) ∧
  decodeRound 0x1300000800000004 = .ok (.loop 6 8 4) ∧ decodeRound 0x3400205100000000 = .ok (.token 0x40 5 8) ∧
  decodeRound 0x1700000000000006 = .ok (.endl 6 6)

/-- A node record decodes to nothing, with reason 3, exactly when its opcode is none of the shared, node-only and tensor
codes; a block word of opcode 0x88 or above, or of a reserved shared code, and a round word of a reserved opcode, zero among
them, are refused with reason 3. (spec/03_instruction_words.md.) -/
def Obligations.ReservedOpcodesAreRefused : Prop :=
  let shared := (List.range 0x29) ++ (List.range 0x12).map (· + 0x30) ++ [0x50, 0x51, 0x52] ++ (List.range 10).map (· + 0x60)
  let nodes := (List.range 13).map (· + 0x80) ++ (List.range 10).map (· + 0x90) ++ (List.range 10).map (· + 0xA0) ++
    (List.range 11).map (· + 0xB0) ++ (List.range 13).map (· + 0xC0) ++ [0xD0, 0xD1, 0xD2] ++ (List.range 7).map (· + 0xE0)
  let rounds := [0x01, 0x02, 0x03, 0x04, 0x05, 0x08, 0x09, 0x0A, 0x0B, 0x0C, 0x0D, 0x10, 0x11, 0x12, 0x3F]
  (∀ w, decodeNode w = .error 3 ↔ opcodeOf 96 w ∉ shared ++ nodes) ∧
  (∀ w, opcodeOf 64 w ∉ shared ++ (List.range 8).map (· + 0x80) → decodeBlock w = .error 3) ∧
  (∀ w, field w 58 6 ∉ rounds → decodeRound w = .error 3) ∧ decodeRound 0 = .error 3

/-- On every integer TYPE, in each included element, ADD, SUB, MUL, MAD, NEG and IDX give their result modulo 2^w, ADDS and
SUBS the sum and difference clamped to the TYPE's range, MULH the upper w bits of the full product, signed or unsigned by
TYPE, MIN, MAX and ABS the lesser, the greater and the magnitude, AND, OR, XOR, ANDN and NOT their bit operation, MOV a,
CONST b, and SEL b where the element's predicate in a is 1 and c elsewhere. Every excluded lane, or pair of lanes under a
64-bit TYPE, keeps the previous lane of wD, the result has n lanes, and nothing is raised.
(spec/06_arithmetic_instructions.md.) -/
def Obligations.IntegerElements : Prop :=
  ∀ x : ShArgs, intTy x.type = true → (wide x.type = true → x.n % 2 = 0) →
    let w := tyWidth x.type
    let elem (ls : List Lane) (e : Nat) : BitVec w := BitVec.ofNat w ((elems x.type ls).getD e 0)
    let a := elem x.a
    let b := elem x.b
    let c := elem x.c
    let sg : Bool := signedTy x.type
    let clamp (i : Int) : BitVec w := BitVec.ofInt w (max (-2 ^ (w - 1)) (min (2 ^ (w - 1) - 1) i))
    let less (p q : BitVec w) : Bool := if sg then p.slt q else p.ult q
    let gives (o : ShOut) (f : Nat → BitVec w) : Prop :=
      o.lanes.length = x.n ∧ allFlags o.raised = 0 ∧
      (∀ e < elemCount x.type x.n, x.incl.getD (laneOf x.type e) true = true → elem o.lanes e = f e) ∧
      ∀ k < x.n, x.incl.getD (if wide x.type then k - k % 2 else k) true = false → laneAt o.lanes k = laneAt x.prev k
    gives (fnAdd x) (fun e => a e + b e) ∧ gives (fnSub x) (fun e => a e - b e) ∧ gives (fnMul x) (fun e => a e * b e) ∧
    gives (fnMad x) (fun e => a e * b e + c e) ∧ gives (fnNeg x) (fun e => -a e) ∧
    gives (fnIdx x) (fun e => a e + b e <<< x.sh) ∧
    gives (fnAdds x) (fun e => if sg then clamp ((a e).toInt + (b e).toInt)
      else BitVec.ofNat w (min (2 ^ w - 1) ((a e).toNat + (b e).toNat))) ∧
    gives (fnSubs x) (fun e => if sg then clamp ((a e).toInt - (b e).toInt) else BitVec.ofNat w ((a e).toNat - (b e).toNat)) ∧
    gives (fnMulh x) (fun e => if sg then ((a e).signExtend (2 * w) * (b e).signExtend (2 * w)).extractLsb' w w
      else ((a e).setWidth (2 * w) * (b e).setWidth (2 * w)).extractLsb' w w) ∧
    gives (fnMin x) (fun e => if less (b e) (a e) then b e else a e) ∧
    gives (fnMax x) (fun e => if less (a e) (b e) then b e else a e) ∧
    gives (fnAbs x) (fun e => if sg && (a e).msb then -a e else a e) ∧
    gives (fnAnd x) (fun e => a e &&& b e) ∧ gives (fnOr x) (fun e => a e ||| b e) ∧ gives (fnXor x) (fun e => a e ^^^ b e) ∧
    gives (fnAndn x) (fun e => a e &&& ~~~b e) ∧ gives (fnNot x) (fun e => ~~~a e) ∧
    gives (fnMov x) a ∧ gives (fnConst x) b ∧ gives (fnSel x) (fun e => if predOf x.type x.a e then b e else c e)

/-- On every integer TYPE, of w bits, in each included element: DIV gives the quotient truncated toward zero and REM the
remainder with the sign of the dividend; by zero DIV gives all ones and REM the dividend; the most negative value by -1
gives itself and remainder 0; DIV times the divisor plus REM is the dividend. The firing raises DZ exactly when some
included divisor is zero, and no other flag. SHL gives 0 for a count of w or more and the shifted element modulo 2^w
otherwise, SHR shifts zeros in, SAR copies of the top bit for every TYPE, and ROL rotates by the count modulo w. BFX gives
the field of the position and length that its control value names, zero- or sign-extended by TYPE, and BFI puts the low bits
of b into that field of a; a length above w counts as w. Excluded lanes keep wD, and the shifts, rotates and bit fields
raise nothing. (spec/02_number_formats.md, spec/06_arithmetic_instructions.md.) -/
def Obligations.DivisionsShiftsAndBitFields : Prop :=
  ∀ x : ShArgs, intTy x.type = true → (wide x.type = true → x.n % 2 = 0) →
    let w := tyWidth x.type
    let elem (ls : List Lane) (e : Nat) : BitVec w := BitVec.ofNat w ((elems x.type ls).getD e 0)
    let a := elem x.a
    let b := elem x.b
    let sg : Bool := signedTy x.type
    let count (ls : List Lane) (e : Nat) : Nat := controlOf x.type ls e
    let position (m : Nat) : Nat := m % 2 ^ 6
    let length (m : Nat) : Nat := min (m / 2 ^ 8 % 2 ^ 7) w
    let within (e : Nat) : Prop := e < elemCount x.type x.n ∧ x.incl.getD (laneOf x.type e) true = true
    let gives (o : ShOut) (f : Nat → BitVec w) : Prop :=
      o.lanes.length = x.n ∧ (∀ e, within e → elem o.lanes e = f e) ∧
      ∀ k < x.n, x.incl.getD (if wide x.type then k - k % 2 else k) true = false → laneAt o.lanes k = laneAt x.prev k
    let quiet (o : ShOut) : Prop := allFlags o.raised = 0
    gives (fnDiv x) (fun e => if b e = 0 then BitVec.allOnes w else if sg then (a e).sdiv (b e) else a e / b e) ∧
    gives (fnRem x) (fun e => if sg then (a e).srem (b e) else a e % b e) ∧
    (∀ e, within e → elem (fnDiv x).lanes e * b e + elem (fnRem x).lanes e = a e) ∧
    ((∃ e, within e ∧ b e = 0) → allFlags (fnDiv x).raised = flDZ ∧ allFlags (fnRem x).raised = flDZ) ∧
    ((∀ e, within e → b e ≠ 0) → quiet (fnDiv x) ∧ quiet (fnRem x)) ∧
    gives (fnShl x) (fun e => a e <<< count x.b e) ∧ quiet (fnShl x) ∧
    gives (fnShr x) (fun e => a e >>> count x.b e) ∧ quiet (fnShr x) ∧
    gives (fnSar x) (fun e => (a e).sshiftRight (count x.b e)) ∧ quiet (fnSar x) ∧
    gives (fnRol x) (fun e => (a e).rotateLeft (count x.b e)) ∧ quiet (fnRol x) ∧
    gives (fnBfx x) (fun e =>
      let bits : BitVec (length (count x.b e)) := (a e >>> position (count x.b e)).setWidth _
      if sg then bits.signExtend w else bits.setWidth w) ∧ quiet (fnBfx x) ∧
    gives (fnBfi x) (fun e =>
      let at_ := position (count x.c e)
      let m : BitVec w := (BitVec.allOnes (length (count x.c e))).setWidth w <<< at_
      (a e &&& ~~~m) ||| (b e <<< at_ &&& m)) ∧ quiet (fnBfi x)

/-- On every integer TYPE, CEQ, CNE, CLT, CLE, CGT and CGE set the predicate of each included element whose values compare
as named, signed or unsigned by TYPE, TEST that of one whose AND is not zero; the bits of a lane above its predicates are 0,
both lanes of a 64-bit pair are alike, excluded lanes keep wD and nothing is raised. SCAN gives in element e the sum modulo
2^w of the included elements 0 to e. On every TYPE, with a unit a lane, or a lane pair under a 64-bit TYPE: SHUF gives in
each included unit the unit of a that its control lane names, or zero past the last; ROT moves unit i to the unit r places
higher, modulo their number; COMPACT puts the included units of a whose predicate is 1 in ascending order from unit 0 on,
and zeros behind them. (spec/06_arithmetic_instructions.md.) -/
def Obligations.IntegerComparesAndLaneMoves : Prop :=
  (∀ x : ShArgs, intTy x.type = true → (wide x.type = true → x.n % 2 = 0) →
    let w := tyWidth x.type
    let elem (ls : List Lane) (e : Nat) : BitVec w := BitVec.ofNat w ((elems x.type ls).getD e 0)
    let a := elem x.a
    let b := elem x.b
    let sg : Bool := signedTy x.type
    let less (p q : BitVec w) : Bool := if sg then p.slt q else p.ult q
    let in_ (e : Nat) : Bool := x.incl.getD (laneOf x.type e) true
    let tells (o : ShOut) (f : Nat → Bool) : Prop :=
      o.lanes.length = x.n ∧ allFlags o.raised = 0 ∧
      (∀ e < elemCount x.type x.n, in_ e = true → predOf x.type o.lanes e = f e ∧
        (laneAt o.lanes (laneOf x.type e)).toNat < 2 ^ perLane x.type ∧
        (wide x.type = true → laneAt o.lanes (2 * e + 1) = laneAt o.lanes (2 * e))) ∧
      ∀ k < x.n, x.incl.getD (if wide x.type then k - k % 2 else k) true = false → laneAt o.lanes k = laneAt x.prev k
    tells (fnCeq x) (fun e => a e == b e) ∧ tells (fnCne x) (fun e => a e != b e) ∧
    tells (fnClt x) (fun e => less (a e) (b e)) ∧ tells (fnCle x) (fun e => !less (b e) (a e)) ∧
    tells (fnCgt x) (fun e => less (b e) (a e)) ∧ tells (fnCge x) (fun e => !less (a e) (b e)) ∧
    tells (fnTest x) (fun e => a e &&& b e != 0) ∧
    (x.a.length = x.n → (fnScan x).lanes.length = x.n ∧ allFlags (fnScan x).raised = 0 ∧
      ∀ e < elemCount x.type x.n, elem (fnScan x).lanes e = ((List.range (e + 1)).filter in_).foldl (fun s i => s + a i) 0)) ∧
  (∀ x : ShArgs,
    let u := if wide x.type then 2 else 1
    let m := x.n / u
    let in_ (k : Nat) : Bool := x.incl.getD (k * u) true
    (∀ k < m, ∀ j < u, in_ k = true → laneAt (fnShuf x).lanes (k * u + j) =
      if (laneAt x.b (k * u)).toNat < m then laneAt x.a ((laneAt x.b (k * u)).toNat * u + j) else 0) ∧
    (∀ i < m, ∀ j < u,
      let k := (i + (laneAt x.b 0).toNat) % m
      in_ k = true → laneAt (fnRot x).lanes (k * u + j) = laneAt x.a (i * u + j)) ∧
    (let kept := (List.range m).filter fun k => in_ k && (laneAt x.b (k * u)).getLsbD 0
     (fnCompact x).lanes.length = x.n ∧
      (∀ i, ∀ h : i < kept.length, ∀ j < u, laneAt (fnCompact x).lanes (i * u + j) = laneAt x.a (kept[i] * u + j)) ∧
      ∀ k, kept.length * u ≤ k → laneAt (fnCompact x).lanes k = 0))

/-- In every floating-point format and for all bit patterns, FMIN and FMAX of a NaN with anything give the canonical NaN; of
-0 and +0 FMIN gives -0 and FMAX +0; otherwise they give the lesser or greater value; NV is raised exactly when an operand
is a signalling NaN and nothing else is raised; and both are commutative and associative in their results. (R46.) -/
def Obligations.MinimumAndMaximum : Prop :=
  ∀ t ∈ [Ty.f64, .f32, .bf16, .f16], ∀ x y z : Nat, x < 2 ^ tyWidth t → y < 2 ^ tyWidth t → z < 2 ^ tyWidth t →
    let f := fmtOrF32 t
    let v (b : Nat) : Val := decodeVal f b
    let m (mx : Bool) (p q : Nat) : Nat := (fMinMax f mx (v p) (v q)).1
    (∀ mx : Bool,
      ((isNaN (v x) || isNaN (v y)) = true → m mx x y = fmtNaN f) ∧
      (fMinMax f mx (v x) (v y)).2 = (if v x = .nan true ∨ v y = .nan true then flNV else 0) ∧
      m mx x y = m mx y x ∧ m mx (m mx x y) z = m mx x (m mx y z)) ∧
    (valLt (v x) (v y) = true → m false x y = x ∧ m true x y = y) ∧
    (v x = .zero true → v y = .zero false → m false x y = x ∧ m true x y = y)

/-- For every format, every two values, every rounding mode and every random value of RSR, FADD and FMUL give the same bits
and the same flags with their operands exchanged. Merging registers is commutative and associative in V and in every sticky
bit; adding two lists of terms to a tile's register, in either order, leaves the same register; and the register that a list
of elements adds is the same for the list reversed. A read under f64, f32 or bf16 gives the canonical NaN for NAN, the
canonical NaN with NV for both infinities, the infinity of the one sticky bit set, +0 for V = 0 under every mode, and
otherwise V times 2^-2176 rounded once. (spec/02_number_formats.md, spec/06_arithmetic_instructions.md,
spec/07_tensor_and_function_instructions.md.) -/
def Obligations.AdditionsCommuteAndExactSumsRead : Prop :=
  (∀ (f : Fmt) (a b : Val) (rnd : Rnd) (r : Nat), fAdd f a b rnd r = fAdd f b a rnd r ∧ fMul f a b rnd r = fMul f b a rnd r) ∧
  ((∀ a b c : Xacc, xaccAdd a b = xaccAdd b a ∧ xaccAdd (xaccAdd a b) c = xaccAdd a (xaccAdd b c) ∧
    xaccAdd a xaccZero = a) ∧
  (∀ (t : Tile) (k : Nat) (x y : Xacc), k < t.xacc.length →
    addToXacc (setXacc t k (addToXacc t k x)) k y = addToXacc (setXacc t k (addToXacc t k y)) k x) ∧
  (∀ ls : List Lane, ∀ t ∈ [Ty.f32, .bf16], (xaccTerms t ls [] false (fun _ => true)).1 =
    (xaccTerms t ls.reverse [] false (fun _ => true)).1)) ∧
  (∀ (x : Xacc) (rnd : Rnd) (r : Nat), ∀ t ∈ [Ty.f64, .f32, .bf16],
    let f := fmtOrF32 t
    xaccRead x t rnd r =
      if x.nan then (fmtNaN f, 0)
      else if x.pinf ∧ x.ninf then (fmtNaN f, flNV)
      else if x.pinf then (fmtInf f, 0)
      else if x.ninf then (fmtSign f + fmtInf f, 0)
      else if x.v = 0 then (0, 0)
      else roundDyadic f x.v.toInt (-2176) rnd false r)

/-- For every floating-point format, FP8 included, and every bit pattern that is no NaN, rounding its value to the format
gives the same bits and raises no flag, whatever the rounding mode, saturation and the 32-bit random value of RSR. For f64,
f32, bf16 and f16, under any modes: FSCALE by 0 gives its operand; FRINT of what FRINT gave changes nothing and is exact;
FMA of a, 1 and c is FADD of a and c, NaNs of c included; where FMUL of finite a and b, neither 0, is exact, FDIV of the
product by b gives a, and FSQRT of an exact square gives |a|, without a flag. A conversion to a format that holds every
value of its source is exact, and converting back gives the same bits: from bf16 and f16 to f32, f32 to f64, e4m3 and e5m2
to f16, and from 8-bit integers to bf16, 16-bit ones to f32 and 32-bit ones to f64. (spec/02_number_formats.md,
spec/06_arithmetic_instructions.md.) -/
def Obligations.RepresentableValuesRoundToThemselves : Prop :=
  (∀ t ∈ [Ty.f64, .f32, .bf16, .f16, .e4m3, .e5m2], ∀ x : Nat, x < 2 ^ tyWidth t →
    let f := fmtOrF32 t
    isNaN (decodeVal f x) = false → ∀ rnd sat r, r < 2 ^ 32 →
      roundVal f (decodeVal f x) rnd sat r = (x, 0)) ∧
  (∀ t ∈ [Ty.f64, .f32, .bf16, .f16], ∀ x y : Nat, x < 2 ^ tyWidth t → y < 2 ^ tyWidth t →
    ∀ (rnd rnd1 : Rnd) (r r1 : Nat), r < 2 ^ 32 → r1 < 2 ^ 32 →
    let f := fmtOrF32 t
    let v (b : Nat) : Val := decodeVal f b
    let one : Nat := f.bias * 2 ^ f.frac
    let finite (a : Val) : Prop := isNaN a = false ∧ isInf a = false ∧ isZero a = false
    (isNaN (v x) = false →
      fScale f (v x) 0 rnd r = (x, 0) ∧
      fRint f (v (fRint f (v x) rnd r).1) rnd1 r1 = ((fRint f (v x) rnd r).1, 0) ∧
      fFma f (v x) (v one) (v y) rnd r = fAdd f (v x) (v y) rnd r) ∧
    (finite (v x) → finite (v y) →
      ((fMul f (v x) (v y) rnd r).2 = 0 → fDiv f (v (fMul f (v x) (v y) rnd r).1) (v y) rnd1 r1 = (x, 0)) ∧
      ((fMul f (v x) (v x) rnd r).2 = 0 →
        fSqrt f (v (fMul f (v x) (v x) rnd r).1) rnd1 r1 = (x % 2 ^ (tyWidth t - 1), 0)))) ∧
  (∀ p ∈ [(Ty.bf16, Ty.f32), (.f16, .f32), (.f32, .f64), (.e4m3, .f16), (.e5m2, .f16), (.i8, .bf16), (.u8, .bf16), (.i16, .f32),
      (.u16, .f32), (.i32, .f64), (.u32, .f64)],
    ∀ x : Nat, x < 2 ^ tyWidth p.1 → (intTy p.1 = true ∨ isNaN (decodeVal (fmtOrF32 p.1) x) = false) →
    ∀ (rnd rnd1 : Rnd) (sat sat1 : Bool) (r r1 : Nat), r < 2 ^ 32 → r1 < 2 ^ 32 →
    let y := convertElem p.1 p.2 x rnd sat r
    y.2 = 0 ∧ convertElem p.2 p.1 y.1 rnd1 sat1 r1 = (x, 0))

/-- For every shared function (the integer, compare, floating-point, conversion and lane functions of sharedRows), a data
firing whose lane count suits TYPE and whose flags the launch does not trap completes: the function of the operands leaves
for DSTA and DSTB under TAGOP, the flags it raised are merged, and nothing else changes.
(spec/04_tag_frame_steering_instructions.md, spec/06_arithmetic_instructions.md.) -/
def Obligations.SharedFunctionNodesComplete : Prop :=
  ∀ row ∈ sharedRows, completes (fun r => row.instr (.node r)) plain fun s c s1 es fl =>
    let o := row.fn (nodeArgs row.code c)
    s1 = s ∧ fl = allFlags o.raised ∧ outBoth c o.lanes false false [] = .ok es ∧
    oddLanes row.code c.r.type c.r.modx.toNat (laneCount c) = false ∧ arithTrap c.l c.r.type o.raised = none

/-- For every shared function, a block instruction whose width suits TYPE and whose flags the launch does not trap writes
the function's result into wD, adds the flags it raised to the block's, leaves the rest of the context as it is, and the
next instruction of the block is due. (spec/05_tile.md, spec/06_arithmetic_instructions.md.) -/
def Obligations.SharedFunctionsCompleteInBlocks : Prop :=
  ∀ row ∈ sharedRows, runsTo (fun b => row.instr (.block b)) fun s c s1 k =>
    let o := row.fn (blockArgs row.code c)
    s1 = s ∧ k = { setReg c.k c.b.d o.lanes with flags := c.k.flags ||| allFlags o.raised } ∧
    oddLanes row.code c.b.type (low 5 c.b.imm.toNat) c.n = false ∧ arithTrap c.l c.b.type o.raised = none

/-- For a firing in a frame of no task whose tokens stay in its frame, completion ORs its flags into the frame's, raises
TOKENS by the tokens sent and lowers it by the operands consumed, appends exactly the emitted tokens that name a node to
what is in flight, in emission order and with their parity, queues their arrivals, and leaves every register, memory and
table outside the launch unchanged. (spec/01_token_and_frame.md, spec/02_number_formats.md.) -/
def Obligations.CompletionMergesSendsAndConsumes : Prop :=
  ∀ s c es fl l fr, findLaunch s c.f.slot = some l → findFrame s c.f.a.fh = some fr → taskOf s c.f.a.fh = none →
    (∀ e ∈ es, e.fh = c.f.a.fh) →
    let sent := es.filter fun e => portDest c e.port != 0x7FFFF
    let t := completed s c es fl
    findFrame t c.f.a.fh =
      some { fr with flags := fr.flags ||| fl, tokens := fr.tokens + sent.length - operandCount c.f } ∧
    (∃ l', findLaunch t c.f.slot = some l' ∧
      l'.flights.map (·.2) = l.flights.map (·.2) ++ sent.map fun e =>
        makeToken (portDest c e.port) e.fh (BitVec.ofNat 64 e.tag) e.fill e.dl e.lp false e.lanes (fNode c.f) e.hb) ∧
    t.agenda.length = s.agenda.length + sent.length ∧ outside t = outside s

/-- PUSHT with a field value below 2^w and room for w more bits emits a's payload with tag (t << w) | v and fill f + w; POPT
with f at least the innermost width emits t >> wd[0] and f - wd[0]; ITER with the field present and below its mask adds 1 to
it and zeroes the fields inside it; each emits to DSTA and DSTB and changes nothing else. Outside these bounds they trap
TAG_OVERFLOW with details 0, 1 and 2; last posts and dead letters get the same tags. What a last post carries after a dead
letter, and PUSHT's value 0 where an operand is one, are the model's choice (log entry 25). (spec/01_token_and_frame.md,
spec/04_tag_frame_steering_instructions.md.) -/
def Obligations.TagInstructionsComplete : Prop :=
  let value (c : Ctx) : Nat := match c.r.arity with
    | .mono => 0
    | .lit => c.r.lit.toNat
    | .dyad => match c.f.b with
      | some b => if anyDl c.f then 0 else (laneAt b.lanes 0).toNat
      | none => 0
  let push (lanes : Ctx → List Lane) (lp : Bool) (c : Ctx) (es : List Emission) : Prop :=
    let w := c.r.modx.toNat + 1
    value c < 2 ^ w ∧ c.f.a.fill + w ≤ 64 ∧
      es = outTag c (lanes c) (ctxTag c <<< w ||| value c, c.f.a.fill + w) (anyDl c.f) lp []
  let pop (lanes : Ctx → List Lane) (lp : Bool) (c : Ctx) (es : List Emission) : Prop :=
    let w := c.shape.getD 0 0
    w ≤ c.f.a.fill ∧ es = outTag c (lanes c) (ctxTag c >>> w, c.f.a.fill - w) (anyDl c.f) lp []
  let bump (lanes : Ctx → List Lane) (lp : Bool) (c : Ctx) (es : List Emission) : Prop :=
    let o := tagOff c.shape c.r.modx.toNat
    let w := c.shape.getD c.r.modx.toNat 0
    o + w ≤ c.f.a.fill ∧ field (ctxTag c) o w ≠ ones w ∧
      es = outTag c (lanes c)
        (ctxTag c >>> (o + w) <<< (o + w) + (field (ctxTag c) o w + 1) <<< o, c.f.a.fill) (anyDl c.f) lp []
  (∀ p ∈ [(Instr.pusht, push), (.popt, pop), (.iter, bump)],
    emits p.1 (p.2 (fun c => c.f.a.lanes) false) ∧ passesLp p.1 plain (p.2 lpLanes true) ∧
      passesDl p.1 plain (p.2 passLanes false)) ∧
  (traps .pusht plain fun _ c t => ones (c.r.modx.toNat + 1) < value c ∧ t = ⟨0x01, 0, 0⟩) ∧
  (traps .pusht plain fun _ c t =>
    value c ≤ ones (c.r.modx.toNat + 1) ∧ 64 < c.f.a.fill + (c.r.modx.toNat + 1) ∧ t = ⟨0x01, 1, 0⟩) ∧
  (traps .popt plain fun _ c t => c.f.a.fill < c.shape.getD 0 0 ∧ t = ⟨0x01, 2, 0⟩) ∧
  (traps .iter plain fun _ c t =>
    c.f.a.fill < tagOff c.shape c.r.modx.toNat + c.shape.getD c.r.modx.toNat 0 ∧ t = ⟨0x01, 2, 0⟩) ∧
  (traps .iter plain fun _ c t =>
    let o := tagOff c.shape c.r.modx.toNat
    let w := c.shape.getD c.r.modx.toNat 0
    o + w ≤ c.f.a.fill ∧ field (ctxTag c) o w = ones w ∧ t = ⟨0x01, 0, 0⟩)

/-- SETT.fldN with the field present and a value within its mask emits a's payload under the tag with field N set and the
fields inside it zero, the same fill; above the mask it traps TAG_OVERFLOW detail 0. A last post and a dead letter get the
same tag, with the value 0 where b is, or comes with, a dead letter; what they carry is the model's choice (log entry 25).
GETT.u32 emits the value of field N in every lane of a's colour under TAGOP; GETT.u64 emits the TAG in every lane pair, and
traps COLOUR_MISMATCH detail 1 for an odd lane count. (spec/04_tag_frame_steering_instructions.md.) -/
def Obligations.TagFieldsSetAndRead : Prop :=
  let sets (lanes : Ctx → List Lane) (lp : Bool) (c : Ctx) (es : List Emission) : Prop :=
    let d := c.r.modx.toNat
    let o := tagOff c.shape d
    let w := c.shape.getD d 0
    d < c.shape.length ∧ o + w ≤ c.f.a.fill ∧ fieldValue c ≤ ones w ∧
      es = outTag c (lanes c) (ctxTag c >>> (o + w) <<< (o + w) + fieldValue c <<< o, c.f.a.fill) (anyDl c.f) lp []
  (emits .sett (sets (fun c => c.f.a.lanes) false)) ∧ (passesLp .sett plain (sets lpLanes true)) ∧
  (passesDl .sett plain (sets passLanes false)) ∧
  (traps .sett plain fun _ c t =>
    let d := c.r.modx.toNat
    let o := tagOff c.shape d
    let w := c.shape.getD d 0
    d < c.shape.length ∧ o + w ≤ c.f.a.fill ∧ ones w < fieldValue c ∧ t = ⟨0x01, 0, 0⟩) ∧
  (emits .gett fun c es =>
    let d := c.r.modx.toNat
    let o := tagOff c.shape d
    let w := c.shape.getD d 0
    c.r.type = .u32 ∧ d < c.shape.length ∧ o + w ≤ c.f.a.fill ∧
      outBoth c (List.replicate (laneCount c) (BitVec.ofNat 32 (field (ctxTag c) o w))) false false [] = .ok es) ∧
  (emits .gett fun c es => c.r.type = .u64 ∧ laneCount c % 2 = 0 ∧
    outBoth c (packElems .u64 (List.replicate (laneCount c / 2) (ctxTag c))) false false [] = .ok es) ∧
  (traps .gett plain fun _ c t => c.r.type = .u64 ∧ laneCount c % 2 = 1 ∧ t = ⟨0x04, 1, 0⟩)

/-- FRAME and SPAWN enter an ordinary frame with the creator's FID extended by the ordinal, the creator's postmark and one
more child for the creator, and emit a's payload to DSTA in the new frame with tag 0 and fill 0 and to DSTB under TAGOP;
while no handle or spill area is free they are held. SPAWNT makes a task frame with a spawn record in the lowest free
context of DSTA's tile, or, for a task in TASK_FRONT, in one that aborting the tile's youngest uncommitted task frees;
created outside every task its key is registered; it is held while it has no context, pool or record area (the last: log
entry 6). A full FID, an ordinal too large, a postmark past 64 bits and one below the creator's trap, in that order, then
the misuse of DSTB's tag rule, then a root's task that does not exceed the horizon. A last post or dead letter creates
nothing and goes to DSTB only. FREE of the root frame changes no frame; of an ordinary frame it moves the frame to DRAINING
and discards its waiting tokens; of a task frame it marks the task's end; in the two latter cases the parent's SYNC carries
what happened before. A last post or dead letter frees nothing. A SYNC that its desk fires emits its operand to both
destinations under TAGOP, a last post and a dead letter alike, carrying what the children's ends carry; a 64-bit TYPE on odd
lanes traps. (spec/04_tag_frame_steering_instructions.md, spec/14_postmarked_tasks.md.) -/
def Obligations.FramesAreCreatedFreedAndJoined : Prop :=
  (let width (c : Ctx) : Nat := c.r.modx.toNat + 1
  let ordinal (c : Ctx) : Nat := if c.r.arity = .mono then innermost c else fieldValue c
  let rest (c : Ctx) : Except Trap (List Emission) := outPorts c [1] c.f.a.lanes c.r.tagop false false []
  let child (c : Ctx) (fh : Nat) : Emission := { emission c 0 c.f.a.lanes (0, 0) false false [] with fh := fh }
  let adopted (s : State) (c : Ctx) : State := modFrame s c.f.a.fh fun g => { g with children := g.children + 1 }
  let entered (s : State) (c : Ctx) (w ord : Nat) : State :=
    adopted (addFrame s (makeFrame s c.l (freeHandle s) c.f.a.fh .ordinary (childFid c.fr w ord) (c.fr.ffill + w) c.fr.postmark)) c
  let fits (c : Ctx) (ord : Nat) : Prop := c.fr.ffill + width c ≤ 64 ∧ ord ≤ ones (width c)
  let taskFits (c : Ctx) : Prop :=
    fits c (innermost c) ∧ postmarkOf c true < 2 ^ 64 ∧ c.fr.postmark.toNat ≤ postmarkOf c true
  let late (s : State) (c : Ctx) : Prop :=
    taskOf s c.f.a.fh = none ∧ ∃ h, c.l.horizon = some h ∧ keyLt h (spawnKey c) = false
  let recorded (s : State) (c : Ctx) : State :=
    { s with nextId := s.nextId + 1, spawns := s.spawns ++ [spawnRecord s c (spawnKey c)] }
  let room (s : State) (c : Ctx) : Prop := reservedPlaces s 256 ≠ [] ∧ poolFree (recorded s c) c.f.slot = true
  let home (c : Ctx) : Nat := destDesk c.r.dsta / 16
  (completes .frame plain fun s c s1 es fl => poolFree s c.f.slot = true ∧ s1 = entered s c 0 0 ∧ fl = 0 ∧
    ∃ x, rest c = .ok x ∧ es = child c (freeHandle s) :: x) ∧
  (holds .frame plain fun s c => poolFree s c.f.slot = false ∧ ∃ x, rest c = .ok x) ∧
  (traps .frame plain fun _ c t => rest c = .error t) ∧
  (completes .spawn plain fun s c s1 es fl => fits c (ordinal c) ∧ poolFree s c.f.slot = true ∧
    s1 = entered s c (width c) (ordinal c) ∧ fl = 0 ∧ ∃ x, rest c = .ok x ∧ es = child c (freeHandle s) :: x) ∧
  (holds .spawn plain fun s c => fits c (ordinal c) ∧ poolFree s c.f.slot = false ∧ ∃ x, rest c = .ok x) ∧
  (traps .spawn plain fun _ c t => fits c (ordinal c) ∧ rest c = .error t) ∧
  (∀ i ∈ [Instr.spawn, .spawnt], traps i plain fun _ c t => 64 < c.fr.ffill + width c ∧ t = ⟨0x11, 0, 0⟩) ∧
  (traps .spawn plain fun _ c t => c.fr.ffill + width c ≤ 64 ∧ ones (width c) < ordinal c ∧ t = ⟨0x11, 1, 0⟩) ∧
  (traps .spawnt plain fun _ c t => c.fr.ffill + width c ≤ 64 ∧ ones (width c) < innermost c ∧ t = ⟨0x11, 1, 0⟩) ∧
  (traps .spawnt plain fun _ c t => fits c (innermost c) ∧ 2 ^ 64 ≤ postmarkOf c true ∧ t = ⟨0x0A, 1, 0⟩) ∧
  (traps .spawnt plain fun _ c t =>
    fits c (innermost c) ∧ postmarkOf c true < c.fr.postmark.toNat ∧ t = ⟨0x0A, 0, 0⟩) ∧
  (traps .spawnt plain fun _ c t => taskFits c ∧ rest c = .error t) ∧
  (traps .spawnt plain fun s c t => taskFits c ∧ (∃ x, rest c = .ok x) ∧ late s c ∧ t = ⟨0x0B, 5, 0⟩) ∧
  (holds .spawnt plain fun s c => taskFits c ∧ (∃ x, rest c = .ok x) ∧ ¬late s c ∧
    (¬room s c ∨ contextFor (recorded s c) c (home c) = none)) ∧
  (completes .spawnt plain fun s c s1 es fl => taskFits c ∧ ¬late s c ∧ room s c ∧ fl = 0 ∧
    ∃ s0 i x, contextFor (recorded s c) c (home c) = some (s0, i) ∧ rest c = .ok x ∧ es = child c (freeHandle s0) :: x ∧
      let k := spawnKey c
      let s2 := adopted (startTask s0 c.l (home c) i c.f.a.fh k.fid k.ffill k.postmark s.nextId (spawnRecord s c k).addr).1 c
      s1 = if taskOf s c.f.a.fh = none then modLaunch s2 c.f.slot fun l => { l with regs := l.regs ++ [(home c, k)] }
        else s2) ∧
  (∀ s c v,
    (∀ i, freeTaskCtx c.l.man (tileOf c.l v) = some i → contextFor s c v = some (s, i)) ∧
    (freeTaskCtx c.l.man (tileOf c.l v) = none →
      (∀ t tf y l1 i, taskOf s c.f.a.fh = some t → findFrame s t = some tf → standing tf = .taskFront →
        youngestTask s c.f.slot v t = some y → findLaunch (abortTask s c.f.slot y.fh) c.f.slot = some l1 →
        freeTaskCtx l1.man (tileOf l1 v) = some i → contextFor s c v = some (abortTask s c.f.slot y.fh, i)) ∧
      (taskOf s c.f.a.fh = none → contextFor s c v = none))) ∧
  (∀ i ∈ [Instr.frame, .spawn, .spawnt],
    (passesLp i plain fun c es => outPorts c [1] (lpLanes c) c.r.tagop (anyDl c.f) true [] = .ok es) ∧
    (passesDl i plain fun c es => outPorts c [1] (passLanes c) c.r.tagop true false [] = .ok es))) ∧
  (let told (s : State) (c : Ctx) : State := modFrame s c.fr.parent fun g => { g with hb := unionNat g.hb (firingHb c.f) }
  let even (c : Ctx) : Prop := ¬(wide c.r.type = true ∧ laneCount c % 2 = 1)
  (completes .free plain fun s c s1 es fl => c.fr.kind = .root ∧ s1 = s ∧ es = [] ∧ fl = 0) ∧
  (completes .free plain fun s c s1 es fl =>
    c.fr.kind = .ordinary ∧ s1 = drainFrame (told s c) c.f.slot c.f.a.fh ∧ es = [] ∧ fl = 0) ∧
  (completes .free plain fun s c s1 es fl =>
    c.fr.kind = .task ∧ s1 = modFrame (told s c) c.f.a.fh (fun g => { g with freed := true }) ∧ es = [] ∧ fl = 0) ∧
  (passesLp .free plain fun c es => outBoth c (lpLanes c) (anyDl c.f) true [] = .ok es) ∧
  (passesDl .free plain fun c es => outBoth c (passLanes c) true false [] = .ok es) ∧
  (emits .sync fun c es => even c ∧ outBoth c c.f.a.lanes false false c.fr.hb = .ok es) ∧
  (traps .sync plain fun _ c t => ¬even c ∧ t = ⟨0x04, 1, 0⟩) ∧
  (passesLp .sync plain fun c es => outBoth c (lpLanes c) (anyDl c.f) true c.fr.hb = .ok es) ∧
  (passesDl .sync plain fun c es => outBoth c (passLanes c) true false c.fr.hb = .ok es))

/-- CTXW emits a cut or padded with zeros to the grant of the request, at least 1 and at most the cap of the smallest
declared fold; PACK emits the lanes of a followed by those of b, or traps COLOUR_MISMATCH detail 2 past 32 lanes; UNPACK
emits the lower half to DSTA and the upper half to DSTB, or traps with detail 2 for an odd count; RECOL emits a cut or
padded with zeros to LIT lanes. A 64-bit TYPE on an odd lane count traps COLOUR_MISMATCH detail 1 first; that UNPACK tests
it before the halves' count is the model's choice (log entry 25). (spec/01_token_and_frame.md,
spec/04_tag_frame_steering_instructions.md.) -/
def Obligations.WidthInstructionsComplete : Prop :=
  let even (c : Ctx) : Prop := ¬(wide c.r.type = true ∧ laneCount c % 2 = 1)
  (emits .ctxw fun c es => even c ∧
    let q := if c.r.arity = .lit then c.r.lit.toNat else max 1 (min 32 (laneAt (bLanes c) 0).toNat)
    let g := min q (if c.l.man.fold4 then 8 else if c.l.man.fold2 then 16 else 32)
    outBoth c (fitLanes (if wide c.r.type = true ∧ g % 2 = 1 then g + 1 else g) c.f.a.lanes) false false [] = .ok es) ∧
  (emits .pack fun c es => even c ∧ 2 * laneCount c ≤ 32 ∧ outBoth c (c.f.a.lanes ++ bLanes c) false false [] = .ok es) ∧
  (traps .pack plain fun _ c t => even c ∧ 32 < 2 * laneCount c ∧ t = ⟨0x04, 2, 0⟩) ∧
  (emits .unpack fun c es => even c ∧ laneCount c % 2 = 0 ∧ ¬(wide c.r.type = true ∧ laneCount c / 2 % 2 = 1) ∧
    ∃ x y, outPorts c [0] (c.f.a.lanes.take (laneCount c / 2)) c.r.tagop false false [] = .ok x ∧
      outPorts c [1] (c.f.a.lanes.drop (laneCount c / 2)) c.r.tagop false false [] = .ok y ∧ es = x ++ y) ∧
  (traps .unpack plain fun _ c t => even c ∧
    (laneCount c % 2 = 1 ∨ wide c.r.type = true ∧ laneCount c / 2 % 2 = 1) ∧ t = ⟨0x04, 2, 0⟩) ∧
  (emits .recol fun c es => even c ∧ outBoth c (fitLanes c.r.lit.toNat c.f.a.lanes) false false [] = .ok es) ∧
  (∀ i ∈ [Instr.ctxw, .pack, .unpack, .recol], traps i plain fun _ c t => ¬even c ∧ t = ⟨0x04, 1, 0⟩)

/-- STEER sends a to DSTA under TAGOP where bit 0 of b's lane 0 is set and to DSTB under the rule of MODX[2:0] otherwise, as
it does every dead letter; a last post goes to both, or, with MODX[3] set, to DSTB alone, in each case under that
destination's rule. MERGE emits its operand, with PORTBIT pushing the port. GATE passes a under TAGOP. GATEREL sends its
GATE's credit of the activation k further, where the field holds it and the shape is not empty, and the operand to DSTB.
COPY sends n copies tagged 0 to n - 1 to DSTA, one in a step, then a to DSTB, and traps TAG_OVERFLOW detail 1 where its
field does not fit; of a dead letter it makes the same copies, all dead letters, and counts no rate.
(spec/04_tag_frame_steering_instructions.md.) -/
def Obligations.SteeringInstructionsComplete : Prop :=
  let even (c : Ctx) : Prop := ¬(wide c.r.type = true ∧ laneCount c % 2 = 1)
  (emits .steer fun c es => even c ∧ (laneAt (bLanes c) 0).toNat % 2 = 1 ∧
    outPorts c [0] (passLanes c) c.r.tagop false false [] = .ok es) ∧
  (emits .steer fun c es => even c ∧ (laneAt (bLanes c) 0).toNat % 2 = 0 ∧
    outPorts c [1] (passLanes c) (steerRule c.r) false false [] = .ok es) ∧
  (passesDl .steer plain fun c es => outPorts c [1] (passLanes c) (steerRule c.r) true false [] = .ok es) ∧
  (passesLp .steer plain fun c es => bit c.r.modx.toNat 3 = true ∧
    outPorts c [1] (lpLanes c) (steerRule c.r) (anyDl c.f) true [] = .ok es) ∧
  (passesLp .steer plain fun c es => bit c.r.modx.toNat 3 = false ∧
    ∃ x y, outPorts c [0] (lpLanes c) c.r.tagop (anyDl c.f) true [] = .ok x ∧
      outPorts c [1] (lpLanes c) (steerRule c.r) (anyDl c.f) true [] = .ok y ∧ es = x ++ y) ∧
  (emits .merge fun c es => even c ∧ bit c.r.modx.toNat 0 = false ∧ ¬(c.r.dsta = 0x7FFFF ∧ c.r.dstb = 0x7FFFF) ∧
    ∃ tf, tagRule c.shape (ctxTag c) c.f.a.fill c.r.tagop = .ok tf ∧ es = outTag c (passLanes c) tf false false []) ∧
  (emits .merge fun c es => even c ∧ bit c.r.modx.toNat 0 = true ∧ ¬(c.r.dsta = 0x7FFFF ∧ c.r.dstb = 0x7FFFF) ∧
    ∃ tf, tagRule c.shape (ctxTag c) c.f.a.fill c.r.tagop = .ok tf ∧ tf.2 < 64 ∧
      es = outTag c (passLanes c) (tf.1 * 2 + c.f.port, tf.2 + 1) false false []) ∧
  (emits .merge fun c es => even c ∧ c.r.dsta = 0x7FFFF ∧ c.r.dstb = 0x7FFFF ∧ es = []) ∧
  (completes .gate { plain with trigger := true } fun s c s1 es fl => s1 = s ∧ fl = 0 ∧ even c ∧
    outBoth c c.f.a.lanes false false [] = .ok es) ∧
  (emits .gaterel fun c es => even c ∧ ∃ rest, outPorts c [1] (passLanes c) c.r.tagop false false [] = .ok rest ∧
    let w := c.shape.getD 0 0
    let v := innermost c + gateBound c
    es = (if c.shape = [] ∨ ones w < v then []
      else [emission c 0 [0] (ctxTag c >>> w <<< w + v, c.f.a.fill) false false []]) ++ rest) ∧
  (passesLp .gaterel plain fun c es => outPorts c [1] (lpLanes c) c.r.tagop (anyDl c.f) true [] = .ok es) ∧
  (answersNext .copy plain fun s c t =>
    let w := c.r.modx.toNat + 1
    let n := c.r.lit.toNat
    let copy (j : Nat) : Emission := emission c 0 (passLanes c) (ctxTag c <<< w ||| j, c.f.a.fill + w) false false []
    even c ∧ c.f.a.fill + w ≤ 64 ∧ ∃ rest, outPorts c [1] (passLanes c) c.r.tagop false false [] = .ok rest ∧
    let all := (List.range n).map copy ++ rest
    (c.f.made = 0 → rateTrap c all 0 = none) ∧
    (c.f.made + 1 < n → t = modLaunch (sendEmissions s c [copy c.f.made]) c.f.slot fun l => modDesk l c.f.vdesk fun d =>
      { d with copying := some { c.f with made := c.f.made + 1 } }) ∧
    (n ≤ c.f.made + 1 → t = complete (rateAdvance s c all 0) c (all.drop c.f.made) 0)) ∧
  (traps .copy plain fun _ c t => even c ∧ 64 < c.f.a.fill + (c.r.modx.toNat + 1) ∧ createTagTrap c = none ∧ t = ⟨0x01, 1, 0⟩) ∧
  (passesLp .copy plain fun c es => outPorts c [1] (lpLanes c) c.r.tagop (anyDl c.f) true [] = .ok es) ∧
  (∀ s c rest, firesDl s c plain →
    let s0 := started s c plain
    let o := own s c plain
    let w := c.r.modx.toNat + 1
    let n := c.r.lit.toNat
    let copy (j : Nat) : Emission := emission o 0 (passLanes o) (ctxTag o <<< w ||| j, c.f.a.fill + w) true false []
    c.f.a.fill + w ≤ 64 → outPorts o [1] (passLanes o) c.r.tagop true false [] = .ok rest →
    (c.f.made + 1 < n → exec (.copy c.r) s = .next (modLaunch (sendEmissions s0 o [copy c.f.made]) c.f.slot fun l =>
      modDesk l c.f.vdesk fun d => { d with copying := some { c.f with made := c.f.made + 1 } })) ∧
    (n ≤ c.f.made + 1 → exec (.copy c.r) s = .next (complete s0 o (((List.range n).map copy ++ rest).drop c.f.made) 0)))

/-- SINK consumes data and emits nothing, and a last post of the root frame with fill 0 marks its node as posted. LPOST
emits its operand under its own tag unless DROP is set, then a last post under TAGOP. WAITLP sends data to DSTA and, on a
last post, an ordinary zero token to DSTB, with the last post to DSTA under FWD. SEQ starts its block in the lowest free of
the tile's eight contexts, with its operands, no held store, addition or token, and registers the spec leaves undefined, and
is held while none is free. A last post's lane is zero, or, as is the model's choice (log entry 25), the poison index where
a dead letter came with it. (spec/04_tag_frame_steering_instructions.md, spec/05_tile.md.) -/
def Obligations.StreamsEndAndBlocksStart : Prop :=
  let even (c : Ctx) : Prop := ¬(wide c.r.type = true ∧ laneCount c % 2 = 1)
  (emits .sink fun _ es => es = []) ∧
  (∀ s c, firesLp s c plain → c.fr.kind = .root → c.f.a.fill = 0 →
    exec (.sink c.r) s = .next (complete (modLaunch (started s c plain) c.f.slot fun l =>
      { l with posted := unionNat l.posted [fNode c.f] }) c [] 0)) ∧
  (passesLp .sink plain fun c es => ¬(c.fr.kind = .root ∧ c.f.a.fill = 0) ∧ es = []) ∧
  (emits .lpost fun c es => even c ∧ ∃ rest, outBoth c oneZero false true [] = .ok rest ∧
    es = (if bit c.r.modx.toNat 0 then [] else outTag c (passLanes c) (ctxTag c, c.f.a.fill) false false []) ++ rest) ∧
  (passesLp .lpost plain fun c es => outBoth c (lpLanes c) (anyDl c.f) true [] = .ok es) ∧
  (emits .waitlp fun c es => even c ∧ outPorts c [0] (passLanes c) c.r.tagop false false [] = .ok es) ∧
  (passesLp .waitlp plain fun c es => bit c.r.modx.toNat 0 = false ∧
    outPorts c [1] (lpLanes c) c.r.tagop (anyDl c.f) false [] = .ok es) ∧
  (passesLp .waitlp plain fun c es => bit c.r.modx.toNat 0 = true ∧
    ∃ x y, outPorts c [1] (lpLanes c) c.r.tagop (anyDl c.f) false [] = .ok x ∧
      outPorts c [0] (lpLanes c) c.r.tagop (anyDl c.f) true [] = .ok y ∧ es = x ++ y) ∧
  (answersNext .seq plain fun s c t => ∃ i < 8, (∀ k ∈ (tileOf c.l (fTile c.f)).ctxs, k.idx ≠ i) ∧
    (∀ j < i, ∃ k ∈ (tileOf c.l (fTile c.f)).ctxs, k.idx = j) ∧
    t = modLaunch { s with nextId := s.nextId + 1 } c.f.slot fun l => modTile l (fTile c.f) fun t =>
      { t with ctxs := t.ctxs ++ [
        { idx := i, firing := c.f, pc := 0, started := s.nextId, group := s.nextId,
          w := (List.range 8).map fun r => (List.range 32).map fun n => Config.blockReg s.tick r n,
          stores := [], adds := [], emits := [], flags := 0 }] }) ∧
  (holds .seq plain fun _ c => ∀ i < 8, ∃ k ∈ (tileOf c.l (fTile c.f)).ctxs, k.idx = i)

/-- GET writes an operand, the parameter or the lane numbers into wD; EMIT prepares a token, EMITC does so where bit 0 of
wB's lane 0 is set; LDTB at an aligned offset in SRAM, outside speculation and without a race or bad word, loads the lanes,
an earlier STTB of the block's held lanes first; STTB holds its lanes for the commit; XADD holds an exact addition; RDSYSB
writes a system value; LMASK writes 1 in the lanes of its range. Each leaves the next instruction of the block due. What
RDSYSB puts in the last lane of an odd width under a 64-bit value, that FLAGS is read as it runs, and the order of the
checks of LDTB and STTB are the model's choice (log entries 26 and 48). (spec/05_tile.md,
spec/06_arithmetic_instructions.md.) -/
def Obligations.BlockOnlyInstructionsComplete : Prop :=
  (runsTo .get fun s c s1 k => s1 = s ∧ ∃ w, nodeWord c.l (fNode c.k.firing) = some w ∧
    k = setIncluded c c.b.d fun i =>
      match c.b.imm.toNat % 4 with
      | 0 => laneAt c.pa i
      | 1 => laneAt c.pb i
      | 2 => BitVec.ofNat 32 (field w 8 24)
      | _ => BitVec.ofNat 32 i) ∧
  (runsTo .emit fun s c s1 k => s1 = s ∧
    k = { c.k with emits := c.k.emits ++ [(c.b.imm.toNat % 4, fitLanes c.n (wreg c.k c.b.a))] }) ∧
  (runsTo .emitc fun s c s1 k => s1 = s ∧ bit (laneAt (wreg c.k c.b.b) 0).toNat 0 = true ∧
    k = { c.k with emits := c.k.emits ++ [(c.b.imm.toNat % 4, fitLanes c.n (wreg c.k c.b.a))] }) ∧
  (runsTo .emitc fun s c s1 k => s1 = s ∧ bit (laneAt (wreg c.k c.b.b) 0).toNat 0 = false ∧ k = c.k) ∧
  (runsTo .ldtb fun s c s1 k => ∃ o, blockOffset s c c.b.a = .ok o ∧
    let t := tileOf c.l c.vtile
    let ks := (List.range c.n).filter fun k => wordIncluded c k
    (∀ j ∈ ks, heldLane c.k (o + 4 * j) = none → badRange t (o + 4 * j) 4 = false) ∧
    checkAccesses s c.slot (ks.flatMap fun j => sramBy s c.k.firing c.k.group c.k.pc .read (o + 4 * j) 4 j) = .ok s1 ∧
    k = setReg c.k c.b.d ((List.range c.n).map fun j =>
      if wordIncluded c j then (heldLane c.k (o + 4 * j)).getD (BitVec.ofNat 32 (readNat t.sram (o + 4 * j) 4))
      else laneAt (wreg c.k c.b.d) j)) ∧
  (runsTo .sttb fun s c s1 k => s1 = s ∧ ∃ o, blockOffset s c c.b.b = .ok o ∧
    k = { c.k with stores := c.k.stores ++ [⟨c.k.pc, o, wide c.b.type, (List.range c.n).map fun j =>
      if wordIncluded c j then some (laneAt (wreg c.k c.b.a) j) else none⟩] }) ∧
  (runsTo .xadd fun s c s1 k => s1 = s ∧ speculative s c.k.firing.a.fh = false ∧ ¬(wide c.b.type = true ∧ c.n % 2 = 1) ∧
    let x := xaccTerms c.b.type (fitLanes c.n (wreg c.k c.b.a)) (fitLanes c.n (wreg c.k c.b.b)) (bit c.b.imm.toNat 0)
      fun j => c.incl.getD j true
    arithTrap c.l c.b.type x.2 = none ∧
    k = { c.k with adds := c.k.adds ++ [(c.k.pc, c.b.d.toNat % 4, x.1)], flags := c.k.flags ||| allFlags x.2 }) ∧
  (runsTo .rdsysb fun s c s1 k => s1 = s ∧
    k = setIncluded c c.b.d
      (sysLane (sysValue s c.l c.fr c.vtile c.k.firing.a.tag.toNat c.n (c.b.imm.toNat % 256)))) ∧
  (runsTo .lmask fun s c s1 k => s1 = s ∧
    let first := c.b.imm.toNat % 32
    k = setReg c.k c.b.d ((List.range c.n).map fun j =>
      if first ≤ j ∧ j < first + field c.b.imm.toNat 8 6 then 1 else 0))

/-- For a block whose last instruction has completed, whose tokens pass the tag rule and the declared rates, whose stores
meet no bad word and whose accesses race with nothing, the commit frees the context, makes the held stores in instruction
order and then the exact additions in its tile, and completes the SEQ firing with the prepared tokens and the block's flags.
A failing tag rule traps the SEQ activation with the last instruction's index in bits 20:16 of the detail and commits
nothing; a store smaller than a bad word traps SRAM_UNCORRECTABLE detail 1 with its own index and lane. (spec/05_tile.md,
spec/06_arithmetic_instructions.md.) -/
def Obligations.BlocksCommitAsOneUnit : Prop :=
  ∀ s slot vtile ctx l k r c, findLaunch s slot = some l → findCtx l vtile ctx = some k → recOf l k.firing = some r →
    ctxOf s k.firing r = some c → (blockWords l k.firing).length ≤ k.pc →
    (∀ es sx, blockOut c k = .ok es → rateTrap c es 0 = none → commitBad (tileOf c.l vtile) k = none →
      checkAccesses s c.f.slot (commitAccesses s k) = .ok sx →
      exec (.blockCommit slot vtile ctx) s =
        .next (completed (modLaunch (dropCtx sx c.f.slot vtile k.idx) c.f.slot fun l =>
          modTile l vtile fun t => commitAdds (commitStores t k) k) c es k.flags)) ∧
    (∀ es u, blockOut c k = .ok es → rateTrap c es 0 = none → commitBad (tileOf c.l vtile) k = some u →
      exec (.blockCommit slot vtile ctx) s =
        .next (trapFiring (dropCtx s c.f.slot vtile k.idx) c.f ⟨0x06, 1 + u.1 <<< 16, u.2⟩)) ∧
    (∀ t, blockOut c k = .error t →
      exec (.blockCommit slot vtile ctx) s =
        .next (trapFiring (dropCtx s c.f.slot vtile k.idx) c.f { t with detail := t.detail + (k.pc - 1) <<< 16 }))

/-- A data firing of MMA, MMAZ, ACCRD, ACCZ or FSKIP outside speculation joins the end of its tile's tensor queue and
changes nothing else while the queue has a free entry, and is held otherwise; a last post goes to both destinations; a dead
letter of ACCRD makes the same number of tokens, all dead letters. The oldest firing leaves the queue. An MMA or MMAZ with
both panels in the FIFOs (and, for MMA, a defined bank), no enabled flag and no race pops the panels it does not keep,
writes the products' sums into the bank, marks it defined and emits a under TAGOP; ACCRD emits a defined bank's rows under
pushed tags and a to DSTB; ACCZ zeroes and defines its bank; FSKIP pops its panels. A missing panel of A, where no access
races, traps FIFO_UNDERRUN (code 0x0D) detail 0, an undefined bank PERMISSION detail 1. That a last post of ACCRD goes to
both destinations under TAGOP (log entry 26), and that one whose trigger is a dead letter carries its poison index (log
entry 25), are the model's choice. (spec/05_tile.md, spec/07_tensor_and_function_instructions.md.) -/
def Obligations.TensorFiringsAreQueuedAndRun : Prop :=
  ((∀ p ∈ [(Instr.mma, true), (.mmaz, true), (.accrd, false), (.accz, false), (.fskip, false)],
    (answersNext p.1 (unitPolicy p.2) fun s c t => (tileOf c.l (fTile c.f)).tq.length < 4 ∧
      t = modLaunch s c.f.slot fun l => modTile l (fTile c.f) fun t => { t with tq := t.tq ++ [c.f] }) ∧
    (holds p.1 (unitPolicy p.2) fun _ c => 4 ≤ (tileOf c.l (fTile c.f)).tq.length) ∧
    (passesLp p.1 (unitPolicy p.2) fun c es => outBoth c (lpLanes c) (anyDl c.f) true [] = .ok es)) ∧
  (passesDl .accrd (unitPolicy false) fun c es =>
    let n := if c.r.type = .bf16 ∨ c.r.type = .f16 then field c.r.lit.toNat 8 6 + 1 else 2 * (field c.r.lit.toNat 8 6 + 1)
    accrdOut c (List.replicate n (passLanes c)) true [] = .ok es)) ∧
  (∀ s slot vtile l f rest w opc r c, findLaunch s slot = some l → (tileOf l vtile).tq = f :: rest →
    nodeWord l (fNode f) = some w → parseNode w = some (opc, r) →
    let s0 := modLaunch s slot fun l => modTile l vtile fun t => { t with tq := rest }
    ctxOf s0 f r = some c →
    let t := tileOf c.l (fTile f)
    let m := r.modx.toNat
    let k := r.lit.toNat % 4
    let g := (newGroup s0).2
    let checked (xs : List Access) (sx : State) : Prop := checkAccesses (newGroup s0).1 f.slot xs = .ok sx
    let mine (kind : AccKind) (loc : Nat) : Access := unitBy (newGroup s0).1 f g kind loc
    let panels : List Access := [mine .write (locAcc k), mine (if bit m 0 then .read else .write) locFifoA,
      mine (if bit m 1 then .read else .write) locFifoB].map fun x => { x with hb := unionNat x.hb (chainGroups c.l f) }
    let ends (s1 : State) (es : List Emission) (fl : Flags) : Prop := rateTrap c es 0 = none →
      exec (.tensorQueueStart slot vtile) s = .next (completed s1 c es fl)
    (∀ sx es, opc = 0xC0 ∨ opc = 0xC1 →
      let n := panelBytes r.type (bit m 2)
      let rows := bankRows (bankOf t k)
      let res := mmaResult c (opc == 0xC0) rows (panelRows r.type (bit m 2) ((fifoBytes t.fifoA).take n))
        (panelRows (altTy r.type (bit m 3)) (bit m 2) ((fifoBytes t.fifoB).take n))
      n ≤ (fifoBytes t.fifoA).length → n ≤ (fifoBytes t.fifoB).length → (opc = 0xC0 → (bankOf t k).defined = true) →
      firstRaised c.l.rcd.arithen res = none →
      checked panels sx →
      outBoth c f.a.lanes false false [g] = .ok es →
      ends (modLaunch (popFifos sx c (!bit m 0) (!bit m 1) n g) f.slot fun l => modTile l (fTile f) fun t =>
          { t with banks := t.banks.set k { bytes := mmaBank c (opc == 0xC0) rows res, defined := true } })
        es (allFlags (res.flatMap fun row => row.map fun x => (0, x.2)))) ∧
    (∀ sx es, opc = 0xC2 → (bankOf t k).defined = true →
      let toks := accrdTokensOf c (bankOf t k)
      (∀ x ∈ toks.flatten, x.2.1 &&& c.l.rcd.arithen = 0) → checked [mine .read (locAcc k)] sx →
      accrdOut c (toks.map (accrdLanes r.type)) false [g] = .ok es →
      ends sx es (allFlags (toks.flatMap fun t => t.map fun x => (0, x.2.1)))) ∧
    (∀ sx es, opc = 0xC3 → checked [mine .write (locAcc k)] sx → outBoth c f.a.lanes false false [g] = .ok es →
      ends (modLaunch sx f.slot fun l => modTile l (fTile f) fun t =>
        { t with banks := t.banks.set k { bytes := [], defined := true } }) es 0) ∧
    (∀ sx es, opc = 0xC4 →
      let n := (r.lit.toNat % 16 + 1) * panelBytes r.type (bit m 2)
      (bit m 0 = true → n ≤ (fifoBytes t.fifoA).length) → (bit m 1 = true → n ≤ (fifoBytes t.fifoB).length) →
      checked ((if bit m 0 then [mine .write locFifoA] else []) ++ (if bit m 1 then [mine .write locFifoB] else [])) sx →
      outBoth c f.a.lanes false false [g] = .ok es → ends (popFifos sx c (bit m 0) (bit m 1) n g) es 0) ∧
    (∀ sx, opc = 0xC0 ∨ opc = 0xC1 → checked panels sx → (fifoBytes t.fifoA).length < panelBytes r.type (bit m 2) →
      exec (.tensorQueueStart slot vtile) s = .next (trapFiring s0 f ⟨0x0D, 0, 0⟩)) ∧
    (opc = 0xC2 → (bankOf t k).defined = false →
      exec (.tensorQueueStart slot vtile) s = .next (trapFiring s0 f ⟨0x08, 1, 0⟩)))

/-- CORNER takes the source offset from lane 0 of a and the destination offset from lane 1, with a panel of 64 by 64
elements of two bytes, or 32 by 32 of four or eight. With both offsets aligned to 64 and both panels in SRAM, outside
speculation, free of bad words and races, it reads the whole source, writes the transposed panel at the destination and
emits a under TAGOP, its reads and writes being accesses of the activation. For every n by n panel of elements of sz bytes,
the bytes of element (j, i) of the transposed panel are those of element (i, j) of the source, the panel keeps its size, and
transposing it again gives the source. One lane traps COLOUR_MISMATCH detail 2; with both panels in SRAM, an offset that is
no multiple of 64 traps ALIGNMENT; with both offsets aligned, a panel past the limit traps PERMISSION detail 0. (R195.) -/
def Obligations.CornerTurnsTransposePanels : Prop :=
  let sram : Policy := specOf 0
  let off (c : Ctx) (k : Nat) : Nat := (laneAt c.f.a.lanes k).toNat
  let size (c : Ctx) : Nat := if tyWidth c.r.type = 16 then 64 * 64 * 2 else 32 * 32 * (tyWidth c.r.type / 8)
  let inside (c : Ctx) (k : Nat) : Prop := off c k + size c ≤ sramLimit c.l.man
  (∀ (n sz : Nat) (bs : List Byte), 0 < sz → bs.length = n * n * sz →
    (transposed n sz bs).length = n * n * sz ∧
    (∀ i < n, ∀ j < n, ((transposed n sz bs).drop ((j * n + i) * sz)).take sz = (bs.drop ((i * n + j) * sz)).take sz) ∧
    transposed n sz (transposed n sz bs) = bs) ∧
  (completes .corner sram fun s c s1 es fl => fl = 0 ∧ ∃ sx,
    let t := tileOf c.l (fTile c.f)
    let src := (laneAt c.f.a.lanes 0).toNat
    let dst := (laneAt c.f.a.lanes 1).toNat
    let sz := tyWidth c.r.type / 8
    let n := if sz = 2 then 64 else 32
    let g := (newGroup s).2
    laneCount c ≠ 1 ∧ src % 64 = 0 ∧ dst % 64 = 0 ∧ src + n * n * sz ≤ sramLimit c.l.man ∧
    dst + n * n * sz ≤ sramLimit c.l.man ∧ badRange t src (n * n * sz) = false ∧
    checkAccesses (newGroup s).1 c.f.slot (sramBy (newGroup s).1 c.f g 0 .read src (n * n * sz) 0 ++
      sramBy (newGroup s).1 c.f g 0 .write dst (n * n * sz) 1) = .ok sx ∧
    s1 = modFTile sx c.f (fun t => writeSram t dst (transposed n sz (readRun t.sram src (n * n * sz)))) ∧
    outBoth c c.f.a.lanes false false [g] = .ok es) ∧
  (traps .corner sram fun _ c t => laneCount c = 1 ∧ t = ⟨0x04, 2, 0⟩) ∧
  (∀ k < 2, traps .corner sram fun _ c t => laneCount c ≠ 1 ∧ inside c 0 ∧ inside c 1 ∧
    (∀ j < k, off c j % 64 = 0) ∧ off c k % 64 ≠ 0 ∧ t = ⟨0x0E, 0, k⟩) ∧
  (∀ k < 2, traps .corner sram fun _ c t => laneCount c ≠ 1 ∧ off c 0 % 64 = 0 ∧ off c 1 % 64 = 0 ∧
    (∀ j < k, inside c j) ∧ ¬inside c k ∧ t = ⟨0x08, 0, k⟩)

/-- RANGE sends the reduced arguments to DSTA and the integers to DSTB; LUT of a defined table interpolates each element
with one rounding; LUT_LOAD copies 2,048 bytes of SRAM into the table and defines it. A misaligned offset of CORNER or
LUT_LOAD traps ALIGNMENT, an undefined table PERMISSION detail 1. (spec/07_tensor_and_function_instructions.md.) -/
def Obligations.FunctionUnitsComplete : Prop :=
  let even (c : Ctx) : Prop := ¬(wide c.r.type = true ∧ laneCount c % 2 = 1)
  let sram : Policy := specOf 0
  (traps .corner sram fun _ c t => laneCount c ≠ 1 ∧ (laneAt c.f.a.lanes 0).toNat % 64 ≠ 0 ∧ t = ⟨0x0E, 0, 0⟩) ∧
  (traps .corner sram fun _ c t => laneCount c ≠ 1 ∧ (laneAt c.f.a.lanes 0).toNat % 64 = 0 ∧
    (laneAt c.f.a.lanes 1).toNat % 64 ≠ 0 ∧ t = ⟨0x0E, 0, 1⟩) ∧
  (traps .lutLoad sram fun _ c t => (laneAt c.f.a.lanes 0).toNat % 64 ≠ 0 ∧ t = ⟨0x0E, 0, 0⟩) ∧
  (completes .range plain fun s c s1 es fl => s1 = s ∧ even c ∧
    let m := c.r.modx.toNat
    let outs := (elems c.r.type c.f.a.lanes).mapIdx fun e x =>
      rangeElem (fmtOrF32 c.r.type) (m % 8) (c.r.lit.toNat % 256) (bit m 3) (decodeVal (fmtOrF32 c.r.type) x) c.r.rnd
        (rsrBits (rsrSeed c.fr.fid c.f.a.tag (fNode c.f) 0) e)
    let nt : Ty := if c.r.type = .f64 then .i64 else .i32
    let raised : Raised := outs.mapIdx fun e o => (e, o.2.2)
    arithTrap c.l c.r.type raised = none ∧ fl = allFlags raised ∧
    ∃ x y, outPorts c [0] (packElems c.r.type (outs.map (·.1))) c.r.tagop false false [] = .ok x ∧
      outPorts c [1] (packElems nt (outs.map fun o => ofInt (tyWidth nt) o.2.1)) c.r.tagop false false [] = .ok y ∧
      es = x ++ y) ∧
  (completes .lut plain fun s c s1 es fl =>
    let k := lutIndex c
    let tb := (tileOf c.l (fTile c.f)).luts.getD k { bytes := [], defined := false }
    let f := fmtOrF32 .f32
    let coeff (i : Nat) : Val := decodeVal f (readNat tb.bytes (4 * i) 4)
    let outs := (elems .f32 c.f.a.lanes).mapIdx fun e x =>
      let i := lutEntry (decodeVal f x)
      fFma f (coeff (2 * i)) (decodeVal f x) (coeff (2 * i + 1)) c.r.rnd
        (rsrBits (rsrSeed c.fr.fid c.f.a.tag (fNode c.f) 0) e)
    let raised : Raised := outs.mapIdx fun e o => (e, o.2)
    tb.defined = true ∧ arithTrap c.l .f32 raised = none ∧ fl = allFlags raised ∧
    checkAccesses (newGroup s).1 c.f.slot [unitBy (newGroup s).1 c.f (newGroup s).2 .read (locLut 0 k)] = .ok s1 ∧
    outBoth c (packElems .f32 (outs.map (·.1))) false false [(newGroup s).2] = .ok es) ∧
  (traps .lut plain fun _ c t =>
    ((tileOf c.l (fTile c.f)).luts.getD (lutIndex c) { bytes := [], defined := false }).defined = false ∧ t = ⟨0x08, 1, 0⟩) ∧
  (completes .lutLoad sram fun s c s1 es fl => fl = 0 ∧ ∃ sx,
    let o := (laneAt c.f.a.lanes 0).toNat
    let k := lutIndex c
    let g := (newGroup s).2
    o % 64 = 0 ∧ o + 2048 ≤ sramLimit c.l.man ∧ badRange (tileOf c.l (fTile c.f)) o 2048 = false ∧
    checkAccesses (newGroup s).1 c.f.slot (sramBy (newGroup s).1 c.f g 0 .read o 2048 0 ++
      [unitBy (newGroup s).1 c.f g .write (locLut 0 k)]) = .ok sx ∧
    s1 = modFTile sx c.f (fun t =>
      { t with luts := t.luts.set k { bytes := memOfBytes 0 (readRun t.sram o 2048), defined := true } }) ∧
    outBoth c c.f.a.lanes false false [g] = .ok es)

/-- REDUCE adds the exact terms of its operands to its register and emits a; XREAD emits the register's value rounded for
every element, with its own bits of RSR, and leaves the register; XSEND sends the register's value to its target tile, where
the arrival adds it and then completes the sender's firing; XMERGE adds one register to another and leaves the source; XCLR
clears a register; DECODETAB puts its table into the decode slot of every courier of the launch. A target tile outside the
launch traps PERMISSION detail 2. That each element of XREAD draws its own RSR bits, and the free value in the lane that an
odd width leaves over, are the model's choice (log entry 44). (spec/02_number_formats.md,
spec/07_tensor_and_function_instructions.md.) -/
def Obligations.ExactSumInstructionsComplete : Prop :=
  let even (c : Ctx) : Prop := ¬(wide c.r.type = true ∧ laneCount c % 2 = 1)
  let k (c : Ctx) : Nat := c.r.lit.toNat % 4
  let target (c : Ctx) : Nat := if c.r.arity = .dyad then (laneAt (bLanes c) 0).toNat else field c.r.lit.toNat 4 9
  let mine (s : State) (c : Ctx) (kind : AccKind) (loc : Nat) : Access := unitBy (newGroup s).1 c.f (newGroup s).2 kind loc
  (completes .reduce (unitPolicy false) fun s c s1 es fl => even c ∧
    let x := xaccTerms c.r.type c.f.a.lanes (bLanes c) (c.r.arity == .dyad) fun _ => true
    arithTrap c.l c.r.type x.2 = none ∧ fl = allFlags x.2 ∧
    ∃ sx, checkAccesses (newGroup s).1 c.f.slot [mine s c (.cls 0) (locXacc (k c))] = .ok sx ∧
      s1 = modFTile sx c.f (fun t => setXacc t (k c) (addToXacc t (k c) x.1)) ∧
      outBoth c c.f.a.lanes false false [(newGroup s).2] = .ok es) ∧
  (completes .xread (unitPolicy true) fun s c s1 es fl =>
    let outs := (List.range (elemCount c.r.type (laneCount c))).map fun e =>
      xaccRead (xaccOf (tileOf c.l (fTile c.f)) (k c)) c.r.type c.r.rnd
        (rsrBits (rsrSeed c.fr.fid c.f.a.tag (fNode c.f) 0) e)
    let raised : Raised := outs.mapIdx fun e o => (e, o.2)
    arithTrap c.l c.r.type raised = none ∧ fl = allFlags raised ∧
    checkAccesses (newGroup s).1 c.f.slot [mine s c .read (locXacc (k c))] = .ok s1 ∧
    outBoth c (fitLanes (laneCount c) (packElems c.r.type (outs.map (·.1)) ++ [Config.oddLane s1.tick])) false false
      [(newGroup s).2] = .ok es) ∧
  (answersNext .xsend (unitPolicy false) fun s c t => target c < c.l.man.depots * 8 ∧
    ∃ sx, checkAccesses (newGroup s).1 c.f.slot [mine s c .read (locXacc (k c))] = .ok sx ∧
      t = push (modLaunch { sx with nextId := sx.nextId + 1 } c.f.slot fun l =>
        { l with cargo := l.cargo ++ [(sx.nextId, .xsend c.f (field c.r.lit.toNat 2 2) (target c)
          (xaccOf (tileOf c.l (fTile c.f)) (k c)) [(newGroup s).2] [])] })
        (messageChan c.f.slot (fTile c.f) c.f.slot (target c)) (.xsendArrival c.f.slot sx.nextId)) ∧
  (traps .xsend (unitPolicy false) fun _ c t => c.l.man.depots * 8 ≤ target c ∧ t = ⟨0x08, 2, 0⟩) ∧
  (∀ s slot id l f reg vt x g hb r c sx es, findLaunch s slot = some l → assoc l.cargo id = some (.xsend f reg vt x [g] hb) →
    recOf l f = some r →
    let s0 := setLaunch s { l with cargo := assocDel l.cargo id }
    ctxOf s0 f r = some c →
    checkAccesses s0 slot [{ unitBy s0 f g (.cls 0) (locXacc reg) with place := vt }] = .ok sx →
    outBoth c f.a.lanes false false [g] = .ok es → rateTrap c es 0 = none →
    exec (.xsendArrival slot id) s = .next (completed
      (modLaunch sx slot fun l => modTile l vt fun t => setXacc t reg (addToXacc t reg x)) c es 0)) ∧
  (completes .xmerge (unitPolicy false) fun s c s1 es fl => fl = 0 ∧
    let sr := field c.r.lit.toNat 2 2
    ∃ sx, checkAccesses (newGroup s).1 c.f.slot [mine s c .read (locXacc sr), mine s c (.cls 0) (locXacc (k c))] = .ok sx ∧
      s1 = modFTile sx c.f (fun t => setXacc t (k c) (addToXacc t (k c) (xaccOf t sr))) ∧
      outBoth c c.f.a.lanes false false [(newGroup s).2] = .ok es) ∧
  (completes .xclr (unitPolicy false) fun s c s1 es fl => fl = 0 ∧
    ∃ sx, checkAccesses (newGroup s).1 c.f.slot [mine s c .write (locXacc (k c))] = .ok sx ∧
      s1 = modFTile sx c.f (fun t => setXacc t (k c) { v := 0, nan := false, pinf := false, ninf := false }) ∧
      outBoth c c.f.a.lanes false false [(newGroup s).2] = .ok es) ∧
  (completes .decodetab (specOf 4) fun s c s1 es fl => fl = 0 ∧
    let slot := field c.r.lit.toNat 8 2
    ∃ sx, checkAccesses (newGroup s).1 c.f.slot (c.l.couriers.map fun q =>
        { mine s c .write (locSlot slot) with place := courierPlace q.node }) = .ok sx ∧
      s1 = modLaunch sx c.f.slot (fun l =>
        { l with couriers := l.couriers.map fun q => { q with slots := q.slots.set slot (some (c.r.lit.toNat % 256)) } }) ∧
      outBoth c c.f.a.lanes false false [(newGroup s).2] = .ok es)

/-- With aligned offsets within SRAM, an even lane count under a 64-bit TYPE (and lanes for both values of CASR), outside
speculation, without a wave number, a race or a bad word, each performs its units in ascending order on its tile's SRAM and
emits what its entry says, carrying its access; with a wave number it joins its chain. The first unit that is misaligned or
past the SRAM limit traps, ALIGNMENT where it is misaligned and PERMISSION detail 0 otherwise, at its lane.
(spec/08_tile_memory_and_letterboxes.md.) -/
def Obligations.TileFormsComplete : Prop :=
  let forms : List ((NodeRec → Instr) × Bool × (Ctx → ReqOp)) :=
    [(.ldt, false, fun _ => .read), (.stt, false, fun _ => .write), (.atomp, true, fun c => .atomP (low 3 c.r.modx.toNat)),
      (.atomr, true, fun c => .atomR (low 3 c.r.modx.toNat)), (.casr, true, fun _ => .cas)]
  ∀ p ∈ forms,
    let sram : Policy := specOf 0
    let addrs (c : Ctx) : List Nat := if p.2.2 c = .cas then (tileOffsets .cas c).take 1 else tileOffsets (p.2.2 c) c
    let req (s : State) (c : Ctx) : Req := newReq s c (p.2.2 c) .sram (addrs c) (unitSize c.r.type) (bLanes c) true false
    let fit (c : Ctx) : Prop := (p.2.1 = true → spaceBit c.r = false) ∧ ¬(wide c.r.type = true ∧ laneCount c % 2 = 1) ∧
      (p.2.2 c = .cas → casTrap c = none)
    let good (c : Ctx) (o : Nat) : Prop := o % unitSize c.r.type = 0 ∧ o + unitSize c.r.type ≤ sramLimit c.l.man
    let failing (c : Ctx) (u o : Nat) : Prop := (addrs c)[u]? = some o ∧ ¬good c o ∧ ∀ o1 ∈ (addrs c).take u, good c o1
    (completes p.1 sram fun s c s1 es fl => fl = 0 ∧ fit c ∧ tileTrap c (unitSize c.r.type) (addrs c) = none ∧
      waveNum c.r = 0x3FF ∧ tileBad (tileOf c.l (fTile c.f)) (req s c) = none ∧
      let r := tileUnits c.r.type (req s c) (tileOf c.l (fTile c.f)) 0 (addrs c)
      ∃ sx, checkAccesses (newGroup s).1 c.f.slot (tileAccesses (newGroup s).1 c (req s c) (newGroup s).2) = .ok sx ∧
        s1 = dropReq (modFTile sx c.f fun _ => r.1) c.f.slot (req s c).id ∧
        reqOut c (req s c) r.2 [(newGroup s).2] = .ok es) ∧
    (answersNext p.1 sram fun s c t => fit c ∧ tileTrap c (unitSize c.r.type) (addrs c) = none ∧ waveNum c.r ≠ 0x3FF ∧
      outputTrap c 0 = none ∧ t = acceptReq s c.f.slot (req s c)) ∧
    (traps p.1 sram fun _ c t => fit c ∧ ∃ u o, failing c u o ∧ o % unitSize c.r.type ≠ 0 ∧
      t = ⟨0x0E, 0, unitLane c.r.type u⟩) ∧
    (traps p.1 sram fun _ c t => fit c ∧ ∃ u o, failing c u o ∧ o % unitSize c.r.type = 0 ∧
      t = ⟨0x08, 0, unitLane c.r.type u⟩)

/-- A load's units change nothing of the tile and answer the little-endian values at their offsets; an exchange of disjoint
units answers the old values; a store leaves at each of its disjoint units the operand's value; and whatever the form, every
byte of SRAM outside its units and every other field of the tile but the error marks of words written whole are as before.
(spec/08_tile_memory_and_letterboxes.md.) -/
def Obligations.TileUnitsReadAndWrite : Prop :=
  ∀ (ty : Ty) (q : Req) (t : Tile),
    let r := tileUnits ty q t 0 q.addrs
    (q.op = .read → r = (t, q.addrs.map fun o => readNat t.sram o q.unit)) ∧
    (q.op = .write → q.addrs.Pairwise (fun a b => a + q.unit ≤ b ∨ b + q.unit ≤ a) →
      ∀ u, ∀ h : u < q.addrs.length, readNat r.1.sram q.addrs[u] q.unit = unitVal ty q.data u % 2 ^ (8 * q.unit)) ∧
    (q.addrs.Pairwise (fun a b => a + q.unit ≤ b ∨ b + q.unit ≤ a) →
      r.2 = q.addrs.map fun o => readNat t.sram o q.unit) ∧
    (∀ a, (∀ o ∈ q.addrs, a < o ∨ o + q.unit ≤ a) → readByte r.1.sram a = readByte t.sram a) ∧
    { r.1 with sram := t.sram, bad := t.bad } = t

/-- Whenever LDT or STT answers a next state, whether it completes, waits, traps or passes a last post or dead letter, every
byte of every tile's SRAM of its launch reads as before, except, for STT, the bytes of the units at its computed offsets in
its own tile; and every register, queue, memory and translation outside the launches is unchanged.
(spec/08_tile_memory_and_letterboxes.md.) -/
def Obligations.TileStoreFrame : Prop :=
  ∀ s c t, s.issue = .node c.f → ctxOf s c.f c.r = some c →
    (exec (.ldt c.r) s = .next t →
      outside t = outside s ∧ ∀ l', findLaunch t c.f.slot = some l' → ∀ v a,
        readByte (tileOf l' v).sram a = readByte (tileOf c.l v).sram a) ∧
    (exec (.stt c.r) s = .next t →
      outside t = outside s ∧ ∀ l', findLaunch t c.f.slot = some l' → ∀ v a,
        (v ≠ fTile c.f ∨ ∀ o ∈ tileOffsets .write c, a < o ∨ o + unitSize c.r.type ≤ a) →
        readByte (tileOf l' v).sram a = readByte (tileOf c.l v).sram a)

/-- With lanes enough for its addresses and an output that neither its tag rule nor a rate stops, LDM and GATHER hand a read
of their units' addresses to the buffer, STM and SCATTER a write, DONE a member without an access, ATOMP, ATOMR and CASR
with SPACE set their atomic; loads, DONE, ATOMR, CASR and stores with DONEF emit when performed, while stores and ATOMP
without DONEF outside speculation emit their token at once. (spec/08_tile_memory_and_letterboxes.md,
spec/11_device_memory_and_translation.md.) -/
def Obligations.DeviceFormsHandTheirRequests : Prop :=
  let space (c : Ctx) : Space := if hostBit c.r then .host else .device
  let pol (c : Ctx) : Policy := { plain with spec := hostSpec c.r }
  let base (c : Ctx) (n : Nat) : List Nat := (List.range n).map fun u => lanes64 c.f.a.lanes 0 + unitSize c.r.type * u
  let pairs (c : Ctx) : List Nat := (List.range (laneCount c / 2)).map fun u => lanes64 c.f.a.lanes (2 * u)
  let waits (i : NodeRec → Instr) (pol : Ctx → Policy) (ok : State → Ctx → Prop) (q : State → Ctx → Req) : Prop :=
    ∀ s c, fires s c (pol c) → ok (started s c (pol c)) (own s c (pol c)) → outputTrap (own s c (pol c)) 0 = none →
      exec (i c.r) s = .next (acceptReq (started s c (pol c)) c.f.slot (q (started s c (pol c)) (own s c (pol c))))
  let leaves (i : NodeRec → Instr) (pol : Ctx → Policy) (ok : State → Ctx → Prop) (q : State → Ctx → Req) : Prop :=
    ∀ s c es, fires s c (pol c) → ok (started s c (pol c)) (own s c (pol c)) →
      outBoth c [0] false false [] = .ok es → rateTrap c es 0 = none →
      exec (i c.r) s = .next (completed (acceptReq (started s c (pol c)) c.f.slot
        { q (started s c (pol c)) (own s c (pol c)) with emitted := true }) c es 0)
  let rd (a : Ctx → List Nat) (s : State) (c : Ctx) : Req := newReq s c .read (space c) (a c) (unitSize c.r.type) [] true false
  let wr (a : Ctx → List Nat) (s : State) (c : Ctx) : Req :=
    newReq s c .write (space c) (a c) (unitSize c.r.type) (bLanes c) true false
  let at1 (op : Ctx → ReqOp) (s : State) (c : Ctx) : Req :=
    newReq s c (op c) .device [lanes64 c.f.a.lanes 0] (unitSize c.r.type) (bLanes c) true false
  let evenB (c : Ctx) : Prop := ¬(wide c.r.type = true ∧ (bLanes c).length % 2 = 1)
  let stm (c : Ctx) : Prop := 2 ≤ laneCount c ∧ evenB c
  let scatter (c : Ctx) : Prop :=
    evenB c ∧ laneCount c % 2 = 0 ∧ unitsIn c.r.type (bLanes c).length = laneCount c / 2
  let early (b : Ctx → Bool) (s : State) (c : Ctx) : Prop := b c = false ∧ speculative s c.f.a.fh = false
  let stmAddrs (c : Ctx) : List Nat := base c (unitsIn c.r.type (bLanes c).length)
  let p := fun (_ : Ctx) => plain
  let atom (c : Ctx) : Prop := spaceBit c.r = true ∧ 2 ≤ laneCount c ∧ evenB c
  (waits .ldm pol (fun _ c => 2 ≤ laneCount c) (rd fun c => base c (unitsIn c.r.type (c.r.modx.toNat + 1)))) ∧
  (waits .gather pol (fun _ c => laneCount c % 2 = 0) (rd pairs)) ∧
  (leaves .stm pol (fun s c => stm c ∧ early doneBit s c) (wr stmAddrs)) ∧
  (waits .stm pol (fun s c => stm c ∧ ¬early doneBit s c) (wr stmAddrs)) ∧
  (leaves .scatter pol (fun s c => scatter c ∧ early doneBit s c) (wr pairs)) ∧
  (waits .scatter pol (fun s c => scatter c ∧ ¬early doneBit s c) (wr pairs)) ∧
  (waits .done p (fun _ _ => True) fun s c => newReq s c .done .device [] 4 [] true false) ∧
  (leaves .atomp p (fun s c => atom c ∧ early doneBit s c) (at1 fun c => .atomP (low 3 c.r.modx.toNat))) ∧
  (waits .atomp p (fun s c => atom c ∧ ¬early doneBit s c) (at1 fun c => .atomP (low 3 c.r.modx.toNat))) ∧
  (waits .atomr p (fun _ c => atom c) (at1 fun c => .atomR (low 3 c.r.modx.toNat))) ∧
  (waits .casr p (fun _ c => atom c ∧ casTrap c = none) (at1 fun _ => .cas)) ∧
  (∀ i ∈ [Instr.ldm, .stm], ∀ s c, fires s c (pol c) → laneCount c < 2 →
    exec (i c.r) s = .next (trapFiring (counted s c (pol c)) c.f ⟨0x04, 2, 0⟩))

/-- With two lanes in each operand and an aligned address of 52 bits, SEMSIG hands a set or an add and SEMWAIT a wait to the
buffer, for host memory where bit 63 is set and for device memory otherwise; fewer lanes trap COLOUR_MISMATCH detail 2, bits
62:52 PERMISSION detail 4, a misaligned address ALIGNMENT, and a speculative task's SPEC_ILLEGAL detail 3.
(spec/15_package_launch_and_scheduling.md.) -/
def Obligations.SemaphoreNodesHandTheirRequests : Prop :=
  let p : Policy := specOf 3
  let addr (c : Ctx) : Nat := lanes64 c.f.a.lanes 0
  let fit (c : Ctx) : Prop := 2 ≤ laneCount c ∧ 2 ≤ (bLanes c).length
  let req (op : Ctx → ReqOp) (s : State) (c : Ctx) : Req :=
    newReq s c (op c) (if bit (addr c) 63 then .host else .device) [addr c % 2 ^ 52] 8 (bLanes c) false false
  let forms : List ((NodeRec → Instr) × (Ctx → ReqOp)) :=
    [(.semsig, fun c => if bit c.r.modx.toNat 3 then .semAdd else .semSet), (.semwait, fun _ => .semWait)]
  ∀ i ∈ forms,
    (answersNext i.1 p fun s c t => fit c ∧ field (addr c) 52 11 = 0 ∧ addr c % 8 = 0 ∧ outputTrap c 0 = none ∧
      t = acceptReq s c.f.slot (req i.2 s c)) ∧
    (traps i.1 p fun _ c t => ¬fit c ∧ t = ⟨0x04, 2, 0⟩) ∧
    (traps i.1 p fun _ c t => fit c ∧ field (addr c) 52 11 ≠ 0 ∧ t = ⟨0x08, 4, 0⟩) ∧
    (traps i.1 p fun _ c t => fit c ∧ field (addr c) 52 11 = 0 ∧ addr c % 8 ≠ 0 ∧ t = ⟨0x0E, 0, 0⟩) ∧
    (∀ s c, issued s c p → isLp p c.f = false → anyDl c.f = false → speculative s c.f.a.fh = true →
      exec (i.1 c.r) s = .next (trapFiring (counted s c p) c.f ⟨0x0B, 3, 0⟩))

/-- WAVE_ISSUE sends a buffered request of device or host memory whose predecessor is performed to its home, and takes a
DONE as performed with its operand emitted. MEMORY_PERFORM of a checked, unraced request outside any task, whether its frame
still stands or its handle has returned, reads its units' values and emits them, or writes its units and then emits or,
where the token has left already, does not; a device page not cached parks the frame and starts a walk, a host page parks it
for its answer; a failed check traps; a page table entry or a semaphore in a lost line starts recovery; a semaphore below
its target waits, at its home in device memory, and SEMWAIT_HOST_POLL looks again. PERFORMED_NOTICE enters a chain member
among the performed. (spec/11_device_memory_and_translation.md, spec/15_package_launch_and_scheduling.md.) -/
def Obligations.RequestsIssueAndPerform : Prop :=
  ∀ s slot id l q r c, findLaunch s slot = some l → findReq l id = some q → recOf l q.firing = some r →
    reqCtx s q.firing r = some c → c.f.slot = slot →
    let check := checkUnits s l (portOf l q.firing) (q.space == .host) false (needOf q.op) q.unit (unitLane r.type) 0 q.addrs
    let atHome (s0 : State) (places : List Nat) : Prop :=
      (q.places = [] ∧ check = .ok places ∧ s0 = fillTile s l (portOf l q.firing) (q.space == .host) q.addrs) ∨
      (q.places ≠ [] ∧ places = q.places ∧ s0 = s)
    (∀ hb, q.state = .buffered → waveReady l q = some hb →
      (q.op ≠ .done → q.space ≠ .sram → (q.space = .device → q.op = .write ∨ (∃ o, q.op = .atomP o) →
          specTask s q.firing = none) →
        exec (.waveIssue slot id) s =
          .next (pushAlone (setReq s slot { q with state := .issued, hb := hb }) (.memoryPerform slot q.id))) ∧
      (∀ es, q.op = .done → reqGoes l q = true → q.emitted = false → outBoth c c.f.a.lanes false false hb = .ok es → rateTrap c es 0 = none →
        exec (.waveIssue slot id) s =
          .next (completed (markPerformed s slot { q with hb := hb } (unionNat (firingHb c.f) hb)) c es 0))) ∧
    (∀ s0 places sx, q.state = .issued → atHome s0 places → taskFrame s0 c.f = none → q.op ≠ .semWait →
      checkAccesses (newGroup s0).1 slot (reqAccesses (newGroup s0).1 l c.r.type q (newGroup s0).2 places) = .ok sx →
      (q.space = .device → readsOld q.op = true → lostLine s0 places q.unit = none) →
      let hb := unionNat q.hb [(newGroup s0).2]
      let read (a : Nat) : Nat := readSpace sx (q.space == .host) a q.unit
      let marked (t : State) : State := markPerformed t slot q (unionNat (firingHb c.f) hb)
      (∀ es, q.op = .read → q.emitted = false → outBoth c (unitLanes r.type (places.map read)) false false hb = .ok es →
        exec (.memoryPerform slot id) s = .next (completed (marked sx) c es 0)) ∧
      (∀ es, q.op = .write →
        let t := marked (clearWritten ((places.mapIdx fun u a => (u, a)).foldl (fun t p =>
          writeSpace t slot (q.space == .host) p.2 q.unit (unitVal r.type q.data p.1)) sx) q places)
        (q.emitted = true → exec (.memoryPerform slot id) s = .next t) ∧
        (q.emitted = false → outBoth c [0] false false hb = .ok es →
          exec (.memoryPerform slot id) s = .next (completed t c es 0)))) ∧
    (q.state = .issued → q.places = [] →
      (∀ u n, check = .miss u n → q.space ≠ .host →
        exec (.memoryPerform slot id) s = .next (pushAlone (parkReq s slot q .walking) (.walkComplete slot q.id))) ∧
      (∀ u n, check = .miss u n → q.space = .host →
        exec (.memoryPerform slot id) s = .next (parkReq s slot q .walking)) ∧
      (∀ t, check = .trap t → exec (.memoryPerform slot id) s = .next (trapReq s slot q t)) ∧
      (∀ n, check = .lost n → exec (.memoryPerform slot id) s = .next (askRecovery s slot n))) ∧
    (∀ s0 places n, q.op = .semWait → q.state = .issued ∨ q.state = .waiting → atHome s0 places → lostRead s0 q places = some n →
      exec (.memoryPerform slot id) s = .next (askRecovery s0 slot n)) ∧
    (∀ s0 places, q.op = .semWait → atHome s0 places → lostRead s0 q places = none →
      readSpace s0 (q.space == .host) (places.headD 0) 8 < lanes64 q.data 0 →
      let t := setReq s0 slot { q with state := .waiting, places := if q.space = .device then places else [] }
      (q.state = .issued ∨ q.state = .waiting → exec (.memoryPerform slot id) s = .next t) ∧
      (q.state = .waiting → q.space = .host → exec (.semwaitHostPoll slot id) s = .next t)) ∧
    (q.state = .performed → exec (.performedNotice slot id) s = .next (modLaunch s slot fun l =>
      { l with
        reqs := l.reqs.filter fun r => r.id != id
        performed := l.performed ++
          [{ fh := q.firing.a.fh, tag := q.firing.a.tag, fill := q.firing.a.fill, wave := q.wave, succ := q.succ, acc := q.hb }] }))

/-- In a firing of no task, MEMORY_PERFORM or SEMWAIT_HOST_POLL of a wait whose semaphore reads at or above the target,
unsigned, emits the node's token with what the observed signals release, which its own read is ordered after, and leaves
memory as it is; MEMORY_PERFORM of a SEMSIG writes the value, or the sum modulo 2^64, at the semaphore, and its token
carries no access of its own. (spec/12_memory_model.md, spec/15_package_launch_and_scheduling.md.) -/
def Obligations.SemaphoreWaitsEnd : Prop :=
  ∀ s slot id l q r c a s0 sx es, findLaunch s slot = some l → findReq l id = some q → recOf l q.firing = some r →
    reqCtx s q.firing r = some c → c.f.slot = slot → q.emitted = false → q.unit = 8 →
    (q.places = [] ∧ s0 = fillTile s l (portOf l q.firing) (q.space == .host) q.addrs ∧
      checkUnits s l (portOf l q.firing) (q.space == .host) false (needOf q.op) 8 (unitLane r.type) 0 q.addrs = .ok [a]) ∨
      (q.places = [a] ∧ s0 = s) →
    taskFrame s0 c.f = none →
    let checked (hb : List Nat) : Prop := checkAccesses (newGroup s0).1 slot
      (reqAccesses (newGroup s0).1 l c.r.type { q with hb := hb } (newGroup s0).2 [a]) = .ok sx
    let marked (t : State) (hb : List Nat) : State :=
      markPerformed t slot { q with hb := hb } (unionNat (firingHb c.f) (unionNat hb [(newGroup s0).2]))
    (q.op = .semWait → lanes64 q.data 0 ≤ readSpace s0 (q.space == .host) a 8 →
      let got := unionNat q.hb (acquired s0 (q.space == .host) a (some (portOf c.l c.f)))
      checked got → (q.space = .device → lostLine s0 [a] 8 = none) → outBoth c [0] false false got = .ok es →
      (q.state = .issued ∨ q.state = .waiting →
        exec (.memoryPerform slot id) s = .next (completed (marked sx got) c es 0)) ∧
      (q.state = .waiting → q.space = .host →
        exec (.semwaitHostPoll slot id) s = .next (completed (marked sx got) c es 0))) ∧
    (∀ set : Bool, q.op = (if set then .semSet else .semAdd) → q.state = .issued → checked q.hb →
      (set = false → q.space = .device → lostLine s0 [a] 8 = none) → outBoth c [0] false false q.hb = .ok es →
      let v := if set then lanes64 q.data 0
        else (readSpace sx (q.space == .host) a 8 + lanes64 q.data 0) % 2 ^ 64
      exec (.memoryPerform slot id) s = .next (completed (marked (addSignal (writeSpace sx slot (q.space == .host) a 8 v)
        { host := q.space == .host, addr := a, isSet := set, scope := recScope c.r, port := some (portOf c.l c.f),
          hb := unionNat (unionNat (firingHb c.f) q.hb) [(newGroup s0).2] }) q.hb) c es 0))

/-- WALK_COMPLETE caches the walked pages, releases the frame and makes the request again, and does nothing where no request
walks. A granted ATS answer caches its page for the requests, couriers and COPYs that wait for it and makes the waiting
requests again; one for an absent page records a page request and moves the waiting requests to it; a refusal fails them all
with TRANSLATION detail 6. A PRI success has the requests translated again, at once where an answer to another has cached
the page, and a failure of an outstanding page request fails requests, couriers and COPYs with detail 5. INVALIDATION writes
those page table entries of the range that come with it and that no placed launch maps, where none maps any of the range,
drops every covered cache entry at once and keeps every other; INVALIDATION_COMPLETE comes again while what it waits for is
not performed, and then ends it and its INVAL record. (spec/11_device_memory_and_translation.md.) -/
def Obligations.TranslationsArriveAndLeave : Prop :=
  (∀ s slot id l q, findLaunch s slot = some l → findReq l id = some q → q.state = .walking → q.space = .device →
    exec (.walkComplete slot id) s = .next (remake (walkPages s (portOf l q.firing) l.part q.addrs) slot q true)) ∧
  (∀ s slot id, (∀ l q, findLaunch s slot = some l → findReq l id = some q → ¬(q.state = .walking ∧ q.space = .device)) →
    exec (.walkComplete slot id) s = .next s) ∧
  (∀ s (space : HostSpace) vpn,
    let pg : HostPage := (space.part, space.pasid, vpn)
    let asked : State := { s with pages := s.pages.filter fun p => p != pg }
    let failed : State := forWaiters s asked .paging pg fun s l q u => failPage s l q u 5
    let fail (t : State) (d : Nat) : State := failCopies (failCouriers t (courierWaiters s pg) d) (copyWaiters s pg) d
    (∀ frame r w,
      let e : TlbEntry := ⟨true, space.part, space.pasid, vpn, frame, r, w⟩
      let s1 := forWaiters s s .walking pg fun s l q _ => cachePage s (portOf l q.firing) e
      exec (.atsAnswer space vpn (.granted frame r w)) s = .next ((pageUsers s pg).foldl (fun t p => cachePage t p e)
        (forWaiters s s1 .walking pg fun s l q _ => remake s l.slot q false))) ∧
    (exec (.atsAnswer space vpn .notPresent) s =
      .next (forWaiters s { s with pages := if pg ∈ s.pages then s.pages else s.pages ++ [pg] } .walking pg fun s l q _ =>
        modFrame (setReq s l.slot { q with state := .paging, page := some vpn }) q.firing.a.fh fun f =>
          if f.state = .parkedWait then { f with fcode := 0x1A } else f)) ∧
    (exec (.atsAnswer space vpn .refused) s =
      .next (fail (forWaiters s s .walking pg fun s l q u => failPage s l q u 6) 6)) ∧
    (exec (.priResponse space vpn true) s =
      .next (forWaiters s asked .paging pg fun s l q _ =>
        let q1 : Req := { q with state := .walking, page := none }
        if waitPage s l q1 = none then remake s l.slot q1 false else setReq s l.slot q1)) ∧
    (exec (.priResponse space vpn false) s = .next (if pg ∈ outstanding s space.part then fail failed 5 else failed))) ∧
  (∀ s id (remap : Remap), ∃ t, exec (.invalidation id remap) s = .next t ∧
    (∀ e ∈ t.dieTlb ++ t.tileTlb, scopeCovers remap.scope e.2 = false) ∧
    (∀ e ∈ s.dieTlb, scopeCovers remap.scope e.2 = false → e ∈ t.dieTlb) ∧
    (∀ e ∈ s.tileTlb, scopeCovers remap.scope e.2 = false → e ∈ t.tileTlb) ∧
    t.invals.map (·.id) = s.invals.map (·.id) ++ [id] ∧
    (∀ p base bytes, remap.scope = .part p base bytes →
      let put (es : List (Nat × Dword)) : Memory := es.foldl (fun m e => writeBytes m e.1 (leBytes 8 e.2.toNat)) s.mem
      t.mem = if rangeMapped s p base bytes = true then s.mem
        else put (remap.entries.filter fun e => (rangeEntries { s with mem := put remap.entries } p base bytes).contains e.1 &&
          !(mappedEntries s p).contains e.1))) ∧
  (∀ s id,
    let ended : State := { s with invals := s.invals.filter fun x => x.id != id }
    (s.invals.find? (fun x => x.id == id) = none → exec (.invalidationComplete id) s = .next s) ∧
    ∀ v, s.invals.find? (fun x => x.id == id) = some v →
      (invalDone s v = false → exec (.invalidationComplete id) s = .next (pushAlone s (.invalidationComplete id))) ∧
      (invalDone s v = true → v.queue = none → exec (.invalidationComplete id) s = .next ended) ∧
      (∀ q, invalDone s v = true → v.queue = some q → runningKind ended q 4 = none →
        exec (.invalidationComplete id) s = .next ended) ∧
      (∀ q r, invalDone s v = true → v.queue = some q → runningKind ended q 4 = some r →
        exec (.invalidationComplete id) s = .next (finishRecord ended q r (plainDone 0 0) [])))

/-- Whenever MEMORY_PERFORM answers a next state, every byte of device memory and of host memory reads as before, except the
bytes of the units at the places that its own address check gives, or gave when a wait reached its home, in the memory of
its space; a load, a DONE or a wait changes no byte; and the memory of the other space is the very same.
(spec/11_device_memory_and_translation.md.) -/
def Obligations.DeviceMemoryFrame : Prop :=
  ∀ s slot id l q t, findLaunch s slot = some l → findReq l id = some q → exec (.memoryPerform slot id) s = .next t →
    (q.space = .host → t.mem = s.mem) ∧ (q.space ≠ .host → t.bus = s.bus) ∧
    ((needOf q.op).w = false → t.mem = s.mem ∧ t.bus = s.bus) ∧
    ∀ r a, recOf l q.firing = some r →
      (∀ places, (q.places ≠ [] ∧ places = q.places) ∨ (q.places = [] ∧
        checkUnits s l (portOf l q.firing) (q.space == .host) false (needOf q.op) q.unit (unitLane r.type) 0 q.addrs =
          .ok places) →
        ∀ p ∈ places, a < p ∨ p + q.unit ≤ a) →
      readByte t.mem a = readByte s.mem a ∧ readByte t.bus a = readByte s.bus a

/-- Outside speculation and without a race, BARINIT writes EXPECT and zeros the object's other fields, an EXPECT of 0 traps
BARRIER_OVERCOUNT detail 2; ARRIVE performs its arrival, of COUNT or lane 0 of a, and emits a's payload, a dead letter's
arrival recording its poison; WAITCNT whose target phase has come emits a's payload, or a dead letter of the recorded poison
where one lies at or below the target; a target of 0 passes at once; it is otherwise held.
(spec/08_tile_memory_and_letterboxes.md.) -/
def Obligations.BarrierInstructionsComplete : Prop :=
  let p : Policy := specOf 3
  let by1 (g : State × Nat) (c : Ctx) (k : AccKind) : Access := barrierBy g.1 c.f g.2 (fTile c.f) k (bidxOf c.r)
  let bytes (c : Ctx) : Nat :=
    if field c.r.lit.toNat 16 16 ≠ 0 then field c.r.lit.toNat 16 16 else if anyDl c.f = true then 0 else (laneAt c.f.a.lanes 0).toNat
  let arrived (s : State) (c : Ctx) (poison : Option Nat) (s1 : State) : Prop :=
    ∃ t sx, arrival c.l (tileOf c.l (fTile c.f)) (bidxOf c.r) (bytes c) poison (unionNat (firingHb c.f) [(newGroup s).2]) = .ok t ∧
      checkAccesses (newGroup s).1 c.f.slot [by1 (newGroup s) c addClass] = .ok sx ∧ s1 = modFTile sx c.f fun _ => t
  let recorded (c : Ctx) (q : Nat) : Prop :=
    barWord (tileOf c.l (fTile c.f)) (bidxOf c.r) 3 ≠ 0 ∧ barWord (tileOf c.l (fTile c.f)) (bidxOf c.r) 3 ≤ q
  (completes .barinit p fun s c s1 es fl => fl = 0 ∧ laneAt c.f.a.lanes 0 ≠ 0 ∧ outBoth c c.f.a.lanes false false [] = .ok es ∧
    ∃ sx, checkAccesses (newGroup s).1 c.f.slot [by1 (newGroup s) c .write] = .ok sx ∧
      s1 = modFTile sx c.f fun t =>
        { writeSram t (64 * bidxOf c.r) (leBytes 64 (laneAt c.f.a.lanes 0).toNat) with
          barriers := t.barriers.filter fun x => x.bidx != bidxOf c.r }) ∧
  (traps .barinit p fun _ c t => laneAt c.f.a.lanes 0 = 0 ∧ t = ⟨0x0F, 2, 0⟩) ∧
  (completes .arrive p fun s c s1 es fl => fl = 0 ∧ arrived s c none s1 ∧
    outBoth c c.f.a.lanes false false [(newGroup s).2] = .ok es) ∧
  (traps .arrive p fun s c t =>
    arrival c.l (tileOf c.l (fTile c.f)) (bidxOf c.r) (bytes c) none (unionNat (firingHb c.f) [(newGroup s).2]) = .error t) ∧
  (∀ s c s1 es, firesDl s c p →
    let s0 := started s c p
    (speculative s0 c.f.a.fh = true → exec (.arrive c.r) s = .next (trapFiring (counted s c p) c.f ⟨0x0B, 3, 0⟩)) ∧
    (speculative s0 c.f.a.fh = false → arrived s0 (own s c p) (some (poisonOf (own s c p))) s1 →
      outBoth c (poisonLanes (laneCount c) (poisonOf (own s c p))) true false [(newGroup s0).2] = .ok es →
      exec (.arrive c.r) s = .next (complete s1 c es 0))) ∧
  (∀ b : Bool, completes .waitcnt p fun s c s1 es fl => fl = 0 ∧ waitDue c.l c.f c.r = true ∧
    waitTarget c.r c.shape c.f.a c.f.b ≠ 0 ∧ (b = true ↔ recorded c (waitTarget c.r c.shape c.f.a c.f.b)) ∧
    let hb := ((tileOf c.l (fTile c.f)).barriers.filter fun x =>
      x.bidx == bidxOf c.r && x.phase ≤ waitTarget c.r c.shape c.f.a c.f.b).foldl (fun h x => unionNat h x.hb) []
    let x := by1 (newGroup s) c .sync
    checkAccesses (newGroup s).1 c.f.slot [{ x with hb := unionNat x.hb hb }] = .ok s1 ∧
    if b then outBoth c (poisonLanes (laneCount c) (barWord (tileOf c.l (fTile c.f)) (bidxOf c.r) 4)) true false hb = .ok es
    else outBoth c c.f.a.lanes false false hb = .ok es) ∧
  (completes .waitcnt p fun s c s1 es fl => fl = 0 ∧ s1 = s ∧ waitTarget c.r c.shape c.f.a c.f.b = 0 ∧
    outBoth c c.f.a.lanes false false (((tileOf c.l (fTile c.f)).barriers.filter fun x =>
      x.bidx == bidxOf c.r && x.phase ≤ 0).foldl (fun h x => unionNat h x.hb) []) = .ok es) ∧
  (holds .waitcnt p fun _ c => waitDue c.l c.f c.r = false)

/-- On an object without an SRAM error, an arrival with EXPECT 0 traps detail 2, one past EXPECT detail 0, one that would
end phase 2^32 - 1 detail 1; one that reaches EXPECT raises PHASE by one and zeroes COUNT, one below adds to COUNT; a poison
is recorded with the phase below 2^32 that its arrival belongs to, where none of that phase or an earlier one stands; EXPECT
is kept, and every byte of SRAM outside the object's words 1 to 4. (spec/08_tile_memory_and_letterboxes.md.) -/
def Obligations.ArrivalsCountTheirBytes : Prop :=
  ∀ (l : Launch) (t : Tile) (b n : Nat) (poison : Option Nat) (hb : List Nat), badRange t (64 * b) 20 = false →
    let e := barWord t b 0
    let k := barWord t b 1
    let ph := barWord t b 2
    let r := arrival l t b n poison hb
    (e = 0 → r = .error ⟨0x0F, 2, 0⟩) ∧
    (e ≠ 0 → e < k + n → r = .error ⟨0x0F, 0, 0⟩) ∧
    (e ≠ 0 → k + n = e → ph = 0xFFFFFFFF → r = .error ⟨0x0F, 1, 0⟩) ∧
    (e ≠ 0 → k + n < e ∨ (k + n = e ∧ ph ≠ 0xFFFFFFFF ∧ n ≠ 0) → ∃ t1, r = .ok t1 ∧ barWord t1 b 0 = e ∧
      (k + n < e → barWord t1 b 1 = k + n ∧ barWord t1 b 2 = ph) ∧
      (k + n = e → barWord t1 b 1 = 0 ∧ barWord t1 b 2 = ph + 1) ∧
      (poison = none → barWord t1 b 3 = barWord t b 3 ∧ barWord t1 b 4 = barWord t b 4) ∧
      (∀ i, poison = some i → i < 2 ^ 32 → ph ≠ 0xFFFFFFFF → barWord t b 3 = 0 ∨ ph + 1 < barWord t b 3 →
        barWord t1 b 3 = ph + 1 ∧ barWord t1 b 4 = i) ∧
      (∀ a, a < 64 * b + 4 ∨ 64 * b + 20 ≤ a → readByte t1.sram a = readByte t.sram a))

/-- Outside speculation, a SEND on an arc with credit takes one credit, numbers its message and leaves once its task has no
held SEND left; with no credit or on an unbound arc it is held. In a speculative task it waits for mailbag lines. A 64-bit
TYPE on odd lanes, a message past the SLOTB of a bound arc, a failing tag rule or rate, an arc that does not match and one
whose partner has ended trap, in this order. MESSAGE_WRITE of a message that every check admits writes it and emits the
SEND's token, which a committed task's SEND has emitted already; a failing check gives the credit back and traps, or ends
the launch of a committed task's; a message whose arc no longer reaches its tile is discarded. RECV with a message ready
answers the slot offset and number, or the message's data, or dead letters where a word of it is bad, advances RSEQ, and
frees the message under AUTOFREE; with no message it is held. FREESLOT frees n messages and passes a. FREED_SLOT_NOTICE
returns n credits to an arc that still joins the two, or to the courier; one whose arc joins them no longer is discarded. A
message longer than its slot and a free past RSEQ trap LETTERBOX_OVERRUN. (spec/08_tile_memory_and_letterboxes.md,
spec/10_depot.md, spec/15_package_launch_and_scheduling.md.) -/
def Obligations.LetterboxInstructionsComplete : Prop :=
  let rp : Policy := streamOf 3
  let boxOf (c : Ctx) : Letterbox := lbOf (tileOf c.l (fTile c.f)) (recLb c.r)
  let odd (c : Ctx) : Prop := wide c.r.type = true ∧ laneCount c % 2 = 1
  let onArc (c : Ctx) (x : Arc) : Prop := ∃ a, arcFrom c.l (fNode c.f) = some a ∧ arcOf c.l a.arc = some x
  let long (c : Ctx) (x : Arc) : Prop := x.bind = .bound ∧ x.slotb < 4 * laneCount c
  let direct (s : State) (c : Ctx) (x : Arc) : Prop :=
    onArc c x ∧ ¬odd c ∧ ¬long c x ∧ outputTrap c 1 = none ∧ speculative s c.f.a.fh = false
  let free (x : Arc) : Prop := x.bind ≠ .mismatch ∧ x.bind ≠ .ended ∧ x.bind ≠ .unbound ∧ x.credit ≠ 0
  (answersNext .send sendPolicy fun s c t => ∃ x, direct s c x ∧ free x ∧ sendsLeft s c.l c.f.a.fh = false ∧
    t = launchSend s c.f.slot c.f c.r x false) ∧
  (answersNext .send sendPolicy fun s c t => (∃ x, onArc c x ∧ ¬odd c ∧ ¬long c x) ∧ outputTrap c 1 = none ∧
    speculative s c.f.a.fh = true ∧ t = holdSend s c.f) ∧
  (holds .send sendPolicy fun s c => (∀ x, ¬onArc c x) ∨ ∃ x, direct s c x ∧ x.bind ≠ .mismatch ∧ x.bind ≠ .ended ∧
    (x.bind = .unbound ∨ x.credit = 0 ∨ sendsLeft s c.l c.f.a.fh = true)) ∧
  (traps .send sendPolicy fun _ c t => (∃ x, onArc c x) ∧ odd c ∧ t = ⟨0x04, 1, 0⟩) ∧
  (traps .send sendPolicy fun _ c t => (∃ x, onArc c x ∧ ¬odd c ∧ long c x) ∧ t = ⟨0x10, 1, 0⟩) ∧
  (traps .send sendPolicy fun _ c t => (∃ x, onArc c x ∧ ¬odd c ∧ ¬long c x) ∧ outputTrap c 1 = some t) ∧
  (traps .send sendPolicy fun s c t => (∃ x, direct s c x ∧ x.bind = .mismatch) ∧ t = ⟨0x08, 13, 0⟩) ∧
  (traps .send sendPolicy fun s c t => (∃ x, direct s c x ∧ x.bind = .ended) ∧ t = ⟨0x08, 11, 0⟩) ∧
  (∀ s slot id, takeCargo s slot id = none → exec (.messageWrite slot id) s = .next s) ∧
  (∀ s slot id s1 l f lb vt bytes bar held hb r a x c,
    takeCargo s slot id = some (s1, l, .send f lb vt bytes bar held hb) → recOf l f = some r → arcFrom l (fNode f) = some a →
    arcOf l a.arc = some x → reqCtx s1 f r = some c →
    let lost : Prop := a.kind = 2 ∧ x.bind ≠ .bound
    (lost ∨ findLaunch s1 x.peerSlot = none → exec (.messageWrite slot id) s = .next (discardMessage s1 l f x)) ∧
    ∀ tl, ¬lost → findLaunch s1 x.peerSlot = some tl →
      (∀ s2 g es, writeMessage s1 f r.type tl vt lb bytes bar hb = .ok (s2, g) →
        (held = false → outBoth c [0] false false [g] = .ok es → rateTrap c es 1 = none →
          exec (.messageWrite slot id) s = .next (complete (rateAdvance s2 c es 1) c es 0)) ∧
        (held = true → exec (.messageWrite slot id) s = .next s2)) ∧
      (∀ e, writeMessage s1 f r.type tl vt lb bytes bar hb = .error e →
        exec (.messageWrite slot id) s = .next (failSend (returnCredit s1 slot a.arc) f held e))) ∧
  (completes .recv rp fun s c s1 es fl => fl = 0 ∧ bit c.r.modx.toNat 0 = false ∧ (boxOf c).rseq ≠ (boxOf c).wseq ∧
    s1 = takeMessage (newGroup s).1 c (newGroup s).2 (messageHb (boxOf c)) ∧
    outBoth c [BitVec.ofNat 32 (slotOffset (boxOf c) (boxOf c).rseq.toNat), BitVec.ofNat 32 (boxOf c).rseq.toNat] false false
      (unionNat (messageHb (boxOf c)) [(newGroup s).2]) = .ok es) ∧
  (completes .recv rp fun s c s1 es fl => fl = 0 ∧ bit c.r.modx.toNat 0 = true ∧ (boxOf c).rseq ≠ (boxOf c).wseq ∧ ¬odd c ∧
    4 * laneCount c ≤ (boxOf c).slotb ∧
    let o := slotOffset (boxOf c) (boxOf c).rseq.toNat
    let t := tileOf c.l (fTile c.f)
    let u := unitSize c.r.type
    let carry := unionNat (messageHb (boxOf c)) [(newGroup s).2]
    ∃ sx, checkAccesses (newGroup s).1 c.f.slot (((upTo (unitsIn c.r.type (laneCount c))).flatMap fun k =>
        sramBy (newGroup s).1 c.f (newGroup s).2 0 .read (o + u * k) u (unitLane c.r.type k)).map fun x =>
          { x with hb := unionNat x.hb (messageHb (boxOf c)) }) = .ok sx ∧
      ((badRange t o (4 * laneCount c) = false ∧ s1 = takeMessage sx c (newGroup s).2 (messageHb (boxOf c)) ∧
        outBoth c (bytesLanes (readBytes t.sram o (4 * laneCount c))) false false carry = .ok es) ∨
      (badRange t o (4 * laneCount c) = true ∧
        let d := postDlout sx c.f (badLane t c.r.type o (laneCount c))
        s1 = takeMessage d.1 c (newGroup s).2 (messageHb (boxOf c)) ∧
        outBoth c (poisonLanes (laneCount c) d.2) true false carry = .ok es))) ∧
  (holds .recv rp fun _ c => (boxOf c).rseq = (boxOf c).wseq ∧
    (bit c.r.modx.toNat 0 = true → ¬odd c ∧ 4 * laneCount c ≤ (boxOf c).slotb)) ∧
  (traps .recv rp fun _ c t => bit c.r.modx.toNat 0 = true ∧ odd c ∧ t = ⟨0x04, 1, 0⟩) ∧
  (traps .recv rp fun _ c t => bit c.r.modx.toNat 0 = true ∧ ¬odd c ∧ (boxOf c).slotb < 4 * laneCount c ∧ t = ⟨0x10, 1, 0⟩) ∧
  (completesMsgs .freeslot rp freeCount fun s c s1 es fl => fl = 0 ∧ freeCount c ≤ unfreed (boxOf c) ∧
    s1 = freeMessages s c.l (fTile c.f) (recLb c.r) (freeCount c) (firingHb c.f) ∧
    outBoth c c.f.a.lanes false false [] = .ok es) ∧
  (traps .freeslot rp fun _ c t => unfreed (boxOf c) < freeCount c ∧ t = ⟨0x10, 2, 0⟩) ∧
  (∀ s slot id, takeCargo s slot id = none → exec (.freedSlotNotice slot id) s = .next s) ∧
  (∀ s slot id s1 l ps arc n hb, takeCargo s slot id = some (s1, l, .freed ps arc n hb) →
    let joined : Prop := ∃ o x, findLaunch s1 ps = some o ∧ arcOf o arc = some x ∧ x.bind = .bound ∧ x.peerSlot = slot
    (joined → exec (.freedSlotNotice slot id) s = .next (modLaunch s1 ps fun l => modArc l arc fun x =>
      { x with credit := x.credit + n, frees := x.frees ++ List.replicate n hb })) ∧
    (¬joined → exec (.freedSlotNotice slot id) s = .next (discardNotice s1 l ps arc))) ∧
  (∀ s slot id s1 l node vt tgt n hb, takeCargo s slot id = some (s1, l, .popped node vt tgt n hb) →
    exec (.freedSlotNotice slot id) s = .next (modLaunch s1 slot fun l => modCourier l node fun q => addCredit q vt tgt n hb))

/-- Where every check admits a message without BAR, the target tile's letterbox has WSEQ one higher, the slot's first bytes
are the message, every byte of SRAM outside them is as before, RSEQ, FSEQ and the other letterboxes are kept, and every
other tile of the launch. (spec/08_tile_memory_and_letterboxes.md.) -/
def Obligations.MessagesFillTheirSlots : Prop :=
  ∀ (s : State) (f : Firing) (ty : Ty) (tl : Launch) (vt lb : Nat) (bytes : List Byte) (hb : List Nat) (s1 : State) (g : Nat),
    findLaunch s tl.slot = some tl → lb < (tileOf tl vt).lbs.length →
    writeMessage s f ty tl vt lb bytes none hb = .ok (s1, g) →
    let b := lbOf (tileOf tl vt) lb
    let o := slotOffset b b.wseq.toNat
    ∃ l1, findLaunch s1 tl.slot = some l1 ∧
      (lbOf (tileOf l1 vt) lb).wseq = b.wseq + 1 ∧ (lbOf (tileOf l1 vt) lb).rseq = b.rseq ∧
      (lbOf (tileOf l1 vt) lb).fseq = b.fseq ∧ (∀ k, k ≠ lb → lbOf (tileOf l1 vt) k = lbOf (tileOf tl vt) k) ∧
      readBytes (tileOf l1 vt).sram o bytes.length = bytes ∧
      (∀ a, a < o ∨ o + bytes.length ≤ a → readByte (tileOf l1 vt).sram a = readByte (tileOf tl vt).sram a) ∧
      ∀ v, v ≠ vt → tileOf l1 v = tileOf tl v

/-- Of a running quiescent launch whose queue is empty, the held MODE tokens form the queue in (FID, tag, node) order. A
MODE node's first queued token makes the set of LIT active, reloads the monitors' phases and emits a's payload; a token that
is not the next is held; a RECONF token whose image is valid stages its manifest and puts every tile in STAGING; one whose
image cannot be fetched, is invalid, or cannot place its data answers the code, the detail and the offset on DSTB, keeps the
configuration and discards the tokens queued; an address of fewer than two lanes traps.
(spec/08_tile_memory_and_letterboxes.md.) -/
def Obligations.ModesChangeAtQuiescence : Prop :=
  (∀ s slot l, findLaunch s slot = some l → quiescent s l = true → l.modeQueue = [] → l.phase = .running →
    exec (.quiescenceDetected slot) s = .next (setLaunch s { l with modeQueue := sortBy (modeLt s) (modeHeld s l) })) ∧
  (∀ s slot l, findLaunch s slot = some l → quiescent s l = false → exec (.quiescenceDetected slot) s = .next s) ∧
  (∀ s slot l, findLaunch s slot = some l → l.modeQueue ≠ [] → exec (.quiescenceDetected slot) s = .next s) ∧
  (completes .mode (specOf 3) fun s c s1 es fl => fl = 0 ∧ modeNext c.l c.f = true ∧
    s1 = modLaunch s c.f.slot (fun l =>
      loadPhases { l with active := low 4 c.r.lit.toNat, modeQueue := l.modeQueue.drop 1 }) ∧
    outBoth c c.f.a.lanes false false [] = .ok es) ∧
  (holds .mode (specOf 3) fun _ c => modeNext c.l c.f = false) ∧
  (holds .modeReconf (specOf 3) fun _ c => 2 ≤ (bLanes c).length ∧ modeNext c.l c.f = false) ∧
  (traps .modeReconf (specOf 3) fun _ c t => (bLanes c).length < 2 ∧ t = ⟨0x04, 2, 0⟩) ∧
  (answersNext .modeReconf (specOf 3) fun s c t => 2 ≤ (bLanes c).length ∧ modeNext c.l c.f = true ∧
    ∃ m placed, loadMode s c.l (lanes64 (bLanes c) 0) = .ok m ∧ stageData s c.l m m.data = .ok placed ∧
      t = modLaunch s c.f.slot fun l => { l with
        staged := some m, reconf := some c.f, placed
        tiles := l.tiles.map fun t => { t with state := .staging, answered := false } }) ∧
  (completes .modeReconf (specOf 3) fun s c s1 es fl => 2 ≤ (bLanes c).length ∧ modeNext c.l c.f = true ∧
    s1 = discardModes s c.f.slot c.f.a ∧ fl = 0 ∧ ∃ code detail off,
      (loadMode s c.l (lanes64 (bLanes c) 0) = .error .fetch ∧ code = 0x16 ∧ detail = 0 ∧ off = 0 ∨
        (∃ k, loadMode s c.l (lanes64 (bLanes c) 0) = .error (.invalid k) ∧ code = 0x17 ∧ detail = errDetail k ∧ off = k.1) ∨
        ∃ m t, loadMode s c.l (lanes64 (bLanes c) 0) = .ok m ∧ stageData s c.l m m.data = .error t ∧ code = t.code ∧
          detail = t.detail ∧ off = 0) ∧
      outPorts c [1] ([BitVec.ofNat 32 code, BitVec.ofNat 32 detail] ++ lanesOf64 off) c.r.tagop false false [] = .ok es)

/-- NOP passes a's payload; RDSYS emits its selector's value, in lane pairs where it is 64 bits; TAILL enters its child
record; TRAP takes USER_TRAP with LIT, or under ARITY 01 with bit 0 of b clear passes a; BRK takes BREAKPOINT with LIT, or
passes a delivered again by a retry. In the office frame each RESUME form resolves its open ticket with status 0 or refuses
with 2, and of a ticket not open emits status 1 and changes nothing, as KILLF does; KILLF kills the frame of its ticket; in
another frame both trap PERMISSION detail 3. PARK_NOTICE gives the kept operands of a parked frame's faults their pool
entries, moves its one waiting token, its parity right, to its free spill slot, and leaves a frame not parked alone.
(spec/09_tile_faults.md, spec/15_package_launch_and_scheduling.md.) -/
def Obligations.TrapAndHandlerInstructionsComplete : Prop :=
  let pass (c : Ctx) (es : List Emission) : Prop := outBoth c c.f.a.lanes false false [] = .ok es
  let addr (c : Ctx) : Nat := lanes64 c.f.a.lanes 0
  let trapPass (c : Ctx) : Prop := c.r.arity = .dyad ∧ bit (laneAt (bLanes c) 0).toNat 0 = false
  (emits .nop fun c es => pass c es) ∧
  (completes .rdsys plain fun s c s1 es fl => s1 = s ∧ fl = 0 ∧
    let v := sysValue s c.l c.fr (fTile c.f) (ctxTag c) (laneCount c) (low 8 c.r.lit.toNat)
    ¬(v.2 = true ∧ laneCount c % 2 = 1) ∧
    outBoth c ((List.range (laneCount c)).map fun k =>
      BitVec.ofNat 32 (if v.2 ∧ k % 2 = 1 then v.1 / 2 ^ 32 else v.1)) false false [] = .ok es) ∧
  (completes .taill (specOf 4) fun s c s1 es fl => fl = 0 ∧ 2 ≤ laneCount c ∧ field (addr c) 52 11 = 0 ∧
    addr c % 8 = 0 ∧ c.l.tails.length < 8 ∧ outBoth c [0] false false [] = .ok es ∧
    s1 = modLaunch s c.f.slot fun l => { l with tails := l.tails ++
      [({ fh := c.fr.fh, fid := c.fr.fid, ffill := c.fr.ffill, tag := c.f.a.tag, fill := c.f.a.fill, node := fNode c.f
          addr := addr c } : Tail)] }) ∧
  (traps .taill (specOf 4) fun _ c t => 2 ≤ laneCount c ∧ field (addr c) 52 11 = 0 ∧ addr c % 8 = 0 ∧
    8 ≤ c.l.tails.length ∧ t = ⟨0x08, 12, 0⟩) ∧
  (traps .trap plain fun _ c t => ¬trapPass c ∧ t = ⟨0x14, c.r.lit.toNat, 0⟩) ∧
  (emits .trap fun c es => trapPass c ∧ pass c es) ∧
  (traps .brk plain fun _ c t => c.f.a.src ≠ passSource ∧ t = ⟨0x13, c.r.lit.toNat, 0⟩) ∧
  (emits .brk fun c es => c.f.a.src = passSource ∧ pass c es) ∧
  (let forms : List ((NodeRec → Instr) × Nat) := [(.resumeSubstitute, 0), (.resumeRetry, 1), (.resumePoison, 2)]
    ∀ p ∈ forms,
      let ticket (c : Ctx) : Nat := (laneAt (if p.2 = 0 then bLanes c else c.f.a.lanes) 0).toNat
      (completes p.1 plain fun s c s1 es fl => fl = 0 ∧ c.f.a.fh = c.l.office ∧ openTicket c.l (ticket c) = none ∧ s1 = s ∧
        outBoth c [1] false false [] = .ok es) ∧
      (completes p.1 plain fun s c s1 es fl => fl = 0 ∧ c.f.a.fh = c.l.office ∧ ∃ rec, openTicket c.l (ticket c) = some rec ∧
        let r := resolveTicket s c.f.slot rec p.2 c.f.a.lanes (firingHb c.f)
        s1 = r.1 ∧ outBoth c [BitVec.ofNat 32 r.2] false false [] = .ok es) ∧
      (traps p.1 plain fun _ c t => c.f.a.fh ≠ c.l.office ∧ t = ⟨0x08, 3, 0⟩)) ∧
  (completes .killf plain fun s c s1 es fl => fl = 0 ∧ c.f.a.fh = c.l.office ∧
    ∃ rec, openTicket c.l (laneAt c.f.a.lanes 0).toNat = some rec ∧ s1 = killFrame s c.f.slot rec.fh ∧
      outBoth c [0] false false [] = .ok es) ∧
  (completes .killf plain fun s c s1 es fl => fl = 0 ∧ c.f.a.fh = c.l.office ∧
    openTicket c.l (laneAt c.f.a.lanes 0).toNat = none ∧ s1 = s ∧ outBoth c [1] false false [] = .ok es) ∧
  (traps .killf plain fun _ c t => c.f.a.fh ≠ c.l.office ∧ t = ⟨0x08, 3, 0⟩) ∧
  (∀ s slot v fh l f, findLaunch s slot = some l → findFrame s fh = some f →
    (parked f = false → exec (.parkNotice slot v fh) s = .next s) ∧
    (∀ t, parked f = true → (deskOf l v).waiting.filter (fun t => t.fh == fh) = [t] → headerOk t = true → payloadOk t = true →
      (deskOf l v).ready.filter (fun r => r.firing.a.fh == fh) = [] →
      (deskOf l v).aside.filter (fun x => x.tok.fh == fh) = [] →
      (unresolved (poolFaults l v fh)).any (unpooled v fh) = false →
      let noticed (l : Launch) : Launch := modDesk (poolFaults l v fh) v fun d => { d with noticed := unionNat d.noticed [fh] }
      let taken (l : Launch) : Launch := modDesk l v fun d => { d with waiting := d.waiting.erase t }
      let l1 := taken (noticed l)
      let k := slotOf f.spilld t
      slotHeld l1 v fh k f.spilld = false →
      exec (.parkNotice slot v fh) s = .next (setLaunch (modLaunch (setLaunch s (noticed l)) slot taken)
        (modDesk { l1 with spill := l1.spill ++ [{ fh, slot := k, tok := t, withdrawn := true }] } v fun d => setCount d (setOf t) (· + 1)))))

/-- Retrying a ticket of a firing sends its operands again as arrivals and answers 0; a substitute for an activation of
FRAME, SPAWN, SPAWNT, COPY or ACCRD, for an arrival fault or for a deadlock answers 2 with the state unchanged; closing a
ticket takes it from its frame's open ones, and a frame of no task parked by that fault alone with no wait goes back to the
state it held, with FCODE 0; one that still waits goes to PARKED_WAIT with FCODE 0, which is the model's choice (log entry
28), and one with another open ticket stays parked. (spec/09_tile_faults.md.) -/
def Obligations.ResolutionsReleaseTheirFrame : Prop :=
  (∀ s slot rec sub hb (a : Firing), rec.req = none → rec.round = none → rec.deadlock = false → rec.code ≠ 0x13 →
    (∀ b, rec.firing = some { a with b := some b } → resolveTicket s slot rec 1 sub hb =
      (closeTicket (sendToken (sendToken s slot a.a) slot b) slot rec.fh rec.ticket, 0)) ∧
    (rec.firing = some { a with b := none } → resolveTicket s slot rec 1 sub hb =
      (closeTicket (sendToken s slot a.a) slot rec.fh rec.ticket, 0))) ∧
  (∀ s slot rec sub hb, rec.deadlock = true ∨ rec.firing = none → resolveTicket s slot rec 0 sub hb = (s, 2)) ∧
  (∀ s slot rec sub hb f l opc r c, rec.deadlock = false → rec.firing = some f → findLaunch s slot = some l →
    opRecOf l f = some (opc, r) → reqCtx s f r = some c → opc ∈ [0x85, 0x86, 0x87, 0x94, 0xC2] →
    resolveTicket s slot rec 0 sub hb = (s, 2)) ∧
  (∀ s slot fh ticket f, findFrame s fh = some f →
    (f.state = .parkedFault → f.opens = [ticket] → f.defers = 0 → f.waits ≠ 0 →
      ∃ f1, findFrame (closeTicket s slot fh ticket) fh = some f1 ∧ f1.state = .parkedWait ∧ f1.fcode = 0 ∧ f1.opens = []) ∧
    (f.state = .parkedFault → f.opens = [ticket] → f.defers = 0 → f.waits = 0 → taskOf s fh = none →
      ∃ f1, findFrame (closeTicket s slot fh ticket) fh = some f1 ∧ f1.state = f.home ∧ f1.fcode = 0 ∧ f1.opens = []) ∧
    (∀ other, other ≠ ticket → f.opens = [ticket, other] → ∃ f1, findFrame (closeTicket s slot fh ticket) fh = some f1 ∧
      f1.state = f.state ∧ f1.opens = [other]))

/-- On a bound arc with credit, an ARCOUT takes one credit, sends the descriptor and payload on its plane and emits; it is
held otherwise, unless its message is past the peer's SLOTB, which traps. A last post, due when the node's ORD counter is
its TAG, sends a message of LP, a dead letter one of DL with the 16 lanes of the record it stands for; both trap
SPEC_ILLEGAL in a speculative task, at ARCIN too, where they pass unless the arc's binding failed or, from DELAY on, it is
broken; an early last post is held. ARCIN below DELAY emits a's payload, and from there on takes its message, or is held
until it is written. An arriving message passes its meter, or waits for it, and is written with WSEQ one higher; a credit
raises its arc's credit. An intact flit in sequence is acknowledged and taken, one out of sequence only acknowledges; a CRC
failure asks for the stream again, the eighth, a timeout with flits unacknowledged and a failed training take the port down;
a failure notice breaks the arcs of its plane and has the communicators that use it rebuilt; a rebuild rewrites the entries,
raises CVER and breaks arcs bound under another. (spec/17_fabric.md.) -/
def Obligations.FabricInstructionsComplete : Prop :=
  let p : Policy := streamOf 3
  let one (_ : Ctx) : Nat := 1
  let even (c : Ctx) : Prop := ¬(wide c.r.type = true ∧ laneCount c % 2 = 1)
  let sent (s : State) (c : Ctx) (x : Arc) (bytes : List Byte) : State :=
    modLaunch (sendFlit s x.plane (peerPkg s c.l x) (.message x.peerSlot x.peerArc x.sent bytes)) c.f.slot fun l =>
      modArc l x.arc fun x => { x with credit := x.credit - 1, sent := x.sent + 1 }
  let due (c : Ctx) : Prop := ctxTag c = ordNext (deskOf c.l c.f.vdesk) c.f.node c.f.a.fh
  let free (s : State) (c : Ctx) : Prop := speculative (started s c p) c.f.a.fh = false
  let open_ (c : Ctx) (x : Arc) (n : Nat) : Prop := nodeArc c = some x ∧ x.bind = .bound ∧ x.credit ≠ 0 ∧ 8 + 4 * n ≤ x.slotb
  let passable (c : Ctx) : Prop := ∃ x a, nodeArc c = some x ∧ nodeDecl c = some a ∧
    bindTrap x (decide (a.delay ≤ ctxTag c)) = none
  (completesMsgs .arcout p one fun s c s1 es fl => fl = 0 ∧ even c ∧ outBoth c [0] false false [] = .ok es ∧
    ∃ x, open_ c x (laneCount c) ∧ s1 = sent s c x (arcBytes x.sent false false c.f.a.lanes)) ∧
  (holds .arcout p fun _ c => even c ∧ (nodeArc c = none ∨ ∃ x, nodeArc c = some x ∧ bindTrap x true = none ∧
    (x.bind ≠ .bound ∨ x.credit = 0))) ∧
  (traps .arcout p fun _ c t => even c ∧ ∃ x, nodeArc c = some x ∧ x.bind = .bound ∧ x.credit ≠ 0 ∧
    x.slotb < 8 + 4 * laneCount c ∧ t = ⟨0x10, 1, 0⟩) ∧
  (∀ s c x es, firesLp s c p → free s c → due (own s c p) → open_ (own s c p) x 1 → outBoth (own s c p) [0] false true [] = .ok es →
    exec (.arcout c.r) s = .next (complete (sent (started s c p) (own s c p) x (arcBytes x.sent false true [0])) c es 0)) ∧
  (∀ s c x es, firesDl s c p → free s c →
    let o := own s c p
    let lanes := ((o.l.faults.find? fun r => r.ticket == poisonIdx c.f.a).map recordLanes).getD (List.replicate 16 0)
    open_ o x lanes.length → outBoth o (poisonLanes (laneCount c) (poisonOf o)) true false [] = .ok es →
    exec (.arcout c.r) s = .next (complete (sent (started s c p) o x (arcBytes x.sent true false lanes)) c es 0)) ∧
  (∀ i ∈ [Instr.arcout, .arcin], ∀ s c, speculative (started s c p) c.f.a.fh = true →
    firesDl s c p ∨ (firesLp s c p ∧ due (own s c p)) → exec (i c.r) s = .next (trapFiring (counted s c p) c.f ⟨0x0B, 3, 0⟩)) ∧
  (∀ i ∈ [Instr.arcout, .arcin], ∀ s c, firesLp s c p → ¬due (own s c p) → exec (i c.r) s = .next (holdFiring s c.f)) ∧
  (∀ s c es, firesLp s c p → free s c → due (own s c p) → passable (own s c p) → outBoth (own s c p) (lpLanes (own s c p)) (anyDl c.f) true [] = .ok es →
    exec (.arcin c.r) s = .next (complete (started s c p) c es 0)) ∧
  (∀ s c es, firesDl s c p → free s c → passable (own s c p) →
    outBoth (own s c p) (poisonLanes (laneCount c) (poisonOf (own s c p))) true false [] = .ok es →
    exec (.arcin c.r) s = .next (complete (started s c p) c es 0)) ∧
  (∀ s c x a t, firesDl s c p ∨ (firesLp s c p ∧ due (own s c p)) → free s c → nodeArc (own s c p) = some x →
    nodeDecl (own s c p) = some a → bindTrap x (decide (a.delay ≤ ctxTag c)) = some t →
    exec (.arcin c.r) s = .next (trapFiring (counted s c p) c.f t)) ∧
  (answersNext .arcin p fun s c t => even c ∧ ∃ a x es, nodeDecl c = some a ∧ nodeArc c = some x ∧ bindTrap x false = none ∧
    ctxTag c < a.delay ∧ outBoth c c.f.a.lanes false false [] = .ok es ∧ t = complete s c es 0) ∧
  (completesMsgs .arcin p one fun s c s1 es fl => fl = 0 ∧ ∃ a x, nodeDecl c = some a ∧ nodeArc c = some x ∧
    bindTrap x false = none ∧ a.delay ≤ ctxTag c ∧
    let m := ctxTag c - a.delay
    let t := tileOf c.l (fTile c.f)
    let b := lbOf t a.lb
    let o := slotOffset b m
    let d := readNat t.sram o 8
    let n := d % 32 + 1
    let hb := (b.wrote.find? fun w => w.1 == m % 2 ^ 16).elim [] (·.2)
    written b m = true ∧ badRange t o (8 + 4 * n) = false ∧ bit d 6 = false ∧
    ∃ sx, checkAccesses (newGroup s).1 c.f.slot ((arcAccesses (newGroup s).1 c.f (newGroup s).2 .read o n).map fun e =>
        { e with hb := unionNat e.hb hb }) = .ok sx ∧
      s1 = takeArc sx c x a.lb m (unionNat (unionNat (firingHb c.f) hb) [(newGroup s).2]) ∧
      (if bit d 5 then outBoth c [0] false true hb
        else outBoth c (bytesLanes (readBytes t.sram (o + 8) (4 * n))) false false hb) = .ok es) ∧
  (holds .arcin p fun _ c => ∃ a x, nodeDecl c = some a ∧ nodeArc c = some x ∧ bindTrap x true = none ∧ a.delay ≤ ctxTag c ∧
    written (lbOf (tileOf c.l (fTile c.f)) a.lb) (ctxTag c - a.delay) = false) ∧
  (∀ s slot id s1 l arc msg bytes a x, takeCargo s slot id = some (s1, l, .arcMsg arc msg bytes) →
    l.man.arcs.find? (fun a => a.arc == arc) = some a → arcOf l arc = some x →
    (x.bind ≠ .bound → exec (.arcMessageArrival slot id) s = .next s1) ∧
    (x.bind = .bound → meterHas l 2 bytes.length = false → exec (.arcMessageArrival slot id) s =
      .next (putBack s ⟨8, slot, arc, 0⟩ (.arcMessageArrival slot id))) ∧
    (x.bind = .bound → meterHas l 2 bytes.length = true → exec (.arcMessageArrival slot id) s =
      .next (arcWrite (setLaunch s1 (meterTake l 2 bytes.length)) (meterTake l 2 bytes.length) a x msg bytes))) ∧
  (∀ s slot arc, exec (.arcCredit slot arc) s =
    .next (modLaunch s slot fun l => modArc l arc fun x => { x with credit := x.credit + 1 })) ∧
  (∀ s port seq ack kind q, s.ports[port]? = some q → q.up = true →
    (seq % 2 ^ 16 = q.rcvd.toNat → exec (.linkFlitReceive port seq ack kind true) s = .next (takeFlit (modPort (modPort s port fun q =>
      takeAck q ack) port fun q => acceptFlit q kind) port kind)) ∧
    (seq % 2 ^ 16 ≠ q.rcvd.toNat → exec (.linkFlitReceive port seq ack kind true) s =
      .next (modPort s port fun q => takeAck q ack)) ∧
    (q.attempts < 7 → exec (.linkFlitReceive port seq ack kind false) s =
      .next (sendFlit (modPort s port fun q => { q with attempts := q.attempts + 1 }) port 0 .again)) ∧
    (7 ≤ q.attempts → exec (.linkFlitReceive port seq ack kind false) s =
      .next (portDown (modPort s port fun q => { q with attempts := q.attempts + 1 }) port)) ∧
    (q.replay ≠ [] → exec (.linkAckTimeout port) s = .next (portDown s port)) ∧
    (q.replay = [] → exec (.linkAckTimeout port) s = .next s) ∧
    exec (.linkTrainingFail port) s = .next (portDown s port)) ∧
  (∀ s plane pkg, exec (.failureNotice plane pkg) s =
    .next (askRebuild (breakArcs s 1 fun l x => x.plane == plane && (decide (144 ≤ pkg) || peerPkg s l x == pkg)) plane fun e =>
      decide (144 ≤ pkg) || e.pkg == pkg)) ∧
  (∀ s comm entries c, s.comms[comm]? = some c → exec (.communicatorRebuild comm entries) s =
    .next (breakArcs { s with comms := s.comms.set comm { cver := c.cver + 1, entries } } 2 fun l x =>
      l.part == comm && x.cver != (c.cver + 1).toNat))

/-- A ROUND on an idle courier loads g0 to g7 from its token's lane pairs, empties the buffers and starts at instruction 0;
on a busy courier, or one whose delivery is under way, it is held. In an issued round SETG, ADDG and ADDGG write their
register modulo 2^64 and LOOP and ENDL count and branch as R312 says, with every other register kept; END, with nothing
pending and its rates met, leaves the courier idle and emits status 0, counting the round at its monitors; ROUNDSTOP stops
the running, waiting and halted rounds of its id and emits their number. (spec/13_couriers.md.) -/
def Obligations.RoundsStartRunAndEnd : Prop :=
  let sext (i : BitVec 48) : Dword := i.signExtend 64
  let at1 (q : Courier) (i : BitVec 3) : Dword := q.g.getD i.toNat 0
  let wr (q : Courier) (i : BitVec 3) (v : Dword) : Courier := { q with g := q.g.set i.toNat v }
  let next (q : Courier) : Courier := { q with pc := q.pc + 1 }
  (answersNext .round (streamOf 4) fun s c t => ∃ q es, courierOf c.l (fNode c.f) = some q ∧ q.state = .idle ∧ q.pending = 0 ∧
    outBoth c [0] false false [] = .ok es ∧ t = putCourier s c.f.slot
      { q with
        state := .running, held := false, pc := 0, round := c.r.lit.toNat % 2 ^ 16, firing := some c.f, bufs := List.replicate 4 []
        delivered := [], sunk := [], hb := [], ending := false
        g := (List.range 8).map fun k =>
          if 2 * k + 2 ≤ laneCount c then BitVec.ofNat 64 (lanes64 c.f.a.lanes (2 * k)) else 0 }) ∧
  (holds .round (streamOf 4) fun _ c => ∀ q, courierOf c.l (fNode c.f) = some q → q.state ≠ .idle ∨ q.pending ≠ 0) ∧
  (completes .roundstop (specOf 4) fun s c s1 es fl => fl = 0 ∧
    let qs := c.l.couriers.filter fun q => q.round == c.r.lit.toNat % 2 ^ 16 && q.firing.isSome && !q.ending &&
      (q.state == .running || q.state == .waiting || q.state == .halted)
    s1 = modLaunch (qs.foldl (fun s q => q.firing.elim s fun f => stopRound s q f) s) c.f.slot (fun l =>
      { l with stopped := l.stopped || decide (qs ≠ []) }) ∧
    outBoth c [BitVec.ofNat 32 qs.length] false false [] = .ok es) ∧
  (∀ d imm, roundRuns (.setg d imm) fun s r s1 q => s1 = s ∧ q = next (wr r.q d (sext imm))) ∧
  (∀ d a imm, roundRuns (.addg d a imm) fun s r s1 q => s1 = s ∧ q = next (wr r.q d (at1 r.q a + sext imm))) ∧
  (∀ d a b sh, roundRuns (.addgg d a b sh) fun s r s1 q => s1 = s ∧
    q = next (wr r.q d (at1 r.q a + at1 r.q b * BitVec.ofNat 64 (2 ^ sh.toNat)))) ∧
  (∀ d skip count, roundRuns (.loop d skip count) fun s r s1 q => s1 = s ∧ r.q.g.length = 8 ∧
    let v := if count = 0 then at1 r.q d else count.setWidth 64
    q = { r.q with g := r.q.g.set d.toNat v, pc := if v = 0 then r.q.pc + skip.toNat else r.q.pc + 1 }) ∧
  (∀ d back, roundRuns (.endl d back) fun s r s1 q => s1 = s ∧ r.q.g.length = 8 ∧
    let v := at1 r.q d - 1
    q = { r.q with g := r.q.g.set d.toNat v, pc := if v = 0 then r.q.pc + 1 else r.q.pc - back.toNat }) ∧
  (∀ s r es, inRound s r → r.q.pending = 0 → outBoth r.c [0] false false (roundHb r) = .ok es → endTrap r es = none →
    exec .endRound s = .next (complete (putCourier (modLaunch s r.f.slot fun l => modTile l (fTile r.f) fun t =>
      { t with monitors := t.monitors.map fun m =>
          if m.node == fNode r.f && m.kind == 2 && (rateDue r.l m 0).isSome then
            { m with count := m.count + BitVec.ofNat 32 (roundCount r m es), firings := m.firings + 1 } else m })
      r.f.slot { r.q with state := .idle, firing := none, ending := false }) r.c es 0)) ∧
  (roundTraps .endRound fun _ r t => r.q.pending = 0 ∧ ∃ es, outBoth r.c [0] false false (roundHb r) = .ok es ∧
    endTrap r es = some t)

/-- With its rows checked and no race, FETCH fills its buffer with their bytes in row order, and SINK writes a ready
message's first bytes to its rows, advances RSEQ and frees it; DELIVER takes its credit and sends the buffer, waits without
credit, and DELIVERY_ARRIVAL writes it at its target and lets the round go on, or ends one that was stopped meanwhile, whose
status carries nothing of its own; DECODE expands a valid block or traps PARITY detail 2; WAITSLOT goes on with its units
and waits below them; ARRIVE performs its arrival; TOKEN emits gA in the ROUND firing's frame; SEMWAIT waits below its
target and acquires; SEMSIG stores or adds. An empty buffer traps PERMISSION detail 1. (spec/13_couriers.md.) -/
def Obligations.RoundsMoveAndAnnounce : Prop :=
  let g1 (s : State) : State := (newGroup s).1
  let id1 (s : State) : Nat := (newGroup s).2
  let next (q : Courier) : Courier := { q with pc := q.pc + 1 }
  let tileNo (r : RCtx) (gt : BitVec 3) : Nat := (gReg r.q gt).toNat
  (∀ ga gs buf host rows rowb, roundRuns (.fetch ga gs buf host rows rowb) fun s r s1 q =>
    ∃ ps sx, rowPlaces s r.l (courierPort r.q) host ⟨true, false⟩ (rowsOf (gReg r.q ga) (gReg r.q gs) rows rowb) = .ok ps ∧
      checkAccesses (g1 s) r.f.slot (pieceAccesses (g1 s) r (id1 s) host .read ps) = .ok sx ∧
      s1 = courierPages sx r host (ps.map (·.1)) ∧
      (host = false → ∀ p ∈ ps, lostLine s [p.2.1] p.2.2 = none) ∧
      q = next { r.q with bufs := r.q.bufs.set buf.toNat (readPieces s host ps), hb := r.q.hb ++ [id1 s] }) ∧
  (∀ ga gs gt host tgt rows rowb, roundRuns (.courierSink ga gs gt host tgt rows rowb) fun s r s1 q =>
    let vt := tileNo r gt
    let b := lbOf (tileOf r.l vt) tgt.toNat
    let o := slotOffset b b.rseq.toNat
    let total := (rows.toNat + 1) * (rowb.toNat * 4 + 4)
    let w := newGroup (g1 s)
    let hb := messageHb b
    ∃ a ps sx l3, roundArc r vt tgt.toNat true = some a ∧ overRate r vt tgt.toNat true = false ∧ total ≤ b.slotb ∧ b.rseq ≠ b.wseq ∧
      rowPlaces s r.l (courierPort r.q) host ⟨false, true⟩ (rowsOf (gReg r.q ga) (gReg r.q gs) rows rowb) = .ok ps ∧
      badRange (tileOf r.l vt) o total = false ∧
      checkAccesses w.1 r.f.slot (((granules o total).map (fun g => roundAccess w.1 r (id1 s) .sram vt g .read (4 * g)) ++
        (pieceAccesses w.1 r w.2 host .write ps).map fun (x : Access) => { x with hb := x.hb ++ [id1 s] }).map fun (x : Access) =>
          { x with hb := unionNat x.hb hb }) = .ok sx ∧
      let s3 := modLaunch (clearPieces (writePieces (courierPages sx r host (ps.map (·.1))) r.f.slot host ps
          (readBytes (tileOf r.l vt).sram o total)) host ps) r.f.slot fun l =>
        modTile l vt fun t => modLb t tgt.toNat fun b => { b with rseq := b.rseq + 1 }
      findLaunch s3 r.f.slot = some l3 ∧
      s1 = freeMessages s3 l3 vt tgt.toNat 1 (unionNat (unionNat (roundHb r) hb) [id1 s]) ∧
      q = next { r.q with hb := unionNat r.q.hb (unionNat hb [id1 s, w.2]), sunk := r.q.sunk ++ [(a.arc, 1)] }) ∧
  (∀ gt tgt n, (roundRuns (.waitslot gt tgt n) fun s r s1 q => s1 = s ∧ ∃ q1 k, withCredit r (tileNo r gt) tgt.toNat = .ok (q1, k) ∧
      (if tgt.toNat < 64 then n.toNat else 256 * n.toNat) ≤ creditUnits k ∧ q = next q1) ∧
    (roundRuns (.waitslot gt tgt n) fun s r s1 q => s1 = s ∧ ∃ q1 k, withCredit r (tileNo r gt) tgt.toNat = .ok (q1, k) ∧
      creditUnits k < (if tgt.toNat < 64 then n.toNat else 256 * n.toNat) ∧ q = { q1 with state := .waiting, held := true })) ∧
  (∀ gt buf tgt, (∀ s r q k, inRound s r →
      let bs := r.q.bufs.getD buf.toNat []
      let n := if tgt.toNat < 64 then 1 else bs.length
      r.q.pending = 0 → bs ≠ [] →
      (tgt.toNat < 64 → bs.length ≤ (lbOf (tileOf r.l (tileNo r gt)) tgt.toNat).slotb ∧ overRate r (tileNo r gt) tgt.toNat false = false) →
      withCredit r (tileNo r gt) tgt.toNat = .ok (q, k) →
      (n ≤ creditUnits k → meterHas r.l 0 bs.length = true →
        exec (.deliver gt buf tgt) s = .next (putCourier (push (modLaunch { s with nextId := s.nextId + 1 } r.f.slot fun l =>
            { meterTake l 0 bs.length with cargo := l.cargo ++ [(s.nextId, .deliver q.node (tileNo r gt) tgt.toNat r.f q.round q.pc bs
                (takeCredit k n).2 (unionNat (roundHb r) ((takeCredit k n).2.returns.foldl (fun h x => unionNat h x.2) [])))] })
          ⟨7, r.f.slot, q.node, 0⟩ (.deliveryArrival r.f.slot s.nextId)) r.f.slot
          { putCredit q (takeCredit k n).1 with pending := 1, state := .waiting, held := true })) ∧
      (creditUnits k < n → exec (.deliver gt buf tgt) s =
        .next (putCourier s r.f.slot { q with state := .waiting, held := true }))) ∧
    (roundTraps (.deliver gt buf tgt) fun _ r t => r.q.pending = 0 ∧ r.q.bufs.getD buf.toNat [] = [] ∧ t = ⟨0x08, 1, 0⟩)) ∧
  (∀ s slot id s1 l node vt tgt f round pc bs taken hb q rec c s2 g,
    takeCargo s slot id = some (s1, l, .deliver node vt tgt f round pc bs taken hb) → courierOf l node = some q →
    recOf l f = some rec → ctxOf s1 f rec = some c → q.firing = some f → q.pc = pc → q.state = .waiting →
    deliverWrite s1 l { l, q := { q with round }, f, c } vt tgt bs hb = .ok (s2, g) →
    let q1 : Courier := { q with pending := 0, state := .running, held := false, hb := unionNat q.hb (unionNat hb [g]) }
    (q.ending = false → exec (.deliveryArrival slot id) s = .next (putCourier s2 slot (next
      { q1 with delivered := countArc q.delivered (roundArc { l, q, f, c } vt tgt false) }))) ∧
    (q.ending = true → exec (.deliveryArrival slot id) s = .next (finishRound s2 c q1 1 []))) ∧
  (∀ bi bo tab, let src (r : RCtx) : List Byte := r.q.bufs.getD bi.toNat []
    let acc (s : State) (r : RCtx) : List Access :=
      [roundAccess (g1 s) r (id1 s) .unit (courierPlace r.q.node) (locSlot tab.toNat) .read 0]
    (roundRuns (.decode bi bo tab) fun s r s1 q => ∃ ct out, src r ≠ [] ∧ r.q.slots.getD tab.toNat none = some ct ∧
      checkAccesses (g1 s) r.f.slot (acc s r) = .ok s1 ∧ expandBlock ((assoc r.l.man.codetabs ct).getD []) (src r) = some out ∧
      q = next { r.q with bufs := r.q.bufs.set bo.toNat out, hb := r.q.hb ++ [id1 s] }) ∧
    (roundTraps (.decode bi bo tab) fun s r t => ∃ ct sx, src r ≠ [] ∧ r.q.slots.getD tab.toNat none = some ct ∧
      checkAccesses (g1 s) r.f.slot (acc s r) = .ok sx ∧ expandBlock ((assoc r.l.man.codetabs ct).getD []) (src r) = none ∧
      t = ⟨0x05, 2, 0⟩) ∧
    (roundTraps (.decode bi bo tab) fun _ r t => src r = [] ∧ t = ⟨0x08, 1, 0⟩)) ∧
  (∀ gt bidx bytes, roundRuns (.courierArrive gt bidx bytes) fun s r s1 q => tileNo r gt < r.l.man.depots * 8 ∧
    64 * bidx.toNat + 64 ≤ sramLimit r.l.man ∧ r.q.pending = 0 ∧ ∃ t sx,
      arrival r.l (tileOf r.l (tileNo r gt)) bidx.toNat bytes.toNat none (unionNat (roundHb r) [id1 s]) = .ok t ∧
      checkAccesses (g1 s) r.f.slot [roundAccess (g1 s) r (id1 s) .unit (tileNo r gt) (barrierLoc bidx.toNat) addClass 0] = .ok sx ∧
      s1 = modLaunch sx r.f.slot (fun l => modTile l (tileNo r gt) fun _ => t) ∧ q = next { r.q with hb := r.q.hb ++ [id1 s] }) ∧
  (∀ dest ga fill, roundRuns (.token dest ga fill) fun s r s1 q => r.q.pending = 0 ∧ q = next r.q ∧
    let v := (gReg r.q ga).toNat
    s1 = emitToken s r.f.slot
      { dest, fh := r.f.a.fh, tag := BitVec.ofNat 64 (v % 2 ^ fill.toNat), fill := fill.toNat, dl := false, lp := false, sp := false,
        lanes := [BitVec.ofNat 32 v, BitVec.ofNat 32 (v / 2 ^ 32)], lpar := 0, hp := 0, src := 2 ^ 24 + r.q.node, hb := roundHb r }) ∧
  (∀ ga gv, let a (r : RCtx) : Nat := (gReg r.q ga).toNat
    (roundRuns (.courierSemwait ga gv) fun s r s1 q => ∃ place, roundSem s r (a r) ⟨true, false⟩ = .ok place ∧
      (gReg r.q gv).toNat ≤ readSpace s (bit (a r) 63) place 8 ∧
      (bit (a r) 63 = false → lostLine s [place] 8 = none) ∧
      let got := acquired s (bit (a r) 63) place (some (courierPort r.q))
      ∃ sx, checkAccesses (g1 s) r.f.slot ((semAccess (g1 s) r (id1 s) (a r) place .sync).map fun (x : Access) =>
          { x with hb := unionNat x.hb got }) = .ok sx ∧
        s1 = courierPages sx r (bit (a r) 63) [a r % 2 ^ 52] ∧ q = next { r.q with hb := unionNat r.q.hb (got ++ [id1 s]) }) ∧
    (roundWaits (.courierSemwait ga gv) fun s r => ∃ place, roundSem s r (a r) ⟨true, false⟩ = .ok place ∧
      (bit (a r) 63 = false → lostLine s [place] 8 = none) ∧
      readSpace s (bit (a r) 63) place 8 < (gReg r.q gv).toNat)) ∧
  (∀ ga gv add scope, roundRuns (.courierSemsig ga gv add scope) fun s r s1 q => r.q.pending = 0 ∧ ∃ place sx,
    let a := (gReg r.q ga).toNat
    let v := (gReg r.q gv).toNat
    roundSem s r a ⟨false, true⟩ = .ok place ∧
    checkAccesses (g1 s) r.f.slot (semAccess (g1 s) r (id1 s) a place (if add then addClass else .write)) = .ok sx ∧
    (add = true → bit a 63 = false → lostLine s [place] 8 = none) ∧
    s1 = addSignal (writeSpace (courierPages sx r (bit a 63) [a % 2 ^ 52]) r.f.slot (bit a 63) place 8
        (if add then (readSpace s (bit a 63) place 8 + v) % 2 ^ 64 else v))
      { host := bit a 63, addr := place, isSet := !add, scope, port := some (courierPort r.q), hb := unionNat (roundHb r) [id1 s] } ∧
    q = next { r.q with hb := r.q.hb ++ [id1 s] })

/-- TOKEN_ARRIVAL of an intact token of a live frame: one that needs no partner, with a free way, becomes a firing; one that
needs a partner, as at a dyadic node and as a GATE's credits and later iterations do, takes a way where no partner waits, no
probe for it is out and nothing of its set is spilled; with its partner in a way and another free, of equal colours and last
posts, the pair becomes a firing with the operands by port; while its desk accepts no arrival it stays on its route; of a
draining frame it is consumed. SPILL_WRITE_DONE stores the head write in its free slot; SPILL_PROBE_RETURN pairs its token
with the one stored, or puts both beside the latch while ready pairs fill the set; FIRING_AGED and LATCH_BLOCKED mark their
entry; HANDLE_RETURN of a returnable frame frees its handle. (spec/01_token_and_frame.md, spec/05_tile.md.) -/
def Obligations.TokensArriveAtTheirDesks : Prop :=
  (∀ s slot id l t f opc r, findLaunch s slot = some l → latched l id = none → assoc l.flights id = some t →
    findFrame s t.fh = some f →
    let v := destDesk t.dest
    let d := deskOf l v
    let s1 := modLaunch s slot fun l => modDesk { l with flights := assocDel l.flights id } v fun d => d
    (accepts l d = false → exec (.tokenArrival slot id) s = .next (putBack s (tokenChan slot t) (.tokenArrival slot id))) ∧
    (accepts l d = true → headerOk t = true →
      (f.state = .draining → exec (.tokenArrival slot id) s = .next (consume s1 t.fh 1)) ∧
      (f.state ≠ .draining → withdraws d f = false → payloadOk t = true → destRec l t = some (opc, r) → heldToken s l t opc r = false →
        (needsPartner l t opc r = false → 0 < freeWays d (setOf t) → exec (.tokenArrival slot id) s = .next (makeReady s1 slot v t none)) ∧
        (needsPartner l t opc r = true → d.waiting.find? (fun w => sameActivation w t) = none → probing d t = false →
          d.counts.getD (setOf t) 0 = 0 →
          0 < freeWays d (setOf t) → exec (.tokenArrival slot id) s =
            .next (modLaunch s1 slot fun l => modDesk l v fun d => { d with waiting := d.waiting ++ [t] })) ∧
        (∀ w, needsPartner l t opc r = true → d.waiting.find? (fun w => sameActivation w t && destPort w.dest != destPort t.dest) = some w →
          0 < freeWays d (setOf t) → w.lp = t.lp → w.lanes.length = t.lanes.length →
          let s2 := takeWaiting s1 slot v w
          exec (.tokenArrival slot id) s = .next
            (if destPort t.dest = 0 then makeReady s2 slot v t (some w) else makeReady s2 slot v w (some t)))))) ∧
  (∀ s slot v l t rest f, findLaunch s slot = some l → findFrame s t.fh = some f → f.state ≠ .draining →
    let k := slotOf f.spilld t
    let s1 := modLaunch s slot fun l => modDesk l v fun d => { d with spill := d.spill.drop 1 }
    ((deskOf l v).spill = .write t :: rest → headerOk t = true → payloadOk t = true → l.spill.find? (fun p => p.fh == t.fh && p.slot == k) = none →
      exec (.spillWriteDone slot v) s = .next (modLaunch s1 slot fun l => { l with spill := l.spill ++ [{ fh := t.fh, slot := k, tok := t }] })) ∧
    (∀ p opc r, (deskOf l v).spill = .probe t :: rest → withdraws (deskOf l v) f = false → destRec l t = some (opc, r) →
      l.spill.find? (fun p => p.fh == t.fh && p.slot == k) = some p → sameActivation p.tok t = true →
      destPort p.tok.dest ≠ destPort t.dest → headerOk p.tok = true → payloadOk p.tok = true → p.tok.lp = t.lp →
      p.tok.lanes.length = t.lanes.length →
      (1 < freeWays (deskOf l v) (setOf t) →
        exec (.spillProbeReturn slot v) s = .next (makePair (clearSlot s1 slot v p) slot v t p.tok)) ∧
      (freeWays (deskOf l v) (setOf t) ≤ 1 → setWaiting (deskOf l v) (setOf t) = [] →
        exec (.spillProbeReturn slot v) s = .next (putAside (clearSlot s1 slot v p) slot v ⟨t, some p.tok, true⟩)))) ∧
  (∀ s slot v i, exec (.firingAged slot v i) s = .next (modLaunch s slot fun l => modDesk l v fun d =>
    { d with ready := modAt d.ready i fun r => { r with aged := true } })) ∧
  (∀ s slot v, exec (.latchBlocked slot v) s = .next (modLaunch s slot fun l => modDesk l v fun d =>
    { d with blocked := d.latch.isSome })) ∧
  (∀ s fh f, findFrame s fh = some f → (returnable f = true → exec (.handleReturn fh) s = .next (returnHandle s fh) ∧
      findFrame (returnHandle s fh) fh = none) ∧
    (returnable f = false → exec (.handleReturn fh) s = .next s))

/-- A tile that has not reported gives its least unfinished key; with every report the epoch closes with the least of the
reports and registered keys, broadcast to each tile, which then holds it. A held request whose places check and whose lines
fit enters its task's mailbag, as a held SEND does. A task due to commit performs its store and atomic lines in the order
held (log entry 31), or, where an atomic line is lost, has the line recovered, then releases its SENDs one by one, then is
finished; one whose key is the frontier, least of its domain, enters TASK_FRONT; a pending spawn record whose tile has a
free context, with a handle and a spill area free, starts its task again with its first token.
(spec/14_postmarked_tasks.md.) -/
def Obligations.TasksReportAndCommit : Prop :=
  (∀ s slot v l, findLaunch s slot = some l → (tileOf l v).report = none → v ∉ l.bcast →
    exec (.frontierReport slot v) s = .next (setLaunch s (modTile { l with regs := l.regs.filter fun r => r.1 != v } v fun t =>
      { t with
        report := some (reportKey s l v), least := none
        tasks := t.tasks.map fun c =>
          if c.phase = .spec ∨ c.phase = .front then { c with unf := BitVec.ofNat 16 l.epoch } else c }))) ∧
  (∀ s slot l, findLaunch s slot = some l → (∀ t ∈ l.tiles, t.report ≠ none) →
    exec (.epochClose slot) s = .next (pushAll (setLaunch s { l with
        epoch := l.epoch + 1
        formed := some (((l.tiles.filterMap (·.report) ++ l.regs.map (·.2)).foldl keyMin none).getD keyTop)
        bcast := l.tiles.map (·.vtile), tiles := l.tiles.map fun t => { t with report := none } })
      (l.tiles.map fun t => .frontierBroadcast slot t.vtile))) ∧
  (∀ s slot v l, findLaunch s slot = some l → v ∈ l.bcast →
    exec (.frontierBroadcast slot v) s = .next (setLaunch s (modTile { l with bcast := l.bcast.filter fun w => w != v } v fun t =>
      { t with frontier := l.formed }))) ∧
  (∀ s slot id l q l1 t r c places, findLaunch s slot = some l → findReq l id = some q → q.state = .issued →
    let s1 := setReq s slot q
    findLaunch s1 slot = some l1 → specTask s1 q.firing = some t → recOf l1 q.firing = some r →
    reqCtx s1 q.firing r = some c →
    checkUnits s1 l1 (portOf l1 q.firing) false false (needOf q.op) q.unit (unitLane c.r.type) 0 q.addrs = .ok places →
    linesFit l1 t.vtile (linesFor l1 t q places) = true →
    exec (.mailbagEntry slot id) s = .next (enterReq (fillTile s1 l1 (portOf l1 q.firing) false q.addrs) l1 c t q places)) ∧
  (∀ s slot id l f l1 r c t, findLaunch s slot = some l → findReq l id = none → assoc l.cargo id = some (.sendHeld f false) →
    let s1 := modLaunch s slot fun l => { l with cargo := assocDel l.cargo id }
    findLaunch s1 slot = some l1 → recOf l1 f = some r → ctxOf s1 f r = some c → c.fr.state ≠ .draining →
    specTask s1 f = some t → linesFit l1 t.vtile (sendLines f) = true →
    exec (.mailbagEntry slot id) s = .next (enterSend s1 c t)) ∧
  (∀ s slot fh l f, findLaunch s slot = some l → findFrame s fh = some f →
    (commitDue s l f = true →
      let ls := dataLines (tileOf l f.vtile) f.tcidx
      (ls ≠ [] → (lostAtom s.lost ls = none → exec (.taskCommit slot fh) s =
          .next (freeLines (performLines s slot ls) f)) ∧
        ∀ n, lostAtom s.lost ls = some n → exec (.taskCommit slot fh) s = .next (askRecovery s slot n)) ∧
      (∀ h rest, ls = [] → heldSends l f = h :: rest → sendOut l = false →
        exec (.taskCommit slot fh) s = .next (releaseSend s l f h)) ∧
      (ls = [] → heldSends l f = [] → sendOut l = false → exec (.taskCommit slot fh) s = .next (finishCommit s l f))) ∧
    (frontDue s l f = true →
      (lostAtom s.lost (dataLines (tileOf l f.vtile) f.tcidx) = none →
        exec (.taskFrontEntry slot fh) s = .next (enterFront s l f)) ∧
      ∀ n, lostAtom s.lost (dataLines (tileOf l f.vtile) f.tcidx) = some n →
        exec (.taskFrontEntry slot fh) s = .next (askRecovery s slot n))) ∧
  (∀ s slot id l r i, findLaunch s slot = some l → s.spawns.find? (fun r => r.id == id) = some r → r.pending = true →
    freeTaskCtx l.man (tileOf l (homeTile r)) = some i → poolFree s slot = true →
    let p := startTask { s with spawns := s.spawns.map fun x =>
        if x.id = id then { x with respawn := min 0xFFFF (x.respawn + 1) } else x } l (homeTile r) i r.parent r.fid r.ffill
      r.postmark id r.addr
    exec (.taskRespawn slot id) s = .next (emitToken p.1 slot
      { dest := r.dest, fh := p.2, tag := 0, fill := 0, dl := false, lp := false, sp := false, lanes := r.lanes, lpar := 0, hp := 0,
        src := 2 ^ 22 + id, hb := r.hb }))

/-- Performing one store line leaves at each byte that its mask names the byte it holds, and every other byte of device
memory and all of host memory as before; freeing a task's store and atomic lines keeps its SEND lines and every line of the
other contexts of its tile. (spec/14_postmarked_tasks.md.) -/
def Obligations.CommittedLinesReachMemory : Prop :=
  (∀ s slot (x : Line), x.kind = 1 → x.data.length = 64 →
    let t := performLines s slot [x]
    t.bus = s.bus ∧
    (∀ i, i < 64 → bit x.bmask.toNat i = true → readByte t.mem (64 * x.addr + i) = x.data.getD i 0) ∧
    (∀ a, (a < 64 * x.addr ∨ 64 * x.addr + 64 ≤ a ∨ bit x.bmask.toNat (a - 64 * x.addr) = false) →
      readByte t.mem a = readByte s.mem a)) ∧
  (∀ s (f : Frame) l, findLaunch s f.slot = some l → ∃ l1, findLaunch (freeLines s f) f.slot = some l1 ∧
    (tileOf l1 f.vtile).lines = (tileOf l f.vtile).lines.filter fun x =>
      x.ctx != f.tcidx || (x.kind != 1 && x.kind != 2))

/-- From READY on a doorbell within the ring sets TAIL, one beyond sets ERR and logs it; before READY, or on a page that the
function does not see, neither. A host write of a queue's word 0 sets EN and PAUSE and clears ERR where its bit is set; a
narrow, misaligned or foreign write does nothing. QUEUE_WAIT_POLL marks the queues whose host waits are met, with what the
reading acquires; DISPATCH gives the chosen queue its record and moves the rotation on; a bad record completes with 0x80;
FENCE completes with 0; COPY whose ends check and meet no placed range copies and completes with 0, else with 0x81, and with
its trap's code where an end traps; it waits for a host page; INVAL of a range not mapped drops the entries and waits, of a
mapped one completes with 0x81. That a narrow write outside the page of DEVSTAT does nothing, CODE 0x16 for a lost table
entry, COPY's reading all its bytes before it writes with the order of its checks, and a doorbell taken in RECOVERING are
the model's choices (log entries 46, 16, 34 and 35). (spec/15_package_launch_and_scheduling.md,
spec/16_host_interface_and_housekeeping.md.) -/
def Obligations.QueuesTakeAndCompleteRecords : Prop :=
  let kind (s : State) (q k : Nat) (r : Rec) : Prop := (queueOf s q).running = some r ∧ r.kind = k
  (∀ s fn q (v : BitVec 64),
    (s.dev = .ready ∨ s.dev = .recovering → seesQueue s fn q = true →
      ((v.setWidth 32 - (queueOf s q).head).toNat ≤ 2 ^ (min (queueOf s q).logn 11 + 4) →
        exec (.doorbell ⟨fn, q⟩ v) s = .next (modQueue s q fun x => rewait { x with tail := v.setWidth 32 })) ∧
      (2 ^ (min (queueOf s q).logn 11 + 4) < (v.setWidth 32 - (queueOf s q).head).toNat →
        exec (.doorbell ⟨fn, q⟩ v) s = .next (logEntry (modQueue s q fun x => { x with err := true })
          { kind := 1, part := (queueOf s q).part, queue := q, lslot := 0, value := v, user := 0 }))) ∧
    ((s.dev ≠ .ready ∧ s.dev ≠ .recovering) ∨ seesQueue s fn q = false → exec (.doorbell ⟨fn, q⟩ v) s = .next s) ∧
    (seesQueue s fn q = true → exec (.registerWrite fn ⟨0x100000 + 32 * q, 8⟩ v) s = .next (modQueue s q fun x =>
      rewait { x with en := bit v.toNat 0, pause := bit v.toNat 4, err := x.err && !bit v.toNat 6 })) ∧
    (seesQueue s fn q = false → exec (.registerWrite fn ⟨0x100000 + 32 * q, 8⟩ v) s = .next s) ∧
    (seesQueue s fn q = true ↔ q < 16384 ∧ (fn = 0 ∨ (queueOf s q).part + 1 = fn))) ∧
  (∀ s fn o n v, o % 8 ≠ 0 ∨ n ≠ 8 → exec (.registerWrite fn ⟨o, n⟩ v) s = .next s) ∧
  (∀ s v, exec (.registerWrite 0 ⟨0x1018, 8⟩ v) s = exec (.bootgo v) s ∧
    exec (.registerWrite 0 ⟨0x7020, 8⟩ v) s = exec (.attestGo v) s ∧
    ∀ d, d < 36 → exec (.registerWrite 0 ⟨0x2200 + 8 * d, 8⟩ v) s = exec (.hoplogClear d v) s) ∧
  (∀ s, exec .queueWaitPoll s = .next { s with
    queues := s.queues.map fun q => ((nextRecord s q).map fun r =>
      if pollFinds s q then { q with hostOk := true, hb := unionNat q.hb (waitHb s (hostWaits r)) } else q).getD q }) ∧
  (∀ s p w r, nextPart s = some p → chosen ((contenders s p).map fun q => { q with cnt := q.cnt + queueWeight q }) = some w →
    nextRecord s w = some r →
    let raised := (contenders s p).map fun q => { q with cnt := q.cnt + queueWeight q }
    let total := ((contenders s p).map queueWeight).sum
    let s2 := modQueue { s with
      rotation := (p + 1) % 8
      queues := s.queues.map fun q => ((raised.find? fun x => x.q == q.q).map fun x =>
        if x.q = w.q then { x with cnt := x.cnt - total } else x).getD q } w.q fun q => takeRecord q r
    exec .dispatch s = .next (if r.bad then finishRecord s2 w.q r (plainDone 0x80 0) [] else s2)) ∧
  (∀ s, nextPart s = none → exec .dispatch s = .next s) ∧
  (∀ s q part prio weight, exec (.queuePrioWeightChange q part prio weight) s = .next (modQueue s q fun x =>
    { x with part := part % 8, prio := prio % 4, weight := weight % 2 ^ 16,
             cnt := if x.prio = prio % 4 ∧ x.weight = weight % 2 ^ 16 then x.cnt else 0 })) ∧
  (∀ s q r, kind s q 3 r → exec (.fence q) s = .next (finishRecord s q r (plainDone 0 0) [])) ∧
  (∀ s q r src dst, kind s q 2 r →
    let l := recordSetting s q r
    copyEnd s l r.body0 r.body2 ⟨true, false⟩ = .ok src → copyEnd s l r.body1 r.body2 ⟨false, true⟩ = .ok dst →
    let foes := rangeFoes s l.part (copyRange r.body0 r.body2 1 ++ copyRange r.body1 r.body2 2)
    (foes = [] → exec (.copyRecord q) s = .next (finishRecord (clearPieces
      (copyWrite s (bit r.body1 63) dst (copyBytes s (bit r.body0 63) src)) (bit r.body1 63) dst) q r (plainDone 0 0) [])) ∧
    (foes ≠ [] → exec (.copyRecord q) s = .next (finishRecord s q r (plainDone 0x81 0) []))) ∧
  (∀ s q r u, kind s q 2 r →
    let l := recordSetting s q r
    copyEnd s l r.body0 r.body2 ⟨true, false⟩ = .error u ∨
      (∃ src, copyEnd s l r.body0 r.body2 ⟨true, false⟩ = .ok src ∧ copyEnd s l r.body1 r.body2 ⟨false, true⟩ = .error u) →
    (∀ t, u = .trap t → exec (.copyRecord q) s = .next (finishRecord s q r (plainDone t.code t.detail) [])) ∧
    (∀ n, u = .lost n → exec (.copyRecord q) s = .next (finishRecord s q r (plainDone 0x16 0) [])) ∧
    (∀ h v, u = .miss h v → exec (.copyRecord q) s = .next s)) ∧
  (∀ s q r, kind s q 4 r → (∀ v ∈ s.invals, v.queue ≠ some q) →
    let mapped := ∃ l ∈ s.launches, l.part = (queueOf s q).part ∧ l.phase ≠ .closed ∧
      ∃ t ∈ launchRanges l, meetsRange t.base t.bytes r.body0 r.body1 = true
    (r.hostinv = false → mapped → exec (.inval q) s = .next (finishRecord s q r (plainDone 0x81 0) [])) ∧
    (r.hostinv = true ∨ ¬mapped → exec (.inval q) s = .next (beginInval { s with nextId := s.nextId + 1 } s.nextId
      (if r.hostinv then .pasid r.pasid r.body0 r.body1 else .part (queueOf s q).part r.body0 r.body1) (some q))))

/-- A LAUNCH whose image loads, whose ranges are allowed and whose region finds a place is staged on it; with no place now,
or with route tables to be built anew first, its queue is blocked; a failed read completes with 0x16, an invalid image or a
strict one whose tensors overlap with 0x17, an impossible region with 0x82. The last tile to answer a seal wave seals the
launch, and its commit wave starts it; a KIND 2 arc binds to its partner with the credit of its letterbox, a KIND 3 arc
declares itself to its peer, binds to the declaration of its other end and to no other, or, with no plane for it, breaks; a
launch whose end conditions hold writes its completion and is released, and its slot is freed with every event that names
it. That the launch's own overlap is judged before 0x82, that the place is sought after validation, and that pins outside
the region give 0x82 are the model's choices (log entry 33). (spec/15_package_launch_and_scheduling.md.) -/
def Obligations.LaunchesStageSealAndEnd : Prop :=
  (∀ s q r, (queueOf s q).running = some r → r.kind = 1 → (∀ l ∈ s.launches, l.queue = q → l.phase = .closed) →
    let part := (queueOf s q).part
    (∀ s1 m, loadLaunch s part r = .ok (s1, m) → r.permissive = true ∨ ownOverlap m.tensors = none →
      (unplaceable s1 part m r.maxfold = true → exec (.launch q) s = .next (finishRecord s1 q r (plainDone 0x82 0) [])) ∧
      (unplaceable s1 part m r.maxfold = false →
        (routedState s1 = none → exec (.launch q) s = .next (modQueue s1 q fun x => { putRecord x r with blocked := true })) ∧
        ∀ s2, routedState s1 = some s2 →
          (∀ fold depots, findPlace s2 part m r.maxfold = some (fold, depots) →
            exec (.launch q) s = .next (stageLaunch s2 q r m fold depots)) ∧
          (findPlace s2 part m r.maxfold = none → exec (.launch q) s = .next (blockLaunch s2 q r m)))) ∧
    (∀ s1 m k, loadLaunch s part r = .ok (s1, m) → r.permissive = false → ownOverlap m.tensors = some k →
      exec (.launch q) s = .next (finishRecord s1 q r { plainDone 0x17 (errDetail (k, 0x0B)) with moffset := k } [])) ∧
    (loadLaunch s part r = .error .fetch → exec (.launch q) s = .next (finishRecord s q r (plainDone 0x16 0) [])) ∧
    (∀ e, loadLaunch s part r = .error (.invalid e) → exec (.launch q) s =
      .next (finishRecord s q r { plainDone 0x17 (errDetail e) with moffset := e.1 } []))) ∧
  (∀ s slot v l, findLaunch s slot = some l → l.phase = .staging → (∃ t ∈ l.tiles, t.vtile = v) → (∀ t ∈ l.tiles, t.state = .staging) →
    let l1 := modTile l v fun t => { t with answered := true }
    ((∀ t ∈ l.tiles, t.vtile = v ∨ t.answered = true) → ∃ t, exec (.sealWave slot v) s = .next t ∧
      findLaunch t slot = some { l1 with phase := .sealed }) ∧
    (¬(∀ t ∈ l.tiles, t.vtile = v ∨ t.answered = true) → ∃ t, exec (.sealWave slot v) s = .next t ∧
      findLaunch t slot = some l1)) ∧
  (∀ s slot l, findLaunch s slot = some l →
    (l.phase = .sealed → exec (.commitWave slot) s = .next (commitLaunch s l)) ∧
    (∀ m f, l.phase = .running → l.staged = some m → l.reconf = some f → (∀ t ∈ l.tiles, t.answered = true) →
      exec (.commitWave slot) s = .next (commitMode s l m f)) ∧
    (l.phase = .running → l.staged = none → exec (.commitWave slot) s = .next (injectSeeds s slot l.seedsLeft)) ∧
    (l.phase = .ended ∨ endDue s l = true → exec (.launchEnd slot) s = .next (completeLaunch s l)) ∧
    (l.phase ≠ .ended → endDue s l = false → exec (.launchEnd slot) s = .next s) ∧
    (l.phase = .closed → exec (.slotRelease slot) s = .next { s with
      launches := s.launches.filter fun x => x.slot != slot
      agenda := s.agenda.filter fun p => eventSlot p.act != some slot }) ∧
    (l.phase ≠ .closed → exec (.slotRelease slot) s = .next s)) ∧
  (∀ s slot arc l a, findLaunch s slot = some l → l.man.arcs.find? (fun a => a.arc == arc) = some a → unboundArc l a = true →
    (∀ peer o b, a.kind = 2 → arcPartner s l a = some (o, b) → exec (.arcBind slot arc peer) s =
      .next (if a.src = 0x3FFFF then bindPair s o b l a else bindPair s l a o b)) ∧
    (∀ peer, a.kind = 2 → arcPartner s l a = none → exec (.arcBind slot arc peer) s = .next s) ∧
    (∀ c peer, a.kind ≠ 2 → s.comms[l.part]? = some c →
      (∀ e, c.entries[a.peer / 256]? = some e → planeOf e (a.peer % 256) = none) →
      exec (.arcBind slot arc peer) s = .next (modLaunch s slot fun l => modArc l arc fun x => { x with bind := .broken 3 })) ∧
    (∀ c e plane p, a.kind ≠ 2 → s.comms[l.part]? = some c → c.entries[a.peer / 256]? = some e →
      planeOf e (a.peer % 256) = some plane →
      (otherEnd s l a e p = true → exec (.arcBind slot arc (some p)) s = .next (modLaunch s slot fun l => modArc l arc fun x =>
        bindCross x l a p plane (((s.comms[l.part]?).map fun c => c.cver.toNat).getD 0))) ∧
      (otherEnd s l a e p = false → exec (.arcBind slot arc (some p)) s = .next s) ∧
      exec (.arcBind slot arc none) s = .next (sendFlit s plane e.pkg (.declare (declaration s l a) false))))

/-- HALT_REQUEST stops a running region's service, gives a staging launch or a MODE being staged up, and waits for a commit
wave that is due; HALT_COMPLETE marks a halting tile with nothing active, no delivery pending and no token of a round's to
perform, and with the last the region; REGION_SHRINK moves a halted region into its target's depots and resumes it;
FOLD_RESTORE halts a folded region whose vacated depots are free, then moves it back; FOLD_EXCHANGE makes the next slot live
once nothing is active. METER_REFILL adds RATE up to DEPTH; CLOCK_STEP sets a clock between 1,200 and 2,400 MHz in steps of
100 unless its die is tripped; THERMAL_TRIP takes the meters of the die's regions to 1/16 of their caps, THERMAL_CLEAR back
to Oatin's settings unless another of their dies is tripped; DEADLOCK_SAMPLE takes the new cycles and traps each lasting one
against its least member; DEADLOCK_IDLE traps an idle region that no wait exempts. The clocks and rates that THERMAL_CLEAR
restores, rates held while another die of the region is tripped, and all folds exchanged together are the model's choices
(log entries 35, 18 and 33). (spec/05_tile.md, spec/15_package_launch_and_scheduling.md.) -/
def Obligations.RegionsClocksAndMetersChange : Prop :=
  (∀ s slot l, findLaunch s slot = some l →
    (l.phase = .running → l.reconf = none → exec (.haltRequest slot) s = .next (setLaunch s { l with
      phase := .halting
      tiles := l.tiles.map fun t => if t.state = .running ∨ t.state = .folded then { t with state := .halting } else t
      couriers := l.couriers.map fun q =>
        if q.state = .running ∨ q.state = .waiting then { q with resume := q.state, state := .halted } else q })) ∧
    (l.phase = .staging → exec (.haltRequest slot) s = .next (abandonLaunch s l)) ∧
    (l.phase = .sealed → exec (.haltRequest slot) s = .next (pushAlone s (.haltRequest slot))) ∧
    (∀ f, l.phase = .running → l.reconf = some f →
      ((∀ t ∈ l.tiles, t.answered = true) → exec (.haltRequest slot) s = .next (pushAlone s (.haltRequest slot))) ∧
      (¬(∀ t ∈ l.tiles, t.answered = true) →
        exec (.haltRequest slot) s = .next (modLaunch (abortMode s l f) slot haltRegion))) ∧
    (∀ v, (tileOf l v).state = .halting → tileIdle s l (tileOf l v) = true → (∀ q ∈ l.couriers, q.pending = 0) →
      (∀ p ∈ l.cargo, cargoOwn l p.2 = false) → (∀ p ∈ l.flights, roundFlight l p.2 = false) →
      let l1 := modTile l v fun t => { t with state := .halted }
      let all := l.phase = .halting ∧ ∀ t ∈ l1.tiles, t.state = .halted ∨ t.state = .offline
      (all → exec (.haltComplete slot v) s = .next (setLaunch s { l1 with phase := .halted })) ∧
      (¬all → exec (.haltComplete slot v) s = .next (setLaunch s l1))) ∧
    (1 < l.fold → l.phase = .running → (∀ t ∈ l.tiles, bankLive l t.vtile = true → tileIdle s l t = true) →
      exec (.foldExchange slot) s = .next (setLaunch s { l with live := (l.live + 1) % l.fold })) ∧
    (l.phase = .halted → l.fold < l.target → exec (.regionShrink slot) s = .next (unblock (setLaunch (leaveRegion s l)
      (resumeRegion (resetRates s { l with
        depots := keptDepots l l.target, fold := l.target, live := 0, before := (l.fold, l.depots) :: l.before }))) l.part)) ∧
    (l.phase = .halted → l.target ≤ l.fold → exec (.regionShrink slot) s = .next (setLaunch s (resumeRegion l))) ∧
    (∀ fold depots rest, l.before = (fold, depots) :: rest →
      (∀ d ∈ depots, d ∈ freeDepots s l.part ∨ d ∈ l.depots) →
      (l.phase = .running → exec (.foldRestore slot) s = .next (pushAll s [.haltRequest slot, .foldRestore slot])) ∧
      (l.phase = .halted → exec (.foldRestore slot) s = .next (setLaunch (leaveRegion s l) (resumeRegion
        (resetRates s { l with depots, fold, target := fold, live := 0, before := rest }))))) ∧
    (∀ fold depots rest, l.before = (fold, depots) :: rest →
      (∃ d ∈ depots, d ∉ freeDepots s l.part ∧ d ∉ l.depots) →
      (l.phase = .running → exec (.foldRestore slot) s = .next s) ∧
      (l.phase = .halted → exec (.foldRestore slot) s = .next (setLaunch s (resumeRegion l)))) ∧
    (l.phase = .running → idleExempt s l = false → heldFirings s l ≠ [] → launchIdle s l = true →
      exec (.deadlockIdle slot) s = .next (trapDeadlock s slot 1 (heldFirings s l))) ∧
    (l.phase ≠ .running ∨ idleExempt s l = true ∨ launchIdle s l = false → exec (.deadlockIdle slot) s = .next s)) ∧
  (∀ s, exec .meterRefill s = .next { s with launches := s.launches.map fun l =>
    { l with meters := l.meters.map fun m => { m with level := min m.depth (m.level + m.rate) } } }) ∧
  (∀ s die mhz, (1200 ≤ mhz → mhz ≤ 2400 → mhz % 100 = 0 → s.trips.getD die false = false →
      exec (.clockStep die mhz) s = .next { s with clocks := modAt s.clocks die fun _ => mhz }) ∧
    (mhz < 1200 ∨ 2400 < mhz ∨ mhz % 100 ≠ 0 ∨ s.trips.getD die false = true → exec (.clockStep die mhz) s = .next s)) ∧
  (∀ s die, die < s.trips.length → exec (.thermalTrip die) s = .next { s with
      trips := modAt s.trips die fun _ => true, clocks := modAt s.clocks die fun _ => 1200
      launches := s.launches.map fun l => if l.depots.any fun d => d / 9 == die then
          { l with meters := l.meters.mapIdx fun k m => { m with rate := meterCap l.couriers.length k / 16 } } else l }) ∧
  (∀ s die, exec (.thermalClear die) s = .next { s with
      trips := modAt s.trips die fun _ => false, clocks := modAt s.clocks die fun _ => 2400
      launches := s.launches.map fun l => if l.depots.any fun d => d / 9 == die then
          { l with meters := l.meters.mapIdx fun k m => { m with
            rate := if l.depots.any fun d => d / 9 != die && s.trips.getD (d / 9) false then meterCap l.couriers.length k / 16
              else min (s.cfg.meterRate.getD (4 * l.slot + k) 0) (meterCap l.couriers.length k) } } else l }) ∧
  (∀ s, exec .deadlockSample s = .next ((cycleHeads s (lastingCycle s)).foldl (fun t e => trapDeadlock t e.slot 0 [e.firing])
    { s with detector := { cycle := dedup ((cycleEdges (waitEdges s)).map (·.src)), issued := [] } }))

/-- BOOTGO in WAITIMG or FAILED starts the fetch; a fetched good image leads to INIT, a failed fetch to FAILED 1, a bad
image to its code; an initialisation that succeeds leads to READY with what it brought within the package's bounds, the
route tables of the bad-node register and no queue enabled, one that fails to FAILED 6. A started report is signed over its
body; a sample takes the counters, clocks and sensors. At a port that exists a repaired flit of what is under way counts a
retry, a second failure is logged, sets its bad-node bit and corrupts its token, or, of another class, ends its launch with
0x05 detail 3; writing VALID clears a hop log. An uncorrectable error stops the launches it concerns with STATE at
RECOVERING; the first of them is then recovered, and with the last STATE is READY; a VF FLR waits for its partition's
recoveries, stops its launches and resets its queues; a PF reset keeps of the device only the bad-node register; power-up
nothing. That a recovery takes two steps, that a VF FLR clears the head lists, and that host memory stays through every
reset are the model's choices (log entry 35). (spec/09_tile_faults.md, spec/16_host_interface_and_housekeeping.md.) -/
def Obligations.DeviceBootsReportsAndResets : Prop :=
  (∀ s (v : BitVec 64), bit v.toNat 0 = true → (s.dev = .waitImg ∨ s.dev = .failed →
      exec (.bootgo v) s = .next (pushAlone { s with dev := .loading, failcode := 0 } (.bootImageChecked true))) ∧
    (s.dev ≠ .waitImg → s.dev ≠ .failed → exec (.bootgo v) s = .next s) ∧
    (s.dev = .ready ∨ s.dev = .recovering → s.attBusy = false →
      exec (.attestGo v) s = .next (pushAlone { s with attBusy := true, attDone := false } .attestReportDone))) ∧
  (∀ s, s.dev = .loading → exec (.bootImageChecked false) s = .next { s with dev := .failed, failcode := 1 } ∧
    let bs := readRun s.bus (s.bootaddr.toNat % 2 ^ 52) s.bootlen.toNat
    (imageFail bs = none → exec (.bootImageChecked true) s = .next { s with dev := .init, image := bs }) ∧
    (∀ k, imageFail bs = some k → exec (.bootImageChecked true) s = .next { s with dev := .failed, failcode := k })) ∧
  (∀ s cfg, s.dev = .init → (cfg.ok = false → exec (.bootReady cfg) s = .next { s with dev := .failed, failcode := 6 }) ∧
    (cfg.ok = true → ∃ t, exec (.bootReady cfg) s = .next t ∧ t.dev = .ready ∧ t.cfg = partSettings cfg ∧
      t.budget = min cfg.budget 2400 ∧ t.cfg.memBytes = 48 * 2 ^ 30 * popCount 12 (cfg.stackMap % 2 ^ 12) ∧ t.epoch = 0 ∧
      t.queues = [] ∧ t.routes = routeTables t ∧ t.routed = t.badnode ∧
      t.badnode = s.badnode.mapIdx (fun d w => w ||| (cfg.badnode.getD d 0 &&& BitVec.ofNat 64 (badnodeMask d))) ∧
      t.launches = s.launches ∧ t.mem = s.mem ∧ t.bus = s.bus)) ∧
  (∀ s, s.attBusy = true → exec .attestReportDone s = .next { s with
    attBusy := false, attDone := true
    report := reportBody s ++ fitBytes 1280 (Config.falconSign (Config.shake256 (reportBody s))) }) ∧
  (∀ s, exec .telemetrySample s = .next { s with
      telemetry := s.telemetry.mapIdx (telemetryWord s), sampled := s.telemetry.mapIdx (telemetryWord s) } ∧
    ∀ i w, sensed i = false →
      (32 ≤ i → i < 36 → telemetryWord s i w = BitVec.ofNat 64 (s.clocks.getD (i - 32) 0)) ∧
      (i < 32 ∨ 36 ≤ i → outsideCount i = false → telemetryWord s i w = w)) ∧
  (∀ s slot of depot port flit word retryBad l, findLaunch s slot = some l →
    exec (.flitReceive slot of depot port flit word false retryBad) s = .next s ∧
    (portExists depot port = false ∨ flitUnderWay l of flit = false →
      exec (.flitReceive slot of depot port flit word true retryBad) s = .next s) ∧
    (portExists depot port = true → flitUnderWay l of flit = true →
      exec (.flitReceive slot of depot port flit word true false) s = .next { s with
        hoplog := modWord s.hoplog depot fun w => if field w 48 8 = 255 then w else w + 2 ^ 48
        telemetry := modAt s.telemetry (16 + depot / 9) (· + 1) } ∧
      let failed (cls : Nat) : State := { s with
        hoplog := modWord s.hoplog depot fun w => logHop w port cls word
        badnode := modWord s.badnode depot fun w => w ||| portBit port }
      (∀ id, of = .token id →
        exec (.flitReceive slot of depot port flit word true true) s = .next (modLaunch (failed 0) slot fun l =>
          { l with flights := l.flights.map fun p => if p.1 = id then (p.1, corruptToken p.2 flit word) else p })) ∧
      (∀ id g, of = .cargo id → assoc l.cargo id = some g → exec (.flitReceive slot of depot port flit word true true) s =
        .next (endFault (failed (flitClass of (some g))) slot 0x05 3 none)) ∧
      ((∀ id, of ≠ .token id ∧ of ≠ .cargo id) → exec (.flitReceive slot of depot port flit word true true) s =
        .next (endFault (failed (flitClass of none)) slot 0x05 3 none)))) ∧
  (∀ s depot (v : BitVec 64), (bit v.toNat 63 = true →
      exec (.hoplogClear depot v) s = .next { s with hoplog := modAt s.hoplog depot fun _ => 0 }) ∧
    (bit v.toNat 63 = false → exec (.hoplogClear depot v) s = .next s)) ∧
  (∀ s slot n v w, exec (.recovery (.read slot n)) s = .next (beginRecovery (loseLine s n) slot (some n)) ∧
    (∀ l, findLaunch s slot = some l → l.phase ≠ .closed → (∀ p ∈ s.recovering, p.1 ≠ slot) →
      exec (.recovery (.owned slot)) s = .next (beginRecovery s slot none) ∧
      (beginRecovery s slot none).dev = .recovering ∧
      (∃ l1, findLaunch (beginRecovery s slot none) slot = some l1 ∧ l1.phase = .ended)) ∧
    (∀ line rest, s.recovering = (slot, line) :: rest →
      exec (.recovery (.owned slot)) s = .next { recoverLaunch s slot line with
        recovering := rest, dev := if rest = [] then .ready else .recovering }) ∧
    exec (.recovery (.line n)) s = .next (loseLine s n) ∧
    exec (.recovery (.sram slot v w)) s =
      .next (modLaunch s slot fun l => modTile l v fun t => { t with bad := unionNat t.bad [w] }) ∧
    exec (.recovery (.die n)) s = .next ((s.launches.filter fun l => l.depots.any fun d => d / 9 == n).foldl
      (fun t l => beginRecovery t l.slot none) s)) ∧
  (∀ s part, (∃ l ∈ s.launches, l.part = part ∧ ∃ p ∈ s.recovering, p.1 = l.slot) →
    exec (.vfFlr part) s = .next (pushAlone s (.vfFlr part))) ∧
  (∀ s part, (∀ l ∈ s.launches, l.part = part → ∀ p ∈ s.recovering, p.1 ≠ l.slot) →
    ∃ t, exec (.vfFlr part) s = .next t ∧ (∀ l ∈ t.launches, l.part = part → l.phase = .closed) ∧
    t.mem = s.mem ∧ t.bus = s.bus ∧ ∀ q ∈ t.queues, q.part = part →
      q.en = false ∧ q.head = 0 ∧ q.tail = 0 ∧ q.done = 0 ∧ q.running = none ∧ q.blocked = false ∧ q.headList = []) ∧
  (∀ s, ∃ t u, exec .pfReset s = .next t ∧ exec .powerUp s = .next u ∧
    u = { State.reset with bus := s.bus, agenda := u.agenda, nextId := s.nextId, tick := s.tick } ∧
    t = { u with badnode := s.badnode } ∧ u.dev = .waitImg ∧ u.launches = [])

/-- For a firing that no speculative task defers, in a frame that neither drains nor is the office: with a handler, the
record of the firing joins the poison table under the next ticket, its 16 lanes go to the handler in the office frame with
tag 4 times the ticket, the frame is PARKED_FAULT with the code, the ticket open and the state it held kept for its release,
its TOKENS and flags as they were; nothing else of the launch, of another frame but the office's, or outside the launches
changes. Without a handler the launch ends with the code, the detail and the record. (spec/09_tile_faults.md.) -/
def Obligations.TrapsAreTakenPrecisely : Prop :=
  ∀ s f t l fr, findLaunch s f.slot = some l → findFrame s f.a.fh = some fr → l.tickets < 65536 → f.a.fh ≠ l.office →
    speculative s f.a.fh = false → fr.state ≠ .draining →
    let r : FaultRec := { recordOf s f t with ticket := l.tickets }
    let u := trapFiring s f t
    let noted : Launch := { l with tickets := l.tickets + 1, faulted := true, faults := l.faults ++ [r] }
    findFrame u f.a.fh = some { fr with
      state := .parkedFault, home := standing fr, fcode := t.code, opens := fr.opens ++ [l.tickets] } ∧
    (∀ fh, fh ≠ f.a.fh → fh ≠ l.office → findFrame u fh = findFrame s fh) ∧
    outside u = outside s ∧
    ∃ l1, findLaunch u f.slot = some l1 ∧
      (∀ h, l.man.handler = some h → speculative s l.office = false → placeDest (BitVec.ofNat 19 (h * 2)) ≠ 0x7FFFF →
        l1 = { noted with flights := l1.flights } ∧
        l1.flights.map (·.2) = l.flights.map (·.2) ++ [makeToken (placeDest (BitVec.ofNat 19 (h * 2))) l.office
          (BitVec.ofNat 64 (4 * l.tickets)) 34 false false false (recordLanes r) (2 ^ 20) []]) ∧
      (l.man.handler = none → l.phase ≠ .ended →
        l1 = { noted with phase := .ended, code := t.code, detail := t.detail, fault := some r })

/-- At each node with the standard treatment (every shared function among them) an issued last post emits a last post to
each destination under TAGOP, of one zero lane, or, where a credit or trigger with it is a dead letter, a dead letter too
with its poison index (log entry 25), and an issued dead letter emits to each a dead letter of a's colour with the lowest
poison index of its operands; neither performs the operation, raises a flag, counts a rate or changes anything but its
frame's tokens and its node's order. At every node but ARCOUT and ARCIN, an issued firing of a draining frame is discarded
with its operands, and the last post of a node of tile memory or device memory leaves likewise. (spec/01_token_and_frame.md,
spec/04_tag_frame_steering_instructions.md.) -/
def Obligations.LastPostsDeadLettersAndDrainingPass : Prop :=
  (∀ p ∈ standardNodes,
    (passesLp p.1 p.2 fun c es => outBoth c (lpLanes c) (anyDl c.f) true [] = .ok es) ∧
    (passesDl p.1 p.2 fun c es => outBoth c (poisonLanes (laneCount c) (poisonOf c)) true false [] = .ok es)) ∧
  (∀ i ∈ nodeForms, ∀ s c, s.issue = .node c.f → ctxOf s c.f c.r = some c → c.fr.state = .draining →
    exec (i c.r) s = .next (consume s c.f.a.fh (operandCount c.f))) ∧
  (∀ i ∈ [Instr.ldt, .stt, .ldm, .stm, .gather, .scatter, .done, .atomp, .atomr, .casr],
    passesLp i plain fun c es => outBoth c (lpLanes c) (anyDl c.f) true [] = .ok es)

/-- Whatever the state, its operands and its record, when a node instruction other than ARCOUT and ARCIN, or a block
instruction, answers a next state, every device register, queue, partition, memory, host memory, translation, port,
communicator, clock, log and counter is exactly as before: only the launches, the frame table, the spawn records and what is
under way between them may differ. (spec/01_token_and_frame.md, spec/05_tile.md, spec/20_programs_order_and_partitions.md.)
-/
def Obligations.ProgramsKeepTheMachineOutsideTheirLaunch : Prop :=
  (∀ i ∈ nodeForms, ∀ r s t, exec (i r) s = .next t → outside t = outside s) ∧
  (∀ i ∈ blockForms, ∀ b s t, exec (i b) s = .next t → outside t = outside s)

/-- For every instruction and every state, the registers of the host's view (device state and boot registers, bad-node
register and hop logs, nonce and report, samples, configuration, partitions, clocks) are unchanged in the next state unless
the instruction is one of the host's accesses, boot, power management, a sample, a recovery, or a received flit; and every
set bit of the bad-node register stays set through every instruction but POWER_UP. (spec/09_tile_faults.md,
spec/16_host_interface_and_housekeeping.md.) -/
def Obligations.OnlyTheHostAndItsEventsChangeTheHostsView : Prop :=
  ∀ i s t, exec i s = .next t →
    (hostEvent i = false → hostView t = hostView s) ∧ (i ≠ .powerUp → badnodeKept s t)

/-- From every state whose device memory and host memory list their nonzero bytes at strictly rising addresses, reachable or
not, a step that answers a next state leaves both in that form; so does every instruction run on its own.
(spec/11_device_memory_and_translation.md, spec/12_memory_model.md.) -/
def Obligations.StepsKeepMemoriesCanonical : Prop :=
  (∀ s t, memoriesWf s = true → step s = .next t → memoriesWf t = true) ∧
  (∀ i s t, memoriesWf s = true → exec i s = .next t → memoriesWf t = true)

/-- Where the next action is a ready firing whose node's word decodes to i, a block context whose next word decodes to i, or
a courier whose next word decodes to i, the step is i's execution with that firing, block instruction or round issued (the
firing taken from its desk), followed by the settling of holds; where it is an event of the agenda, the event is taken off
and run; with nothing enabled the state stays. A fault or refusal of the execution is the step's. Which enabled action comes
next is the model's choice where timing decides (log entry 1). (spec/05_tile.md, spec/13_couriers.md.) -/
def Obligations.StepsRunTheDecodedInstruction : Prop :=
  ∀ s,
    let settled (a : Act) (o : Out) : Out := match o with
      | .next t => .next (settleAct s a t)
      | .fault f => .fault f
      | .refused f => .refused f
    (∀ slot v r l w i, picked s = some (.fire slot v r) → findLaunch (takeReady s slot v r) r.firing.slot = some l →
      nodeWord l (fNode r.firing) = some w → decodeNode w = .ok i →
      step s = settled (.fire slot v r) (exec i { takeReady s slot v r with issue := .node r.firing })) ∧
    (∀ slot v x l k w i, picked s = some (.block slot v x) → findLaunch s slot = some l → findCtx l v x = some k →
      (blockWords l k.firing)[k.pc]? = some w → decodeBlock w = .ok i →
      step s = settled (.block slot v x) (exec i { s with issue := .block slot v x })) ∧
    (∀ slot n l q w i, picked s = some (.round slot n) → findLaunch s slot = some l → courierOf l n = some q →
      (roundWords l q.round)[q.pc]? = some w → decodeRound w = .ok i →
      step s = settled (.round slot n) (exec i { s with issue := .round slot n })) ∧
    (∀ k e, picked s = some (.event k) → s.agenda[k]? = some e →
      step s = settled (.event k) (exec e.act { s with agenda := s.agenda.eraseIdx k })) ∧
    (∀ i, picked s = some (.make i) → step s = settled (.make i) (exec i s)) ∧
    (picked s = none → step s = .next s)

/-- At reset STATE is WAITIMG with no failure code, no launch, frame, translation, invalidation or log entry exists, every
bad-node word and hop log word is 0, a queue has EN, PAUSE and ERR clear with HEAD, TAIL and DONE 0, no attestation report
is under way, the epoch is 0, and both memories are canonical; that no byte of memory is listed, so that each reads 0, is
the model's choice (log entry 2), as are the bad-node words and the attestation flags (log entry 5).
(spec/09_tile_faults.md, spec/15_package_launch_and_scheduling.md, spec/16_host_interface_and_housekeeping.md.) -/
def Obligations.ResetLeavesTheMachineEmpty : Prop :=
  let s := State.reset
  s.dev = .waitImg ∧ s.failcode = 0 ∧ s.launches = [] ∧ s.frames = [] ∧ s.spawns = [] ∧ s.dieTlb = [] ∧ s.tileTlb = [] ∧ s.invals = [] ∧ s.log = [] ∧
    s.badnode = List.replicate 36 0 ∧ s.hoplog = List.replicate 36 0 ∧ s.attBusy = false ∧ s.attDone = false ∧ s.epoch = 0 ∧
    memoriesWf s = true ∧ s.mem = [] ∧
    ∀ q, (queueOf s q).en = false ∧ (queueOf s q).pause = false ∧ (queueOf s q).err = false ∧ (queueOf s q).head = 0 ∧
      (queueOf s q).tail = 0 ∧ (queueOf s q).done = 0
end

