-- ==== Sys2Proof/Laws/Memory.lean ====
section
/-! SUPPORT. What the memory operations do: each keeps the canonical form, a read after a write gives what was written, and
a write leaves every other byte alone. -/

namespace Sys2Proof.Laws

open Machine

/-- A canonical memory's tail is canonical. -/
theorem wf_tail {k : Nat} {v : Byte} {t : Memory} (h : Memory.wf ((k, v) :: t) = true) : Memory.wf t = true := by
  cases t with
  | nil => rfl
  | cons c t => simp [Memory.wf] at h; exact h.2

/-- A canonical memory: its first byte is not zero, its tail is canonical and lies above. -/
theorem wf_cons {k : Nat} {v : Byte} {t : Memory} :
    Memory.wf ((k, v) :: t) = true ↔ v ≠ 0 ∧ Memory.wf t = true ∧ ∀ c ∈ t, k < c.1 := by
  induction t generalizing k v with
  | nil => simp [Memory.wf]
  | cons c t ih =>
    obtain ⟨j, w⟩ := c
    constructor
    · intro h
      have ht := wf_tail h
      simp only [Memory.wf, Bool.and_eq_true, bne_iff_ne, decide_eq_true_eq] at h
      refine ⟨h.1.1, ht, fun c hc => ?_⟩
      rcases List.mem_cons.mp hc with rfl | hc
      · exact h.1.2
      · exact h.1.2.trans ((ih.mp ht).2.2 c hc)
    · intro ⟨hv, ht, hk⟩
      simp only [Memory.wf, Bool.and_eq_true, bne_iff_ne, decide_eq_true_eq]
      exact ⟨⟨hv, hk _ (List.mem_cons_self ..)⟩, ht⟩

/-- What is listed after a cell is placed was listed, or is that cell. -/
theorem mem_placeCell {m : Memory} {a : Nat} {v : Byte} {c : Host.Cell} (h : c ∈ placeCell m a v) : c ∈ m ∨ c = (a, v) := by
  induction m with
  | nil => simp_all [placeCell]
  | cons d t ih => simp only [placeCell] at h; split at h <;> simp_all <;> tauto

/-- Placing a byte that is not zero at an address not yet listed keeps the canonical form. -/
theorem wf_placeCell {m : Memory} {a : Nat} {v : Byte} (hv : v ≠ 0) (ha : ∀ c ∈ m, c.1 ≠ a) (h : Memory.wf m = true) :
    Memory.wf (placeCell m a v) = true := by
  induction m with
  | nil => simpa [placeCell, Memory.wf] using hv
  | cons d t ih =>
    obtain ⟨k, w⟩ := d
    obtain ⟨hw, ht, hk⟩ := wf_cons.mp h
    have hne : k ≠ a := ha _ (List.mem_cons_self ..)
    simp only [placeCell]
    split
    · rename_i hlt
      refine wf_cons.mpr ⟨hv, h, fun c hc => ?_⟩
      rcases List.mem_cons.mp hc with rfl | hc
      · exact hlt
      · exact hlt.trans (hk c hc)
    · refine wf_cons.mpr ⟨hw, ih (fun c hc => ha c (List.mem_cons_of_mem _ hc)) ht, fun c hc => ?_⟩
      rcases mem_placeCell hc with hc | rfl
      · exact hk c hc
      · simp only; omega

/-- Leaving entries out keeps the canonical form. -/
theorem wf_filter {m : Memory} (p : Host.Cell → Bool) (h : Memory.wf m = true) : Memory.wf (m.filter p) = true := by
  induction m with
  | nil => rfl
  | cons d t ih =>
    obtain ⟨k, w⟩ := d
    obtain ⟨hw, ht, hk⟩ := wf_cons.mp h
    simp only [List.filter_cons]
    split
    · exact wf_cons.mpr ⟨hw, ih ht, fun c hc => hk c (List.mem_filter.mp hc).1⟩
    · exact ih ht

/-- Writing a byte keeps the canonical form. -/
theorem wf_writeByte {m : Memory} (a : Nat) (v : Byte) (h : Memory.wf m = true) : Memory.wf (writeByte m a v) = true := by
  simp only [writeByte]
  split
  · exact wf_filter _ h
  · exact wf_placeCell (by simp_all) (fun c hc => by simpa using (List.mem_filter.mp hc).2) (wf_filter _ h)

/-- Writing bytes keeps the canonical form. -/
theorem wf_writeBytes {m : Memory} (a : Nat) (bs : List Byte) (h : Memory.wf m = true) :
    Memory.wf (writeBytes m a bs) = true := by
  induction bs generalizing m a with
  | nil => exact h
  | cons b t ih => exact ih (a + 1) (wf_writeByte a b h)

/-- Writing a number keeps the canonical form. -/
theorem wf_writeNat {m : Memory} (a n x : Nat) (h : Memory.wf m = true) : Memory.wf (writeNat m a n x) = true :=
  wf_writeBytes a _ h

/-- What lies in a memory of given bytes lies from its first address on. -/
theorem le_memOfBytes {a : Nat} {bs : List Byte} {c : Host.Cell} (h : c ∈ memOfBytes a bs) : a ≤ c.1 := by
  induction bs generalizing a with
  | nil => simp [memOfBytes] at h
  | cons b t ih =>
    simp only [memOfBytes] at h
    split at h
    · exact Nat.le_of_succ_le (ih h)
    · rcases List.mem_cons.mp h with rfl | h
      · exact Nat.le_refl _
      · exact Nat.le_of_succ_le (ih h)

/-- A memory of given bytes is canonical. -/
theorem wf_memOfBytes (a : Nat) (bs : List Byte) : Memory.wf (memOfBytes a bs) = true := by
  induction bs generalizing a with
  | nil => rfl
  | cons b t ih =>
    simp only [memOfBytes]
    split
    · exact ih _
    · exact wf_cons.mpr ⟨by simp_all, ih _, fun c hc => le_memOfBytes hc⟩

/-- An address that is not listed reads as 0. -/
theorem readByte_absent {m : Memory} {a : Nat} (h : ∀ c ∈ m, c.1 ≠ a) : readByte m a = 0 := by
  induction m with
  | nil => rfl
  | cons d t ih =>
    simp only [readByte]
    rw [if_neg (by simpa using h d (List.mem_cons_self ..)), ih fun c hc => h c (List.mem_cons_of_mem _ hc)]

/-- The entries of other addresses do not matter to a read. -/
theorem readByte_filter {m : Memory} {a : Nat} (p : Host.Cell → Bool) (hp : ∀ v, p (a, v) = true) :
    readByte (m.filter p) a = readByte m a := by
  induction m with
  | nil => rfl
  | cons d t ih =>
    obtain ⟨k, w⟩ := d
    simp only [List.filter_cons]
    by_cases hk : k = a
    · subst hk; simp [hp, readByte]
    · split <;> simp [readByte, hk, ih]

/-- A placed cell is read at its address. -/
theorem readByte_placeCell_self {m : Memory} {a : Nat} (v : Byte) (h : ∀ c ∈ m, c.1 ≠ a) :
    readByte (placeCell m a v) a = v := by
  induction m with
  | nil => simp [placeCell, readByte]
  | cons d t ih =>
    have hd := h d (List.mem_cons_self ..)
    simp only [placeCell]
    split
    · simp [readByte]
    · simp [readByte, hd, ih fun c hc => h c (List.mem_cons_of_mem _ hc)]

/-- A placed cell does not matter at another address. -/
theorem readByte_placeCell_ne {m : Memory} {a b : Nat} (v : Byte) (h : b ≠ a) :
    readByte (placeCell m a v) b = readByte m b := by
  induction m with
  | nil => simp [placeCell, readByte, h.symm]
  | cons d t ih => simp only [placeCell]; split <;> simp [readByte, h.symm, ih]

/-- A byte read where it was written is the byte written. -/
theorem readByte_writeByte_self {m : Memory} (a : Nat) (v : Byte) : readByte (writeByte m a v) a = v := by
  have h : ∀ c ∈ m.filter (fun c => c.1 != a), c.1 ≠ a := fun c hc => by simpa using (List.mem_filter.mp hc).2
  simp only [writeByte]
  split
  · rw [readByte_absent h]; simp_all
  · exact readByte_placeCell_self v h

/-- A byte written leaves every other byte alone. -/
theorem readByte_writeByte_ne {m : Memory} {a b : Nat} (v : Byte) (hab : b ≠ a) :
    readByte (writeByte m a v) b = readByte m b := by
  have h := readByte_filter (m := m) (a := b) (fun c => c.1 != a) (by simpa using hab)
  simp only [writeByte]
  split
  · exact h
  · rw [readByte_placeCell_ne v hab, h]

/-- Bytes written leave every byte outside them alone. -/
theorem readByte_writeBytes_out {m : Memory} {a b : Nat} (bs : List Byte)
    (hb : b < a ∨ a + bs.length ≤ b) : readByte (writeBytes m a bs) b = readByte m b := by
  induction bs generalizing m a with
  | nil => rfl
  | cons x t ih =>
    simp only [List.length_cons] at hb
    simp only [writeBytes]
    rw [ih (by omega), readByte_writeByte_ne x (by omega)]

/-- A byte read among bytes written is the byte written there. -/
theorem readByte_writeBytes_in {m : Memory} (a : Nat) (bs : List Byte) (i : Nat) (hi : i < bs.length) :
    readByte (writeBytes m a bs) (a + i) = bs[i] := by
  induction bs generalizing m a i with
  | nil => simp at hi
  | cons x t ih =>
    simp only [writeBytes]
    cases i with
    | zero =>
      rw [readByte_writeBytes_out t (by omega)]
      simpa using readByte_writeByte_self a x
    | succ i =>
      have := ih (m := writeByte m a x) (a + 1) i (by simpa using hi)
      simpa [Nat.add_assoc, Nat.add_comm 1] using this

end Sys2Proof.Laws
end

