-- ==== Sys2Proof/Laws/Quiet.lean ====
section
/-! SUPPORT. What the shared operations leave alone: each of these changes nothing outside the launches, frames, spawn
records and what is under way (`Safety.outside`). -/

namespace Sys2Proof.Laws

open Machine Safety

@[simp] theorem outside_update (s : State) (fr : List Frame) (sp : List SpawnRec) (la : List Launch) (ag : List Pend)
    (n : Nat) :
    outside { s with frames := fr, spawns := sp, launches := la, agenda := ag, nextId := n } = outside s := rfl

theorem outside_foldl {α : Type} (f : State → α → State) (h : ∀ s a, outside (f s a) = outside s) :
    ∀ (l : List α) (s : State), outside (l.foldl f s) = outside s := by
  intro l
  induction l with
  | nil => intro s; rfl
  | cons a t ih => intro s; rw [List.foldl_cons, ih, h]

@[simp] theorem outside_setLaunch (s : State) (l : Launch) :
    outside (setLaunch s l) = outside s := by
  simp [setLaunch]

@[simp] theorem outside_modLaunch (s : State) (slot : Nat) (f : Launch → Launch) :
    outside (modLaunch s slot f) = outside s := by
  simp [modLaunch]

@[simp] theorem outside_modFrame (s : State) (fh : Nat) (f : Frame → Frame) :
    outside (modFrame s fh f) = outside s := by
  simp [modFrame]

@[simp] theorem outside_push (s : State) (c : Chan) (i : Instr) :
    outside (push s c i) = outside s := by
  simp [push]

@[simp] theorem outside_pushAlone (s : State) (i : Instr) :
    outside (pushAlone s i) = outside s := by
  simp [pushAlone]

@[simp] theorem outside_pushAll (s : State) (is : List Instr) :
    outside (pushAll s is) = outside s := by
  unfold pushAll
  simp [outside_foldl]

@[simp] theorem outside_settleTask (s : State) (t : Nat) :
    outside (settleTask s t) = outside s := by
  unfold settleTask
  (repeat' split) <;> simp

@[simp] theorem outside_consume (s : State) (fh n : Nat) :
    outside (consume s fh n) = outside s := by
  unfold consume
  split <;> simp

@[simp] theorem outside_sendToken (s : State) (slot : Nat) (t : Token) :
    outside (sendToken s slot t) = outside s := by
  simp [sendToken]

@[simp] theorem outside_emitToken (s : State) (slot : Nat) (t : Token) :
    outside (emitToken s slot t) = outside s := by
  unfold emitToken
  split <;> simp

@[simp] theorem outside_emitTokens (s : State) (slot : Nat) (ts : List Token) :
    outside (emitTokens s slot ts) = outside s := by
  unfold emitTokens
  simp [outside_foldl]

@[simp] theorem outside_sendAgain (s : State) (slot vdesk : Nat) (t : Token) :
    outside (sendAgain s slot vdesk t) = outside s := by
  simp [sendAgain]

theorem outside_checked {s t : State} {slot : Nat} {xs : List Access} (h : checkAccesses s slot xs = .ok t) :
    outside t = outside s := by
  unfold checkAccesses at h
  dsimp only at h
  (repeat' split at h) <;> cases h <;> simp

@[simp] theorem outside_endFault (s : State) (slot code detail : Nat) (r : Option FaultRec) :
    outside (endFault s slot code detail r) = outside s := by
  unfold endFault
  (repeat' split) <;> simp

@[simp] theorem outside_postRecord (s : State) (slot : Nat) (r0 : FaultRec) :
    outside (postRecord s slot r0) = outside s := by
  unfold postRecord
  split <;> simp [apply_ite outside]

@[simp] theorem outside_postEnd (s : State) (slot : Nat) (companions : List FaultRec) (r : FaultRec) :
    outside (postEnd s slot companions r) = outside s := by
  unfold postEnd
  dsimp only
  split <;> simp [outside_foldl]

@[simp] theorem outside_parkNotices (s : State) (slot fh : Nat) :
    outside (parkNotices s slot fh) = outside s := by
  unfold parkNotices
  split <;> simp [outside_foldl]

@[simp] theorem outside_parkFault (s : State) (slot fh code : Nat) :
    outside (parkFault s slot fh code) = outside s := by
  simp [parkFault]

@[simp] theorem outside_parkWait (s : State) (slot fh : Nat) :
    outside (parkWait s slot fh) = outside s := by
  simp [parkWait]

@[simp] theorem outside_redeliver (s : State) (slot fh : Nat) :
    outside (redeliver s slot fh) = outside s := by
  unfold redeliver
  split <;> simp [outside_foldl]

@[simp] theorem outside_releaseFrame (s : State) (slot fh : Nat) :
    outside (releaseFrame s slot fh) = outside s := by
  unfold releaseFrame
  dsimp only
  (repeat' split) <;> simp

@[simp] theorem outside_endWait (s : State) (slot fh : Nat) :
    outside (endWait s slot fh) = outside s := by
  simp [endWait]

@[simp] theorem outside_deferFault (s : State) (slot : Nat) (task : Nat) (rs : List FaultRec) (r : FaultRec) :
    outside (deferFault s slot task rs r) = outside s := by
  simp [deferFault]

@[simp] theorem outside_takeTrap (s : State) (slot : Nat) (companions : List FaultRec) (r : FaultRec) :
    outside (takeTrap s slot companions r) = outside s := by
  unfold takeTrap
  dsimp only
  (repeat' split) <;> simp [outside_foldl]

@[simp] theorem outside_trapFiring (s : State) (f : Firing) (t : Trap) :
    outside (trapFiring s f t) = outside s := by
  simp [trapFiring]

@[simp] theorem outside_raceFiring (s : State) (f : Firing) (p : Access × Access) :
    outside (raceFiring s f p) = outside s := by
  simp [raceFiring]

@[simp] theorem outside_headerFault (s : State) (slot : Nat) (t : Token) :
    outside (headerFault s slot t) = outside s := by
  simp [headerFault]

@[simp] theorem outside_trapArrival (s : State) (slot : Nat) (t : Token) (kept : List Token) (carry : Nat) (trap : Trap) :
    outside (trapArrival s slot t kept carry trap) = outside s := by
  simp [trapArrival]

/-- What a node body answers leaves everything outside the launches as `o`. -/
def resOutside (o : State) (res : Res) : Prop :=
  match res with
  | .done s _ _ | .later s => outside s = o
  | .trap _ | .race _ _ | .hold => True

@[simp] theorem outside_rateAdvance (s : State) (c : Ctx) (es : List Emission) (msgs : Nat) :
    outside (rateAdvance s c es msgs) = outside s := by
  simp [rateAdvance]

@[simp] theorem outside_newGroup (s : State) : outside (newGroup s).1 = outside s := rfl

theorem outside_newChecked {s t : State} {slot : Nat} {xs : List Access} (h : checkAccesses (newGroup s).1 slot xs = .ok t) :
    outside t = outside s := by rw [outside_checked h, outside_newGroup]

@[simp] theorem outside_sendEmissions (s : State) (c : Ctx) (es : List Emission) :
    outside (sendEmissions s c es) = outside s := by
  simp [sendEmissions]

@[simp] theorem outside_complete (s : State) (c : Ctx) (es : List Emission) (flags : Flags) :
    outside (complete s c es flags) = outside s := by
  unfold complete
  split <;> simp

@[simp] theorem outside_holdFiring (s : State) (f : Firing) :
    outside (holdFiring s f) = outside s := by
  simp [holdFiring]

@[simp] theorem outside_settle (s : State) (c : Ctx) (m : Nat) (d : Bool) (res : Res) (h : resOutside (outside s) res) :
    outside (settle s c m d res) = outside s := by
  unfold settle
  (repeat' split) <;> simp_all [resOutside]

@[simp] theorem outside_modFTile (s : State) (f : Firing) (g : Tile → Tile) :
    outside (modFTile s f g) = outside s := by
  simp [modFTile]

@[simp] theorem outside_putCtx (s : State) (slot vtile : Nat) (k : BlockCtx) :
    outside (putCtx s slot vtile k) = outside s := by
  simp [putCtx]

@[simp] theorem outside_dropCtx (s : State) (slot vtile ctx : Nat) :
    outside (dropCtx s slot vtile ctx) = outside s := by
  simp [dropCtx]

@[simp] theorem outside_trapBlock (s : State) (c : BCtx) (t : Trap) :
    outside (trapBlock s c t) = outside s := by
  simp [trapBlock]

@[simp] theorem outside_raceBlock (s : State) (slot : Nat) (f : Firing) (e x : Access) :
    outside (raceBlock s slot f e x) = outside s := by
  simp [raceBlock]

@[simp] theorem outside_stepBlock (s : State) (c : BCtx) (k : BlockCtx) :
    outside (stepBlock s c k) = outside s := by
  unfold stepBlock
  split <;> simp

@[simp] theorem outside_trapCommit (s : State) (c : Ctx) (vtile : Nat) (k : BlockCtx) (t : Trap) :
    outside (trapCommit s c vtile k t) = outside s := by
  simp [trapCommit]

@[simp] theorem outside_commitBlock (s : State) (c : Ctx) (vtile : Nat) (k : BlockCtx) :
    outside (commitBlock s c vtile k) = outside s := by
  unfold commitBlock
  (repeat' split) <;> first | (simp; done) | (simp; exact outside_checked ‹_›)

@[simp] theorem outside_addFrame (s : State) (f : Frame) :
    outside (addFrame s f) = outside s := by
  simp [addFrame]

@[simp] theorem outside_discardTokens (s : State) (slot fh : Nat) :
    outside (discardTokens s slot fh) = outside s := by
  unfold discardTokens
  split <;> simp

@[simp] theorem outside_drainFrame (s : State) (slot fh : Nat) :
    outside (drainFrame s slot fh) = outside s := by
  simp [drainFrame]

@[simp] theorem outside_returnHandle (s : State) (fh : Nat) :
    outside (returnHandle s fh) = outside s := by
  unfold returnHandle
  dsimp only
  (repeat' split) <;> simp

@[simp] theorem outside_modTaskCtx (s : State) (f : Frame) (g : TaskCtx → TaskCtx) :
    outside (modTaskCtx s f g) = outside s := by
  simp [modTaskCtx]

@[simp] theorem outside_dropTaskCtx (s : State) (f : Frame) :
    outside (dropTaskCtx s f) = outside s := by
  simp [dropTaskCtx]

@[simp] theorem outside_dropWork (s : State) (slot : Nat) (f : Frame) :
    outside (dropWork s slot f) = outside s := by
  unfold dropWork
  split <;> simp

@[simp] theorem outside_endOlders (s : State) (slot : Nat) (gone : List Nat) :
    outside (endOlders s slot gone) = outside s := by
  unfold endOlders
  split <;> simp [outside_foldl]

@[simp] theorem outside_dropRecord (s : State) (r : SpawnRec) : outside (dropRecord s r) = outside s := by
  unfold dropRecord
  dsimp only
  split <;> simp

@[simp] theorem outside_discardTasks (s : State) (slot t : Nat) :
    outside (discardTasks s slot t) = outside s := by
  unfold discardTasks
  simp [outside_foldl, apply_ite outside]

@[simp] theorem outside_abortTask (s : State) (slot t : Nat) :
    outside (abortTask s slot t) = outside s := by
  unfold abortTask
  dsimp only
  split <;> simp

@[simp] theorem outside_setReq (s : State) (slot : Nat) (q : Req) :
    outside (setReq s slot q) = outside s := by
  simp [setReq]

@[simp] theorem outside_dropReq (s : State) (slot id : Nat) :
    outside (dropReq s slot id) = outside s := by
  simp [dropReq]

@[simp] theorem outside_markPerformed (s : State) (slot : Nat) (q : Req) (hb : List Nat) :
    outside (markPerformed s slot q hb) = outside s := by
  unfold markPerformed
  split <;> simp

@[simp] theorem outside_acceptReq (s : State) (slot : Nat) (q : Req) :
    outside (acceptReq s slot q) = outside s := by
  simp [acceptReq]

@[simp] theorem outside_passChain (s : State) (f : Firing) (r : NodeRec) :
    outside (passChain s f r) = outside s := by
  simp [passChain]

@[simp] theorem outside_trapReq (s : State) (slot : Nat) (q : Req) (t : Trap) :
    outside (trapReq s slot q t) = outside s := by
  simp [trapReq]

@[simp] theorem outside_raceReq (s : State) (slot : Nat) (q : Req) (p : Access × Access) :
    outside (raceReq s slot q p) = outside s := by
  simp [raceReq]

@[simp] theorem outside_specAccess (s : State) (slot : Nat) (t : Frame) (write : Bool) (places : List Nat) (n : Nat) :
    outside (specAccess s slot t write places n) = outside s := by
  unfold specAccess
  split
  · rfl
  · dsimp only
    rw [outside_modLaunch, outside_foldl]
    intro s a
    split <;> (try split) <;> simp

@[simp] theorem outside_parkReq (s : State) (slot : Nat) (q : Req) (st : ReqState) :
    outside (parkReq s slot q st) = outside s := by
  simp [parkReq]

@[simp] theorem outside_waitOlder (s : State) (slot : Nat) (q : Req) (ts : List Nat) :
    outside (waitOlder s slot q ts) = outside s := by
  simp [waitOlder]

@[simp] theorem outside_popFifos (s : State) (c : Ctx) (a b : Bool) (n : Nat) (g : Nat) :
    outside (popFifos s c a b n g) = outside s := by
  unfold popFifos
  simp [outside_foldl]

@[simp] theorem outside_launchSend (s : State) (slot : Nat) (f : Firing) (r : NodeRec) (x : Arc) (held : Bool) :
    outside (launchSend s slot f r x held) = outside s := by
  simp [launchSend]

@[simp] theorem outside_holdSend (s : State) (f : Firing) :
    outside (holdSend s f) = outside s := by
  simp [holdSend]

@[simp] theorem outside_returnCredit (s : State) (slot arc : Nat) :
    outside (returnCredit s slot arc) = outside s := by
  simp [returnCredit]

@[simp] theorem outside_failCommit (s : State) (f : Firing) (e : Trap ⊕ (Access × Access)) :
    outside (failCommit s f e) = outside s := by
  unfold failCommit
  split <;> simp

@[simp] theorem outside_freeMessages (s : State) (l : Launch) (vt lb n : Nat) (hb : List Nat) :
    outside (freeMessages s l vt lb n hb) = outside s := by
  unfold freeMessages
  dsimp only
  (repeat' split) <;> simp

@[simp] theorem outside_takeMessage (s : State) (c : Ctx) (g : Nat) (hb : List Nat) :
    outside (takeMessage s c g hb) = outside s := by
  unfold takeMessage
  dsimp only
  (repeat' split) <;> simp

@[simp] theorem outside_closeTicket (s : State) (slot fh ticket : Nat) :
    outside (closeTicket s slot fh ticket) = outside s := by
  simp [closeTicket]

@[simp] theorem outside_endCourier (s : State) (slot : Nat) (round : Option Nat) :
    outside (endCourier s slot round) = outside s := by
  unfold endCourier
  split <;> simp

@[simp] theorem outside_resolveFiring (s : State) (slot : Nat) (c : Ctx) (opc : Nat) (rec : FaultRec) (tags : List (Nat ×
    (Nat × Nat))) (lanes : List Lane) (dl : Bool) (hb : List Nat) :
    outside (resolveFiring s slot c opc rec tags lanes dl hb) = outside s := by
  unfold resolveFiring
  simp [apply_ite outside]

@[simp] theorem outside_deliverAgain (s : State) (slot : Nat) (pass : Bool) (f : Firing) :
    outside (deliverAgain s slot pass f) = outside s := by
  unfold deliverAgain
  (repeat' split) <;> simp

@[simp] theorem outside_retryTicket (s : State) (slot : Nat) (rec : FaultRec) :
    outside (retryTicket s slot rec) = outside s := by
  unfold retryTicket
  (repeat' split) <;> simp [outside_foldl]

@[simp] theorem outside_killTickets (s : State) (slot fh : Nat) :
    outside (killTickets s slot fh) = outside s := by
  unfold killTickets
  split <;> simp [outside_foldl]

@[simp] theorem outside_killRequests (s : State) (slot fh : Nat) :
    outside (killRequests s slot fh) = outside s := by
  unfold killRequests
  split <;> simp

@[simp] theorem outside_killWork (s : State) (slot fh : Nat) : outside (killWork s slot fh) = outside s := by
  simp [killWork]

@[simp] theorem outside_killDeferred (s : State) (slot fh : Nat) : outside (killDeferred s slot fh) = outside s := by
  unfold killDeferred
  dsimp only
  (repeat' split) <;> simp

@[simp] theorem outside_killFrame (s : State) (slot fh : Nat) :
    outside (killFrame s slot fh) = outside s := by
  unfold killFrame
  (repeat' split) <;> simp [outside_foldl]

theorem outside_parityFault {s t : State} {slot : Nat} {k : Token} (h : parityFault s slot k = some t) :
    outside t = outside s := by
  unfold parityFault at h
  (repeat' split at h) <;> cases h <;> simp

theorem outside_firingFault {s t : State} {f : Firing} (h : firingFault s f = some t) : outside t = outside s := by
  unfold firingFault at h
  (repeat' split at h) <;> cases h <;> simp

theorem outside_poolToken {s t : State} {slot vdesk : Nat} {k : Token} (h : poolToken s slot vdesk k = some t) :
    outside t = outside s := by
  unfold poolToken at h
  (repeat' split at h) <;> cases h <;> simp

theorem outside_withdrawToken {s t : State} {slot vdesk : Nat} {k : Token} (h : withdrawToken s slot vdesk k = some t) :
    outside t = outside s := by
  unfold withdrawToken at h
  dsimp only at h
  (repeat' split at h) <;> first
    | exact outside_poolToken h
    | (cases h; exact outside_parityFault ‹_›)
    | (cases h <;> simp)

theorem outside_poolTokens {slot vdesk : Nat} {ts : List Token} :
    ∀ {s t : State}, poolTokens s slot vdesk ts = some t → outside t = outside s := by
  induction ts with
  | nil => intro s t h; cases h; rfl
  | cons k ks ih =>
    intro s t h
    simp only [poolTokens] at h
    split at h
    · exact (ih h).trans (outside_parityFault ‹_›)
    · simp only [Option.bind_eq_some_iff] at h
      obtain ⟨u, hu, ht⟩ := h
      exact (ih ht).trans (outside_poolToken hu)

/-- What one step of a withdrawal leaves, taken or not. -/
theorem outside_getD {s s0 : State} {x : Option State} (h : ∀ t, x = some t → outside t = outside s0)
    (hs : outside s = outside s0) : outside (x.getD s) = outside s0 := by
  cases x with
  | none => exact hs
  | some t => exact h t rfl

@[simp] theorem outside_withdrawWays (s : State) (slot vdesk : Nat) (ts : List Token) :
    outside (withdrawWays s slot vdesk ts) = outside s := by
  unfold withdrawWays
  refine outside_foldl _ (fun s t => ?_) _ _
  dsimp only
  cases h : withdrawToken _ slot vdesk t with
  | none => rfl
  | some u => simpa using outside_withdrawToken h

@[simp] theorem outside_withdrawReady (s : State) (slot vdesk : Nat) (rs : List Ready) :
    outside (withdrawReady s slot vdesk rs) = outside s := by
  unfold withdrawReady
  refine outside_foldl _ (fun s r => ?_) _ _
  exact outside_getD (fun t h => (outside_poolTokens h).trans (by simp)) rfl

@[simp] theorem outside_withdrawAside (s : State) (slot vdesk : Nat) (xs : List Aside) :
    outside (withdrawAside s slot vdesk xs) = outside s := by
  unfold withdrawAside
  refine outside_foldl _ (fun s x => ?_) _ _
  refine outside_getD (fun t h => ?_) rfl
  split at h
  · exact (outside_poolTokens h).trans (by simp)
  · exact (outside_withdrawToken h).trans (by simp)

@[simp] theorem outside_putCourier (s : State) (slot : Nat) (q : Courier) :
    outside (putCourier s slot q) = outside s := by
  simp [putCourier]

@[simp] theorem outside_trapRound (s : State) (l : Launch) (q : Courier) (f : Firing) (companions : List FaultRec)
    (t : Trap) :
    outside (trapRound s l q f companions t) = outside s := by
  simp [trapRound]

@[simp] theorem outside_finishRound (s : State) (c : Ctx) (q : Courier) (status : Nat) (hb : List Nat) :
    outside (finishRound s c q status hb) = outside s := by
  unfold finishRound
  split <;> simp

@[simp] theorem outside_stopRound (s : State) (q : Courier) (f : Firing) :
    outside (stopRound s q f) = outside s := by
  unfold stopRound
  (repeat' split) <;> simp

@[simp] theorem outside_failCouriers (s : State) (qs : List (Launch × Courier)) (detail : Nat) :
    outside (failCouriers s qs detail) = outside s := by
  unfold failCouriers
  refine outside_foldl _ (fun s x => ?_) _ _
  split <;> simp

@[simp] theorem outside_queueSpill (s : State) (slot vdesk : Nat) (t : Token) :
    outside (queueSpill s slot vdesk t) = outside s := by
  simp [queueSpill]

@[simp] theorem outside_takeWay (s : State) (slot vdesk : Nat) (t : Token) :
    outside (takeWay s slot vdesk t) = outside s := by
  simp [takeWay]

@[simp] theorem outside_makeReady (s : State) (slot vdesk : Nat) (a : Token) (b : Option Token) :
    outside (makeReady s slot vdesk a b) = outside s := by
  simp [makeReady]

@[simp] theorem outside_makePair (s : State) (slot vdesk : Nat) (tok w : Token) :
    outside (makePair s slot vdesk tok w) = outside s := by
  unfold makePair
  (repeat' split) <;> simp

@[simp] theorem outside_putBack (s : State) (c : Chan) (i : Instr) :
    outside (putBack s c i) = outside s := by
  simp [putBack]

@[simp] theorem outside_popSpill (s : State) (slot vdesk : Nat) :
    outside (popSpill s slot vdesk) = outside s := by
  simp [popSpill]

@[simp] theorem outside_lowerCount (s : State) (slot vdesk : Nat) (t : Token) :
    outside (lowerCount s slot vdesk t) = outside s := by
  simp [lowerCount]

@[simp] theorem outside_clearSlot (s : State) (slot vdesk : Nat) (p : SpillSlot) :
    outside (clearSlot s slot vdesk p) = outside s := by
  simp [clearSlot]

@[simp] theorem outside_putAside (s : State) (slot vdesk : Nat) (x : Aside) :
    outside (putAside s slot vdesk x) = outside s := by
  simp [putAside]

theorem outside_placeWaiting {s t : State} {slot vdesk : Nat} {k : Token} (h : placeWaiting s slot vdesk k = some t) :
    outside t = outside s := by
  unfold placeWaiting at h
  dsimp only at h
  (repeat' split at h) <;> first | (cases h; simp; done) | cases h

theorem outside_makeWays {slot vdesk set need : Nat} {partner : Option Token} {n : Nat} :
    ∀ {s t : State}, makeWays s slot vdesk set partner need n = some t → outside t = outside s := by
  induction n with
  | zero => intro s t h; cases h
  | succ n ih =>
    intro s t h
    unfold makeWays at h
    dsimp only at h
    (repeat' split at h) <;> first | (exact (ih h).trans (by simp)) | (cases h; done) | (cases h; rfl)

theorem outside_placeSolo {s t : State} {slot vdesk : Nat} {k : Token} (h : placeSolo s slot vdesk k = some t) :
    outside t = outside s := by
  unfold placeSolo at h
  obtain ⟨u, hu, rfl⟩ := Option.map_eq_some_iff.mp h
  simpa using outside_makeWays hu

@[simp] theorem outside_takeWaiting (s : State) (slot vdesk : Nat) (w : Token) :
    outside (takeWaiting s slot vdesk w) = outside s := by
  simp [takeWaiting]

theorem outside_placeUnmatched {s t : State} {slot vdesk : Nat} {k : Token} (h : placeUnmatched s slot vdesk k = some t) :
    outside t = outside s := by
  unfold placeUnmatched at h
  dsimp only at h
  (repeat' split at h) <;> first
    | exact outside_placeWaiting h
    | (cases h; simp; done)
    | (cases h; done)

theorem outside_meetPartner {s t : State} {slot vdesk opc : Nat} {d : Desk} {k w : Token}
    (h : meetPartner s slot vdesk opc d k w = some t) : outside t = outside s := by
  unfold meetPartner at h
  dsimp only at h
  split at h
  · obtain ⟨u, hu, rfl⟩ := Option.map_eq_some_iff.mp h
    simpa using outside_makeWays hu
  · exact (outside_placeUnmatched h).trans ((outside_parityFault ‹_›).trans (by simp))
  · cases h; simp

theorem outside_matchHere {s t : State} {slot vdesk opc : Nat} {d : Desk} {k : Token}
    (h : matchHere s slot vdesk opc d k = some (some t)) : outside t = outside s := by
  unfold matchHere at h
  split at h
  · exact outside_meetPartner (Option.some.inj h)
  · split at h <;> cases h
    simp

/-- What a token comes to where it is matched at its desk, or else placed another way. -/
theorem outside_matched {s t : State} {slot vdesk opc : Nat} {d : Desk} {k : Token} {o : Option State}
    (ho : ∀ t, o = some t → outside t = outside s) (h : (matchHere s slot vdesk opc d k).getD o = some t) :
    outside t = outside s := by
  cases hm : matchHere s slot vdesk opc d k with
  | none => rw [hm] at h; exact ho t h
  | some x => rw [hm] at h; exact outside_matchHere (hm.trans (congrArg some h))

theorem outside_placeDyad {s t : State} {slot vdesk opc : Nat} {k : Token} (h : placeDyad s slot vdesk opc k = some t) :
    outside t = outside s := by
  unfold placeDyad at h
  split at h
  · cases h
  · exact outside_matched (fun _ => outside_placeUnmatched) h

theorem outside_withdrawArrival {s t : State} {slot vdesk : Nat} {k : Token} {w : Bool}
    (h : withdrawArrival s slot vdesk k w = some t) : outside t = outside s := by
  unfold withdrawArrival at h
  split at h
  · exact outside_withdrawToken h
  · exact outside_poolToken h

theorem outside_deliver {s t : State} {slot : Nat} {k : Token} (h : deliver s slot k = some t) : outside t = outside s := by
  unfold deliver at h
  dsimp only at h
  (repeat' split at h) <;> first
    | exact outside_withdrawArrival h
    | exact outside_placeWaiting h
    | exact outside_placeDyad h
    | exact outside_placeSolo h
    | (cases h; simp; done)
    | (cases h; done)

theorem outside_placeBack {s t : State} {slot vdesk : Nat} {x : Aside} (h : placeBack s slot vdesk x = some t) :
    outside t = outside s := by
  unfold placeBack at h
  (repeat' split at h) <;> first
    | (obtain ⟨u, hu, rfl⟩ := Option.map_eq_some_iff.mp h; simpa using outside_makeWays hu)
    | exact outside_placeSolo h
    | exact outside_matched (fun _ => outside_placeWaiting) h
    | (cases h; done)

@[simp] theorem outside_bringBack (s : State) (slot vdesk : Nat) (x : Aside) :
    outside (bringBack s slot vdesk x) = outside s := by
  unfold bringBack
  exact outside_getD (fun t h => outside_placeBack h) (by simp)

theorem outside_asidePlaced {s t : State} {slot vdesk : Nat} {x : Aside} (h : asidePlaced s slot vdesk x = some t) :
    outside t = outside s := by
  unfold asidePlaced at h
  dsimp only at h
  (repeat' split at h) <;> first
    | exact (outside_placeBack h).trans (by simp)
    | (cases h; simp; done)
    | (cases h; done)

@[simp] theorem outside_probeHit (s : State) (slot vdesk opc : Nat) (t : Token) (p : SpillSlot) :
    outside (probeHit s slot vdesk opc t p) = outside s := by
  unfold probeHit
  dsimp only
  split
  · rw [outside_bringBack, outside_parityFault ‹_›, outside_clearSlot]
  · (repeat' split) <;> simp

@[simp] theorem outside_probeReturn (s : State) (slot vdesk : Nat) (k : Token) :
    outside (probeReturn s slot vdesk k) = outside s := by
  unfold probeReturn
  dsimp only
  (repeat' split) <;> first
    | (simp; done)
    | exact outside_getD (fun t h => (outside_withdrawArrival h).trans (by simp)) (by simp)

@[simp] theorem outside_backReturn (s : State) (slot vdesk : Nat) (k : Token) :
    outside (backReturn s slot vdesk k) = outside s := by
  unfold backReturn
  dsimp only
  (repeat' split) <;> first
    | (simp; done)
    | exact outside_getD (fun t h => (outside_parityFault h).trans (by simp)) (by simp)

@[simp] theorem outside_wakeNode (due : Token → Bool) (s : State) (slot vdesk node fh : Nat) :
    outside (wakeNode due s slot vdesk node fh) = outside s := by
  unfold wakeNode
  split <;> simp [outside_foldl]

@[simp] theorem outside_wakeSync (s : State) (slot fh : Nat) : outside (wakeSync s slot fh) = outside s := by
  simp [wakeSync]

@[simp] theorem outside_enterReq (s : State) (l : Launch) (c : Ctx) (t : Frame) (q : Req) (places : List Nat) :
    outside (enterReq s l c t q places) = outside s := by
  unfold enterReq
  dsimp only
  (repeat' split) <;> first | (simp; done) | (simp; exact outside_newChecked ‹_›)

@[simp] theorem outside_enterSend (s : State) (c : Ctx) (t : Frame) :
    outside (enterSend s c t) = outside s := by
  unfold enterSend
  split <;> simp

@[simp] theorem outside_sendEntry (s : State) (slot id : Nat) (f : Firing) (wasParked : Bool) :
    outside (sendEntry s slot id f wasParked) = outside s := by
  unfold sendEntry
  dsimp only
  (repeat' split) <;> simp

@[simp] theorem outside_freeLines (s : State) (f : Frame) :
    outside (freeLines s f) = outside s := by
  simp [freeLines]

@[simp] theorem outside_postDeferred (s : State) (slot : Nat) (x : List FaultRec × FaultRec) :
    outside (postDeferred s slot x) = outside s := by
  unfold postDeferred
  dsimp only
  split <;> simp [outside_foldl]

@[simp] theorem outside_postFaults (s : State) (l : Launch) (f : Frame) :
    outside (postFaults s l f) = outside s := by
  unfold postFaults
  simp [outside_foldl]

@[simp] theorem outside_sealFrames (s : State) (slot : Nat) :
    outside (sealFrames s slot) = outside s := by
  simp only [sealFrames]; split <;> simp

@[simp] theorem outside_bindArcs (s : State) (slot : Nat) (m : Manifest) :
    outside (bindArcs s slot m) = outside s := by
  simp [bindArcs]

@[simp] theorem outside_takeMode (s : State) (l : Launch) (t : Token) : outside (takeMode s l t).1 = outside s := by
  unfold takeMode
  dsimp only
  (repeat' split) <;> simp

@[simp] theorem outside_freeEnds (s : State) (slot : Nat) : outside (freeEnds s slot) = outside s := rfl

@[simp] theorem outside_discardMode (s : State) (slot : Nat) (t : Token) :
    outside (discardMode s slot t) = outside s := by
  unfold discardMode
  dsimp only
  (repeat' split) <;> simp

@[simp] theorem outside_discardModes (s : State) (slot : Nat) (t : Token) :
    outside (discardModes s slot t) = outside s := by
  unfold discardModes
  split <;> simp [outside_foldl]

@[simp] theorem outside_bindPair (s : State) (p : Launch) (a : ArcDecl) (c : Launch) (b : ArcDecl) :
    outside (bindPair s p a c b) = outside s := by
  unfold bindPair
  (repeat' split) <;> simp

@[simp] theorem outside_trapDeadlock (s : State) (slot detail : Nat) (fs : List Firing) :
    outside (trapDeadlock s slot detail fs) = outside s := by
  unfold trapDeadlock
  split <;> simp

end Sys2Proof.Laws
end

