-- ==== Sys2Proof/Laws/QuietNodes.lean ====
section
/-! SUPPORT. What the bodies of nodes answer leaves everything outside the launches alone, and what the runners of nodes
and of block instructions do with it. -/

namespace Sys2Proof.Laws

open Machine Safety

@[simp] theorem resOutside_trap (o : State) (t : Trap) : resOutside o (.trap t) := trivial
@[simp] theorem resOutside_race (o : State) (e x : Access) : resOutside o (.race e x) := trivial
@[simp] theorem resOutside_hold (o : State) : resOutside o .hold := trivial
@[simp] theorem resOutside_done (o s : State) (es : List Emission) (f : Flags) : resOutside o
    (.done s es f) ↔ outside s = o := Iff.rfl
@[simp] theorem resOutside_later (o s : State) : resOutside o (.later s) ↔ outside s = o := Iff.rfl

@[simp] theorem resOutside_doneWith (o s : State) (es : Except Trap (List Emission)) (f : Flags) (h : outside s = o) :
    resOutside o (doneWith s es f) := by
  cases es <;> simp [doneWith, h]

theorem resOutside_withAccesses (o s : State) (slot : Nat) (xs : List Access) (k : State → Res) (h : outside s = o)
    (hk : ∀ s1, outside s1 = o → resOutside o (k s1)) : resOutside o (withAccesses s slot xs k) := by
  unfold withAccesses
  split
  · trivial
  · exact hk _ ((outside_checked ‹_›).trans h)

/-- What an outcome leaves outside the launches: the same as `o` where it is a next state. -/
def outOutside (o : State) (x : Out) : Prop :=
  match x with
  | .next t => outside t = o
  | .fault _ | .refused _ => True

@[simp] theorem outOutside_next (o t : State) : outOutside o (.next t) ↔ outside t = o := Iff.rfl
@[simp] theorem outOutside_fault (o : State) (f : Fault) : outOutside o (.fault f) := trivial

@[simp] theorem resOutside_evenA (o : State) (c : Ctx) (res : Res) (h : resOutside o res) : resOutside o (evenA c res) := by
  unfold evenA
  split
  · trivial
  · exact h

@[simp] theorem outside_startTask (s : State) (l : Launch) (vtile ctx parent : Nat) (fid : Dword) (ffill : Nat) (pm : Dword)
    (rid : Nat) (addr : BitVec 46) : outside (startTask s l vtile ctx parent fid ffill pm rid addr).1 = outside s := by
  simp [startTask]

theorem outside_contextFor {s : State} {c : Ctx} {vtile : Nat} {x : State × Nat} (h : contextFor s c vtile = some x) :
    outside x.1 = outside s := by
  unfold contextFor at h
  dsimp only at h
  (repeat' split at h) <;> simp_all
  · simp [← h]
  · obtain ⟨i, _, rfl⟩ := h
    simp

@[simp] theorem outside_postDlout (s : State) (f : Firing) (lane : Nat) : outside (postDlout s f lane).1 = outside s := by
  simp [postDlout]

@[simp] theorem outside_resolveTicket (s : State) (slot : Nat) (rec : FaultRec) (form : Nat) (sub : List Lane)
    (hb : List Nat) :
    outside (resolveTicket s slot rec form sub hb).1 = outside s := by
  unfold resolveTicket
  dsimp only
  (repeat' split) <;> simp [outside_foldl]

@[simp] theorem res_lpOut (s : State) (c : Ctx) (o : State) (h : outside s = o) :
    resOutside o (lpOut s c) := by
  simp [lpOut, h]

@[simp] theorem res_dlOut (s : State) (c : Ctx) (o : State) (h : outside s = o) :
    resOutside o (dlOut s c) := by
  simp [dlOut, h]

@[simp] theorem res_sharedNode (opc : Nat) (fn : ShArgs → ShOut) (s : State) (c : Ctx) (o : State) (h : outside s = o) :
    resOutside o (sharedNode opc fn s c) := by
  subst h
  unfold sharedNode
  dsimp only
  (repeat' split) <;> simp

@[simp] theorem res_memDl (s : State) (c : Ctx) (o : State) (h : outside s = o) :
    resOutside o (memDl s c) := by
  subst h
  unfold memDl
  split <;> simp

@[simp] theorem res_gettBody (s : State) (c : Ctx) (o : State) (h : outside s = o) :
    resOutside o (gettBody s c) := by
  subst h
  unfold gettBody
  (repeat' split) <;> simp

@[simp] theorem res_createOut (s : State) (c : Ctx) (fh : Nat) (o : State) (h : outside s = o) :
    resOutside o (createOut s c fh) := by
  subst h
  unfold createOut
  split <;> simp

@[simp] theorem res_createBody (w : Nat) (spawn : Bool) (s : State) (c : Ctx) (o : State) (h : outside s = o) :
    resOutside o (createBody w spawn s c) := by
  subst h
  unfold createBody
  dsimp only
  (repeat' split) <;> simp

@[simp] theorem res_createLp (s : State) (c : Ctx) (o : State) (h : outside s = o) :
    resOutside o (createLp s c) := by
  simp [createLp, h]

@[simp] theorem res_createDl (s : State) (c : Ctx) (o : State) (h : outside s = o) :
    resOutside o (createDl s c) := by
  simp [createDl, h]

@[simp] theorem res_spawntBody (s : State) (c : Ctx) (o : State) (h : outside s = o) :
    resOutside o (spawntBody s c) := by
  subst h
  unfold spawntBody
  dsimp only
  (repeat' split) <;> first | (simp; done) | (have hc := outside_contextFor ‹_›; simp_all)

@[simp] theorem res_freeBody (s : State) (c : Ctx) (o : State) (h : outside s = o) :
    resOutside o (freeBody s c) := by
  subst h
  unfold freeBody
  split <;> simp

@[simp] theorem res_steerOut (dl : Bool) (s : State) (c : Ctx) (o : State) (h : outside s = o) :
    resOutside o (steerOut dl s c) := by
  subst h
  unfold steerOut
  split <;> simp

@[simp] theorem res_steerLp (s : State) (c : Ctx) (o : State) (h : outside s = o) :
    resOutside o (steerLp s c) := by
  simp [steerLp, h]

@[simp] theorem res_mergeOut (lanes : Ctx → List Lane) (lp : Bool) (s : State) (c : Ctx) (o : State) (h : outside s = o) :
    resOutside o (mergeOut lanes lp s c) := by
  subst h
  unfold mergeOut
  (repeat' split) <;> simp

@[simp] theorem res_gaterelOut (dl : Bool) (s : State) (c : Ctx) (o : State) (h : outside s = o) :
    resOutside o (gaterelOut dl s c) := by
  subst h
  unfold gaterelOut
  split <;> simp

@[simp] theorem outside_keepCopying (s : State) (c : Ctx) (made : Nat) : outside (keepCopying s c made) = outside s := by
  simp [keepCopying]

@[simp] theorem res_copyBody (dl : Bool) (s : State) (c : Ctx) (o : State) (h : outside s = o) :
    resOutside o (copyBody dl s c) := by
  subst h
  unfold copyBody
  split
  · trivial
  split
  · trivial
  (repeat' split) <;> simp

@[simp] theorem res_seqBody (s : State) (c : Ctx) (o : State) (h : outside s = o) :
    resOutside o (seqBody s c) := by
  subst h
  unfold seqBody
  split <;> simp

@[simp] theorem res_mmaStep (mma : Bool) (s0 : State) (c : Ctx) (o : State) (h : outside s0 = o) :
    resOutside o (mmaStep mma s0 c) := by
  subst h
  unfold mmaStep
  dsimp only
  (repeat' split) <;> first | (simp; done) | exact resOutside_withAccesses _ _ _ _ _ (by simp) fun s1 h1 => by simp [h1]

@[simp] theorem res_accrdStep (s0 : State) (c : Ctx) (o : State) (h : outside s0 = o) :
    resOutside o (accrdStep s0 c) := by
  subst h
  unfold accrdStep
  dsimp only
  (repeat' split) <;> first | (simp; done) | exact resOutside_withAccesses _ _ _ _ _ (by simp) fun s1 h1 => by simp [h1]

@[simp] theorem res_acczStep (s0 : State) (c : Ctx) (o : State) (h : outside s0 = o) :
    resOutside o (acczStep s0 c) := by
  subst h
  unfold acczStep
  exact resOutside_withAccesses _ _ _ _ _ (by simp) fun s1 h1 => by simp [h1]

@[simp] theorem res_fskipStep (s0 : State) (c : Ctx) (o : State) (h : outside s0 = o) :
    resOutside o (fskipStep s0 c) := by
  subst h
  unfold fskipStep
  dsimp only
  (repeat' split) <;> first | (simp; done) | exact resOutside_withAccesses _ _ _ _ _ (by simp) fun s1 h1 => by simp [h1]

@[simp] theorem res_enqueueTensor (s : State) (c : Ctx) (o : State) (h : outside s = o) :
    resOutside o (enqueueTensor s c) := by
  subst h
  unfold enqueueTensor
  split <;> simp

@[simp] theorem res_tensorStep (opc : Nat) (s : State) (c : Ctx) (o : State) (h : outside s = o) :
    resOutside o (tensorStep opc s c) := by
  subst h
  unfold tensorStep
  split <;> simp

@[simp] theorem res_cornerBody (s0 : State) (c : Ctx) (o : State) (h : outside s0 = o) :
    resOutside o (cornerBody s0 c) := by
  subst h
  unfold cornerBody
  dsimp only
  (repeat' split) <;> first | (simp; done) | exact resOutside_withAccesses _ _ _ _ _ (by simp) fun s1 h1 => by simp [h1]

@[simp] theorem res_rangeBody (s : State) (c : Ctx) (o : State) (h : outside s = o) :
    resOutside o (rangeBody s c) := by
  subst h
  unfold rangeBody
  dsimp only
  split <;> simp

@[simp] theorem res_lutBody (s0 : State) (c : Ctx) (o : State) (h : outside s0 = o) :
    resOutside o (lutBody s0 c) := by
  subst h
  unfold lutBody
  dsimp only
  (repeat' split) <;> first | (simp; done) | exact resOutside_withAccesses _ _ _ _ _ (by simp) fun s1 h1 => by simp [h1]

@[simp] theorem res_lutLoadBody (s0 : State) (c : Ctx) (o : State) (h : outside s0 = o) :
    resOutside o (lutLoadBody s0 c) := by
  subst h
  unfold lutLoadBody
  dsimp only
  (repeat' split) <;> first | (simp; done) | exact resOutside_withAccesses _ _ _ _ _ (by simp) fun s1 h1 => by simp [h1]

@[simp] theorem res_reduceBody (s0 : State) (c : Ctx) (o : State) (h : outside s0 = o) :
    resOutside o (reduceBody s0 c) := by
  subst h
  unfold reduceBody
  dsimp only
  apply resOutside_evenA
  split
  · simp
  · exact resOutside_withAccesses _ _ _ _ _ (by simp) fun s1 h1 => by simp [h1]

@[simp] theorem res_xreadBody (s0 : State) (c : Ctx) (o : State) (h : outside s0 = o) :
    resOutside o (xreadBody s0 c) := by
  subst h
  unfold xreadBody
  dsimp only
  (repeat' split) <;> first | (simp; done) | exact resOutside_withAccesses _ _ _ _ _ (by simp) fun s1 h1 => by simp [h1]

@[simp] theorem res_xsendBody (s0 : State) (c : Ctx) (o : State) (h : outside s0 = o) :
    resOutside o (xsendBody s0 c) := by
  subst h
  unfold xsendBody
  dsimp only
  (repeat' split) <;> first | (simp; done) | exact resOutside_withAccesses _ _ _ _ _ (by simp) fun s1 h1 => by simp [h1]

@[simp] theorem res_xmergeBody (s0 : State) (c : Ctx) (o : State) (h : outside s0 = o) :
    resOutside o (xmergeBody s0 c) := by
  subst h
  unfold xmergeBody
  exact resOutside_withAccesses _ _ _ _ _ (by simp) fun s1 h1 => by simp [h1]

@[simp] theorem res_xclrBody (s0 : State) (c : Ctx) (o : State) (h : outside s0 = o) :
    resOutside o (xclrBody s0 c) := by
  subst h
  unfold xclrBody
  exact resOutside_withAccesses _ _ _ _ _ (by simp) fun s1 h1 => by simp [h1]

@[simp] theorem res_decodetabBody (s0 : State) (c : Ctx) (o : State) (h : outside s0 = o) :
    resOutside o (decodetabBody s0 c) := by
  subst h
  unfold decodetabBody
  exact resOutside_withAccesses _ _ _ _ _ (by simp) fun s1 h1 => by simp [h1]

@[simp] theorem res_tilePerform (s0 : State) (c : Ctx) (q : Req) (o : State) (h : outside s0 = o) :
    resOutside o (tilePerform s0 c q) := by
  subst h
  unfold tilePerform
  dsimp only
  (repeat' split) <;> first | (simp; done) | exact resOutside_withAccesses _ _ _ _ _ (by simp) fun s1 h1 => by simp [h1]

@[simp] theorem res_tileBody (op : ReqOp) (s : State) (c : Ctx) (o : State) (h : outside s = o) :
    resOutside o (tileBody op s c) := by
  subst h
  unfold tileBody
  dsimp only
  (repeat' split) <;> simp

@[simp] theorem res_deviceAccept (s : State) (c : Ctx) (q : Req) (early : Bool) (o : State) (h : outside s = o) :
    resOutside o (deviceAccept s c q early) := by
  subst h
  unfold deviceAccept
  (repeat' split) <;> simp

@[simp] theorem res_deviceAtom (op : ReqOp) (s : State) (c : Ctx) (o : State) (h : outside s = o) :
    resOutside o (deviceAtom op s c) := by
  subst h
  unfold deviceAtom
  (repeat' split) <;> simp

@[simp] theorem res_barinitBody (s0 : State) (c : Ctx) (o : State) (h : outside s0 = o) :
    resOutside o (barinitBody s0 c) := by
  subst h
  unfold barinitBody
  dsimp only
  (repeat' split) <;> first | (simp; done) | exact resOutside_withAccesses _ _ _ _ _ (by simp) fun s1 h1 => by simp [h1]

@[simp] theorem res_arriveBody (poison : Bool) (s0 : State) (c : Ctx) (o : State) (h : outside s0 = o) :
    resOutside o (arriveBody poison s0 c) := by
  subst h
  unfold arriveBody
  dsimp only
  (repeat' split) <;> first | (simp; done) | exact resOutside_withAccesses _ _ _ _ _ (by simp) fun s1 h1 => by simp [h1]

@[simp] theorem res_waitcntBody (s0 : State) (c : Ctx) (o : State) (h : outside s0 = o) :
    resOutside o (waitcntBody s0 c) := by
  subst h
  unfold waitcntBody
  dsimp only
  (repeat' split) <;> first | (simp; done) | exact resOutside_withAccesses _ _ _ _ _ (by simp) fun s1 h1 => by simp [h1]

@[simp] theorem res_sendBody (s : State) (c : Ctx) (o : State) (h : outside s = o) :
    resOutside o (sendBody s c) := by
  subst h
  unfold sendBody
  dsimp only
  (repeat' split) <;> simp

@[simp] theorem res_recvBody (s0 : State) (c : Ctx) (o : State) (h : outside s0 = o) :
    resOutside o (recvBody s0 c) := by
  subst h
  unfold recvBody
  dsimp only
  (repeat' split) <;> first | (simp; done) | exact resOutside_withAccesses _ _ _ _ _ (by simp) fun s1 h1 => by simp [h1]

@[simp] theorem res_freeslotBody (s : State) (c : Ctx) (o : State) (h : outside s = o) :
    resOutside o (freeslotBody s c) := by
  subst h
  unfold freeslotBody
  dsimp only
  split <;> simp

@[simp] theorem res_modeBody (s : State) (c : Ctx) (o : State) (h : outside s = o) :
    resOutside o (modeBody s c) := by
  subst h
  unfold modeBody
  split <;> simp

@[simp] theorem res_requestBody (op : ReqOp) (addrs : Ctx → List Nat) (data : Ctx → List Lane) (early : Ctx → Bool)
    (lanes : Ctx → Option Trap) (s : State) (c : Ctx) (o : State) (h : outside s = o) :
    resOutside o (requestBody op addrs data early lanes s c) := by
  subst h
  unfold requestBody
  split <;> simp

@[simp] theorem res_semBody (op : ReqOp) (s : State) (c : Ctx) (o : State) (h : outside s = o) :
    resOutside o (semBody op s c) := by
  subst h
  unfold semBody
  split <;> simp

@[simp] theorem res_taillBody (s : State) (c : Ctx) (o : State) (h : outside s = o) :
    resOutside o (taillBody s c) := by
  subst h
  unfold taillBody
  dsimp only
  generalize (field (lanes64 c.f.a.lanes 0) 52 11 != 0) = far
  generalize (lanes64 c.f.a.lanes 0 % 8 != 0) = odd
  (repeat' split) <;> simp

@[simp] theorem res_resumeBody (form : Nat) (s : State) (c : Ctx) (o : State) (h : outside s = o) :
    resOutside o (resumeBody form s c) := by
  subst h
  unfold resumeBody
  dsimp only
  (repeat' split) <;> simp

@[simp] theorem res_killfBody (s : State) (c : Ctx) (o : State) (h : outside s = o) :
    resOutside o (killfBody s c) := by
  subst h
  unfold killfBody
  (repeat' split) <;> simp

@[simp] theorem res_roundBody (s : State) (c : Ctx) (o : State) (h : outside s = o) :
    resOutside o (roundBody s c) := by
  subst h
  unfold roundBody
  (repeat' split) <;> simp

@[simp] theorem outside_stopRounds (qs : List Courier) (s : State) :
    outside (qs.foldl (fun s q => match q.firing with
      | some f => stopRound s q f
      | none => s) s) = outside s := by
  refine outside_foldl _ (fun s q => ?_) _ _
  split <;> simp

@[simp] theorem res_roundstopBody (s : State) (c : Ctx) (o : State) (h : outside s = o) :
    resOutside o (roundstopBody s c) := by
  subst h
  unfold roundstopBody
  dsimp only
  apply resOutside_doneWith
  rw [outside_modLaunch]
  exact outside_stopRounds _ _

@[simp] theorem res_failMode (s : State) (c : Ctx) (code detail off : Nat) (o : State) (h : outside s = o) :
    resOutside o (failMode s c code detail off) := by
  simp [failMode, h]

@[simp] theorem res_modeReconfBody (s : State) (c : Ctx) (o : State) (h : outside s = o) :
    resOutside o (modeReconfBody s c) := by
  subst h
  unfold modeReconfBody
  split
  · simp
  split
  · simp
  split
  · simp
  · simp
  split
  · simp
  · simp

theorem resOutside_ordRes {c : Ctx} {last : Bool} {d : Desk} {res : Res} (h : ordRes c last d = some res) (o : State) :
    resOutside o res := by
  unfold ordRes at h
  dsimp only at h
  (repeat' split at h) <;> first | (cases h; trivial) | cases h

@[simp] theorem outside_counted (s : State) (c : Ctx) (p : Policy) : outside (counted s c p) = outside s := by
  unfold counted
  split <;> simp

@[simp] theorem outside_started (s : State) (c : Ctx) (p : Policy) : outside (started s c p) = outside s := by
  unfold started
  dsimp only
  (repeat' split) <;> simp

theorem outside_settleFrom (s : State) (c : Ctx) (p : Policy) (m : Nat) (d : Bool) (res : Res)
    (h : resOutside (outside s) res) : outside (settleFrom s c p m d res) = outside s := by
  unfold settleFrom
  split
  · simp
  all_goals rw [outside_settle _ _ _ _ _ (by rw [outside_counted]; exact h), outside_counted]

theorem out_runNode (s : State) (r : NodeRec) (p : Policy) (msgs : Ctx → Nat) (lp dl body : State → Ctx → Res)
    (hlp : ∀ s1 c, outside s1 = outside s → resOutside (outside s) (lp s1 c))
    (hdl : ∀ s1 c, outside s1 = outside s → resOutside (outside s) (dl s1 c))
    (hb : ∀ s1 c, outside s1 = outside s → resOutside (outside s) (body s1 c)) :
    outOutside (outside s) (runNode s r p msgs lp dl body) := by
  unfold runNode
  dsimp only
  split
  · split
    · simp
    · split
      · simp
      · split
        · exact outside_firingFault ‹_›
        · split
          · exact outside_settle _ _ _ _ _ (resOutside_ordRes ‹_› _)
          · split
            · split
              · simp
              · refine outside_settleFrom _ _ _ _ _ _ ?_
                split
                · exact hlp _ _ (by simp)
                · exact hdl _ _ (by simp)
            · split
              · simp
              · exact outside_settleFrom _ _ _ _ _ _ (hb _ _ (by simp))
  · trivial
  · trivial
  · trivial

/-- What a block instruction answers leaves everything outside the launches as `o`. -/
def bresOutside (o : State) (res : BRes) : Prop :=
  match res with
  | .next s _ => outside s = o
  | .trap _ | .race _ _ => True

theorem out_runBlock (s : State) (b : BlockRec) (body : State → BCtx → BRes) (hb : ∀ c, bresOutside (outside s) (body s c)) :
    outOutside (outside s) (runBlock s b body) := by
  unfold runBlock
  split
  · split
    · simp
    · split
      · simp
      · simp
      · rename_i h
        have := hb ‹_›
        rw [h] at this
        simp
        exact this
  all_goals trivial

theorem outside_takeCargo {s t : State} {slot id : Nat} {l : Launch} {g : Cargo} (h : takeCargo s slot id = some (t, l, g)) :
    outside t = outside s := by
  unfold takeCargo at h
  (repeat' split at h) <;> first | (cases h; simp; done) | cases h

theorem outside_writeMessage {s t : State} {f : Firing} {ty : Ty} {l : Launch} {vt lb g : Nat} {bs : List Byte} {bar : Option Nat}
    {hb : List Nat} (h : writeMessage s f ty l vt lb bs bar hb = .ok (t, g)) : outside t = outside s := by
  unfold writeMessage at h
  dsimp only at h
  (repeat' split at h) <;> first | (cases h; simp [outside_newChecked ‹_›]; done) | cases h

theorem outside_deliverWrite {s t : State} {l : Launch} {r : RCtx} {vt tgt g : Nat} {bs : List Byte} {hb : List Nat}
    (h : deliverWrite s l r vt tgt bs hb = .ok (t, g)) : outside t = outside s := by
  unfold deliverWrite at h
  dsimp only at h
  (repeat' split at h) <;> first | (cases h; simp; done) | (cases h; simp [outside_newChecked ‹_›]; done) | cases h

end Sys2Proof.Laws
end

