-- ==== Sys2Proof/Laws/Kept.lean ====
section
/-! SUPPORT. What the operations that do change something outside the launches keep: the host's registers (`Safety.hostView`)
and the canonical form of device and host memory. -/

namespace Sys2Proof.Laws

open Machine Safety

@[simp] theorem hostView_update (s : State) (epoch0 : Dword) (revTail0 : BitVec 16) (log0 : List LogEntry)
    (logCount0 : Dword) (telemetry0 : List Dword) (queues0 : List Queue) (rotation0 : Nat) (routes0 : List (List Nat))
    (routed0 : List (BitVec 64)) (comms0 : List Comm) (ports0 : List LinkPort) (detector0 : Detector) (cache0 : List Cached) (invals0 : List Inval)
    (pages0 : List (Nat × Nat × Nat)) (frames0 : List Frame) (spawns0 : List SpawnRec) (launches0 : List Launch)
    (sramLeft0 : List (Nat × Memory × List Nat)) (signals0 : List Signal) (mem0 : Memory) (bus0 : Memory)
    (lost0 : List Nat) (dieTlb0 tileTlb0 : List (Nat × TlbEntry)) (agenda0 : List Pend) (issue0 : Issue) (nextId0 : Nat) (tick0 : Nat) :
    hostView (outside { s with
      epoch := epoch0, revTail := revTail0, log := log0, logCount := logCount0, telemetry := telemetry0
      queues := queues0, rotation := rotation0, routes := routes0, routed := routed0, comms := comms0, ports := ports0
      detector := detector0, cache := cache0, invals := invals0, pages := pages0, frames := frames0, spawns := spawns0
      launches := launches0, sramLeft := sramLeft0, signals := signals0, mem := mem0, bus := bus0, lost := lost0
      dieTlb := dieTlb0, tileTlb := tileTlb0, agenda := agenda0, issue := issue0, nextId := nextId0
      tick := tick0 }) = hostView (outside s) := rfl

@[simp] theorem wf_update (s : State) (h : memoriesWf (outside s) = true) (dev0 : DevState) (failcode0 : Nat)
    (bootaddr0 : Dword) (bootlen0 : BitVec 32) (epoch0 : Dword) (revokebase0 : Dword) (revLogn0 : Nat)
    (revHead0 : BitVec 16) (revTail0 : BitVec 16) (badnode0 : List (BitVec 64)) (hoplog0 : List (BitVec 64))
    (log0 : List LogEntry) (logCount0 : Dword) (nonce0 : List Byte) (attBusy0 : Bool) (attDone0 : Bool)
    (report0 : List Byte) (image0 : List Byte) (telemetry0 : List Dword) (sampled0 : List Dword) (cfg0 : BootConfig)
    (queues0 : List Queue) (rotation0 : Nat) (parts0 : List Partition) (routes0 : List (List Nat))
    (routed0 : List (BitVec 64)) (comms0 : List Comm)
    (ports0 : List LinkPort) (clocks0 : List Nat) (trips0 : List Bool) (budget0 : Nat) (detector0 : Detector)
    (cache0 : List Cached) (invals0 : List Inval) (pages0 : List (Nat × Nat × Nat)) (frames0 : List Frame)
    (spawns0 : List SpawnRec) (launches0 : List Launch) (sramLeft0 : List (Nat × Memory × List Nat))
    (signals0 : List Signal) (lost0 : List Nat) (dieTlb0 tileTlb0 : List (Nat × TlbEntry)) (agenda0 : List Pend) (issue0 : Issue)
    (nextId0 : Nat) (tick0 : Nat) :
    memoriesWf (outside { s with
      dev := dev0, failcode := failcode0, bootaddr := bootaddr0, bootlen := bootlen0, epoch := epoch0
      revokebase := revokebase0, revLogn := revLogn0, revHead := revHead0, revTail := revTail0, badnode := badnode0
      hoplog := hoplog0, log := log0, logCount := logCount0, nonce := nonce0, attBusy := attBusy0, attDone := attDone0
      report := report0, image := image0, telemetry := telemetry0, sampled := sampled0, cfg := cfg0, queues := queues0
      rotation := rotation0, parts := parts0, routes := routes0, routed := routed0, comms := comms0, ports := ports0, clocks := clocks0
      trips := trips0, budget := budget0, detector := detector0, cache := cache0, invals := invals0, pages := pages0
      frames := frames0, spawns := spawns0, launches := launches0, sramLeft := sramLeft0, signals := signals0
      lost := lost0, dieTlb := dieTlb0, tileTlb := tileTlb0, agenda := agenda0, issue := issue0, nextId := nextId0, tick := tick0 }) = true := h

theorem hostView_foldl {α : Type} (f : State → α → State) (h : ∀ s a, hostView (outside (f s a)) = hostView (outside s)) :
    ∀ (l : List α) (s : State), hostView (outside (l.foldl f s)) = hostView (outside s) := by
  intro l
  induction l with
  | nil => intro s; rfl
  | cons a t ih => intro s; rw [List.foldl_cons, ih, h]

theorem wf_foldl {α : Type} (f : State → α → State)
    (h : ∀ s a, memoriesWf (outside s) = true → memoriesWf (outside (f s a)) = true) :
    ∀ (l : List α) (s : State), memoriesWf (outside s) = true → memoriesWf (outside (l.foldl f s)) = true := by
  intro l
  induction l with
  | nil => intro s h; exact h
  | cons a t ih => intro s hs; exact ih _ (h s a hs)

@[simp] theorem host_modQueue (s : State) (q : Nat) (f : Queue → Queue) :
    hostView (outside (modQueue s q f)) = hostView (outside s) := by
  unfold modQueue
  split <;> simp

@[simp] theorem wf_modQueue (s : State) (q : Nat) (f : Queue → Queue) (h : memoriesWf (outside s) = true) :
    memoriesWf (outside (modQueue s q f)) = true := by
  unfold modQueue
  split <;> simp [h]

@[simp] theorem host_cachePage (s : State) (at_ : Port) (e : TlbEntry) :
    hostView (outside (cachePage s at_ e)) = hostView (outside s) := by
  simp [cachePage]

@[simp] theorem wf_cachePage (s : State) (at_ : Port) (e : TlbEntry) (h : memoriesWf (outside s) = true) :
    memoriesWf (outside (cachePage s at_ e)) = true := by
  simp [cachePage, h]

@[simp] theorem host_fillTile (s : State) (l : Launch) (at_ : Port) (host : Bool) (as : List Nat) :
    hostView (outside (fillTile s l at_ host as)) = hostView (outside s) := by
  unfold fillTile
  refine hostView_foldl _ (fun s a => ?_) _ _
  split <;> simp

@[simp] theorem wf_fillTile (s : State) (l : Launch) (at_ : Port) (host : Bool) (as : List Nat)
    (h : memoriesWf (outside s) = true) : memoriesWf (outside (fillTile s l at_ host as)) = true := by
  unfold fillTile
  refine wf_foldl _ (fun s a h => ?_) _ _ h
  split <;> simp [h]

@[simp] theorem host_walkPages (s : State) (at_ : Port) (part : Nat) (as : List Nat) :
    hostView (outside (walkPages s at_ part as)) = hostView (outside s) := by
  unfold walkPages
  refine hostView_foldl _ (fun s a => ?_) _ _
  (repeat' split) <;> simp

@[simp] theorem wf_walkPages (s : State) (at_ : Port) (part : Nat) (as : List Nat)
    (h : memoriesWf (outside s) = true) : memoriesWf (outside (walkPages s at_ part as)) = true := by
  unfold walkPages
  refine wf_foldl _ (fun s a h => ?_) _ _ h
  (repeat' split) <;> simp [h]

@[simp] theorem host_askRecovery (s : State) (slot line : Nat) :
    hostView (outside (askRecovery s slot line)) = hostView (outside s) := by
  unfold askRecovery
  split <;> simp

@[simp] theorem wf_askRecovery (s : State) (slot line : Nat) (h : memoriesWf (outside s) = true) :
    memoriesWf (outside (askRecovery s slot line)) = true := by
  unfold askRecovery
  split <;> simp [h]

@[simp] theorem host_clearLost (s : State) (ps : List (Nat × Nat)) :
    hostView (outside (clearLost s ps)) = hostView (outside s) := by
  simp [clearLost]

@[simp] theorem wf_clearLost (s : State) (ps : List (Nat × Nat)) (h : memoriesWf (outside s) = true) :
    memoriesWf (outside (clearLost s ps)) = true := by
  simp [clearLost, h]

@[simp] theorem host_tryEnter (s : State) (l : Launch) (c : Ctx) (t : Frame) (q : Req) :
    hostView (outside (tryEnter s l c t q)) = hostView (outside s) := by
  unfold tryEnter
  dsimp only
  (repeat' split) <;> simp

@[simp] theorem wf_tryEnter (s : State) (l : Launch) (c : Ctx) (t : Frame) (q : Req) (h : memoriesWf (outside s) = true) :
    memoriesWf (outside (tryEnter s l c t q)) = true := by
  unfold tryEnter
  dsimp only
  (repeat' split) <;> simp [h]

@[simp] theorem host_storeMem (s : State) (a : Nat) (bs : List Byte) :
    hostView (outside (storeMem s a bs)) = hostView (outside s) := by
  simp [storeMem]

@[simp] theorem wf_storeMem (s : State) (a : Nat) (bs : List Byte) (h : memoriesWf (outside s) = true) :
    memoriesWf (outside (storeMem s a bs)) = true := by
  unfold storeMem
  simp only [memoriesWf, outside, Bool.and_eq_true] at *
  exact ⟨wf_writeBytes _ _ h.1, h.2⟩

@[simp] theorem host_writeDevice (s : State) (slot a : Nat) (bs : List Byte) :
    hostView (outside (writeDevice s slot a bs)) = hostView (outside s) := by
  simp [writeDevice]

@[simp] theorem wf_writeDevice (s : State) (slot a : Nat) (bs : List Byte) (h : memoriesWf (outside s) = true) :
    memoriesWf (outside (writeDevice s slot a bs)) = true := by
  simp [writeDevice, h]

@[simp] theorem host_writeSpace (s : State) (slot : Nat) (host : Bool) (a n x : Nat) :
    hostView (outside (writeSpace s slot host a n x)) = hostView (outside s) := by
  unfold writeSpace
  split <;> simp

@[simp] theorem wf_writeSpace (s : State) (slot : Nat) (host : Bool) (a n x : Nat) (h : memoriesWf
    (outside s) = true) :
    memoriesWf (outside (writeSpace s slot host a n x)) = true := by
  unfold writeSpace
  split
  · simp only [memoriesWf, outside, Bool.and_eq_true] at *
    exact ⟨h.1, wf_writeNat _ _ _ h.2⟩
  · simp [h]

@[simp] theorem host_addSignal (s : State) (g : Signal) :
    hostView (outside (addSignal s g)) = hostView (outside s) := by
  simp [addSignal]

@[simp] theorem wf_addSignal (s : State) (g : Signal) (h : memoriesWf (outside s) = true) :
    memoriesWf (outside (addSignal s g)) = true := by
  simp [addSignal, h]

theorem host_performUnits (slot : Nat) (t : Ty) (task : Option Nat) (q : Req) (as : List Nat) :
    ∀ (s : State) (u : Nat), hostView (outside (performUnits s slot t task q u as).1) = hostView (outside s) := by
  induction as with
  | nil => intro s u; rfl
  | cons a as ih =>
    intro s u
    simp only [performUnits]
    rw [ih]
    (repeat' split) <;> simp

theorem wf_performUnits (slot : Nat) (t : Ty) (task : Option Nat) (q : Req) (as : List Nat) :
    ∀ (s : State) (u : Nat), memoriesWf (outside s) = true →
      memoriesWf (outside (performUnits s slot t task q u as).1) = true := by
  induction as with
  | nil => intro s u h; exact h
  | cons a as ih =>
    intro s u h
    simp only [performUnits]
    apply ih
    (repeat' split) <;> simp [h]

@[simp] theorem host_afterPerform (s : State) (c : Ctx) (q : Req) (place g : Nat) :
    hostView (outside (afterPerform s c q place g)) = hostView (outside s) := by
  unfold afterPerform
  split <;> simp

@[simp] theorem wf_afterPerform (s : State) (c : Ctx) (q : Req) (place g : Nat) (h : memoriesWf (outside s) = true) :
    memoriesWf (outside (afterPerform s c q place g)) = true := by
  unfold afterPerform
  split <;> simp [h]

@[simp] theorem host_clearWritten (s : State) (q : Req) (places : List Nat) :
    hostView (outside (clearWritten s q places)) = hostView (outside s) := by
  unfold clearWritten
  split <;> simp

@[simp] theorem wf_clearWritten (s : State) (q : Req) (places : List Nat) (h : memoriesWf (outside s) = true) :
    memoriesWf (outside (clearWritten s q places)) = true := by
  unfold clearWritten
  split <;> simp [h]

@[simp] theorem host_performNow (s : State) (c : Ctx) (task : Option Nat) (q : Req) (places : List Nat) (g : Nat) :
    hostView (outside (performNow s c task q places g)) = hostView (outside s) := by
  unfold performNow
  dsimp only
  (repeat' split) <;> simp [host_performUnits]

@[simp] theorem wf_performNow (s : State) (c : Ctx) (task : Option Nat) (q : Req) (places : List Nat) (g : Nat)
    (h : memoriesWf (outside s) = true) :
    memoriesWf (outside (performNow s c task q places g)) = true := by
  unfold performNow
  have hp := wf_performUnits c.f.slot c.r.type task q places s 0 h
  have ha := wf_afterPerform _ c q (places.headD 0) g (wf_clearWritten _ q places hp)
  dsimp only
  (repeat' split) <;> simp only [outside_markPerformed, outside_trapReq, outside_complete, outside_rateAdvance, h, ha]

@[simp] theorem host_performChecked (s : State) (l : Launch) (c : Ctx) (q : Req) (places : List Nat) :
    hostView (outside (performChecked s l c q places)) = hostView (outside s) := by
  unfold performChecked
  dsimp only
  (repeat' split) <;> first | (simp; done) | (simp; rw [outside_newChecked ‹_›])

@[simp] theorem wf_performChecked (s : State) (l : Launch) (c : Ctx) (q : Req) (places : List Nat) (h : memoriesWf
    (outside s) = true) :
    memoriesWf (outside (performChecked s l c q places)) = true := by
  unfold performChecked
  dsimp only
  (repeat' split) <;> first | (simp [h]; done) | (have hc := outside_newChecked ‹_›; simp [hc, h])

@[simp] theorem host_checkReq (s : State) (l : Launch) (c : Ctx) (q : Req) (direct : Bool) :
    hostView (outside (checkReq s l c q direct)) = hostView (outside s) := by
  unfold checkReq
  dsimp only
  (repeat' split) <;> simp

@[simp] theorem wf_checkReq (s : State) (l : Launch) (c : Ctx) (q : Req) (direct : Bool) (h : memoriesWf (outside s) = true) :
    memoriesWf (outside (checkReq s l c q direct)) = true := by
  unfold checkReq
  dsimp only
  (repeat' split) <;> simp [h]

@[simp] theorem host_performReq (s : State) (slot : Nat) (q : Req) (direct : Bool) :
    hostView (outside (performReq s slot q direct)) = hostView (outside s) := by
  unfold performReq
  (repeat' split) <;> simp

@[simp] theorem wf_performReq (s : State) (slot : Nat) (q : Req) (direct : Bool) (h : memoriesWf (outside s) = true) :
    memoriesWf (outside (performReq s slot q direct)) = true := by
  unfold performReq
  (repeat' split) <;> simp [h]

@[simp] theorem host_issueReq (s : State) (c : Ctx) (q : Req) :
    hostView (outside (issueReq s c q)) = hostView (outside s) := by
  unfold issueReq
  dsimp only
  (repeat' split) <;> first | (simp; done) | (have hr := res_tilePerform s c q (outside s) rfl; simp_all)

@[simp] theorem wf_issueReq (s : State) (c : Ctx) (q : Req) (h : memoriesWf (outside s) = true) :
    memoriesWf (outside (issueReq s c q)) = true := by
  unfold issueReq
  dsimp only
  (repeat' split) <;> first | (simp [h]; done) | (have hr := res_tilePerform s c q (outside s) rfl; simp_all)

@[simp] theorem host_remake (s : State) (slot : Nat) (q : Req) (direct : Bool) :
    hostView (outside (remake s slot q direct)) = hostView (outside s) := by
  simp [remake]

@[simp] theorem wf_remake (s : State) (slot : Nat) (q : Req) (direct : Bool) (h : memoriesWf (outside s) = true) :
    memoriesWf (outside (remake s slot q direct)) = true := by
  simp [remake, h]

@[simp] theorem host_failPage (s : State) (l : Launch) (q : Req) (u detail : Nat) :
    hostView (outside (failPage s l q u detail)) = hostView (outside s) := by
  simp [failPage]

@[simp] theorem wf_failPage (s : State) (l : Launch) (q : Req) (u detail : Nat) (h : memoriesWf (outside s) = true) :
    memoriesWf (outside (failPage s l q u detail)) = true := by
  simp [failPage, h]

theorem host_forWaiters (s0 s : State) (st : ReqState) (pg : HostPage) (f : State → Launch → Req → Nat → State)
    (hf : ∀ s l q u, hostView (outside (f s l q u)) = hostView (outside s)) :
    hostView (outside (forWaiters s0 s st pg f)) = hostView (outside s) := by
  unfold forWaiters
  exact hostView_foldl _ (fun s x => hf s _ _ _) _ _

theorem wf_forWaiters (s0 s : State) (st : ReqState) (pg : HostPage) (f : State → Launch → Req → Nat → State)
    (hf : ∀ s l q u, memoriesWf (outside s) = true → memoriesWf (outside (f s l q u)) = true)
    (h : memoriesWf (outside s) = true) : memoriesWf (outside (forWaiters s0 s st pg f)) = true := by
  unfold forWaiters
  exact wf_foldl _ (fun s x hs => hf s _ _ _ hs) _ _ h

@[simp] theorem host_atsRequests (s : State) (pg : HostPage) (answer : AtsAnswer) :
    hostView (outside (atsRequests s pg answer)) = hostView (outside s) := by
  unfold atsRequests
  split <;> rw [host_forWaiters _ _ _ _ _ (fun _ _ _ _ => by simp)]
  · exact host_forWaiters _ _ _ _ _ fun _ _ _ _ => by simp
  · simp

@[simp] theorem wf_atsRequests (s : State) (pg : HostPage) (answer : AtsAnswer) (h : memoriesWf (outside s) = true) :
    memoriesWf (outside (atsRequests s pg answer)) = true := by
  unfold atsRequests
  split
  · exact wf_forWaiters _ _ _ _ _ (fun _ _ _ _ h => by simp [h])
      (wf_forWaiters _ _ _ _ _ (fun _ _ _ _ h => by simp [h]) h)
  all_goals exact wf_forWaiters _ _ _ _ _ (fun _ _ _ _ h => by simp [h]) (by simp [h])

@[simp] theorem host_retranslate (s : State) (l : Launch) (q : Req) :
    hostView (outside (retranslate s l q)) = hostView (outside s) := by
  unfold retranslate
  dsimp only
  split <;> simp

@[simp] theorem wf_retranslate (s : State) (l : Launch) (q : Req) (h : memoriesWf (outside s) = true) :
    memoriesWf (outside (retranslate s l q)) = true := by
  unfold retranslate
  dsimp only
  split <;> simp [h]

@[simp] theorem host_priRequests (s : State) (pg : HostPage) (success : Bool) :
    hostView (outside (priRequests s pg success)) = hostView (outside s) := by
  unfold priRequests
  dsimp only
  split <;> (rw [host_forWaiters _ _ _ _ _ (fun _ _ _ _ => by simp)]; simp)

@[simp] theorem wf_priRequests (s : State) (pg : HostPage) (success : Bool) (h : memoriesWf (outside s) = true) :
    memoriesWf (outside (priRequests s pg success)) = true := by
  unfold priRequests
  dsimp only
  split <;> exact wf_forWaiters _ _ _ _ _ (fun _ _ _ _ h => by simp [h]) (by simp [h])

@[simp] theorem host_beginInval (s : State) (id : Nat) (sc : InvalScope) (queue : Option Nat) :
    hostView (outside (beginInval s id sc queue)) = hostView (outside s) := by
  simp [beginInval]

@[simp] theorem wf_beginInval (s : State) (id : Nat) (sc : InvalScope) (queue : Option Nat) (h : memoriesWf
    (outside s) = true) :
    memoriesWf (outside (beginInval s id sc queue)) = true := by
  simp [beginInval, h]

@[simp] theorem host_reqEntry (s : State) (slot : Nat) (q0 : Req) :
    hostView (outside (reqEntry s slot q0)) = hostView (outside s) := by
  unfold reqEntry
  dsimp only
  (repeat' split) <;> simp

@[simp] theorem wf_reqEntry (s : State) (slot : Nat) (q0 : Req) (h : memoriesWf (outside s) = true) :
    memoriesWf (outside (reqEntry s slot q0)) = true := by
  unfold reqEntry
  dsimp only
  (repeat' split) <;> simp [h]

@[simp] theorem host_performLines (s : State) (slot : Nat) (ls : List Line) :
    hostView (outside (performLines s slot ls)) = hostView (outside s) := by
  unfold performLines
  refine hostView_foldl _ (fun s x => ?_) _ _
  dsimp only
  split <;> simp [hostView_foldl]

@[simp] theorem wf_performLines (s : State) (slot : Nat) (ls : List Line) (h : memoriesWf (outside s) = true) :
    memoriesWf (outside (performLines s slot ls)) = true := by
  unfold performLines
  refine wf_foldl _ (fun s x h => ?_) _ _ h
  dsimp only
  split
  · exact wf_clearLost _ _ (wf_foldl _ (fun s i h => by simp [h]) _ _ h)
  · exact wf_foldl _ (fun s i h => by simp [h]) _ _ h

@[simp] theorem host_releaseSend (s : State) (l : Launch) (f : Frame) (x : HeldSend) :
    hostView (outside (releaseSend s l f x)) = hostView (outside s) := by
  unfold releaseSend
  (repeat' split) <;> simp

@[simp] theorem wf_releaseSend (s : State) (l : Launch) (f : Frame) (x : HeldSend) (h : memoriesWf
    (outside s) = true) :
    memoriesWf (outside (releaseSend s l f x)) = true := by
  unfold releaseSend
  (repeat' split) <;> simp [h]

@[simp] theorem host_finishCommit (s : State) (l : Launch) (f : Frame) :
    hostView (outside (finishCommit s l f)) = hostView (outside s) := by
  unfold finishCommit
  simp [apply_ite outside]

@[simp] theorem wf_finishCommit (s : State) (l : Launch) (f : Frame) (h : memoriesWf (outside s) = true) :
    memoriesWf (outside (finishCommit s l f)) = true := by
  unfold finishCommit
  simp [h, apply_ite outside]

@[simp] theorem outside_freeHeld (s : State) (l : Launch) (f : Frame) : outside (freeHeld s l f) = outside s := by
  unfold freeHeld
  exact outside_foldl _ (fun s q => by simp) _ _

@[simp] theorem outside_emitAccepted (s : State) (l : Launch) (f : Frame) : outside (emitAccepted s l f) = outside s := by
  unfold emitAccepted
  refine outside_foldl _ (fun s q => ?_) _ _
  (repeat' split) <;> simp

@[simp] theorem host_enterFront (s : State) (l : Launch) (f : Frame) :
    hostView (outside (enterFront s l f)) = hostView (outside s) := by
  unfold enterFront
  dsimp only
  split <;> simp

@[simp] theorem wf_enterFront (s : State) (l : Launch) (f : Frame) (h : memoriesWf (outside s) = true) :
    memoriesWf (outside (enterFront s l f)) = true := by
  unfold enterFront
  have hf := wf_performLines s l.slot (dataLines (tileOf l f.vtile) f.tcidx) h
  dsimp only
  split <;> simp [hf]

@[simp] theorem host_modPort (s : State) (p : Nat) (f : LinkPort → LinkPort) :
    hostView (outside (modPort s p f)) = hostView (outside s) := by
  simp [modPort]

@[simp] theorem wf_modPort (s : State) (p : Nat) (f : LinkPort → LinkPort) (h : memoriesWf (outside s) = true) :
    memoriesWf (outside (modPort s p f)) = true := by
  simp [modPort, h]

@[simp] theorem host_sendFlit (s : State) (p pkg : Nat) (k : LinkKind) :
    hostView (outside (sendFlit s p pkg k)) = hostView (outside s) := by
  simp [sendFlit]

@[simp] theorem wf_sendFlit (s : State) (p pkg : Nat) (k : LinkKind) (h : memoriesWf (outside s) = true) :
    memoriesWf (outside (sendFlit s p pkg k)) = true := by
  simp [sendFlit, h]

@[simp] theorem host_breakArcs (s : State) (detail : Nat) (p : Launch → Arc → Bool) :
    hostView (outside (breakArcs s detail p)) = hostView (outside s) := by
  simp [breakArcs]

@[simp] theorem wf_breakArcs (s : State) (detail : Nat) (p : Launch → Arc → Bool) (h : memoriesWf (outside s) = true) :
    memoriesWf (outside (breakArcs s detail p)) = true := by
  simp [breakArcs, h]

@[simp] theorem host_askRebuild (s : State) (plane : Nat) (hit : CommEntry → Bool) :
    hostView (outside (askRebuild s plane hit)) = hostView (outside s) := by
  unfold askRebuild
  refine hostView_foldl _ (fun s k => ?_) _ _
  dsimp only
  split <;> simp

@[simp] theorem wf_askRebuild (s : State) (plane : Nat) (hit : CommEntry → Bool) (h : memoriesWf (outside s) = true) :
    memoriesWf (outside (askRebuild s plane hit)) = true := by
  unfold askRebuild
  refine wf_foldl _ (fun s k h => ?_) _ _ h
  dsimp only
  split <;> simp [h]

@[simp] theorem host_sendNotices (s : State) (plane : Nat) (pkgs : List Nat) :
    hostView (outside (sendNotices s plane pkgs)) = hostView (outside s) := by
  unfold sendNotices
  split <;> simp [hostView_foldl]

@[simp] theorem wf_sendNotices (s : State) (plane : Nat) (pkgs : List Nat) (h : memoriesWf (outside s) = true) :
    memoriesWf (outside (sendNotices s plane pkgs)) = true := by
  unfold sendNotices
  split
  · exact wf_foldl _ (fun s g h => by simp [h]) _ _ h
  · exact h

@[simp] theorem host_portDown (s : State) (p : Nat) :
    hostView (outside (portDown s p)) = hostView (outside s) := by
  unfold portDown
  split <;> simp

@[simp] theorem wf_portDown (s : State) (p : Nat) (h : memoriesWf (outside s) = true) :
    memoriesWf (outside (portDown s p)) = true := by
  unfold portDown
  split
  · exact wf_askRebuild _ _ _ (wf_breakArcs _ _ _ (wf_sendNotices _ _ _ (wf_modPort _ _ _ h)))
  · exact h

@[simp] theorem host_takeDeclare (s : State) (p : ArcPeer) (answer : Bool) :
    hostView (outside (takeDeclare s p answer)) = hostView (outside s) := by
  unfold takeDeclare
  dsimp only
  (repeat' split) <;> simp

@[simp] theorem wf_takeDeclare (s : State) (p : ArcPeer) (answer : Bool) (h : memoriesWf (outside s) = true) :
    memoriesWf (outside (takeDeclare s p answer)) = true := by
  unfold takeDeclare
  dsimp only
  (repeat' split) <;> simp [h]

@[simp] theorem host_takeFlit (s : State) (p : Nat) (k : LinkKind) :
    hostView (outside (takeFlit s p k)) = hostView (outside s) := by
  unfold takeFlit
  split <;> simp [apply_ite outside, apply_ite hostView]

@[simp] theorem wf_takeFlit (s : State) (p : Nat) (k : LinkKind) (h : memoriesWf (outside s) = true) :
    memoriesWf (outside (takeFlit s p k)) = true := by
  unfold takeFlit
  split <;> simp [h, apply_ite outside, apply_ite memoriesWf]

@[simp] theorem host_takeArc (s : State) (c : Ctx) (x : Arc) (lb m : Nat) (hb : List Nat) :
    hostView (outside (takeArc s c x lb m hb)) = hostView (outside s) := by
  unfold takeArc
  split <;> simp

@[simp] theorem wf_takeArc (s : State) (c : Ctx) (x : Arc) (lb m : Nat) (hb : List Nat) (h : memoriesWf
    (outside s) = true) :
    memoriesWf (outside (takeArc s c x lb m hb)) = true := by
  unfold takeArc
  split <;> simp [h]

@[simp] theorem host_arcWrite (s0 : State) (l : Launch) (a : ArcDecl) (x : Arc) (msg : Nat) (bytes : List Byte) :
    hostView (outside (arcWrite s0 l a x msg bytes)) = hostView (outside s0) := by
  unfold arcWrite
  dsimp only
  (repeat' split) <;> first | (simp; done) | (simp; rw [outside_newChecked ‹_›])

@[simp] theorem wf_arcWrite (s0 : State) (l : Launch) (a : ArcDecl) (x : Arc) (msg : Nat) (bytes : List Byte)
    (h : memoriesWf (outside s0) = true) :
    memoriesWf (outside (arcWrite s0 l a x msg bytes)) = true := by
  unfold arcWrite
  dsimp only
  (repeat' split) <;> first | (simp [h]; done) | (simp [h]; rw [outside_checked ‹_›]; exact h)

@[simp] theorem host_cpWrite (s : State) (a : Nat) (bs : List Byte) :
    hostView (outside (cpWrite s a bs)) = hostView (outside s) := by
  unfold cpWrite
  split <;> simp

@[simp] theorem wf_cpWrite (s : State) (a : Nat) (bs : List Byte) (h : memoriesWf (outside s) = true) :
    memoriesWf (outside (cpWrite s a bs)) = true := by
  unfold cpWrite
  split
  · simp only [memoriesWf, outside, Bool.and_eq_true] at *
    exact ⟨h.1, wf_writeBytes _ _ h.2⟩
  · simp [h]

@[simp] theorem host_writeCompletion (s : State) (r : Rec) (c : Completion) :
    hostView (outside (writeCompletion s r c)) = hostView (outside s) := by
  unfold writeCompletion
  split <;> simp

@[simp] theorem wf_writeCompletion (s : State) (r : Rec) (c : Completion) (h : memoriesWf (outside s) = true) :
    memoriesWf (outside (writeCompletion s r c)) = true := by
  unfold writeCompletion
  split <;> simp [h]

@[simp] theorem host_makeSignal (s : State) (r : Rec) (hb : List Nat) :
    hostView (outside (makeSignal s r hb)) = hostView (outside s) := by
  unfold makeSignal
  split <;> simp

@[simp] theorem wf_makeSignal (s : State) (r : Rec) (hb : List Nat) (h : memoriesWf (outside s) = true) :
    memoriesWf (outside (makeSignal s r hb)) = true := by
  unfold makeSignal
  split <;> simp [h]

@[simp] theorem host_closeRecord (s : State) (q code : Nat) :
    hostView (outside (closeRecord s q code)) = hostView (outside s) := by
  simp [closeRecord]

@[simp] theorem wf_closeRecord (s : State) (q code : Nat) (h : memoriesWf (outside s) = true) :
    memoriesWf (outside (closeRecord s q code)) = true := by
  simp [closeRecord, h]

@[simp] theorem host_finishRecord (s : State) (q : Nat) (r : Rec) (c : Completion) (hb : List Nat) :
    hostView (outside (finishRecord s q r c hb)) = hostView (outside s) := by
  simp [finishRecord]

@[simp] theorem wf_finishRecord (s : State) (q : Nat) (r : Rec) (c : Completion) (hb : List Nat) (h : memoriesWf
    (outside s) = true) :
    memoriesWf (outside (finishRecord s q r c hb)) = true := by
  unfold finishRecord
  exact wf_closeRecord _ _ _ (wf_makeSignal _ _ _ (wf_writeCompletion _ _ _ (wf_modQueue _ _ _ h)))

@[simp] theorem host_leaveTile (s : State) (l : Launch) (t : Tile) :
    hostView (outside (leaveTile s l t)) = hostView (outside s) := by
  simp [leaveTile]

@[simp] theorem wf_leaveTile (s : State) (l : Launch) (t : Tile) (h : memoriesWf (outside s) = true) :
    memoriesWf (outside (leaveTile s l t)) = true := by
  simp [leaveTile, h]

@[simp] theorem host_leaveRegion (s : State) (l : Launch) :
    hostView (outside (leaveRegion s l)) = hostView (outside s) := by
  unfold leaveRegion
  simp [hostView_foldl]

@[simp] theorem wf_leaveRegion (s : State) (l : Launch) (h : memoriesWf (outside s) = true) :
    memoriesWf (outside (leaveRegion s l)) = true := by
  unfold leaveRegion
  refine wf_foldl _ (fun s a h => ?_) _ _ (by simp [h])
  simp [h]

@[simp] theorem host_unblock (s : State) (part : Nat) :
    hostView (outside (unblock s part)) = hostView (outside s) := by
  simp [unblock]

@[simp] theorem wf_unblock (s : State) (part : Nat) (h : memoriesWf (outside s) = true) :
    memoriesWf (outside (unblock s part)) = true := by
  simp [unblock, h]

@[simp] theorem host_blockLaunch (s : State) (queue : Nat) (r : Rec) (m : Manifest) :
    hostView (outside (blockLaunch s queue r m)) = hostView (outside s) := by
  unfold blockLaunch
  dsimp only
  split <;> simp [hostView_foldl]

@[simp] theorem wf_blockLaunch (s : State) (queue : Nat) (r : Rec) (m : Manifest) (h : memoriesWf (outside s) = true) :
    memoriesWf (outside (blockLaunch s queue r m)) = true := by
  unfold blockLaunch
  dsimp only
  (repeat' split) <;> first
    | (simp [h]; done)
    | (refine wf_foldl _ (fun s a h => ?_) _ _ (by simp [h]); simp [h])

@[simp] theorem host_stageLaunch (s : State) (queue : Nat) (r : Rec) (m : Manifest) (fold : Nat) (depots : List Nat) :
    hostView (outside (stageLaunch s queue r m fold depots)) = hostView (outside s) := by
  unfold stageLaunch
  dsimp only
  (repeat' split) <;> simp

@[simp] theorem wf_stageLaunch (s : State) (queue : Nat) (r : Rec) (m : Manifest) (fold : Nat) (depots : List Nat)
    (h : memoriesWf (outside s) = true) :
    memoriesWf (outside (stageLaunch s queue r m fold depots)) = true := by
  unfold stageLaunch
  dsimp only
  (repeat' split) <;> simp [h]

@[simp] theorem outside_sealRace (s : State) (l : Launch) (e x : Access) : outside (sealRace s l e x) = outside s := by
  simp [sealRace]

@[simp] theorem host_placeBytes (s : State) (slot g : Nat) (m : Manifest) (placed : List (Nat × Nat × List Byte)) :
    hostView (outside (placeBytes s slot g m placed)) = hostView (outside s) := by
  unfold placeBytes
  simp [hostView_foldl]

@[simp] theorem wf_placeBytes (s : State) (slot g : Nat) (m : Manifest) (placed : List (Nat × Nat × List Byte))
    (h : memoriesWf (outside s) = true) :
    memoriesWf (outside (placeBytes s slot g m placed)) = true := by
  unfold placeBytes
  refine wf_clearLost _ _ (wf_foldl _ (fun s a h => ?_) _ _ (by simp [h]))
  simp [h]

@[simp] theorem host_placeData (s : State) (slot : Nat) (m : Manifest) (placed : List (Nat × Nat × List Byte)) :
    hostView (outside (placeData s slot m placed)) = hostView (outside s) := by
  unfold placeData
  dsimp only
  (repeat' split) <;> first | (simp; done) | (simp; rw [outside_newChecked ‹_›])

@[simp] theorem wf_placeData (s : State) (slot : Nat) (m : Manifest) (placed : List (Nat × Nat × List Byte))
    (h : memoriesWf (outside s) = true) :
    memoriesWf (outside (placeData s slot m placed)) = true := by
  unfold placeData
  dsimp only
  (repeat' split) <;> first
    | (simp [h]; done)
    | exact wf_placeBytes _ _ _ _ _ (by rw [outside_newChecked ‹_›]; exact h)

@[simp] theorem outside_injectSeeds (slot : Nat) (ds : List SeedDecl) :
    ∀ s : State, outside (injectSeeds s slot ds) = outside s := by
  induction ds with
  | nil => intro s; simp [injectSeeds]
  | cons d ds ih =>
    intro s
    simp only [injectSeeds]
    (repeat' split) <;> simp [ih]

@[simp] theorem host_commitLaunch (s : State) (l : Launch) :
    hostView (outside (commitLaunch s l)) = hostView (outside s) := by
  unfold commitLaunch
  dsimp only
  split <;> simp

@[simp] theorem wf_commitLaunch (s : State) (l : Launch) (h : memoriesWf (outside s) = true) :
    memoriesWf (outside (commitLaunch s l)) = true := by
  unfold commitLaunch
  dsimp only
  split <;> simp [h]

@[simp] theorem host_commitMode (s : State) (l : Launch) (m : Manifest) (f : Firing) :
    hostView (outside (commitMode s l m f)) = hostView (outside s) := by
  unfold commitMode
  dsimp only
  (repeat' split) <;> simp

@[simp] theorem wf_commitMode (s : State) (l : Launch) (m : Manifest) (f : Firing) (h : memoriesWf
    (outside s) = true) :
    memoriesWf (outside (commitMode s l m f)) = true := by
  unfold commitMode
  dsimp only
  (repeat' split) <;> simp [h]

@[simp] theorem host_abortMode (s : State) (l : Launch) (f : Firing) :
    hostView (outside (abortMode s l f)) = hostView (outside s) := by
  unfold abortMode
  dsimp only
  (repeat' split) <;> simp

@[simp] theorem wf_abortMode (s : State) (l : Launch) (f : Firing) (h : memoriesWf (outside s) = true) :
    memoriesWf (outside (abortMode s l f)) = true := by
  unfold abortMode
  dsimp only
  (repeat' split) <;> simp [h]

@[simp] theorem host_abandonLaunch (s : State) (l : Launch) :
    hostView (outside (abandonLaunch s l)) = hostView (outside s) := by
  simp [abandonLaunch]

@[simp] theorem wf_abandonLaunch (s : State) (l : Launch) (h : memoriesWf (outside s) = true) :
    memoriesWf (outside (abandonLaunch s l)) = true := by
  simp [abandonLaunch, h]

@[simp] theorem host_failCopies (s : State) (qs : List Nat) (detail : Nat) :
    hostView (outside (failCopies s qs detail)) = hostView (outside s) := by
  unfold failCopies
  refine hostView_foldl _ (fun s a => ?_) _ _
  split <;> simp

@[simp] theorem wf_failCopies (s : State) (qs : List Nat) (detail : Nat) (h : memoriesWf (outside s) = true) :
    memoriesWf (outside (failCopies s qs detail)) = true := by
  unfold failCopies
  refine wf_foldl _ (fun s a h => ?_) _ _ (by simp [h])
  split <;> simp [h]

@[simp] theorem host_dropTails (s : State) (queue : Nat) (rs : List Rec) :
    hostView (outside (dropTails s queue rs)) = hostView (outside s) := by
  unfold dropTails
  split <;> simp [hostView_foldl]

@[simp] theorem wf_dropTails (s : State) (queue : Nat) (rs : List Rec) (h : memoriesWf (outside s) = true) :
    memoriesWf (outside (dropTails s queue rs)) = true := by
  unfold dropTails
  dsimp only
  have hf : memoriesWf (outside (rs.foldl (fun s r => writeCompletion s r (plainDone 0x83 0)) s)) = true :=
    wf_foldl _ (fun s r h => by simp [h]) _ _ h
  split <;> simp [hf]

@[simp] theorem host_enterTails (s : State) (l : Launch) :
    hostView (outside (enterTails s l)) = hostView (outside s) := by
  unfold enterTails
  split <;> simp

@[simp] theorem wf_enterTails (s : State) (l : Launch) (h : memoriesWf (outside s) = true) :
    memoriesWf (outside (enterTails s l)) = true := by
  unfold enterTails
  split <;> simp [h]

@[simp] theorem host_endArcs (s : State) (slot : Nat) :
    hostView (outside (endArcs s slot)) = hostView (outside s) := by
  simp [endArcs]

@[simp] theorem wf_endArcs (s : State) (slot : Nat) (h : memoriesWf (outside s) = true) :
    memoriesWf (outside (endArcs s slot)) = true := by
  simp [endArcs, h]

@[simp] theorem host_releaseLaunch (s : State) (l : Launch) :
    hostView (outside (releaseLaunch s l)) = hostView (outside s) := by
  simp [releaseLaunch]

@[simp] theorem wf_releaseLaunch (s : State) (l : Launch) (h : memoriesWf (outside s) = true) :
    memoriesWf (outside (releaseLaunch s l)) = true := by
  unfold releaseLaunch
  refine wf_foldl _ (fun s a h => ?_) _ _ (by simp [h])
  simp [h]

@[simp] theorem host_completeLaunch (s : State) (l : Launch) :
    hostView (outside (completeLaunch s l)) = hostView (outside s) := by
  simp [completeLaunch]

@[simp] theorem wf_completeLaunch (s : State) (l : Launch) (h : memoriesWf (outside s) = true) :
    memoriesWf (outside (completeLaunch s l)) = true := by
  unfold completeLaunch
  refine wf_foldl _ (fun s a h => ?_) _ _ (by simp [h])
  simp [h]

@[simp] theorem host_setMeters (s : State) (die : Nat) :
    hostView (outside (setMeters s die)) = hostView (outside s) := by
  simp [setMeters]

@[simp] theorem wf_setMeters (s : State) (die : Nat) (h : memoriesWf (outside s) = true) :
    memoriesWf (outside (setMeters s die)) = true := by
  simp [setMeters, h]

@[simp] theorem host_logEntry (s : State) (e : LogEntry) :
    hostView (outside (logEntry s e)) = hostView (outside s) := by
  simp [logEntry]

@[simp] theorem wf_logEntry (s : State) (e : LogEntry) (h : memoriesWf (outside s) = true) :
    memoriesWf (outside (logEntry s e)) = true := by
  simp [logEntry, h]

@[simp] theorem host_undoLines (s : State) (l : Launch) :
    hostView (outside (undoLines s l)) = hostView (outside s) := by
  unfold undoLines
  simp [hostView_foldl]

@[simp] theorem wf_undoLines (s : State) (l : Launch) (h : memoriesWf (outside s) = true) :
    memoriesWf (outside (undoLines s l)) = true := by
  unfold undoLines
  refine wf_foldl _ (fun s a h => ?_) _ _ (by simp [h])
  simp [h]

@[simp] theorem host_postRevoke (s : State) (l : Launch) (lost : List Nat) :
    hostView (outside (postRevoke s l lost)) = hostView (outside s) := by
  simp [postRevoke]

@[simp] theorem wf_postRevoke (s : State) (l : Launch) (lost : List Nat) (h : memoriesWf (outside s) = true) :
    memoriesWf (outside (postRevoke s l lost)) = true := by
  unfold postRevoke
  simp only [memoriesWf, outside, Bool.and_eq_true] at *
  exact ⟨h.1, wf_writeBytes _ _ h.2⟩

@[simp] theorem host_recoverLaunch (s : State) (slot : Nat) (line : Option Nat) :
    hostView (outside (recoverLaunch s slot line)) = hostView (outside s) := by
  unfold recoverLaunch
  (repeat' split) <;> simp

@[simp] theorem wf_recoverLaunch (s : State) (slot : Nat) (line : Option Nat) (h : memoriesWf (outside s) = true) :
    memoriesWf (outside (recoverLaunch s slot line)) = true := by
  unfold recoverLaunch
  split
  · exact h
  split
  · exact h
  dsimp only
  have h1 := wf_undoLines s ‹Launch› h
  exact wf_logEntry _ _ (wf_releaseLaunch _ _ (wf_closeRecord _ _ _ (wf_writeCompletion _ _ _ (wf_enterTails _ _
    (wf_postRevoke _ _ _ (wf_modQueue _ _ _ (by simp [h1])))))))

@[simp] theorem host_loseLine (s : State) (n : Nat) :
    hostView (outside (loseLine s n)) = hostView (outside s) := by
  unfold loseLine
  split <;> simp

@[simp] theorem wf_loseLine (s : State) (n : Nat) (h : memoriesWf (outside s) = true) :
    memoriesWf (outside (loseLine s n)) = true := by
  unfold loseLine
  split <;> simp [h]

theorem host_writePieces (slot : Nat) (host : Bool) (ps : List (Nat × Nat × Nat)) :
    ∀ (s : State) (bs : List Byte), hostView (outside (writePieces s slot host ps bs)) = hostView (outside s) := by
  induction ps with
  | nil => intro s bs; rfl
  | cons p ps ih =>
    intro s bs
    simp only [writePieces]
    rw [ih]
    split <;> simp

theorem wf_writePieces (slot : Nat) (host : Bool) (ps : List (Nat × Nat × Nat)) :
    ∀ (s : State) (bs : List Byte), memoriesWf (outside s) = true →
      memoriesWf (outside (writePieces s slot host ps bs)) = true := by
  induction ps with
  | nil => intro s bs h; exact h
  | cons p ps ih =>
    intro s bs h
    simp only [writePieces]
    apply ih
    split
    · simp only [memoriesWf, outside, Bool.and_eq_true] at *
      exact ⟨h.1, wf_writeBytes _ _ h.2⟩
    · simp [h]

@[simp] theorem host_clearPieces (s : State) (host : Bool) (ps : List (Nat × Nat × Nat)) :
    hostView (outside (clearPieces s host ps)) = hostView (outside s) := by
  unfold clearPieces
  split <;> simp

@[simp] theorem wf_clearPieces (s : State) (host : Bool) (ps : List (Nat × Nat × Nat)) (h : memoriesWf (outside s) = true) :
    memoriesWf (outside (clearPieces s host ps)) = true := by
  unfold clearPieces
  split <;> simp [h]

theorem host_copyWrite (host : Bool) (ps : List (Nat × Nat × Nat)) :
    ∀ (s : State) (bs : List Byte), hostView (outside (copyWrite s host ps bs)) = hostView (outside s) := by
  induction ps with
  | nil => intro s bs; rfl
  | cons p ps ih =>
    intro s bs
    simp only [copyWrite]
    rw [ih]
    split <;> simp

theorem wf_copyWrite (host : Bool) (ps : List (Nat × Nat × Nat)) :
    ∀ (s : State) (bs : List Byte), memoriesWf (outside s) = true →
      memoriesWf (outside (copyWrite s host ps bs)) = true := by
  induction ps with
  | nil => intro s bs h; exact h
  | cons p ps ih =>
    intro s bs h
    simp only [copyWrite]
    apply ih
    split
    · simp only [memoriesWf, outside, Bool.and_eq_true] at *
      exact ⟨h.1, wf_writeBytes _ _ h.2⟩
    · simp [h]

end Sys2Proof.Laws
end

