-- ==== Sys2Proof/Laws/State.lean ====
section
/-! SUPPORT. One lemma for each field of the state and each of its plain updates, true by rfl. -/

namespace Sys2Proof.Laws

open Machine

section
variable (s : State) (l : Launch)

@[simp] theorem setLaunch_dev : (setLaunch s l).dev = s.dev := rfl
@[simp] theorem setLaunch_failcode : (setLaunch s l).failcode = s.failcode := rfl
@[simp] theorem setLaunch_bootaddr : (setLaunch s l).bootaddr = s.bootaddr := rfl
@[simp] theorem setLaunch_bootlen : (setLaunch s l).bootlen = s.bootlen := rfl
@[simp] theorem setLaunch_epoch : (setLaunch s l).epoch = s.epoch := rfl
@[simp] theorem setLaunch_revokebase : (setLaunch s l).revokebase = s.revokebase := rfl
@[simp] theorem setLaunch_revLogn : (setLaunch s l).revLogn = s.revLogn := rfl
@[simp] theorem setLaunch_revHead : (setLaunch s l).revHead = s.revHead := rfl
@[simp] theorem setLaunch_revTail : (setLaunch s l).revTail = s.revTail := rfl
@[simp] theorem setLaunch_badnode : (setLaunch s l).badnode = s.badnode := rfl
@[simp] theorem setLaunch_hoplog : (setLaunch s l).hoplog = s.hoplog := rfl
@[simp] theorem setLaunch_log : (setLaunch s l).log = s.log := rfl
@[simp] theorem setLaunch_logCount : (setLaunch s l).logCount = s.logCount := rfl
@[simp] theorem setLaunch_nonce : (setLaunch s l).nonce = s.nonce := rfl
@[simp] theorem setLaunch_attBusy : (setLaunch s l).attBusy = s.attBusy := rfl
@[simp] theorem setLaunch_attDone : (setLaunch s l).attDone = s.attDone := rfl
@[simp] theorem setLaunch_report : (setLaunch s l).report = s.report := rfl
@[simp] theorem setLaunch_image : (setLaunch s l).image = s.image := rfl
@[simp] theorem setLaunch_telemetry : (setLaunch s l).telemetry = s.telemetry := rfl
@[simp] theorem setLaunch_sampled : (setLaunch s l).sampled = s.sampled := rfl
@[simp] theorem setLaunch_cfg : (setLaunch s l).cfg = s.cfg := rfl
@[simp] theorem setLaunch_queues : (setLaunch s l).queues = s.queues := rfl
@[simp] theorem setLaunch_rotation : (setLaunch s l).rotation = s.rotation := rfl
@[simp] theorem setLaunch_parts : (setLaunch s l).parts = s.parts := rfl
@[simp] theorem setLaunch_routes : (setLaunch s l).routes = s.routes := rfl
@[simp] theorem setLaunch_routed : (setLaunch s l).routed = s.routed := rfl
@[simp] theorem setLaunch_comms : (setLaunch s l).comms = s.comms := rfl
@[simp] theorem setLaunch_ports : (setLaunch s l).ports = s.ports := rfl
@[simp] theorem setLaunch_clocks : (setLaunch s l).clocks = s.clocks := rfl
@[simp] theorem setLaunch_trips : (setLaunch s l).trips = s.trips := rfl
@[simp] theorem setLaunch_budget : (setLaunch s l).budget = s.budget := rfl
@[simp] theorem setLaunch_detector : (setLaunch s l).detector = s.detector := rfl
@[simp] theorem setLaunch_cache : (setLaunch s l).cache = s.cache := rfl
@[simp] theorem setLaunch_invals : (setLaunch s l).invals = s.invals := rfl
@[simp] theorem setLaunch_pages : (setLaunch s l).pages = s.pages := rfl
@[simp] theorem setLaunch_recovering : (setLaunch s l).recovering = s.recovering := rfl
@[simp] theorem setLaunch_frames : (setLaunch s l).frames = s.frames := rfl
@[simp] theorem setLaunch_spawns : (setLaunch s l).spawns = s.spawns := rfl
@[simp] theorem setLaunch_sramLeft : (setLaunch s l).sramLeft = s.sramLeft := rfl
@[simp] theorem setLaunch_signals : (setLaunch s l).signals = s.signals := rfl
@[simp] theorem setLaunch_mem : (setLaunch s l).mem = s.mem := rfl
@[simp] theorem setLaunch_bus : (setLaunch s l).bus = s.bus := rfl
@[simp] theorem setLaunch_lost : (setLaunch s l).lost = s.lost := rfl
@[simp] theorem setLaunch_dieTlb : (setLaunch s l).dieTlb = s.dieTlb := rfl
@[simp] theorem setLaunch_tileTlb : (setLaunch s l).tileTlb = s.tileTlb := rfl
@[simp] theorem setLaunch_agenda : (setLaunch s l).agenda = s.agenda := rfl
@[simp] theorem setLaunch_issue : (setLaunch s l).issue = s.issue := rfl
@[simp] theorem setLaunch_nextId : (setLaunch s l).nextId = s.nextId := rfl
@[simp] theorem setLaunch_tick : (setLaunch s l).tick = s.tick := rfl

end

section
variable (s : State) (k : Nat) (f : Launch → Launch)

@[simp] theorem modLaunch_dev : (modLaunch s k f).dev = s.dev := rfl
@[simp] theorem modLaunch_failcode : (modLaunch s k f).failcode = s.failcode := rfl
@[simp] theorem modLaunch_bootaddr : (modLaunch s k f).bootaddr = s.bootaddr := rfl
@[simp] theorem modLaunch_bootlen : (modLaunch s k f).bootlen = s.bootlen := rfl
@[simp] theorem modLaunch_epoch : (modLaunch s k f).epoch = s.epoch := rfl
@[simp] theorem modLaunch_revokebase : (modLaunch s k f).revokebase = s.revokebase := rfl
@[simp] theorem modLaunch_revLogn : (modLaunch s k f).revLogn = s.revLogn := rfl
@[simp] theorem modLaunch_revHead : (modLaunch s k f).revHead = s.revHead := rfl
@[simp] theorem modLaunch_revTail : (modLaunch s k f).revTail = s.revTail := rfl
@[simp] theorem modLaunch_badnode : (modLaunch s k f).badnode = s.badnode := rfl
@[simp] theorem modLaunch_hoplog : (modLaunch s k f).hoplog = s.hoplog := rfl
@[simp] theorem modLaunch_log : (modLaunch s k f).log = s.log := rfl
@[simp] theorem modLaunch_logCount : (modLaunch s k f).logCount = s.logCount := rfl
@[simp] theorem modLaunch_nonce : (modLaunch s k f).nonce = s.nonce := rfl
@[simp] theorem modLaunch_attBusy : (modLaunch s k f).attBusy = s.attBusy := rfl
@[simp] theorem modLaunch_attDone : (modLaunch s k f).attDone = s.attDone := rfl
@[simp] theorem modLaunch_report : (modLaunch s k f).report = s.report := rfl
@[simp] theorem modLaunch_image : (modLaunch s k f).image = s.image := rfl
@[simp] theorem modLaunch_telemetry : (modLaunch s k f).telemetry = s.telemetry := rfl
@[simp] theorem modLaunch_sampled : (modLaunch s k f).sampled = s.sampled := rfl
@[simp] theorem modLaunch_cfg : (modLaunch s k f).cfg = s.cfg := rfl
@[simp] theorem modLaunch_queues : (modLaunch s k f).queues = s.queues := rfl
@[simp] theorem modLaunch_rotation : (modLaunch s k f).rotation = s.rotation := rfl
@[simp] theorem modLaunch_parts : (modLaunch s k f).parts = s.parts := rfl
@[simp] theorem modLaunch_routes : (modLaunch s k f).routes = s.routes := rfl
@[simp] theorem modLaunch_routed : (modLaunch s k f).routed = s.routed := rfl
@[simp] theorem modLaunch_comms : (modLaunch s k f).comms = s.comms := rfl
@[simp] theorem modLaunch_ports : (modLaunch s k f).ports = s.ports := rfl
@[simp] theorem modLaunch_clocks : (modLaunch s k f).clocks = s.clocks := rfl
@[simp] theorem modLaunch_trips : (modLaunch s k f).trips = s.trips := rfl
@[simp] theorem modLaunch_budget : (modLaunch s k f).budget = s.budget := rfl
@[simp] theorem modLaunch_detector : (modLaunch s k f).detector = s.detector := rfl
@[simp] theorem modLaunch_cache : (modLaunch s k f).cache = s.cache := rfl
@[simp] theorem modLaunch_invals : (modLaunch s k f).invals = s.invals := rfl
@[simp] theorem modLaunch_pages : (modLaunch s k f).pages = s.pages := rfl
@[simp] theorem modLaunch_recovering : (modLaunch s k f).recovering = s.recovering := rfl
@[simp] theorem modLaunch_frames : (modLaunch s k f).frames = s.frames := rfl
@[simp] theorem modLaunch_spawns : (modLaunch s k f).spawns = s.spawns := rfl
@[simp] theorem modLaunch_sramLeft : (modLaunch s k f).sramLeft = s.sramLeft := rfl
@[simp] theorem modLaunch_signals : (modLaunch s k f).signals = s.signals := rfl
@[simp] theorem modLaunch_mem : (modLaunch s k f).mem = s.mem := rfl
@[simp] theorem modLaunch_bus : (modLaunch s k f).bus = s.bus := rfl
@[simp] theorem modLaunch_lost : (modLaunch s k f).lost = s.lost := rfl
@[simp] theorem modLaunch_dieTlb : (modLaunch s k f).dieTlb = s.dieTlb := rfl
@[simp] theorem modLaunch_tileTlb : (modLaunch s k f).tileTlb = s.tileTlb := rfl
@[simp] theorem modLaunch_agenda : (modLaunch s k f).agenda = s.agenda := rfl
@[simp] theorem modLaunch_issue : (modLaunch s k f).issue = s.issue := rfl
@[simp] theorem modLaunch_nextId : (modLaunch s k f).nextId = s.nextId := rfl
@[simp] theorem modLaunch_tick : (modLaunch s k f).tick = s.tick := rfl

end

section
variable (s : State) (k : Nat) (f : Frame → Frame)

@[simp] theorem modFrame_dev : (modFrame s k f).dev = s.dev := rfl
@[simp] theorem modFrame_failcode : (modFrame s k f).failcode = s.failcode := rfl
@[simp] theorem modFrame_bootaddr : (modFrame s k f).bootaddr = s.bootaddr := rfl
@[simp] theorem modFrame_bootlen : (modFrame s k f).bootlen = s.bootlen := rfl
@[simp] theorem modFrame_epoch : (modFrame s k f).epoch = s.epoch := rfl
@[simp] theorem modFrame_revokebase : (modFrame s k f).revokebase = s.revokebase := rfl
@[simp] theorem modFrame_revLogn : (modFrame s k f).revLogn = s.revLogn := rfl
@[simp] theorem modFrame_revHead : (modFrame s k f).revHead = s.revHead := rfl
@[simp] theorem modFrame_revTail : (modFrame s k f).revTail = s.revTail := rfl
@[simp] theorem modFrame_badnode : (modFrame s k f).badnode = s.badnode := rfl
@[simp] theorem modFrame_hoplog : (modFrame s k f).hoplog = s.hoplog := rfl
@[simp] theorem modFrame_log : (modFrame s k f).log = s.log := rfl
@[simp] theorem modFrame_logCount : (modFrame s k f).logCount = s.logCount := rfl
@[simp] theorem modFrame_nonce : (modFrame s k f).nonce = s.nonce := rfl
@[simp] theorem modFrame_attBusy : (modFrame s k f).attBusy = s.attBusy := rfl
@[simp] theorem modFrame_attDone : (modFrame s k f).attDone = s.attDone := rfl
@[simp] theorem modFrame_report : (modFrame s k f).report = s.report := rfl
@[simp] theorem modFrame_image : (modFrame s k f).image = s.image := rfl
@[simp] theorem modFrame_telemetry : (modFrame s k f).telemetry = s.telemetry := rfl
@[simp] theorem modFrame_sampled : (modFrame s k f).sampled = s.sampled := rfl
@[simp] theorem modFrame_cfg : (modFrame s k f).cfg = s.cfg := rfl
@[simp] theorem modFrame_queues : (modFrame s k f).queues = s.queues := rfl
@[simp] theorem modFrame_rotation : (modFrame s k f).rotation = s.rotation := rfl
@[simp] theorem modFrame_parts : (modFrame s k f).parts = s.parts := rfl
@[simp] theorem modFrame_routes : (modFrame s k f).routes = s.routes := rfl
@[simp] theorem modFrame_routed : (modFrame s k f).routed = s.routed := rfl
@[simp] theorem modFrame_comms : (modFrame s k f).comms = s.comms := rfl
@[simp] theorem modFrame_ports : (modFrame s k f).ports = s.ports := rfl
@[simp] theorem modFrame_clocks : (modFrame s k f).clocks = s.clocks := rfl
@[simp] theorem modFrame_trips : (modFrame s k f).trips = s.trips := rfl
@[simp] theorem modFrame_budget : (modFrame s k f).budget = s.budget := rfl
@[simp] theorem modFrame_detector : (modFrame s k f).detector = s.detector := rfl
@[simp] theorem modFrame_cache : (modFrame s k f).cache = s.cache := rfl
@[simp] theorem modFrame_invals : (modFrame s k f).invals = s.invals := rfl
@[simp] theorem modFrame_pages : (modFrame s k f).pages = s.pages := rfl
@[simp] theorem modFrame_recovering : (modFrame s k f).recovering = s.recovering := rfl
@[simp] theorem modFrame_spawns : (modFrame s k f).spawns = s.spawns := rfl
@[simp] theorem modFrame_launches : (modFrame s k f).launches = s.launches := rfl
@[simp] theorem modFrame_sramLeft : (modFrame s k f).sramLeft = s.sramLeft := rfl
@[simp] theorem modFrame_signals : (modFrame s k f).signals = s.signals := rfl
@[simp] theorem modFrame_mem : (modFrame s k f).mem = s.mem := rfl
@[simp] theorem modFrame_bus : (modFrame s k f).bus = s.bus := rfl
@[simp] theorem modFrame_lost : (modFrame s k f).lost = s.lost := rfl
@[simp] theorem modFrame_dieTlb : (modFrame s k f).dieTlb = s.dieTlb := rfl
@[simp] theorem modFrame_tileTlb : (modFrame s k f).tileTlb = s.tileTlb := rfl
@[simp] theorem modFrame_agenda : (modFrame s k f).agenda = s.agenda := rfl
@[simp] theorem modFrame_issue : (modFrame s k f).issue = s.issue := rfl
@[simp] theorem modFrame_nextId : (modFrame s k f).nextId = s.nextId := rfl
@[simp] theorem modFrame_tick : (modFrame s k f).tick = s.tick := rfl

end

section
variable (s : State) (f : Frame)

@[simp] theorem addFrame_dev : (addFrame s f).dev = s.dev := rfl
@[simp] theorem addFrame_failcode : (addFrame s f).failcode = s.failcode := rfl
@[simp] theorem addFrame_bootaddr : (addFrame s f).bootaddr = s.bootaddr := rfl
@[simp] theorem addFrame_bootlen : (addFrame s f).bootlen = s.bootlen := rfl
@[simp] theorem addFrame_epoch : (addFrame s f).epoch = s.epoch := rfl
@[simp] theorem addFrame_revokebase : (addFrame s f).revokebase = s.revokebase := rfl
@[simp] theorem addFrame_revLogn : (addFrame s f).revLogn = s.revLogn := rfl
@[simp] theorem addFrame_revHead : (addFrame s f).revHead = s.revHead := rfl
@[simp] theorem addFrame_revTail : (addFrame s f).revTail = s.revTail := rfl
@[simp] theorem addFrame_badnode : (addFrame s f).badnode = s.badnode := rfl
@[simp] theorem addFrame_hoplog : (addFrame s f).hoplog = s.hoplog := rfl
@[simp] theorem addFrame_log : (addFrame s f).log = s.log := rfl
@[simp] theorem addFrame_logCount : (addFrame s f).logCount = s.logCount := rfl
@[simp] theorem addFrame_nonce : (addFrame s f).nonce = s.nonce := rfl
@[simp] theorem addFrame_attBusy : (addFrame s f).attBusy = s.attBusy := rfl
@[simp] theorem addFrame_attDone : (addFrame s f).attDone = s.attDone := rfl
@[simp] theorem addFrame_report : (addFrame s f).report = s.report := rfl
@[simp] theorem addFrame_image : (addFrame s f).image = s.image := rfl
@[simp] theorem addFrame_telemetry : (addFrame s f).telemetry = s.telemetry := rfl
@[simp] theorem addFrame_sampled : (addFrame s f).sampled = s.sampled := rfl
@[simp] theorem addFrame_cfg : (addFrame s f).cfg = s.cfg := rfl
@[simp] theorem addFrame_queues : (addFrame s f).queues = s.queues := rfl
@[simp] theorem addFrame_rotation : (addFrame s f).rotation = s.rotation := rfl
@[simp] theorem addFrame_parts : (addFrame s f).parts = s.parts := rfl
@[simp] theorem addFrame_routes : (addFrame s f).routes = s.routes := rfl
@[simp] theorem addFrame_routed : (addFrame s f).routed = s.routed := rfl
@[simp] theorem addFrame_comms : (addFrame s f).comms = s.comms := rfl
@[simp] theorem addFrame_ports : (addFrame s f).ports = s.ports := rfl
@[simp] theorem addFrame_clocks : (addFrame s f).clocks = s.clocks := rfl
@[simp] theorem addFrame_trips : (addFrame s f).trips = s.trips := rfl
@[simp] theorem addFrame_budget : (addFrame s f).budget = s.budget := rfl
@[simp] theorem addFrame_detector : (addFrame s f).detector = s.detector := rfl
@[simp] theorem addFrame_cache : (addFrame s f).cache = s.cache := rfl
@[simp] theorem addFrame_invals : (addFrame s f).invals = s.invals := rfl
@[simp] theorem addFrame_pages : (addFrame s f).pages = s.pages := rfl
@[simp] theorem addFrame_recovering : (addFrame s f).recovering = s.recovering := rfl
@[simp] theorem addFrame_spawns : (addFrame s f).spawns = s.spawns := rfl
@[simp] theorem addFrame_launches : (addFrame s f).launches = s.launches := rfl
@[simp] theorem addFrame_sramLeft : (addFrame s f).sramLeft = s.sramLeft := rfl
@[simp] theorem addFrame_signals : (addFrame s f).signals = s.signals := rfl
@[simp] theorem addFrame_mem : (addFrame s f).mem = s.mem := rfl
@[simp] theorem addFrame_bus : (addFrame s f).bus = s.bus := rfl
@[simp] theorem addFrame_lost : (addFrame s f).lost = s.lost := rfl
@[simp] theorem addFrame_dieTlb : (addFrame s f).dieTlb = s.dieTlb := rfl
@[simp] theorem addFrame_tileTlb : (addFrame s f).tileTlb = s.tileTlb := rfl
@[simp] theorem addFrame_agenda : (addFrame s f).agenda = s.agenda := rfl
@[simp] theorem addFrame_issue : (addFrame s f).issue = s.issue := rfl
@[simp] theorem addFrame_nextId : (addFrame s f).nextId = s.nextId := rfl
@[simp] theorem addFrame_tick : (addFrame s f).tick = s.tick := rfl

end

section
variable (s : State) (c : Chan) (i : Instr)

@[simp] theorem push_dev : (push s c i).dev = s.dev := rfl
@[simp] theorem push_failcode : (push s c i).failcode = s.failcode := rfl
@[simp] theorem push_bootaddr : (push s c i).bootaddr = s.bootaddr := rfl
@[simp] theorem push_bootlen : (push s c i).bootlen = s.bootlen := rfl
@[simp] theorem push_epoch : (push s c i).epoch = s.epoch := rfl
@[simp] theorem push_revokebase : (push s c i).revokebase = s.revokebase := rfl
@[simp] theorem push_revLogn : (push s c i).revLogn = s.revLogn := rfl
@[simp] theorem push_revHead : (push s c i).revHead = s.revHead := rfl
@[simp] theorem push_revTail : (push s c i).revTail = s.revTail := rfl
@[simp] theorem push_badnode : (push s c i).badnode = s.badnode := rfl
@[simp] theorem push_hoplog : (push s c i).hoplog = s.hoplog := rfl
@[simp] theorem push_log : (push s c i).log = s.log := rfl
@[simp] theorem push_logCount : (push s c i).logCount = s.logCount := rfl
@[simp] theorem push_nonce : (push s c i).nonce = s.nonce := rfl
@[simp] theorem push_attBusy : (push s c i).attBusy = s.attBusy := rfl
@[simp] theorem push_attDone : (push s c i).attDone = s.attDone := rfl
@[simp] theorem push_report : (push s c i).report = s.report := rfl
@[simp] theorem push_image : (push s c i).image = s.image := rfl
@[simp] theorem push_telemetry : (push s c i).telemetry = s.telemetry := rfl
@[simp] theorem push_sampled : (push s c i).sampled = s.sampled := rfl
@[simp] theorem push_cfg : (push s c i).cfg = s.cfg := rfl
@[simp] theorem push_queues : (push s c i).queues = s.queues := rfl
@[simp] theorem push_rotation : (push s c i).rotation = s.rotation := rfl
@[simp] theorem push_parts : (push s c i).parts = s.parts := rfl
@[simp] theorem push_routes : (push s c i).routes = s.routes := rfl
@[simp] theorem push_routed : (push s c i).routed = s.routed := rfl
@[simp] theorem push_comms : (push s c i).comms = s.comms := rfl
@[simp] theorem push_ports : (push s c i).ports = s.ports := rfl
@[simp] theorem push_clocks : (push s c i).clocks = s.clocks := rfl
@[simp] theorem push_trips : (push s c i).trips = s.trips := rfl
@[simp] theorem push_budget : (push s c i).budget = s.budget := rfl
@[simp] theorem push_detector : (push s c i).detector = s.detector := rfl
@[simp] theorem push_cache : (push s c i).cache = s.cache := rfl
@[simp] theorem push_invals : (push s c i).invals = s.invals := rfl
@[simp] theorem push_pages : (push s c i).pages = s.pages := rfl
@[simp] theorem push_recovering : (push s c i).recovering = s.recovering := rfl
@[simp] theorem push_frames : (push s c i).frames = s.frames := rfl
@[simp] theorem push_spawns : (push s c i).spawns = s.spawns := rfl
@[simp] theorem push_launches : (push s c i).launches = s.launches := rfl
@[simp] theorem push_sramLeft : (push s c i).sramLeft = s.sramLeft := rfl
@[simp] theorem push_signals : (push s c i).signals = s.signals := rfl
@[simp] theorem push_mem : (push s c i).mem = s.mem := rfl
@[simp] theorem push_bus : (push s c i).bus = s.bus := rfl
@[simp] theorem push_lost : (push s c i).lost = s.lost := rfl
@[simp] theorem push_dieTlb : (push s c i).dieTlb = s.dieTlb := rfl
@[simp] theorem push_tileTlb : (push s c i).tileTlb = s.tileTlb := rfl
@[simp] theorem push_issue : (push s c i).issue = s.issue := rfl
@[simp] theorem push_nextId : (push s c i).nextId = s.nextId := rfl
@[simp] theorem push_tick : (push s c i).tick = s.tick := rfl

end

section
variable (s : State) (i : Instr)

@[simp] theorem pushAlone_dev : (pushAlone s i).dev = s.dev := rfl
@[simp] theorem pushAlone_failcode : (pushAlone s i).failcode = s.failcode := rfl
@[simp] theorem pushAlone_bootaddr : (pushAlone s i).bootaddr = s.bootaddr := rfl
@[simp] theorem pushAlone_bootlen : (pushAlone s i).bootlen = s.bootlen := rfl
@[simp] theorem pushAlone_epoch : (pushAlone s i).epoch = s.epoch := rfl
@[simp] theorem pushAlone_revokebase : (pushAlone s i).revokebase = s.revokebase := rfl
@[simp] theorem pushAlone_revLogn : (pushAlone s i).revLogn = s.revLogn := rfl
@[simp] theorem pushAlone_revHead : (pushAlone s i).revHead = s.revHead := rfl
@[simp] theorem pushAlone_revTail : (pushAlone s i).revTail = s.revTail := rfl
@[simp] theorem pushAlone_badnode : (pushAlone s i).badnode = s.badnode := rfl
@[simp] theorem pushAlone_hoplog : (pushAlone s i).hoplog = s.hoplog := rfl
@[simp] theorem pushAlone_log : (pushAlone s i).log = s.log := rfl
@[simp] theorem pushAlone_logCount : (pushAlone s i).logCount = s.logCount := rfl
@[simp] theorem pushAlone_nonce : (pushAlone s i).nonce = s.nonce := rfl
@[simp] theorem pushAlone_attBusy : (pushAlone s i).attBusy = s.attBusy := rfl
@[simp] theorem pushAlone_attDone : (pushAlone s i).attDone = s.attDone := rfl
@[simp] theorem pushAlone_report : (pushAlone s i).report = s.report := rfl
@[simp] theorem pushAlone_image : (pushAlone s i).image = s.image := rfl
@[simp] theorem pushAlone_telemetry : (pushAlone s i).telemetry = s.telemetry := rfl
@[simp] theorem pushAlone_sampled : (pushAlone s i).sampled = s.sampled := rfl
@[simp] theorem pushAlone_cfg : (pushAlone s i).cfg = s.cfg := rfl
@[simp] theorem pushAlone_queues : (pushAlone s i).queues = s.queues := rfl
@[simp] theorem pushAlone_rotation : (pushAlone s i).rotation = s.rotation := rfl
@[simp] theorem pushAlone_parts : (pushAlone s i).parts = s.parts := rfl
@[simp] theorem pushAlone_routes : (pushAlone s i).routes = s.routes := rfl
@[simp] theorem pushAlone_routed : (pushAlone s i).routed = s.routed := rfl
@[simp] theorem pushAlone_comms : (pushAlone s i).comms = s.comms := rfl
@[simp] theorem pushAlone_ports : (pushAlone s i).ports = s.ports := rfl
@[simp] theorem pushAlone_clocks : (pushAlone s i).clocks = s.clocks := rfl
@[simp] theorem pushAlone_trips : (pushAlone s i).trips = s.trips := rfl
@[simp] theorem pushAlone_budget : (pushAlone s i).budget = s.budget := rfl
@[simp] theorem pushAlone_detector : (pushAlone s i).detector = s.detector := rfl
@[simp] theorem pushAlone_cache : (pushAlone s i).cache = s.cache := rfl
@[simp] theorem pushAlone_invals : (pushAlone s i).invals = s.invals := rfl
@[simp] theorem pushAlone_pages : (pushAlone s i).pages = s.pages := rfl
@[simp] theorem pushAlone_recovering : (pushAlone s i).recovering = s.recovering := rfl
@[simp] theorem pushAlone_frames : (pushAlone s i).frames = s.frames := rfl
@[simp] theorem pushAlone_spawns : (pushAlone s i).spawns = s.spawns := rfl
@[simp] theorem pushAlone_launches : (pushAlone s i).launches = s.launches := rfl
@[simp] theorem pushAlone_sramLeft : (pushAlone s i).sramLeft = s.sramLeft := rfl
@[simp] theorem pushAlone_signals : (pushAlone s i).signals = s.signals := rfl
@[simp] theorem pushAlone_mem : (pushAlone s i).mem = s.mem := rfl
@[simp] theorem pushAlone_bus : (pushAlone s i).bus = s.bus := rfl
@[simp] theorem pushAlone_lost : (pushAlone s i).lost = s.lost := rfl
@[simp] theorem pushAlone_dieTlb : (pushAlone s i).dieTlb = s.dieTlb := rfl
@[simp] theorem pushAlone_tileTlb : (pushAlone s i).tileTlb = s.tileTlb := rfl
@[simp] theorem pushAlone_issue : (pushAlone s i).issue = s.issue := rfl
@[simp] theorem pushAlone_tick : (pushAlone s i).tick = s.tick := rfl

end

end Sys2Proof.Laws
end

