-- ==== Sys2Proof/Laws/Lookups.lean ====
section
/-! SUPPORT. What a lookup finds after an update: the changed item under its own number, the old one under any other. -/

namespace Sys2Proof.Laws

open Machine

/-- A lookup in a list whose matching items are changed by a function that keeps their key. -/
theorem find_map_key {α : Type} (key : α → Nat) (k : Nat) (f : α → α) (hf : ∀ x, key x = k → key (f x) = k) (xs : List α) :
    (xs.map fun x => if key x == k then f x else x).find? (fun x => key x == k) = (xs.find? fun x => key x == k).map f := by
  induction xs with
  | nil => rfl
  | cons x t ih =>
    by_cases h : key x == k
    · have hk := hf x (by simpa using h)
      simp only [List.map_cons, h, if_true, List.find?_cons]
      simp [hk]
    · simp only [List.map_cons, h, List.find?_cons, ih, Bool.false_eq_true, if_false]

/-- A lookup of another key finds what it found. -/
theorem find_map_other {α : Type} (key : α → Nat) {j k : Nat} (hjk : j ≠ k) (f : α → α) (hf : ∀ x, key x = k → key (f x) = k)
    (xs : List α) :
    (xs.map fun x => if key x == k then f x else x).find? (fun x => key x == j) = xs.find? fun x => key x == j := by
  induction xs with
  | nil => rfl
  | cons x t ih =>
    by_cases h : key x == k
    · have hx : key x = k := by simpa using h
      have h1 : (key (f x) == j) = false := by rw [hf x hx]; simpa using hjk.symm
      have h2 : (key x == j) = false := by rw [hx]; simpa using hjk.symm
      simp only [List.map_cons, h, if_true, List.find?_cons, h1, h2, ih]
    · simp only [List.map_cons, h, List.find?_cons, ih, Bool.false_eq_true, if_false]

/-- A launch set is found in its slot. -/
theorem findLaunch_setLaunch {s : State} {l m : Launch} (h : findLaunch s l.slot = some m) :
    findLaunch (setLaunch s l) l.slot = some l := by
  have := find_map_key Launch.slot l.slot (fun _ => l) (fun _ _ => rfl) s.launches
  unfold findLaunch at h
  rw [h] at this
  exact this

/-- A launch set leaves the other slots alone. -/
theorem findLaunch_setLaunch_ne {s : State} {l : Launch} {k : Nat} (hk : k ≠ l.slot) :
    findLaunch (setLaunch s l) k = findLaunch s k :=
  find_map_other Launch.slot hk (fun _ => l) (fun _ _ => rfl) s.launches

/-- A launch changed by a function that keeps its slot. -/
theorem findLaunch_modLaunch (s : State) (k : Nat) (f : Launch → Launch) (hf : ∀ l, (f l).slot = l.slot) :
    findLaunch (modLaunch s k f) k = (findLaunch s k).map f := find_map_key Launch.slot k f (fun x h => (hf x).trans h) s.launches

/-- A launch changed leaves the other slots alone. -/
theorem findLaunch_modLaunch_ne (s : State) {j k : Nat} (hjk : j ≠ k) (f : Launch → Launch) (hf : ∀ l, (f l).slot = l.slot) :
    findLaunch (modLaunch s k f) j = findLaunch s j := find_map_other Launch.slot hjk f (fun x h => (hf x).trans h) s.launches

/-- A frame changed by a function that keeps its handle. -/
theorem findFrame_modFrame (s : State) (k : Nat) (f : Frame → Frame) (hf : ∀ x, (f x).fh = x.fh) :
    findFrame (modFrame s k f) k = (findFrame s k).map f := find_map_key Frame.fh k f (fun x h => (hf x).trans h) s.frames

/-- A frame changed leaves the other handles alone. -/
theorem findFrame_modFrame_ne (s : State) {j k : Nat} (hjk : j ≠ k) (f : Frame → Frame) (hf : ∀ x, (f x).fh = x.fh) :
    findFrame (modFrame s k f) j = findFrame s j := find_map_other Frame.fh hjk f (fun x h => (hf x).trans h) s.frames

@[simp] theorem findFrame_setLaunch (s : State) (l : Launch) (k : Nat) : findFrame (setLaunch s l) k = findFrame s k := rfl

@[simp] theorem findFrame_modLaunch (s : State) (k j : Nat) (f : Launch → Launch) :
    findFrame (modLaunch s k f) j = findFrame s j := rfl

@[simp] theorem findFrame_push (s : State) (c : Chan) (i : Instr) (k : Nat) : findFrame (push s c i) k = findFrame s k := rfl

@[simp] theorem findFrame_pushAlone (s : State) (i : Instr) (k : Nat) : findFrame (pushAlone s i) k = findFrame s k := rfl

@[simp] theorem findLaunch_modFrame (s : State) (j k : Nat) (f : Frame → Frame) :
    findLaunch (modFrame s j f) k = findLaunch s k := rfl

@[simp] theorem findLaunch_push (s : State) (c : Chan) (i : Instr) (k : Nat) : findLaunch (push s c i) k = findLaunch s k := rfl

@[simp] theorem findLaunch_pushAlone (s : State) (i : Instr) (k : Nat) : findLaunch (pushAlone s i) k = findLaunch s k := rfl

/-- A tile changed by a function that keeps its number. -/
theorem tileOf_modTile (l : Launch) (v : Nat) (f : Tile → Tile) (hf : ∀ t, (f t).vtile = t.vtile) :
    tileOf (modTile l v f) v = f (tileOf l v) := by
  unfold tileOf modTile
  split
  · rename_i h
    obtain ⟨t, ht⟩ : ∃ t, (l.tiles.find? fun t => t.vtile == v) = some t := by
      rw [← Option.isSome_iff_exists, List.find?_isSome]
      simpa using h
    simp only [find_map_key Tile.vtile v f fun x h => (hf x).trans h, ht, Option.map_some, Option.getD_some]
  · rename_i h
    have hn : (l.tiles.find? fun t => t.vtile == v) = none := by simpa using h
    simp [List.find?_append, hn, hf, emptyTile]

/-- A tile changed leaves the other tiles alone. -/
theorem tileOf_modTile_ne (l : Launch) {u v : Nat} (huv : u ≠ v) (f : Tile → Tile) (hf : ∀ t, (f t).vtile = t.vtile) :
    tileOf (modTile l v f) u = tileOf l u := by
  unfold tileOf modTile
  split
  · simp only [find_map_other Tile.vtile huv f fun x h => (hf x).trans h]
  · have h1 : ((f (emptyTile v)).vtile == u) = false := by rw [hf]; simp [emptyTile]; omega
    simp [List.find?_append, h1]

end Sys2Proof.Laws
end

