-- ==== Sys2Proof/Laws/Node.lean ====
section
/-! SUPPORT. What `runNode`, `runBlock` and `settle` come to for a firing or an instruction that its unit has issued. -/

namespace Sys2Proof.Laws

open Machine Safety

/-- A data firing runs its node's own effect from the state in which it starts. -/
theorem runNode_fires {s : State} {c : Ctx} {p : Policy} (h : fires s c p) (msgs : Ctx → Nat) (lp dl body : State → Ctx → Res) :
    runNode s c.r p msgs lp dl body = .next (settleFrom s c p (msgs c) true (body (started s c p) (own s c p))) := by
  obtain ⟨⟨h1, h2, h3, h4, h5⟩, h6, h7, h8⟩ := h
  rw [h6] at h5
  simp [runNode, h1, h2, h3, h4, h5, h6, h7, h8]

/-- A last post runs its node's rule for last posts. -/
theorem runNode_firesLp {s : State} {c : Ctx} {p : Policy} (h : firesLp s c p) (msgs : Ctx → Nat)
    (lp dl body : State → Ctx → Res) :
    runNode s c.r p msgs lp dl body = .next (settleFrom s c p 0 false (lp (started s c p) (own s c p))) := by
  obtain ⟨⟨h1, h2, h3, h4, h5⟩, h6, h7⟩ := h
  rw [h6] at h5
  simp [runNode, h1, h2, h3, h4, h5, h6, h7]

/-- A dead-letter firing runs its node's rule for dead letters. -/
theorem runNode_firesDl {s : State} {c : Ctx} {p : Policy} (h : firesDl s c p) (msgs : Ctx → Nat)
    (lp dl body : State → Ctx → Res) :
    runNode s c.r p msgs lp dl body = .next (settleFrom s c p 0 false (dl (started s c p) (own s c p))) := by
  obtain ⟨⟨h1, h2, h3, h4, h5⟩, h6, h7, h8⟩ := h
  rw [h6] at h5
  simp [runNode, h1, h2, h3, h4, h5, h6, h7, h8]

/-- A completed data firing without a rate mismatch. -/
theorem settleFrom_done {s s1 : State} {c : Ctx} {p : Policy} {es : List Emission} {fl : Flags} (h : rateTrap c es 0 = none) :
    settleFrom s c p 0 true (.done s1 es fl) = completed s1 c es fl := by
  simp [settleFrom, settle, h, completed]

/-- The same of emissions that a tag rule formed. -/
theorem settleFrom_doneWith {s s1 : State} {c : Ctx} {p : Policy} {x : Except Trap (List Emission)} {es : List Emission}
    {fl : Flags} (hx : x = .ok es) (h : rateTrap c es 0 = none) :
    settleFrom s c p 0 true (doneWith s1 x fl) = completed s1 c es fl := by
  subst hx
  exact settleFrom_done h

/-- A completed last post or dead letter. -/
theorem settleFrom_pass {s s1 : State} {c : Ctx} {p : Policy} {x : Except Trap (List Emission)} {es : List Emission}
    (hx : x = .ok es) : settleFrom s c p 0 false (doneWith s1 x 0) = complete s1 c es 0 := by
  subst hx
  rfl

/-- A data firing of a node that sends no messages completes as its own effect says. -/
theorem runNode_done {s s1 : State} {c : Ctx} {p : Policy} {es : List Emission} {fl : Flags} {lp dl body : State → Ctx → Res}
    (h : fires s c p) (hb : body (started s c p) (own s c p) = .done s1 es fl) (hr : rateTrap c es 0 = none) :
    runNode s c.r p (fun _ => 0) lp dl body = .next (completed s1 c es fl) := by
  rw [runNode_fires h, hb, settleFrom_done hr]

/-- A data firing whose own effect answers its state. -/
theorem runNode_later {s s1 : State} {c : Ctx} {p : Policy} {msgs : Ctx → Nat} {lp dl body : State → Ctx → Res}
    (h : fires s c p) (hb : body (started s c p) (own s c p) = .later s1) :
    runNode s c.r p msgs lp dl body = .next s1 := by rw [runNode_fires h, hb]; rfl

/-- A data firing whose own effect traps: its node is not bound by it. -/
theorem runNode_trap {s : State} {c : Ctx} {p : Policy} {t : Trap} {msgs : Ctx → Nat} {lp dl body : State → Ctx → Res}
    (h : fires s c p) (hb : body (started s c p) (own s c p) = .trap t) :
    runNode s c.r p msgs lp dl body = .next (trapFiring (counted s c p) c.f t) := by rw [runNode_fires h, hb]; rfl

/-- A data firing that is held has not started. -/
theorem runNode_hold {s : State} {c : Ctx} {p : Policy} {msgs : Ctx → Nat} {lp dl body : State → Ctx → Res}
    (h : fires s c p) (hb : body (started s c p) (own s c p) = .hold) :
    runNode s c.r p msgs lp dl body = .next (holdFiring s c.f) := by rw [runNode_fires h, hb]; rfl

/-- The same for a node with the standard treatment of last posts and dead letters. -/
theorem runPlain_done {s s1 : State} {c : Ctx} {p : Policy} {es : List Emission} {fl : Flags} {body : State → Ctx → Res}
    (h : fires s c p) (hb : body (started s c p) (own s c p) = .done s1 es fl) (hr : rateTrap c es 0 = none) :
    runPlain s c.r p body = .next (completed s1 c es fl) := runNode_done h hb hr

/-- The same for an own effect that starts what completes later. -/
theorem runPlain_later {s s1 : State} {c : Ctx} {p : Policy} {body : State → Ctx → Res}
    (h : fires s c p) (hb : body (started s c p) (own s c p) = .later s1) :
    runPlain s c.r p body = .next s1 := runNode_later h hb

/-- A data firing whose own effect traps: its node is not bound by it. -/
theorem runPlain_trap {s : State} {c : Ctx} {p : Policy} {t : Trap} {body : State → Ctx → Res}
    (h : fires s c p) (hb : body (started s c p) (own s c p) = .trap t) :
    runPlain s c.r p body = .next (trapFiring (counted s c p) c.f t) := runNode_trap h hb

/-- A block instruction runs its body in its context. -/
theorem runBlock_next {s s1 : State} {c : BCtx} {k : BlockCtx} {body : State → BCtx → BRes}
    (h : runs s c) (hb : body s c = .next s1 k) : runBlock s c.b body = .next (stepBlock s1 c k) := by
  simp [runBlock, h.1, h.2, hb]

/-- A shared function fires as a node. -/
theorem runShared_node {s : State} {c : Ctx} {opc : Nat} {fn : ShArgs → ShOut} {es : List Emission} (h : fires s c plain)
    (ho : oddLanes opc c.r.type c.r.modx.toNat (laneCount c) = false)
    (ha : arithTrap (own s c plain).l c.r.type (fn (nodeArgs opc (own s c plain))).raised = none)
    (he : outBoth (own s c plain) (fn (nodeArgs opc (own s c plain))).lanes false false [] = .ok es)
    (hr : rateTrap c es 0 = none) :
    runShared opc fn (.node c.r) s =
      .next (completed (started s c plain) c es (allFlags (fn (nodeArgs opc (own s c plain))).raised)) := by
  have ho' : oddLanes opc (own s c plain).r.type (own s c plain).r.modx.toNat (laneCount (own s c plain)) = false := ho
  have ha' : arithTrap (own s c plain).l (own s c plain).r.type (fn (nodeArgs opc (own s c plain))).raised = none := ha
  refine runPlain_done h ?_ hr
  simp only [sharedNode, ho', ha', he, doneWith]
  rfl

/-- A shared function runs as a block instruction. -/
theorem runShared_block {s : State} {c : BCtx} {opc : Nat} {fn : ShArgs → ShOut} (h : runs s c)
    (ho : oddLanes opc c.b.type (low 5 c.b.imm.toNat) c.n = false)
    (ha : arithTrap c.l c.b.type (fn (blockArgs opc c)).raised = none) :
    runShared opc fn (.block c.b) s =
      .next (stepBlock s c { setReg c.k c.b.d (fn (blockArgs opc c)).lanes with
        flags := c.k.flags ||| allFlags (fn (blockArgs opc c)).raised }) := by
  refine runBlock_next h ?_
  simp [sharedBlock, ho, ha]

end Sys2Proof.Laws
end

