-- ==== Sys2Proof/Machine/Layouts.lean ====
section
/-! DEFINITION. The bits of the structures that the specification lays out in control state and in reserved memory, each as
the number that its entry of State stands for. Nothing but the machine itself reads these bits (R21, R36, R232, R331, R335,
R337; log entry 11). -/

namespace Sys2Proof.Machine

/-- The code of STATE (R22). -/
def frameStateBits : FrameState → Nat
  | .free => 0
  | .live => 1
  | .parkedFault => 2
  | .parkedWait => 3
  | .taskSpec => 4
  | .taskDone => 5
  | .taskFront => 6
  | .draining => 7

/-- The code of KIND of a frame (R21). -/
def frameKindBits : FrameKind → Nat
  | .root => 0
  | .ordinary => 1
  | .task => 2

/-- A frame table entry of a launch (R21). -/
def frameEntryBits (l : Launch) (f : Frame) : Nat :=
  packFields [(169, 0), (7, f.tcidx), (9, if f.kind == .task then tctile l f else 0), (46, f.spawnrec.toNat), (4, f.spilld),
    (44, f.spillbase.toNat), (20, f.children), (64, f.postmark.toNat), (24, f.tokens), (8, f.fcode), (5, f.flags.toNat),
    (2, frameKindBits f.kind), (4, frameStateBits f.state), (3, f.part), (12, f.slot), (20, f.parent), (7, f.ffill),
    (64, f.fid.toNat)]

/-- The lanes of a payload, lane i at bits 32i + 31 to 32i. -/
def payloadBits (ls : List Lane) : Nat := packFields (ls.map fun x => (32, x.toNat))

/-- A spill slot that holds a token (R36). -/
def spillSlotBits (t : Token) : Nat :=
  packFields [(1024, payloadBits t.lanes), (64, t.tag.toNat), (32, t.lpar.toNat), (15, 0), (3, b2n t.sp + 2 * b2n t.lp + 4 * b2n t.dl),
    (5, t.lanes.length - 1), (7, t.fill), (1, destPort t.dest), (1, 1)]

/-- An entry of the park pool (R240). -/
def poolEntryBits (t : Token) : Nat := packFields [(1152, spillSlotBits t), (19, t.dest.toNat), (20, t.fh)]

/-- A rate monitor slot (R232). -/
def monitorBits (m : Monitor) : Nat :=
  packFields [(2, m.kind), (14, 0), (16, m.arc), (1, m.role), (7, m.phases), (4, 0), (20, m.fh), (32, m.firings.toNat),
    (32, m.count.toNat)]

/-- The code of PHASE (R331). -/
def taskPhaseBits : TaskPhase → Nat
  | .free => 0
  | .spec => 1
  | .finished => 2
  | .front => 3

/-- A task context (R331). -/
def taskCtxBits (c : TaskCtx) : Nat :=
  packFields [(64, 0), (16, c.unf.toNat), (8, c.defer), (8, c.sends), (10, c.lines), (2, taskPhaseBits c.phase), (20, c.fh)]

/-- A spawn record (R332). -/
def spawnRecBits (r : SpawnRec) : Nat :=
  packFields [(1024, payloadBits r.lanes), (32, r.lpar.toNat), (19, r.dest.toNat), (5, r.lanes.length - 1),
    (64, r.postmark.toNat), (64, r.fid.toNat), (7, r.ffill), (20, r.parent), (16, r.respawn)]

/-- A mailbag line (R335). -/
def lineBits (x : Line) : Nat :=
  packFields [(2, 0), (46, x.addr), (4, if x.kind == 2 then tyCode x.type else 0), (3, x.aop), (2, x.kind), (7, x.ctx),
    (64, x.bmask.toNat), (512, leNat x.data)]

/-- An entry of the speculation table in use (R337). -/
def specEntryBits (l : Launch) (e : SpecEntry) : Nat :=
  packFields [(1, 1), (13, 0), (16, e.rmask.toNat), (16, e.wmask.toNat), (7, e.tcidx), (9, globalTile l e.vtile), (20, e.fh),
    (46, e.line)]

end Sys2Proof.Machine
end

