-- ==== Sys2Proof/Tests/Slice0.lean ====
section
/-! SUPPORT. Tests: ill-formed terms that the checks refuse, words decoded, worked examples of the specification, and a
witness for every statement with hypotheses: a concrete state and operands that meet them, with what `exec` answers there. -/

namespace Sys2Proof.Tests

-- One theorem at a time: elaborated together they need more threads than memory allows.
set_option Elab.async false

open Machine Safety

/-- A node record, none of whose options is set unless given. -/
def nr (type : Ty) (arity : Arity) (modx : BitVec 5 := 0) (lit : BitVec 32 := 0) (dsta : BitVec 19 := 2)
    (dstb : BitVec 19 := 0x7FFFF) (ord : Bool := false) (tagop : TagOp := .same) : NodeRec :=
  ⟨type, .rne, tagop, arity, ord, modx, dsta, dstb, lit⟩

/-- A block instruction, its unused fields zero. -/
def br (type : Ty) (d a b : BitVec 3) (imm : BitVec 32 := 0) (c : BitVec 3 := 0) (bsel : BSel := .reg) (m : BitVec 3 := 0) :
    BlockRec :=
  ⟨d, a, b, c, type, .rne, bsel, m, imm⟩

/-- Whether each instruction is refused with the least reason beside it (R93). -/
def refusedWith (l : List (Instr × Nat)) : Bool :=
  l.all fun p => !wellFormed p.1 && leastReason (reasonsOf p.1) == some p.2

/-- Whether each 96-bit word decodes to the instruction beside it, which is well formed. -/
def decodesNode (l : List (Nat × Instr)) : Bool := l.all fun p => okInstr (decodeNode p.1) == some p.2 && wellFormed p.2

/-- Whether each 64-bit word decodes as a block instruction to the instruction beside it. -/
def decodesBlock (l : List (Nat × Instr)) : Bool := l.all fun p => okInstr (decodeBlock p.1) == some p.2 && wellFormed p.2

/-- Whether each 64-bit word decodes as a round instruction to the instruction beside it. -/
def decodesRound (l : List (Nat × Instr)) : Bool := l.all fun p => okInstr (decodeRound p.1) == some p.2 && wellFormed p.2

/-! ### Ill-formed terms -/

/-- The checks of the shared functions in node form (R69 to R71, R79). -/
theorem test_refused_shared_nodes : refusedWith [
    (.add (.node (nr .i32 .dyad 1)), 5), (.cvt (.node (nr .f32 .mono 15)), 4), (.pkbf (.node (nr .bf16 .dyad 1)), 5),
    (.add (.node (nr .f32 .dyad)), 6), (.cvts (.node (nr .f32 .mono 5)), 6), (.fadd (.node (nr .e4m3 .dyad)), 6),
    (.neg (.node (nr .i32 .dyad)), 4), (.neg (.node (nr .i32 .mono 0 1)), 5), (.add (.node (nr .i32 .mono)), 4),
    (.add (.node (nr .i32 .dyad 0 1)), 5), (.add (.node (nr .u8 .lit 0 0x100)), 5), (.bfx (.node (nr .u32 .lit 0 0x40)), 5),
    (.classify (.node (nr .f32 .lit 0 0x400)), 5), (.mad (.node (nr .i32 .lit)), 4), (.bfi (.node (nr .u32 .dyad 0 0x8000)), 5),
    (.idx (.node (nr .u32 .mono)), 4), (.idx (.node (nr .u32 .dyad 0 0x40)), 5), (.const (.node (nr .i32 .dyad)), 4),
    (.const (.node (nr .pred .mono 0 2)), 5)] = true := by decide +kernel

/-- The checks of the shared functions in block form (R69 to R71, R75, R79). -/
theorem test_refused_shared_blocks : refusedWith [
    (.add (.block (br .f32 1 2 3)), 6), (.cvt (.block (br .f32 1 2 0 15)), 4), (.neg (.block (br .i32 1 2 0 0 0 .imm)), 4),
    (.neg (.block (br .i32 1 2 3)), 5), (.add (.block (br .i32 1 2 3 1)), 5), (.add (.block (br .i32 1 2 3 0 1)), 5),
    (.add (.block (br .i32 1 2 3 0 0 .imm)), 5), (.add (.block (br .u8 1 2 0 0x100 0 .imm)), 5),
    (.add (.block (br .i32 1 2 2 0 0 .operand)), 5), (.pkbf (.block (br .bf16 1 2 0 0 0 .imm)), 4),
    (.mad (.block (br .i32 1 2 3 1 4)), 5), (.idx (.block (br .u32 1 2 3 0 0 .imm)), 4), (.idx (.block (br .u32 1 2 3 0x40)), 5),
    (.const (.block (br .i32 1 0 0)), 4), (.const (.block (br .i32 1 2 0 0 0 .imm)), 5)] = true := by decide +kernel

/-- The checks of tag, frame, width and steering instructions (R103, R104). -/
theorem test_refused_tag_steering : refusedWith [
    (.pusht (nr .i32 .lit 3 16), 9), (.pusht (nr .i32 .mono 3 0 2 2 false .iter), 5), (.pusht (nr .u32 .mono), 6),
    (.popt (nr .i32 .dyad), 4), (.iter (nr .i32 .mono 0 1), 5), (.sett (nr .i32 .mono), 4), (.gett (nr .u64 .mono 3), 6),
    (.frame (nr .i32 .mono 0 0 0x7FFFF), 7), (.spawn (nr .i32 .lit 0 2), 9), (.spawn (nr .i32 .mono 0 0 0x7FFFF), 7),
    (.spawnt (nr .i32 .mono), 4), (.spawnt (nr .i32 .dyad 0 0 0x7FFFF), 7), (.free (nr .i32 .mono), 7),
    (.ctxw (nr .i32 .lit 0 33), 9), (.ctxw (nr .i32 .lit 0 0), 9), (.pack (nr .i32 .mono), 4), (.unpack (nr .i32 .mono 1), 5),
    (.recol (nr .i64 .lit 0 3), 9), (.recol (nr .i32 .lit 0 0), 9), (.steer (nr .i32 .dyad 5), 4), (.steer (nr .i32 .dyad 16), 5),
    (.merge (nr .i32 .mono 2), 5), (.gate (nr .i32 .dyad 0 3), 4), (.gate (nr .i32 .lit 0 256), 5),
    (.gaterel (nr .i32 .mono 0 0 0x7FFFF), 7), (.copy (nr .i32 .lit 1 5), 9), (.sink (nr .i32 .mono), 7), (.lpost (nr .i32 .mono 2), 5),
    (.waitlp (nr .i32 .mono 2), 5), (.sync (nr .i32 .mono 1), 5), (.seq (nr .f32 .mono), 6)] = true := by decide +kernel

/-- The checks of memory and letterbox instructions (R207, R208, R262, R263, R411, R370). -/
theorem test_refused_memory : refusedWith [
    (.ldt (nr .pred .mono 0 0x3FFFFFFF), 6), (.ldt (nr .f32 .mono 0 0x3FFFFC07), 5), (.ldt (nr .f32 .mono 0 0x3FF00007), 5),
    (.stt (nr .f32 .mono 0 0x3FFFFFFF), 4), (.ldm (nr .f64 .mono 2 0x3FFFFFFF), 9), (.stm (nr .f32 .dyad 13 0x3FFFFFFF), 4),
    (.stm (nr .f32 .dyad 1 0x3FFFFFFF), 5), (.atomp (nr .u32 .dyad 6 0x3FFFFFFF), 4), (.atomp (nr .u32 .dyad 8 0x3FFFFFFF), 5),
    (.atomp (nr .f32 .dyad 3 0x3FFFFFFF), 6), (.atomr (nr .u32 .dyad 7 0x3FFFFFFF), 4), (.casr (nr .u8 .dyad 0 0x3FFFFFFF), 6),
    (.done (nr .i32 .mono 0 0x3FFFFFFF), 8), (.done (nr .i32 .mono 5 0x00100401), 4), (.gather (nr .f32 .mono 1 0x3FFFFFFF), 5),
    (.scatter (nr .f32 .dyad 13 0x3FFFFFFF), 4), (.send (nr .f32 .mono), 8), (.send (nr .f32 .mono 0 0x8000 2 2 true), 5),
    (.recv (nr .f32 .mono 0 0 2 2 true), 6), (.freeslot (nr .i32 .mono 0 0x10100 2 2 true), 9), (.barinit (nr .i32 .mono 0 0x10000), 5),
    (.arrive (nr .i32 .dyad), 4), (.waitcnt (nr .i32 .lit), 4), (.mode (nr .i32 .dyad), 4), (.modeReconf (nr .i32 .dyad 0 16), 7),
    (.modeReconf (nr .i32 .dyad 0 17 2 2), 9), (.arcout (nr .pred .mono 0 0 2 2 true), 6), (.arcin (nr .f32 .mono), 8),
    (.semsig (nr .i32 .dyad 5), 4), (.semwait (nr .i32 .dyad 1), 5)] = true := by decide +kernel

/-- The checks of tensor, unit, courier and handler nodes, and of forms that share an opcode (R180, R181, R199, R244, R306). -/
theorem test_refused_units : refusedWith [
    (.mma (nr .f32 .dyad 4 0 2 2 true), 5), (.mmaz (nr .bf16 .dyad), 8), (.mma (nr .i32 .dyad 0 0 2 2 true), 6),
    (.accrd (nr .f32 .mono 16), 5), (.accrd (nr .bf16 .mono 0 0x3FF0), 9), (.accrd (nr .bf16 .mono 0 0x0200), 9),
    (.accz (nr .f32 .mono), 6), (.fskip (nr .bf16 .mono 4), 5), (.fskip (nr .bf16 .mono), 5), (.corner (nr .i32 .mono), 6),
    (.range (nr .f32 .mono 5), 4), (.range (nr .f32 .mono 8), 5), (.range (nr .bf16 .mono), 6), (.lut (nr .f64 .mono), 6),
    (.lut (nr .f32 .mono 16), 4), (.lutLoad (nr .f32 .mono), 4), (.reduce (nr .f16 .mono), 6), (.xread (nr .f32 .lit), 4),
    (.xsend (nr .i32 .dyad 0 16), 5), (.xmerge (nr .i32 .mono 0 16), 5), (.xclr (nr .i32 .mono 0 4), 5), (.round (nr .i32 .mono), 8),
    (.roundstop (nr .i32 .mono 0 0x10000), 5), (.decodetab (nr .i32 .mono 0 0x400), 5), (.nop (nr .i32 .mono 1), 5),
    (.rdsys (nr .i32 .mono 0 9), 4), (.trap (nr .i32 .lit), 4), (.brk (nr .i32 .dyad), 4), (.resumeSubstitute (nr .i32 .mono), 4),
    (.resumeRetry (nr .i32 .mono), 4), (.resumePoison (nr .i32 .mono 3), 4), (.killf (nr .i32 .mono 1), 5),
    (.taill (nr .i32 .mono 0 1), 5)] = true := by decide +kernel

/-- The checks of block-only instructions (R170). -/
theorem test_refused_block_only : refusedWith [
    (.get (br .i32 1 0 0 0 0 .imm), 4), (.get (br .i32 1 2 0), 5), (.get (br .i32 1 0 0 4), 5), (.get (br .f32 1 0 0), 6),
    (.emit (br .i32 0 1 0), 9), (.emit (br .i32 0 1 0 1 0 .reg 1), 5), (.emitc (br .i32 0 1 2), 9), (.ldtb (br .f32 1 2 3), 5),
    (.sttb (br .f32 1 2 3), 5), (.sttb (br .f32 0 2 3 0x400000), 5), (.xadd (br .f32 4 2 0), 5), (.xadd (br .f16 1 2 0), 6),
    (.xadd (br .f32 1 2 3), 5), (.rdsysb (br .i32 1 0 0 9), 4), (.lmask (br .i32 1 0 0 0x2100), 9)] = true := by decide +kernel

/-- The checks of round instructions (R82 to R84). -/
theorem test_refused_rounds : refusedWith [
    (.waitslot 1 66 1, 4), (.waitslot 1 0 0, 9), (.deliver 1 0 66, 4), (.fetch 1 2 0 false 0xFF 8, 9),
    (.courierSink 1 2 3 false 64 0 0, 4), (.courierSink 1 2 3 false 0 0xFF 8, 9), (.decode 1 1 0, 8), (.courierArrive 1 0 0, 9),
    (.token 0x7FFFF 1 0, 7), (.token 0x40 1 65, 9)] = true := by decide +kernel

/-- Reserved opcodes, reserved codes of a field and bits outside the named fields of a word (R67, R74, R82, R92). -/
theorem test_refused_words :
    (decodeNode 0x290000000000000000000000 == .error 3 && decodeNode 0x00F010000017FFFF00000000 == .error 4 &&
      decodeNode 0x000E10000017FFFF00000000 == .error 4 && decodeNode 0x000150000017FFFF00000000 == .error 4 &&
      decodeNode 0x000030000017FFFF00000000 == .error 4 && decodeBlock 0x8800000000000000 == .error 3 &&
      decodeBlock 0x00000F0000000000 == .error 4 && decodeBlock 0x000000E000000000 == .error 4 &&
      decodeBlock 0x0000001800000000 == .error 4 && decodeRound 0 == .error 3 && decodeRound 0x0400000000000000 == .ok (.setg 0 0) &&
      decodeRound 0x0401000000000000 == .error 5 && decodeRound 0xFC00000000000001 == .error 5 &&
      decodeRound 0x4405000000000000 == .error 4) = true := by decide +kernel


/-! ### Words -/
/-- Node records of shared functions, packed by the layout of R67 with the codes of R79. -/
theorem test_words_sharedNode_1 : decodesNode [
    (0x001018000A120ABC00000000, .add (.node ⟨.u32, .rne, .same, .dyad, true, 0, 0x142, 0x20ABC, 0x0⟩)),
    (0x011250000A920AAC00000000, .sub (.node ⟨.u32, .rtz, .iter, .dyad, false, 0, 0x152, 0x20AAC, 0x0⟩)),
    (0x021490000B120A9C00000000, .adds (.node ⟨.u32, .rup, .pop, .dyad, false, 0, 0x162, 0x20A9C, 0x0⟩)),
    (0x0316D8000B920A8C00000000, .subs (.node ⟨.u32, .rdn, .zero, .dyad, true, 0, 0x172, 0x20A8C, 0x0⟩)),
    (0x041910000C120A7C00000000, .mul (.node ⟨.u32, .rna, .outer, .dyad, false, 0, 0x182, 0x20A7C, 0x0⟩)),
    (0x051A10000C920A6C00000000, .mulh (.node ⟨.u32, .rsr, .same, .dyad, false, 0, 0x192, 0x20A6C, 0x0⟩)),
    (0x061C58000D120A5C00000000, .div (.node ⟨.u32, .rto, .iter, .dyad, true, 0, 0x1A2, 0x20A5C, 0x0⟩)),
    (0x071090000D920A4C00000000, .rem (.node ⟨.u32, .rne, .pop, .dyad, false, 0, 0x1B2, 0x20A4C, 0x0⟩)),
    (0x0812D0000E120A3C00000000, .min (.node ⟨.u32, .rtz, .zero, .dyad, false, 0, 0x1C2, 0x20A3C, 0x0⟩)),
    (0x091518000E920A2C00000000, .max (.node ⟨.u32, .rup, .outer, .dyad, true, 0, 0x1D2, 0x20A2C, 0x0⟩)),
    (0x0A1600000F120A1C00000000, .abs (.node ⟨.u32, .rdn, .same, .mono, false, 0, 0x1E2, 0x20A1C, 0x0⟩)),
    (0x0B1840000F920A0C00000000, .neg (.node ⟨.u32, .rna, .iter, .mono, false, 0, 0x1F2, 0x20A0C, 0x0⟩)),
    (0x0C1A9800101209FC00000000, .and (.node ⟨.u32, .rsr, .pop, .dyad, true, 0, 0x202, 0x209FC, 0x0⟩)),
    (0x0D1CD000109209EC00000000, .or (.node ⟨.u32, .rto, .zero, .dyad, false, 0, 0x212, 0x209EC, 0x0⟩)),
    (0x0E111000111209DC00000000, .xor (.node ⟨.u32, .rne, .outer, .dyad, false, 0, 0x222, 0x209DC, 0x0⟩)),
    (0x0F121800119209CC00000000, .andn (.node ⟨.u32, .rtz, .same, .dyad, true, 0, 0x232, 0x209CC, 0x0⟩)),
    (0x10144000121209BC00000000, .not (.node ⟨.u32, .rup, .iter, .mono, false, 0, 0x242, 0x209BC, 0x0⟩)),
    (0x11169000129209AC00000000, .shl (.node ⟨.u32, .rdn, .pop, .dyad, false, 0, 0x252, 0x209AC, 0x0⟩)),
    (0x1218D8001312099C00000000, .shr (.node ⟨.u32, .rna, .zero, .dyad, true, 0, 0x262, 0x2099C, 0x0⟩)),
    (0x131B10001392098C00000000, .sar (.node ⟨.u32, .rsr, .outer, .dyad, false, 0, 0x272, 0x2098C, 0x0⟩)),
    (0x141C10001412097C00000000, .rol (.node ⟨.u32, .rto, .same, .dyad, false, 0, 0x282, 0x2097C, 0x0⟩)),
    (0x151048001492096C00000000, .clz (.node ⟨.u32, .rne, .iter, .mono, true, 0, 0x292, 0x2096C, 0x0⟩)),
    (0x161280001512095C00000000, .ctz (.node ⟨.u32, .rtz, .pop, .mono, false, 0, 0x2A2, 0x2095C, 0x0⟩)),
    (0x1714C0001592094C00000000, .popc (.node ⟨.u32, .rup, .zero, .mono, false, 0, 0x2B2, 0x2094C, 0x0⟩))] = true := by decide +kernel

/-- Node records of shared functions, packed by the layout of R67 with the codes of R79. -/
theorem test_words_sharedNode_2 : decodesNode [
    (0x181708001612093C00000000, .brev (.node ⟨.u32, .rdn, .outer, .mono, true, 0, 0x2C2, 0x2093C, 0x0⟩)),
    (0x191810001692092C00000000, .bfx (.node ⟨.u32, .rna, .same, .dyad, false, 0, 0x2D2, 0x2092C, 0x0⟩)),
    (0x1A1A50001712091C00000000, .bfi (.node ⟨.u32, .rsr, .iter, .dyad, false, 0, 0x2E2, 0x2091C, 0x0⟩)),
    (0x1B1C98001792090C7FFFFC07, .mad (.node ⟨.u32, .rto, .pop, .dyad, true, 0, 0x2F2, 0x2090C, 0x7FFFFC07⟩)),
    (0x1C10D000181208FC00000000, .idx (.node ⟨.u32, .rne, .zero, .dyad, false, 0, 0x302, 0x208FC, 0x0⟩)),
    (0x1D431000189208EC7FFFFC07, .sel (.node ⟨.f32, .rtz, .outer, .dyad, false, 0, 0x312, 0x208EC, 0x7FFFFC07⟩)),
    (0x1E440800191208DC00000000, .mov (.node ⟨.f32, .rup, .same, .mono, true, 0, 0x322, 0x208DC, 0x0⟩)),
    (0x1F464000199208CC7FFFFC07, .const (.node ⟨.f32, .rdn, .iter, .mono, false, 0, 0x332, 0x208CC, 0x7FFFFC07⟩)),
    (0x204890001A1208BC00000000, .ceq (.node ⟨.f32, .rna, .pop, .dyad, false, 0, 0x342, 0x208BC, 0x0⟩)),
    (0x214AD8001A9208AC00000000, .cne (.node ⟨.f32, .rsr, .zero, .dyad, true, 0, 0x352, 0x208AC, 0x0⟩)),
    (0x224D10001B12089C00000000, .clt (.node ⟨.f32, .rto, .outer, .dyad, false, 0, 0x362, 0x2089C, 0x0⟩)),
    (0x234010001B92088C00000000, .cle (.node ⟨.f32, .rne, .same, .dyad, false, 0, 0x372, 0x2088C, 0x0⟩)),
    (0x244258001C12087C00000000, .cgt (.node ⟨.f32, .rtz, .iter, .dyad, true, 0, 0x382, 0x2087C, 0x0⟩)),
    (0x254490001C92086C00000000, .cge (.node ⟨.f32, .rup, .pop, .dyad, false, 0, 0x392, 0x2086C, 0x0⟩)),
    (0x2646D0001D12085C00000000, .cun (.node ⟨.f32, .rdn, .zero, .dyad, false, 0, 0x3A2, 0x2085C, 0x0⟩)),
    (0x274918001D92084C00000000, .classify (.node ⟨.f32, .rna, .outer, .dyad, true, 0, 0x3B2, 0x2084C, 0x0⟩)),
    (0x281A10001E12083C00000000, .test (.node ⟨.u32, .rsr, .same, .dyad, false, 0, 0x3C2, 0x2083C, 0x0⟩)),
    (0x304CD800221207BC00000000, .fadd (.node ⟨.f32, .rto, .zero, .dyad, true, 0, 0x442, 0x207BC, 0x0⟩)),
    (0x31411000229207AC00000000, .fsub (.node ⟨.f32, .rne, .outer, .dyad, false, 0, 0x452, 0x207AC, 0x0⟩)),
    (0x324210002312079C00000000, .fmul (.node ⟨.f32, .rtz, .same, .dyad, false, 0, 0x462, 0x2079C, 0x0⟩)),
    (0x334458002392078C7FFFFC07, .fma (.node ⟨.f32, .rup, .iter, .dyad, true, 0, 0x472, 0x2078C, 0x7FFFFC07⟩)),
    (0x344690002412077C7FFFFC07, .fms (.node ⟨.f32, .rdn, .pop, .dyad, false, 0, 0x482, 0x2077C, 0x7FFFFC07⟩)),
    (0x3548D0002492076C7FFFFC07, .fnma (.node ⟨.f32, .rna, .zero, .dyad, false, 0, 0x492, 0x2076C, 0x7FFFFC07⟩)),
    (0x364B18002512075C00000000, .fdiv (.node ⟨.f32, .rsr, .outer, .dyad, true, 0, 0x4A2, 0x2075C, 0x0⟩))] = true := by decide +kernel

/-- Node records of shared functions, packed by the layout of R67 with the codes of R79. -/
theorem test_words_sharedNode_3 : decodesNode [
    (0x374C00002592074C00000000, .fsqrt (.node ⟨.f32, .rto, .same, .mono, false, 0, 0x4B2, 0x2074C, 0x0⟩)),
    (0x384050002612073C00000000, .fmin (.node ⟨.f32, .rne, .iter, .dyad, false, 0, 0x4C2, 0x2073C, 0x0⟩)),
    (0x394298002692072C00000000, .fmax (.node ⟨.f32, .rtz, .pop, .dyad, true, 0, 0x4D2, 0x2072C, 0x0⟩)),
    (0x3A44C0002712071C00000000, .fabs (.node ⟨.f32, .rup, .zero, .mono, false, 0, 0x4E2, 0x2071C, 0x0⟩)),
    (0x3B4700002792070C00000000, .fneg (.node ⟨.f32, .rdn, .outer, .mono, false, 0, 0x4F2, 0x2070C, 0x0⟩)),
    (0x3C481800281206FC00000000, .fcpys (.node ⟨.f32, .rna, .same, .dyad, true, 0, 0x502, 0x206FC, 0x0⟩)),
    (0x3D4A4000289206EC00000000, .frint (.node ⟨.f32, .rsr, .iter, .mono, false, 0, 0x512, 0x206EC, 0x0⟩)),
    (0x3E4C9000291206DC00000000, .fscale (.node ⟨.f32, .rto, .pop, .dyad, false, 0, 0x522, 0x206DC, 0x0⟩)),
    (0x3F40C800299206CC00000000, .fexpo (.node ⟨.f32, .rne, .zero, .mono, true, 0, 0x532, 0x206CC, 0x0⟩)),
    (0x404300000A1206BC00000000, .fmant (.node ⟨.f32, .rtz, .outer, .mono, false, 0, 0x142, 0x206BC, 0x0⟩)),
    (0x414400000A9206AC00000000, .frac (.node ⟨.f32, .rup, .same, .mono, false, 0, 0x152, 0x206AC, 0x0⟩)),
    (0x50460240121205BC00000000, .cvt (.node ⟨.f32, .rdn, .same, .mono, false, 9, 0x242, 0x205BC, 0x0⟩)),
    (0x51484A40129205AC00000000, .cvts (.node ⟨.f32, .rna, .iter, .mono, true, 9, 0x252, 0x205AC, 0x0⟩)),
    (0x526A90001312059C00000000, .pkbf (.node ⟨.bf16, .rsr, .pop, .dyad, false, 0, 0x262, 0x2059C, 0x0⟩)),
    (0x604A58001A1204BC00000000, .bcast (.node ⟨.f32, .rsr, .iter, .dyad, true, 0, 0x342, 0x204BC, 0x0⟩)),
    (0x614C90001A9204AC00000000, .lget (.node ⟨.f32, .rto, .pop, .dyad, false, 0, 0x352, 0x204AC, 0x0⟩)),
    (0x6240D0001B12049C7FFFFC07, .lset (.node ⟨.f32, .rne, .zero, .dyad, false, 0, 0x362, 0x2049C, 0x7FFFFC07⟩)),
    (0x634318001B92048C00000000, .shuf (.node ⟨.f32, .rtz, .outer, .dyad, true, 0, 0x372, 0x2048C, 0x0⟩)),
    (0x644410001C12047C00000000, .rot (.node ⟨.f32, .rup, .same, .dyad, false, 0, 0x382, 0x2047C, 0x0⟩)),
    (0x654640001C92046C00000000, .lsum (.node ⟨.f32, .rdn, .iter, .mono, false, 0, 0x392, 0x2046C, 0x0⟩)),
    (0x664888001D12045C00000000, .lmin (.node ⟨.f32, .rna, .pop, .mono, true, 0, 0x3A2, 0x2045C, 0x0⟩)),
    (0x674AC0001D92044C00000000, .lmax (.node ⟨.f32, .rsr, .zero, .mono, false, 0, 0x3B2, 0x2044C, 0x0⟩)),
    (0x684D00001E12043C00000000, .scan (.node ⟨.f32, .rto, .outer, .mono, false, 0, 0x3C2, 0x2043C, 0x0⟩)),
    (0x694018001E92042C00000000, .compact (.node ⟨.f32, .rne, .same, .dyad, true, 0, 0x3D2, 0x2042C, 0x0⟩))] = true := by decide +kernel

/-- Node records of node-only functions, packed by the layout of R67 with the codes of R80. -/
theorem test_words_node_1 : decodesNode [
    (0x800412400A1202BC00000000, .pusht ⟨.i32, .rup, .same, .dyad, false, 9, 0x142, 0x202BC, 0x0⟩),
    (0x810608000A9202AC00000000, .popt ⟨.i32, .rdn, .same, .mono, true, 0, 0x152, 0x202AC, 0x0⟩),
    (0x820802400B12029C00000000, .iter ⟨.i32, .rna, .same, .mono, false, 9, 0x162, 0x2029C, 0x0⟩),
    (0x830A12400B92028C00000000, .sett ⟨.i32, .rsr, .same, .dyad, false, 9, 0x172, 0x2028C, 0x0⟩),
    (0x841C8A400C12027C00000000, .gett ⟨.u32, .rto, .pop, .mono, true, 9, 0x182, 0x2027C, 0x0⟩),
    (0x8500C0000C92026C00000000, .frame ⟨.i32, .rne, .zero, .mono, false, 0, 0x192, 0x2026C, 0x0⟩),
    (0x860312400D12025C00000000, .spawn ⟨.i32, .rtz, .outer, .dyad, false, 9, 0x1A2, 0x2025C, 0x0⟩),
    (0x87041A400D92024C00000000, .spawnt ⟨.i32, .rup, .same, .dyad, true, 9, 0x1B2, 0x2024C, 0x0⟩),
    (0x8806003FFFFFFFFF00000000, .free ⟨.i32, .rdn, .same, .mono, false, 0, 0x7FFFF, 0x7FFFF, 0x0⟩),
    (0x894890000E92022C00000000, .ctxw ⟨.f32, .rna, .pop, .dyad, false, 0, 0x1D2, 0x2022C, 0x0⟩),
    (0x8A4AD8000F12021C00000000, .pack ⟨.f32, .rsr, .zero, .dyad, true, 0, 0x1E2, 0x2021C, 0x0⟩),
    (0x8B4D00000F92020C00000000, .unpack ⟨.f32, .rto, .outer, .mono, false, 0, 0x1F2, 0x2020C, 0x0⟩),
    (0x8C402000101201FC00000001, .recol ⟨.f32, .rne, .same, .lit, false, 0, 0x202, 0x201FC, 0x1⟩),
    (0x90491A40121201BC00000000, .steer ⟨.f32, .rna, .outer, .dyad, true, 9, 0x242, 0x201BC, 0x0⟩),
    (0x914A0040129201AC00000000, .merge ⟨.f32, .rsr, .same, .mono, false, 1, 0x252, 0x201AC, 0x0⟩),
    (0x924C60001312019C00000000, .gate ⟨.f32, .rto, .iter, .lit, false, 0, 0x262, 0x2019C, 0x0⟩),
    (0x934088001392018C00000000, .gaterel ⟨.f32, .rne, .pop, .mono, true, 0, 0x272, 0x2018C, 0x0⟩),
    (0x9442E2401412017C00000000, .copy ⟨.f32, .rtz, .zero, .lit, false, 9, 0x282, 0x2017C, 0x0⟩),
    (0x9504003FFFFFFFFF00000000, .sink ⟨.i32, .rup, .same, .mono, false, 0, 0x7FFFF, 0x7FFFF, 0x0⟩),
    (0x964608401512015C00000000, .lpost ⟨.f32, .rdn, .same, .mono, true, 1, 0x2A2, 0x2015C, 0x0⟩),
    (0x974840401592014C00000000, .waitlp ⟨.f32, .rna, .iter, .mono, false, 1, 0x2B2, 0x2014C, 0x0⟩),
    (0x984A80001612013C00000000, .sync ⟨.f32, .rsr, .pop, .mono, false, 0, 0x2C2, 0x2013C, 0x0⟩),
    (0x990CD8001692012C7FFFFC07, .seq ⟨.i32, .rto, .zero, .dyad, true, 0, 0x2D2, 0x2012C, 0x7FFFFC07⟩),
    (0xA04C00401A1200BC00000000, .ldt ⟨.f32, .rto, .same, .mono, false, 1, 0x342, 0x200BC, 0x0⟩)] = true := by decide +kernel

/-- Node records of node-only functions, packed by the layout of R67 with the codes of R80. -/
theorem test_words_node_2 : decodesNode [
    (0xA14050401A9200AC00000000, .stt ⟨.f32, .rne, .iter, .dyad, false, 1, 0x352, 0x200AC, 0x0⟩),
    (0xA2428A401B12009C00000000, .ldm ⟨.f32, .rtz, .pop, .mono, true, 9, 0x362, 0x2009C, 0x0⟩),
    (0xA344D2401B92008C00000000, .stm ⟨.f32, .rup, .zero, .dyad, false, 9, 0x372, 0x2008C, 0x0⟩),
    (0xA44710401C12007C00000000, .atomp ⟨.f32, .rdn, .outer, .dyad, false, 1, 0x382, 0x2007C, 0x0⟩),
    (0xA54818401C92006C00000000, .atomr ⟨.f32, .rna, .same, .dyad, true, 1, 0x392, 0x2006C, 0x0⟩),
    (0xA64A50001D12005C00000000, .casr ⟨.f32, .rsr, .iter, .dyad, false, 0, 0x3A2, 0x2005C, 0x0⟩),
    (0xA70C80401D92004C00000000, .done ⟨.i32, .rto, .pop, .mono, false, 1, 0x3B2, 0x2004C, 0x0⟩),
    (0xA840C8001E12003C00000000, .gather ⟨.f32, .rne, .zero, .mono, true, 0, 0x3C2, 0x2003C, 0x0⟩),
    (0xA94312401E92002C00000000, .scatter ⟨.f32, .rtz, .outer, .dyad, false, 9, 0x3D2, 0x2002C, 0x0⟩),
    (0xB04248402211FFBC7FFFFC07, .send ⟨.f32, .rtz, .iter, .mono, true, 1, 0x442, 0x1FFBC, 0x7FFFFC07⟩),
    (0xB14488402291FFAC00000000, .recv ⟨.f32, .rup, .pop, .mono, true, 1, 0x452, 0x1FFAC, 0x0⟩),
    (0xB206C8002311FF9C00000000, .freeslot ⟨.i32, .rdn, .zero, .mono, true, 0, 0x462, 0x1FF9C, 0x0⟩),
    (0xB30900002391FF8C00000000, .barinit ⟨.i32, .rna, .outer, .mono, false, 0, 0x472, 0x1FF8C, 0x0⟩),
    (0xB40A08002411FF7C7FFFFC07, .arrive ⟨.i32, .rsr, .same, .mono, true, 0, 0x482, 0x1FF7C, 0x7FFFFC07⟩),
    (0xB50C50002491FF6C00000000, .waitcnt ⟨.i32, .rto, .iter, .dyad, false, 0, 0x492, 0x1FF6C, 0x0⟩),
    (0xB60080002511FF5C00000000, .mode ⟨.i32, .rne, .pop, .mono, false, 0, 0x4A2, 0x1FF5C, 0x0⟩),
    (0xB742C8002591FF4C00000000, .arcout ⟨.f32, .rtz, .zero, .mono, true, 0, 0x4B2, 0x1FF4C, 0x0⟩),
    (0xB84508002611FF3C00000000, .arcin ⟨.f32, .rup, .outer, .mono, true, 0, 0x4C2, 0x1FF3C, 0x0⟩),
    (0xB90612402691FF2C00000000, .semsig ⟨.i32, .rdn, .same, .dyad, false, 9, 0x4D2, 0x1FF2C, 0x0⟩),
    (0xBA0858002711FF1C00000000, .semwait ⟨.i32, .rna, .iter, .dyad, true, 0, 0x4E2, 0x1FF1C, 0x0⟩),
    (0xC04698400A11FEBC00000000, .mma ⟨.f32, .rdn, .pop, .dyad, true, 1, 0x142, 0x1FEBC, 0x0⟩),
    (0xC148D8400A91FEAC00000000, .mmaz ⟨.f32, .rna, .zero, .dyad, true, 1, 0x152, 0x1FEAC, 0x0⟩),
    (0xC24B00000B11FE9C00000000, .accrd ⟨.f32, .rsr, .outer, .mono, false, 0, 0x162, 0x1FE9C, 0x0⟩),
    (0xC30C08000B91FE8C00000000, .accz ⟨.i32, .rto, .same, .mono, true, 0, 0x172, 0x1FE8C, 0x0⟩)] = true := by decide +kernel

/-- Node records of node-only functions, packed by the layout of R67 with the codes of R80. -/
theorem test_words_node_3 : decodesNode [
    (0xC44040400C11FE7C00000000, .fskip ⟨.f32, .rne, .iter, .mono, false, 1, 0x182, 0x1FE7C, 0x0⟩),
    (0xC54280000C91FE6C00000000, .corner ⟨.f32, .rtz, .pop, .mono, false, 0, 0x192, 0x1FE6C, 0x0⟩),
    (0xC644CA400D11FE5C00000000, .range ⟨.f32, .rup, .zero, .mono, true, 9, 0x1A2, 0x1FE5C, 0x0⟩),
    (0xC74700000D91FE4C00000000, .lut ⟨.f32, .rdn, .outer, .mono, false, 0, 0x1B2, 0x1FE4C, 0x0⟩),
    (0xC84810000E11FE3C00000000, .reduce ⟨.f32, .rna, .same, .dyad, false, 0, 0x1C2, 0x1FE3C, 0x0⟩),
    (0xC94A58000E91FE2C00000000, .xread ⟨.f32, .rsr, .iter, .dyad, true, 0, 0x1D2, 0x1FE2C, 0x0⟩),
    (0xCA0C90000F11FE1C00000000, .xsend ⟨.i32, .rto, .pop, .dyad, false, 0, 0x1E2, 0x1FE1C, 0x0⟩),
    (0xCB00C0000F91FE0C00000000, .xmerge ⟨.i32, .rne, .zero, .mono, false, 0, 0x1F2, 0x1FE0C, 0x0⟩),
    (0xCC0308001011FDFC00000000, .xclr ⟨.i32, .rtz, .outer, .mono, true, 0, 0x202, 0x1FDFC, 0x0⟩),
    (0xD00AC8001211FDBC00000000, .round ⟨.i32, .rsr, .zero, .mono, true, 0, 0x242, 0x1FDBC, 0x0⟩),
    (0xD10D00001291FDAC00000000, .roundstop ⟨.i32, .rto, .outer, .mono, false, 0, 0x252, 0x1FDAC, 0x0⟩),
    (0xD20008001311FD9C00000000, .decodetab ⟨.i32, .rne, .same, .mono, true, 0, 0x262, 0x1FD9C, 0x0⟩),
    (0xE00100001A11FCBC00000000, .nop ⟨.i32, .rne, .outer, .mono, false, 0, 0x342, 0x1FCBC, 0x0⟩),
    (0xE10208001A91FCAC00000000, .rdsys ⟨.i32, .rtz, .same, .mono, true, 0, 0x352, 0x1FCAC, 0x0⟩),
    (0xE20450001B11FC9C7FFFFC07, .trap ⟨.i32, .rup, .iter, .dyad, false, 0, 0x362, 0x1FC9C, 0x7FFFFC07⟩),
    (0xE30680001B91FC8C7FFFFC07, .brk ⟨.i32, .rdn, .pop, .mono, false, 0, 0x372, 0x1FC8C, 0x7FFFFC07⟩),
    (0xE408D8001C11FC7C00000000, .resumeSubstitute ⟨.i32, .rna, .zero, .dyad, true, 0, 0x382, 0x1FC7C, 0x0⟩),
    (0xE50B00001C91FC6C00000000, .killf ⟨.i32, .rsr, .outer, .mono, false, 0, 0x392, 0x1FC6C, 0x0⟩),
    (0xE60C00001D11FC5C00000000, .taill ⟨.i32, .rto, .same, .mono, false, 0, 0x3A2, 0x1FC5C, 0x0⟩)] = true := by decide +kernel

/-- The forms that share an opcode with another (R199, R233, R244). -/
theorem test_words_variants : decodesNode [
    (0xC74004000A12000100000009, .lutLoad ⟨.f32, .rne, .same, .mono, false, 16, 0x142, 0x20001, 0x9⟩),
    (0xB60010000A12000100000010, .modeReconf ⟨.i32, .rne, .same, .dyad, false, 0, 0x142, 0x20001, 0x10⟩),
    (0xE40000400A12000100000000, .resumeRetry ⟨.i32, .rne, .same, .mono, false, 1, 0x142, 0x20001, 0x0⟩),
    (0xE40000800A12000100000000, .resumePoison ⟨.i32, .rne, .same, .mono, false, 2, 0x142, 0x20001, 0x0⟩)] = true := by decide +kernel

/-- Block instructions, packed by the layout of R74 with the codes of R79 and R81. -/
theorem test_words_block_1 : decodesBlock [
    (0x0020016000000000, .add (.block ⟨1, 0, 0, 0, .u32, .rdn, .reg, 0, 0x0⟩)),
    (0x014C819100000000, .sub (.block ⟨2, 3, 1, 0, .u32, .rna, .operand, 1, 0x0⟩)),
    (0x027901A200000000, .adds (.block ⟨3, 6, 2, 0, .u32, .rsr, .reg, 2, 0x0⟩)),
    (0x038481D300000000, .subs (.block ⟨4, 1, 1, 0, .u32, .rto, .operand, 3, 0x0⟩)),
    (0x04B2010400000000, .mul (.block ⟨5, 4, 4, 0, .u32, .rne, .reg, 4, 0x0⟩)),
    (0x05DC813500000000, .mulh (.block ⟨6, 7, 1, 0, .u32, .rtz, .operand, 5, 0x0⟩)),
    (0x06EB014600000000, .div (.block ⟨7, 2, 6, 0, .u32, .rup, .reg, 6, 0x0⟩)),
    (0x0734817700000000, .rem (.block ⟨1, 5, 1, 0, .u32, .rdn, .operand, 7, 0x0⟩)),
    (0x0840018000000000, .min (.block ⟨2, 0, 0, 0, .u32, .rna, .reg, 0, 0x0⟩)),
    (0x096C81B100000000, .max (.block ⟨3, 3, 1, 0, .u32, .rsr, .operand, 1, 0x0⟩)),
    (0x0A9801C200000000, .abs (.block ⟨4, 6, 0, 0, .u32, .rto, .reg, 2, 0x0⟩)),
    (0x0BA4010300000000, .neg (.block ⟨5, 1, 0, 0, .u32, .rne, .reg, 3, 0x0⟩)),
    (0x0CD2012400000000, .and (.block ⟨6, 4, 4, 0, .u32, .rtz, .reg, 4, 0x0⟩)),
    (0x0DFC815500000000, .or (.block ⟨7, 7, 1, 0, .u32, .rup, .operand, 5, 0x0⟩)),
    (0x0E2B016600000000, .xor (.block ⟨1, 2, 6, 0, .u32, .rdn, .reg, 6, 0x0⟩)),
    (0x0F54819700000000, .andn (.block ⟨2, 5, 1, 0, .u32, .rna, .operand, 7, 0x0⟩)),
    (0x106001A000000000, .not (.block ⟨3, 0, 0, 0, .u32, .rsr, .reg, 0, 0x0⟩)),
    (0x118C81D100000000, .shl (.block ⟨4, 3, 1, 0, .u32, .rto, .operand, 1, 0x0⟩)),
    (0x12B9010200000000, .shr (.block ⟨5, 6, 2, 0, .u32, .rne, .reg, 2, 0x0⟩)),
    (0x13C4813300000000, .sar (.block ⟨6, 1, 1, 0, .u32, .rtz, .operand, 3, 0x0⟩)),
    (0x14F2014400000000, .rol (.block ⟨7, 4, 4, 0, .u32, .rup, .reg, 4, 0x0⟩)),
    (0x153C016500000000, .clz (.block ⟨1, 7, 0, 0, .u32, .rdn, .reg, 5, 0x0⟩)),
    (0x1648018600000000, .ctz (.block ⟨2, 2, 0, 0, .u32, .rna, .reg, 6, 0x0⟩)),
    (0x177401A700000000, .popc (.block ⟨3, 5, 0, 0, .u32, .rsr, .reg, 7, 0x0⟩))] = true := by decide +kernel

/-- Block instructions, packed by the layout of R74 with the codes of R79 and R81. -/
theorem test_words_block_2 : decodesBlock [
    (0x188001C000000000, .brev (.block ⟨4, 0, 0, 0, .u32, .rto, .reg, 0, 0x0⟩)),
    (0x19AC811100000000, .bfx (.block ⟨5, 3, 1, 0, .u32, .rne, .operand, 1, 0x0⟩)),
    (0x1ADA612200000000, .bfi (.block ⟨6, 6, 4, 6, .u32, .rtz, .reg, 2, 0x0⟩)),
    (0x1BE6614300000000, .mad (.block ⟨7, 1, 4, 6, .u32, .rup, .reg, 3, 0x0⟩)),
    (0x1C3281640000002A, .idx (.block ⟨1, 4, 5, 0, .u32, .rdn, .reg, 4, 0x2A⟩)),
    (0x1D5E648500000000, .sel (.block ⟨2, 7, 4, 6, .f32, .rna, .reg, 5, 0x0⟩)),
    (0x1E6804A600000000, .mov (.block ⟨3, 2, 0, 0, .f32, .rsr, .reg, 6, 0x0⟩)),
    (0x1F8004CF3F800000, .const (.block ⟨4, 0, 0, 0, .f32, .rto, .imm, 7, 0x3F800000⟩)),
    (0x20A0040000000000, .ceq (.block ⟨5, 0, 0, 0, .f32, .rne, .reg, 0, 0x0⟩)),
    (0x21CC843100000000, .cne (.block ⟨6, 3, 1, 0, .f32, .rtz, .operand, 1, 0x0⟩)),
    (0x22F9044200000000, .clt (.block ⟨7, 6, 2, 0, .f32, .rup, .reg, 2, 0x0⟩)),
    (0x2324847300000000, .cle (.block ⟨1, 1, 1, 0, .f32, .rdn, .operand, 3, 0x0⟩)),
    (0x2452048400000000, .cgt (.block ⟨2, 4, 4, 0, .f32, .rna, .reg, 4, 0x0⟩)),
    (0x257C84B500000000, .cge (.block ⟨3, 7, 1, 0, .f32, .rsr, .operand, 5, 0x0⟩)),
    (0x268B04C600000000, .cun (.block ⟨4, 2, 6, 0, .f32, .rto, .reg, 6, 0x0⟩)),
    (0x27B4841700000000, .classify (.block ⟨5, 5, 1, 0, .f32, .rne, .operand, 7, 0x0⟩)),
    (0x28C0012000000000, .test (.block ⟨6, 0, 0, 0, .u32, .rtz, .reg, 0, 0x0⟩)),
    (0x30E0044000000000, .fadd (.block ⟨7, 0, 0, 0, .f32, .rup, .reg, 0, 0x0⟩)),
    (0x312C847100000000, .fsub (.block ⟨1, 3, 1, 0, .f32, .rdn, .operand, 1, 0x0⟩)),
    (0x3259048200000000, .fmul (.block ⟨2, 6, 2, 0, .f32, .rna, .reg, 2, 0x0⟩)),
    (0x336664A300000000, .fma (.block ⟨3, 1, 4, 6, .f32, .rsr, .reg, 3, 0x0⟩)),
    (0x349264C400000000, .fms (.block ⟨4, 4, 4, 6, .f32, .rto, .reg, 4, 0x0⟩)),
    (0x35BE640500000000, .fnma (.block ⟨5, 7, 4, 6, .f32, .rne, .reg, 5, 0x0⟩)),
    (0x36CB042600000000, .fdiv (.block ⟨6, 2, 6, 0, .f32, .rtz, .reg, 6, 0x0⟩))] = true := by decide +kernel

/-- Block instructions, packed by the layout of R74 with the codes of R79 and R81. -/
theorem test_words_block_3 : decodesBlock [
    (0x37F4044700000000, .fsqrt (.block ⟨7, 5, 0, 0, .f32, .rup, .reg, 7, 0x0⟩)),
    (0x3820046000000000, .fmin (.block ⟨1, 0, 0, 0, .f32, .rdn, .reg, 0, 0x0⟩)),
    (0x394C849100000000, .fmax (.block ⟨2, 3, 1, 0, .f32, .rna, .operand, 1, 0x0⟩)),
    (0x3A7804A200000000, .fabs (.block ⟨3, 6, 0, 0, .f32, .rsr, .reg, 2, 0x0⟩)),
    (0x3B8404C300000000, .fneg (.block ⟨4, 1, 0, 0, .f32, .rto, .reg, 3, 0x0⟩)),
    (0x3CB2040400000000, .fcpys (.block ⟨5, 4, 4, 0, .f32, .rne, .reg, 4, 0x0⟩)),
    (0x3DDC042500000000, .frint (.block ⟨6, 7, 0, 0, .f32, .rtz, .reg, 5, 0x0⟩)),
    (0x3EEB044600000000, .fscale (.block ⟨7, 2, 6, 0, .f32, .rup, .reg, 6, 0x0⟩)),
    (0x3F34046700000000, .fexpo (.block ⟨1, 5, 0, 0, .f32, .rdn, .reg, 7, 0x0⟩)),
    (0x4040048000000000, .fmant (.block ⟨2, 0, 0, 0, .f32, .rna, .reg, 0, 0x0⟩)),
    (0x416C04A100000000, .frac (.block ⟨3, 3, 0, 0, .f32, .rsr, .reg, 1, 0x0⟩)),
    (0x508004C000000009, .cvt (.block ⟨4, 0, 0, 0, .f32, .rto, .reg, 0, 0x9⟩)),
    (0x51AC040100000009, .cvts (.block ⟨5, 3, 0, 0, .f32, .rne, .reg, 1, 0x9⟩)),
    (0x52D9062200000000, .pkbf (.block ⟨6, 6, 2, 0, .bf16, .rtz, .reg, 2, 0x0⟩)),
    (0x60C0042000000000, .bcast (.block ⟨6, 0, 0, 0, .f32, .rtz, .reg, 0, 0x0⟩)),
    (0x61EC845100000000, .lget (.block ⟨7, 3, 1, 0, .f32, .rup, .operand, 1, 0x0⟩)),
    (0x623A646200000000, .lset (.block ⟨1, 6, 4, 6, .f32, .rdn, .reg, 2, 0x0⟩)),
    (0x6344849300000000, .shuf (.block ⟨2, 1, 1, 0, .f32, .rna, .operand, 3, 0x0⟩)),
    (0x647204A400000000, .rot (.block ⟨3, 4, 4, 0, .f32, .rsr, .reg, 4, 0x0⟩)),
    (0x659C04C500000000, .lsum (.block ⟨4, 7, 0, 0, .f32, .rto, .reg, 5, 0x0⟩)),
    (0x66A8040600000000, .lmin (.block ⟨5, 2, 0, 0, .f32, .rne, .reg, 6, 0x0⟩)),
    (0x67D4042700000000, .lmax (.block ⟨6, 5, 0, 0, .f32, .rtz, .reg, 7, 0x0⟩)),
    (0x68E0044000000000, .scan (.block ⟨7, 0, 0, 0, .f32, .rup, .reg, 0, 0x0⟩)),
    (0x692C847100000000, .compact (.block ⟨1, 3, 1, 0, .f32, .rdn, .operand, 1, 0x0⟩))] = true := by decide +kernel

/-- Block instructions, packed by the layout of R74 with the codes of R79 and R81. -/
theorem test_words_block_4 : decodesBlock [
    (0x8020000500000002, .get ⟨1, 0, 0, 0, .i32, .rne, .reg, 5, 0x2⟩),
    (0x810C000000000001, .emit ⟨0, 3, 0, 0, .i32, .rne, .reg, 0, 0x1⟩),
    (0x820D000000000003, .emitc ⟨0, 3, 2, 0, .i32, .rne, .reg, 0, 0x3⟩),
    (0x839C050600012340, .ldtb ⟨4, 7, 0, 0, .f64, .rne, .reg, 6, 0x12340⟩),
    (0x841C8603003FFFC0, .sttb ⟨0, 7, 1, 0, .bf16, .rne, .reg, 3, 0x3FFFC0⟩),
    (0x8568840100000001, .xadd ⟨3, 2, 1, 0, .f32, .rne, .reg, 1, 0x1⟩),
    (0x86C0000200000008, .rdsysb ⟨6, 0, 0, 0, .i32, .rne, .reg, 2, 0x8⟩),
    (0x87A0000000002007, .lmask ⟨5, 0, 0, 0, .i32, .rne, .reg, 0, 0x2007⟩)] = true := by decide +kernel

/-- Round instructions, packed by the fields of R82. -/
theorem test_words_round : decodesRound [
    (0x0680FFFFFFFFFFFE, .setg 5 0xFFFFFFFFFFFE),
    (0x0AB0000000000007, .addg 5 3 7),
    (0x0EB3F80000000000, .addgg 5 3 1 63),
    (0x1300000800000004, .loop 6 8 4),
    (0x1700000000000006, .endl 6 6),
    (0x20AD007E07C00000, .fetch 1 2 3 true 0x3F 0x1F),
    (0x2580820000000020, .waitslot 3 0x41 0x20),
    (0x2806C00000000000, .decode 1 2 3),
    (0x2D887E0000000000, .deliver 3 2 0x3F),
    (0x3180001234FFFFFF, .courierArrive 3 0x1234 0xFFFFFF),
    (0x3400205800000000, .token 0x40 5 64),
    (0x40A0000000000000, .courierSemwait 1 2),
    (0x44AC000000000000, .courierSemsig 1 2 true .system),
    (0x48A77E0E3FC00000, .courierSink 1 2 3 true 0x3F 7 0xFF),
    (0xFC00000000000000, .endRound)] = true := by decide +kernel
/-! ### Small states -/

/-- A token to a port of node 0 of virtual desk 0 in the root frame, its parity right. -/
def tok (port : Nat) (lanes : List Lane) (tag : Dword := 0) (fill : Nat := 0) (dl : Bool := false) (lp : Bool := false) : Token :=
  makeToken (BitVec.ofNat 19 port) 0 tag fill dl lp false lanes 0 []

/-- A state, a firing issued in it, and its node's record. -/
structure Site where
  s : State
  f : Firing
  r : NodeRec

/-- A node of an opcode and a record, fired on its operands; `ln` changes the launch, `st` the state. -/
def site (opc : Nat) (r : NodeRec) (a : Token) (b : Option Token := none) (ln : Launch → Launch := id)
    (st : State → State := id) : Site :=
  let f := { benchFiring false with a, b }
  let l := ln (benchLaunch (benchManifest [(0, packFields (nodeLayout.zip (nodeFields opc r)))] [] []))
  { s := { st (benchState State.reset l (operandCount f)) with issue := .node f }, f, r }

/-- The node's tag shape, innermost width first. -/
def shaped (ws : List Nat) (l : Launch) : Launch := { l with man := { l.man with shapes := [(0, ws)] } }

/-- Virtual tile 0 of the launch changed. -/
def tile0 (g : Tile → Tile) (l : Launch) : Launch := modTile l 0 g

/-- Whether an outcome is a next state equal to a given one. -/
def nextIs (o : Out) (t : State) : Bool :=
  match o with
  | .next u => decide (u = t)
  | .fault _ => false
  | .refused _ => false

/-- What a firing sees, where it sees something of which a test holds. -/
def sees (x : Site) (g : Ctx → Bool) : Bool :=
  match ctxOf x.s x.f x.r with
  | none => false
  | some c => g c

/-- The hypotheses of `completes` (or of `completesMsgs`) hold at a site for what `out` gives, and its conclusion. -/
def does (x : Site) (p : Policy) (i : NodeRec → Instr) (out : State → Ctx → Option (State × List Emission × Flags))
    (msgs : Nat := 0) : Bool :=
  sees x fun c => decide (fires x.s c p) &&
    match out (started x.s c p) (own x.s c p) with
    | none => false
    | some (s1, es, fl) =>
      (rateTrap c es msgs).isNone && nextIs (exec (i c.r) x.s) (complete (rateAdvance s1 c es msgs) c es fl)

/-- A condition, emissions and a state as `does` reads them. -/
def gives (ok : Bool) (s : State) (es : Except Trap (List Emission)) (fl : Flags := 0) :
    Option (State × List Emission × Flags) :=
  match ok, es with
  | true, .ok es => some (s, es, fl)
  | _, _ => none

/-- The same for a node that only computes and emits. -/
def sends (x : Site) (i : NodeRec → Instr) (ok : Ctx → Bool) (es : Ctx → Except Trap (List Emission)) : Bool :=
  does x plain i fun s c => gives (ok c) s (es c)

/-- The hypotheses and the conclusion of `passesLp`. -/
def passesLast (x : Site) (p : Policy) (i : NodeRec → Instr) (es : Ctx → Except Trap (List Emission)) : Bool :=
  sees x fun c => decide (firesLp x.s c p) &&
    match es (own x.s c p) with
    | .ok es => nextIs (exec (i c.r) x.s) (complete (started x.s c p) c es 0)
    | .error _ => false

/-- The hypotheses and the conclusion of `passesDl`. -/
def passesDead (x : Site) (p : Policy) (i : NodeRec → Instr) (es : Ctx → Except Trap (List Emission)) : Bool :=
  sees x fun c => decide (firesDl x.s c p) &&
    match es (own x.s c p) with
    | .ok es => nextIs (exec (i c.r) x.s) (complete (started x.s c p) c es 0)
    | .error _ => false

/-- The hypotheses and the conclusion of `traps`. -/
def trapsWith (x : Site) (p : Policy) (i : NodeRec → Instr) (t : Trap) (ok : Ctx → Bool := fun _ => true) : Bool :=
  sees x fun c => decide (fires x.s c p) && ok (own x.s c p) && nextIs (exec (i c.r) x.s) (trapFiring (counted x.s c p) c.f t)

/-- The hypotheses and the conclusion of `answersNext`. -/
def goes (x : Site) (p : Policy) (i : NodeRec → Instr) (ok : Ctx → Bool) (t : State → Ctx → State) : Bool :=
  sees x fun c => decide (fires x.s c p) && ok (own x.s c p) && nextIs (exec (i c.r) x.s) (t (started x.s c p) (own x.s c p))

/-- The hypotheses and the conclusion of `holds`. -/
def waitsAt (x : Site) (p : Policy) (i : NodeRec → Instr) (ok : Ctx → Bool := fun _ => true) : Bool :=
  sees x fun c => decide (fires x.s c p) && ok (own x.s c p) && nextIs (exec (i c.r) x.s) (holdFiring x.s c.f)

/-- The hypotheses alone: where the answer names a free value, equality with it cannot be evaluated. -/
def meets (x : Site) (p : Policy) (ok : State → Ctx → Bool) : Bool :=
  sees x fun c => decide (fires x.s c p) && ok (started x.s c p) (own x.s c p)

/-- A block instruction issued in a context whose registers hold small values. -/
structure BSite where
  s : State
  b : BlockRec

/-- A block of one instruction, run in context 0 of tile 0 for a SEQ firing of two lanes; `kt` changes the context. -/
def bsite (opc : Nat) (b : BlockRec) (kt : BlockCtx → BlockCtx := id) (ln : Launch → Launch := id) : BSite :=
  let w := packFields (blockLayout.zip (blockFields opc b))
  let l := benchLaunch (benchManifest [(0, packFields (nodeLayout.zip (nodeFields 0x99 (nr .i32 .dyad 0 0x500))))] [(0, 0, [w])] [])
  let k : BlockCtx :=
    { idx := 0, firing := { benchFiring false with a := tok 0 [9, 8], b := some (tok 1 [7, 6]) }, pc := 0, started := 0, group := 0
      w := (List.range 8).map fun r => [BitVec.ofNat 32 (0x40 * r + 1), BitVec.ofNat 32 (0x40 * r)], stores := [], adds := []
      emits := [], flags := 0 }
  { s := { benchState State.reset (ln (modTile l 0 fun t => { t with ctxs := [kt k] })) 2 with issue := .block 0 0 0 }, b }

/-- The hypotheses and the conclusion of `runsTo`. -/
def steps (x : BSite) (i : BlockRec → Instr) (out : State → BCtx → Option (State × BlockCtx)) : Bool :=
  match bctxOf x.s 0 0 0 x.b with
  | none => false
  | some c => decide (runs x.s c) &&
    match out x.s c with
    | none => false
    | some (s1, k) => nextIs (exec (i x.b) x.s) (stepBlock s1 c k)

/-- Only the root frame in the table, so that a spill area is free whatever the pool holds, and reserved memory for areas and
records. -/
def roomy (s : State) : State := { s with frames := s.frames.take 1, cfg := { s.cfg with reservedBase := 1 <<< 30, reservedBytes := 1 <<< 24, memBytes := 1 <<< 31 } }

/-- Frame 0 changed. -/
def root0 (g : Frame → Frame) (s : State) : State := modFrame s 0 g

/-- A type that a shared function accepts. -/
def tyFor (code : Nat) : Ty := if code < 0x30 then .u32 else if code == 0x52 then .bf16 else .f32

/-! ### Witnesses -/

/-- NodeWordsDecodeBack, BlockWordsDecodeBack, RoundWordsDecodeBack, DecodedWordsEncodeBack: an instruction of each form with
operands at the ends of their ranges, and words that decode. -/
theorem witness_words :
    (let i := Instr.ldm (nr .f32 .mono 31 0x7FFFFFFF 0 0x7FFFE true .outer)
      let b := Instr.add (.block (br .u8 7 7 7 0 0 .reg 7))
      let r := Instr.token 0x7FFFE 7 64
      wellFormed i && (encode i == some (96, 0xA2410FC00007FFFE7FFFFFFF)) && (okInstr (decodeNode 0xA2410FC00007FFFE7FFFFFFF) == some i) &&
      wellFormed b && (encode b == some (64, 0x00FF8B0700000000)) && (okInstr (decodeBlock 0x00FF8B0700000000) == some b) &&
      wellFormed r && (encode r == some (64, 0x37FFFF7800000000)) &&
      (okInstr (decodeRound 0x37FFFF6800000000) == some (.token 0x7FFFE 6 64))) = true := by decide +kernel

/-- ReservedOpcodesAreRefused: a block word and a round word of reserved opcodes. -/
theorem witness_reserved : opcodeOf 64 0x2900000000000000 = 0x29 ∧ opcodeOf 64 0xFF00000000000000 = 0xFF ∧
    field 0xF800000000000000 58 6 = 0x3E := by decide +kernel

/-- Operands of a shared function of `n` lanes, every lane included. -/
def args (type : Ty) (a b : List Lane) (incl : List Bool := []) : ShArgs :=
  { type, rnd := .rne, modx := 0, sh := 0, n := a.length, a, b, c := b, incl, prev := a, seed := ⟨0, 0⟩ }

/-- IntegerElements, DivisionsShiftsAndBitFields, IntegerComparesAndLaneMoves: operands at the ends of the ranges, every lane
included and one excluded, of each width, with the results R160 to R162 and R167 state. -/
theorem witness_integers :
    [Ty.i8, .u8, .i16, .u16, .i32, .u32, .i64, .u64].all intTy ∧ (args .i64 [0, 0] [0, 0]).n % 2 = 0 ∧
    (fnAdd (args .i32 [0xFFFFFFFF, 5] [1, 6] [true, false])).lanes = [0, 5] ∧
    (fnAdd (args .i64 [0xFFFFFFFF, 0] [1, 0])).lanes = [0, 1] ∧ (fnAdds (args .i8 [0x7F80] [0x01FF])).lanes = [0x7F80] ∧
    (fnSubs (args .u16 [0x00050001] [0x00020002])).lanes = [0x00030000] ∧ (fnMulh (args .i16 [0x8000] [0x8000])).lanes = [0x4000] ∧
    (fnDiv (args .i32 [0x80000000, 7, 0xFFFFFFF9] [0xFFFFFFFF, 0, 2])).lanes = [0x80000000, 0xFFFFFFFF, 0xFFFFFFFD] ∧
    (fnRem (args .i32 [0x80000000, 7, 0xFFFFFFF9] [0xFFFFFFFF, 0, 2])).lanes = [0, 7, 0xFFFFFFFF] ∧
    allFlags (fnDiv (args .u32 [7] [0])).raised = flDZ ∧ (fnShl (args .u32 [1, 1] [31, 32])).lanes = [0x80000000, 0] ∧
    (fnBfx (args .i32 [0xF0] [0x404])).lanes = [0xFFFFFFFF] ∧ (fnBfi (args .u32 [0xFF] [0x404])).lanes = [0x4F] ∧
    (fnClt (args .i32 [0x80000000] [0])).lanes = [1] ∧ (fnClt (args .u32 [0x80000000] [0])).lanes = [0] ∧
    (args .u32 [1, 2, 3] [0, 0, 0]).a.length = (args .u32 [1, 2, 3] [0, 0, 0]).n ∧ (fnScan (args .u32 [1, 2, 3] [0, 0, 0])).lanes = [1, 3, 6] ∧
    (fnShuf (args .u32 [7, 8] [1, 2])).lanes = [8, 0] ∧ (fnRot (args .u32 [7, 8, 9] [1, 0, 0])).lanes = [9, 7, 8] ∧
    (fnCompact (args .u32 [7, 8, 9] [0, 1, 1])).lanes = [8, 9, 0] := by decide +kernel

/-- MinimumAndMaximum: a NaN beside a number, the two zeros, and two numbers in order, in f32 and f16. -/
theorem witness_minmax :
    let v := decodeVal (fmtOrF32 .f32)
    let h := decodeVal (fmtOrF32 .f16)
    isNaN (v 0x7F800001) = true ∧ v 0x7F800001 = .nan true ∧ v 0x80000000 = .zero true ∧ v 0 = .zero false ∧
    valLt (v 0xFF800000) (v 0x7F800000) = true ∧ valLt (h 0x8001) (h 0x0001) = true ∧
    (fMinMax (fmtOrF32 .f32) false (v 0x80000000) (v 0)).1 = 0x80000000 := by decide +kernel

/-- AdditionsCommuteAndExactSumsRead, RepresentableValuesRoundToThemselves: a register of each kind that a read tells apart,
a register number of a tile, the greatest and least values of formats. -/
theorem witness_exact :
    let x : Xacc := { v := 0, nan := false, pinf := false, ninf := false }
    3 < (emptyTile 0).xacc.length ∧ xaccRead { x with nan := true } .f32 .rne 0 = (0x7FC00000, 0) ∧
    xaccRead { x with pinf := true, ninf := true } .f32 .rne 0 = (0x7FC00000, flNV) ∧ xaccRead { x with ninf := true } .f32 .rne 0 = (0xFF800000, 0) ∧
    xaccRead x .f32 .rdn 0 = (0, 0) ∧ xaccRead { x with v := 1 <<< 2176 } .f32 .rne 0 = (0x3F800000, 0) ∧
    isNaN (decodeVal (fmtOrF32 .f32) 0x7F7FFFFF) = false ∧ isNaN (decodeVal (fmtOrF32 .e5m2) 0x7C) = false ∧
    roundVal (fmtOrF32 .f32) (decodeVal (fmtOrF32 .f32) 0x7F7FFFFF) .rto false (2 ^ 32 - 1) = (0x7F7FFFFF, 0) := by decide +kernel

/-- RepresentableValuesRoundToThemselves: two finite values of f16 whose product is exact and one whose square is, with its quotient
and root; a fraction that FRINT rounds; a bf16, an e5m2 infinity and the least i32 converted up and back. -/
theorem witness_exact_arithmetic :
    let f := fmtOrF32 .f16
    let v := decodeVal f
    let finite (a : Val) : Bool := !isNaN a && !isInf a && !isZero a
    finite (v 0x4200) ∧ finite (v 0xC500) ∧ fMul f (v 0x4200) (v 0xC500) .rne 0 = (0xCB80, 0) ∧ fDiv f (v 0xCB80) (v 0xC500) .rdn 7 = (0x4200, 0) ∧
    fMul f (v 0xC200) (v 0xC200) .rne 0 = (0x4880, 0) ∧ fSqrt f (v 0x4880) .rup 0 = (0x4200, 0) ∧ fScale f (v 0x0001) 0 .rtz 0 = (1, 0) ∧
    (fRint f (v 0x4100) .rne 0).1 = 0x4000 ∧ fRint f (v 0x4000) .rup 0 = (0x4000, 0) ∧
    convertElem .bf16 .f32 0x3F80 .rne false 0 = (0x3F800000, 0) ∧ convertElem .f32 .bf16 0x3F800000 .rne true 0 = (0x3F80, 0) ∧
    isNaN (decodeVal (fmtOrF32 .e5m2) 0x7C) = false ∧ convertElem .e5m2 .f16 0x7C .rne false 0 = (0x7C00, 0) ∧
    convertElem .i32 .f64 0x80000000 .rne false 0 = (0xC1E0000000000000, 0) ∧
    convertElem .f64 .i32 0xC1E0000000000000 .rne false 0 = (0x80000000, 0) := by decide +kernel

/-- The firing of a shared function on two lanes with a partner. -/
def sharedSite (row : SharedRow) : Site :=
  site row.code (nr (tyFor row.code) .dyad 4) (tok 0 [0x40000000, 3]) (some (tok 1 [0x3F800000, 1]))

/-- SharedFunctionNodesComplete at a row. -/
def sharedDoes (row : SharedRow) : Bool :=
  does (sharedSite row) plain (fun r => row.instr (.node r)) fun s c =>
    let o := row.fn (nodeArgs row.code c)
    gives (!oddLanes row.code c.r.type c.r.modx.toNat (laneCount c) && (arithTrap c.l c.r.type o.raised).isNone) s
      (outBoth c o.lanes false false []) (allFlags o.raised)

/-- SharedFunctionNodesComplete: every integer and select function. -/
theorem witness_shared_integer : integerRows.all sharedDoes = true := by decide +kernel

/-- SharedFunctionNodesComplete: every compare function and floating-point function. -/
theorem witness_shared_float : (compareRows ++ floatRows).all sharedDoes = true := by decide +kernel

/-- SharedFunctionNodesComplete: every conversion and lane function. -/
theorem witness_shared_lane : laneRows.all sharedDoes = true := by decide +kernel

/-- SharedFunctionsCompleteInBlocks at a row. -/
def sharedSteps (row : SharedRow) : Bool :=
  steps (bsite row.code (br (tyFor row.code) 1 2 3 4 4)) (fun b => row.instr (.block b)) fun s c =>
    let o := row.fn (blockArgs row.code c)
    if oddLanes row.code c.b.type (low 5 c.b.imm.toNat) c.n || (arithTrap c.l c.b.type o.raised).isSome then none
    else some (s, { setReg c.k c.b.d o.lanes with flags := c.k.flags ||| allFlags o.raised })

/-- SharedFunctionsCompleteInBlocks: every shared function. -/
theorem witness_shared_blocks : sharedRows.all sharedSteps = true := by decide +kernel

/-- CompletionMergesSendsAndConsumes: a firing with two emissions, one of them to no node, and a flag. -/
theorem witness_completion :
    (let x := site 0x1E (nr .i32 .mono) (tok 0 [7]);
      sees x fun c =>
        let es := [emission c 0 [7] (0, 0) false false [], emission c 1 [7] (0, 0) false false []];
        let t := completed x.s c es 4;
        decide (findLaunch x.s c.f.slot = some c.l ∧ findFrame x.s c.f.a.fh = some c.fr ∧ taskOf x.s c.f.a.fh = none ∧
          (∀ e ∈ es, e.fh = c.f.a.fh) ∧ findFrame t 0 = some { c.fr with flags := 4, tokens := 1 } ∧
          t.agenda.length = 1 ∧ (findLaunch t 0).map (fun l => l.flights.length) = some 1)) = true := by decide +kernel

/-- TagInstructionsComplete: the greatest value and the fullest tag that PUSHT takes, POPT of the whole tag, ITER up to the
greatest value, each on data, a last post and a dead letter; and the values where they trap. -/
theorem witness_tags :
    (let push := fun (c : Ctx) (l : List Lane) dl lp => (.ok (outTag c l (ctxTag c <<< 4 ||| 15, 64) dl lp []) : Except Trap _)
      let px := fun (dl lp : Bool) => site 0x80 (nr .i32 .lit 3 15 2 5) (tok 0 [9, 8] 0xABC 60 dl lp)
      let pop := fun (c : Ctx) (l : List Lane) dl lp => (.ok (outTag c l (ctxTag c >>> 4, 0) dl lp []) : Except Trap _)
      let qx := fun (dl lp : Bool) => site 0x81 (nr .i32 .mono 0 0 2 5) (tok 0 [9, 8] 0xF 4 dl lp) none (shaped [4])
      let bump := fun (c : Ctx) (l : List Lane) dl lp => (.ok (outTag c l (0x1F0, 12) dl lp []) : Except Trap _)
      let ix := fun (dl lp : Bool) => site 0x82 (nr .i32 .mono 1 0 2 5) (tok 0 [9, 8] 0x1E7 12 dl lp) none (shaped [4, 4]);
      sends (px false false) .pusht (fun c => decide (c.f.a.fill + 4 ≤ 64)) (fun c => push c c.f.a.lanes false false) &&
      passesLast (px false true) plain .pusht (fun c => push c oneZero false true) &&
      passesDead (px true false) plain .pusht (fun c => push c (passLanes c) true false) &&
      sends (qx false false) .popt (fun c => decide (c.shape.getD 0 0 ≤ c.f.a.fill)) (fun c => pop c c.f.a.lanes false false) &&
      passesLast (qx false true) plain .popt (fun c => pop c oneZero false true) &&
      passesDead (qx true false) plain .popt (fun c => pop c (passLanes c) true false) &&
      sends (ix false false) .iter (fun c => decide (field (ctxTag c) 4 4 = 14)) (fun c => bump c c.f.a.lanes false false) &&
      passesLast (ix false true) plain .iter (fun c => bump c oneZero false true) &&
      passesDead (ix true false) plain .iter (fun c => bump c (passLanes c) true false)) = true := by decide +kernel

/-- TagInstructionsComplete, the traps. -/
theorem witness_tag_traps :
    (trapsWith (site 0x80 (nr .i32 .dyad 3) (tok 0 [9]) (some (tok 1 [16]))) plain .pusht ⟨0x01, 0, 0⟩ &&
      trapsWith (site 0x80 (nr .i32 .mono 3) (tok 0 [9] 0 61)) plain .pusht ⟨0x01, 1, 0⟩ &&
      trapsWith (site 0x81 (nr .i32 .mono) (tok 0 [9] 0 3) none (shaped [4])) plain .popt ⟨0x01, 2, 0⟩ &&
      trapsWith (site 0x82 (nr .i32 .mono 1) (tok 0 [9] 0 7) none (shaped [4, 4])) plain .iter ⟨0x01, 2, 0⟩ &&
      trapsWith (site 0x82 (nr .i32 .mono 1) (tok 0 [9] 0xF0 8) none (shaped [4, 4])) plain .iter ⟨0x01, 0, 0⟩) = true := by
  decide +kernel

/-- TagFieldsSetAndRead: SETT to its greatest value and past it, of a last post and with a dead value, GETT of a field and of the TAG, and of an odd lane count. -/
theorem witness_tag_fields :
    (sends (site 0x83 (nr .i32 .lit 1 15 2 5) (tok 0 [9, 8] 0x127 12) none (shaped [4, 4])) .sett
        (fun c => decide (1 < c.shape.length ∧ 8 ≤ c.f.a.fill ∧ fieldValue c ≤ ones 4))
        (fun c => .ok (outTag c c.f.a.lanes (0x1F0, 12) false false [])) &&
      passesLast (site 0x83 (nr .i32 .lit 1 15 2 5) (tok 0 [0] 0x127 12 false true) none (shaped [4, 4])) plain .sett
        (fun c => .ok (outTag c oneZero (0x1F0, 12) false true [])) &&
      passesDead (site 0x83 (nr .i32 .dyad 1 0 2 5) (tok 0 [9] 0x127 12) (some (tok 1 [6] 0x127 12 true)) (shaped [4, 4])) plain .sett
        (fun c => .ok (outTag c (passLanes c) (0x100, 12) true false [])) &&
      trapsWith (site 0x83 (nr .i32 .lit 1 16) (tok 0 [9] 0x127 12) none (shaped [4, 4])) plain .sett ⟨0x01, 0, 0⟩ &&
      sends (site 0x84 (nr .u32 .mono 1 0 2 5) (tok 0 [9, 8] 0x127 12) none (shaped [4, 4])) .gett (fun c => decide (1 < c.shape.length))
        (fun c => outBoth c [2, 2] false false []) &&
      sends (site 0x84 (nr .u64 .mono 31 0 2 5) (tok 0 [9, 8] 0x1234567890 64)) .gett (fun c => laneCount c % 2 == 0)
        (fun c => outBoth c [0x34567890, 0x12] false false []) &&
      trapsWith (site 0x84 (nr .u64 .mono 31) (tok 0 [9])) plain .gett ⟨0x04, 1, 0⟩) = true := by decide +kernel

/-- FramesAreCreatedFreedAndJoined: FRAME, SPAWN with the greatest ordinal and the fullest FID, SPAWNT into a free context; each
held without room, a SPAWNT without a context too; what a last post and a dead letter send. -/
theorem witness_frames :
    (let fr := (0x85, Instr.frame, nr .i32 .mono 0 0 2 5)
      let sp := (0x86, Instr.spawn, nr .i32 .lit 3 15 2 5)
      let st := (0x87, Instr.spawnt, nr .i32 .lit 3 1 2 5)
      let at1 := fun (p : Nat × (NodeRec → Instr) × NodeRec) ln (st : State → State) => site p.1 p.2.2 (tok 0 [9]) none ln st
      let rest := fun (c : Ctx) => (outPorts c [1] c.f.a.lanes c.r.tagop false false []).isOk
      let full := fun s => root0 (fun f => { f with ffill := 60 }) (roomy s)
      let busy := tile0 fun t => { t with tasks := List.replicate 128 { emptyTask with phase := .spec } };
      [fr, sp, st].all (fun p => waitsAt (at1 p id fun s => { s with frames := s.frames.take 1 }) plain p.2.1 rest) &&
      meets (at1 fr id roomy) plain (fun s c => poolFree s 0 && rest c) &&
      meets (at1 sp id full) plain (fun s c => poolFree s 0 && rest c && decide (c.fr.ffill + 4 ≤ 64 ∧ fieldValue c ≤ ones 4)) &&
      meets (at1 st busy roomy) plain (fun s c => rest c && (contextFor { s with nextId := s.nextId + 1, spawns := [spawnRecord s c (spawnKey c)] } c 0).isNone) &&
      [fr, sp, st].all (fun p =>
        passesLast (site p.1 p.2.2 (tok 0 [9] 0 0 false true)) plain p.2.1 (fun c => outPorts c [1] oneZero c.r.tagop false true []) &&
        passesDead (site p.1 p.2.2 (tok 0 [9] 0 0 true)) plain p.2.1 (fun c => outPorts c [1] (passLanes c) c.r.tagop true false []))) = true := by
  decide +kernel

/-- FramesAreCreatedFreedAndJoined: the traps of creation at their boundaries, in their order. -/
theorem witness_creation_traps :
    (let at1 := fun (opc : Nat) (r : NodeRec) (a : Token) (ln : Launch → Launch) (g : Frame → Frame) => site opc r a none ln (root0 g)
      let pops := nr .i32 .mono 0 0 2 5 false .pop
      let lit := fun (m : BitVec 5) (n : BitVec 32) => nr .i32 .lit m n 2 5
      let late := fun (l : Launch) => { l with horizon := some ⟨1, 0, 64⟩ };
      trapsWith (at1 0x85 pops (tok 0 [9]) (shaped [4]) id) plain .frame ⟨0x01, 2, 0⟩ && trapsWith (at1 0x86 pops (tok 0 [9]) (shaped [4]) id) plain .spawn ⟨0x01, 2, 0⟩ &&
      [(0x86, Instr.spawn), (0x87, .spawnt)].all (fun p =>
        trapsWith (at1 p.1 (lit 3 16) (tok 0 [9]) id fun f => { f with ffill := 61 }) plain p.2 ⟨0x11, 0, 0⟩) &&
      trapsWith (at1 0x86 (lit 3 16) (tok 0 [9]) id fun f => { f with ffill := 60 }) plain .spawn ⟨0x11, 1, 0⟩ &&
      trapsWith (at1 0x87 (lit 0 1) (tok 0 [9] 2 4) (shaped [4]) id) plain .spawnt ⟨0x11, 1, 0⟩ &&
      trapsWith (at1 0x87 (lit 0 1) (tok 0 [9]) id fun f => { f with postmark := 0xFFFFFFFFFFFFFFFF }) plain .spawnt ⟨0x0A, 1, 0⟩ &&
      trapsWith (site 0x87 (nr .i32 .dyad 0 0 2 5) (tok 0 [9]) (some (tok 1 [4])) id (root0 fun f => { f with postmark := 5 })) plain .spawnt ⟨0x0A, 0, 0⟩ &&
      trapsWith (at1 0x87 { pops with arity := .lit } (tok 0 [9]) (shaped [4]) id) plain .spawnt ⟨0x01, 2, 0⟩ &&
      trapsWith (at1 0x87 (lit 0 1) (tok 0 [9]) late id) plain .spawnt ⟨0x0B, 5, 0⟩) = true := by decide +kernel

/-- FramesAreCreatedFreedAndJoined: a SPAWNT with a context and a place for its record; its context taken from the youngest
task for one in TASK_FRONT. -/
theorem witness_spawnt :
    (let x := site 0x87 (nr .i32 .lit 3 1 2 5) (tok 0 [9]) none id roomy
      let task := fun (fh ctx : Nat) (st : FrameState) => ({ benchFrames State.reset (benchLaunch (benchManifest [] [] [])) 1 |>.headD
        (makeFrame State.reset (benchLaunch (benchManifest [] [] [])) 0 0 .root 0 0 0) with fh, kind := .task, state := st, home := st, tcidx := ctx } : Frame)
      let front := site 0x87 (nr .i32 .lit 3 1 2 5) (tok 0 [9]) none
        (tile0 fun t => { t with tasks := List.replicate 128 { emptyTask with fh := 2, phase := .spec } }) fun s =>
          { s with frames := [task 0 0 .taskFront, task 2 5 .taskSpec] };
      sees x (fun c => decide (fires x.s c plain) && (outPorts c [1] c.f.a.lanes c.r.tagop false false []).isOk && reservedPlaces x.s 256 == [1 <<< 30] &&
        poolFree x.s 0 && (contextFor x.s c 0).any (·.2 == 0)) &&
      sees front (fun c => taskOf front.s 0 == some 0 && (youngestTask front.s 0 0 0).any (·.fh == 2) && (contextFor front.s c 0).any (·.2 == 5))) = true := by
  decide +kernel

/-- FramesAreCreatedFreedAndJoined: FREE of a root, an ordinary and a task frame and of a last post, SYNC on each kind. -/
theorem witness_free_sync :
    (let free := nr .i32 .mono 0 0 0x7FFFF
      let told := fun (s : State) (c : Ctx) => modFrame s c.fr.parent fun g => { g with hb := unionNat g.hb (firingHb c.f) }
      let kind := fun k => root0 fun f => { f with kind := k, parent := 1 }
      let sync := fun (dl lp : Bool) => site 0x98 (nr .i32 .mono 0 0 2 5) (tok 0 [9] 0 0 dl lp) none id (root0 fun f => { f with hb := [3] });
      does (site 0x88 free (tok 0 [9])) plain .free (fun s c => gives (c.fr.kind == .root) s (.ok [])) &&
      does (site 0x88 free (tok 0 [9]) none id (kind .ordinary)) plain .free
        (fun s c => gives (c.fr.kind == .ordinary) (drainFrame (told s c) 0 0) (.ok [])) &&
      does (site 0x88 free (tok 0 [9]) none id (kind .task)) plain .free
        (fun s c => gives (c.fr.kind == .task) (modFrame (told s c) 0 fun g => { g with freed := true }) (.ok [])) &&
      passesLast (site 0x88 free (tok 0 [9] 0 0 false true)) plain .free (fun c => outBoth c oneZero false true []) &&
      sends (sync false false) .sync (fun _ => true) (fun c => outBoth c c.f.a.lanes false false [3]) &&
      trapsWith (site 0x98 (nr .i64 .mono 0 0 2 5) (tok 0 [9])) plain .sync ⟨0x04, 1, 0⟩ &&
      passesLast (sync false true) plain .sync (fun c => outBoth c oneZero false true [3]) &&
      passesDead (sync true false) plain .sync (fun c => outBoth c (passLanes c) true false [3])) = true := by decide +kernel

/-- WidthInstructionsComplete: each form at an end of its range, and the traps. -/
theorem witness_widths :
    (let n := fun k => List.replicate k (7 : Lane)
      let fold4 := fun (l : Launch) => { l with man := { l.man with fold4 := true } };
      sends (site 0x89 (nr .i64 .dyad 0 0 2 5) (tok 0 (n 2)) (some (tok 1 [40])) fold4) .ctxw (fun _ => true)
        (fun c => outBoth c (fitLanes 8 (n 2)) false false []) &&
      sends (site 0x89 (nr .i32 .lit 0 32 2 5) (tok 0 [1])) .ctxw (fun _ => true) (fun c => outBoth c (fitLanes 32 [1]) false false []) &&
      sends (site 0x8A (nr .i32 .dyad 0 0 2 5) (tok 0 (n 16)) (some (tok 1 (n 16)))) .pack (fun c => 2 * laneCount c == 32)
        (fun c => outBoth c (n 32) false false []) &&
      trapsWith (site 0x8A (nr .i32 .dyad) (tok 0 (n 17)) (some (tok 1 (n 17)))) plain .pack ⟨0x04, 2, 0⟩ &&
      sends (site 0x8B (nr .i64 .mono 0 0 2 5) (tok 0 [1, 2, 3, 4])) .unpack (fun _ => true)
        (fun c => outAppend (outPorts c [0] [1, 2] .same false false []) (outPorts c [1] [3, 4] .same false false [])) &&
      trapsWith (site 0x8B (nr .i32 .mono) (tok 0 [1])) plain .unpack ⟨0x04, 2, 0⟩ &&
      trapsWith (site 0x8B (nr .i64 .mono) (tok 0 [1, 2])) plain .unpack ⟨0x04, 2, 0⟩ &&
      sends (site 0x8C (nr .i32 .lit 0 3 2 5) (tok 0 [1])) .recol (fun _ => true) (fun c => outBoth c [1, 0, 0] false false []) &&
      [(0x89, Instr.ctxw), (0x8A, .pack), (0x8B, .unpack), (0x8C, .recol)].all fun p =>
        trapsWith (site p.1 (nr .f64 .dyad) (tok 0 [1]) (some (tok 1 [1]))) plain p.2 ⟨0x04, 1, 0⟩) = true := by decide +kernel

/-- SteeringInstructionsComplete: each clause once. -/
theorem witness_steering :
    (let st := fun (m : BitVec 5) (b : Token) => site 0x90 (nr .i32 .dyad m 0 2 5) (tok 0 [9, 8] 0xE 4) (some b) (shaped [4])
      let mg := fun (m : BitVec 5) (a b : BitVec 19) (fill : Nat) => site 0x91 (nr .i32 .mono m 0 a b) (tok 0 [9] 1 fill)
      let gr := fun (t : Dword) (lp : Bool) => site 0x93 (nr .i32 .mono 0 0 2 5) (tok 0 [9] t 4 false lp) none (shaped [4])
      let cp := fun (lp : Bool) => site 0x94 (nr .i32 .lit 1 4 2 5) (tok 0 [9] 3 62 false lp)
      let cn := fun (n : Nat) => let f := { (cp false).f with made := n }; ({ cp false with f, s := { (cp false).s with issue := .node f } } : Site)
      let copy := fun (c : Ctx) j => emission c 0 [9] (12 + j, 64) false false []
      let all := fun (c : Ctx) => (List.range 4).map (copy c) ++ [emission c 1 [9] (3, 62) false false []];
      sends (st 1 (tok 1 [1])) .steer (fun c => controlVal c == 1) (fun c => outPorts c [0] [9, 8] .same false false []) &&
      sends (st 1 (tok 1 [2])) .steer (fun c => controlVal c % 2 == 0) (fun c => outPorts c [1] [9, 8] .iter false false []) &&
      passesDead (st 0 (tok 1 [1] 0 0 true)) plain .steer (fun c => outPorts c [1] (passLanes c) .same true false []) &&
      (let last := fun (m : BitVec 5) => site 0x90 (nr .i32 .dyad m 0 2 5) (tok 0 [0] 0xE 4 false true) (some (tok 1 [0] 0xE 4 false true)) (shaped [4])
       passesLast (last 9) plain .steer (fun c => outPorts c [1] oneZero .iter false true []) &&
       passesLast (last 1) plain .steer (fun c => outAppend (outPorts c [0] oneZero .same false true []) (outPorts c [1] oneZero .iter false true []))) &&
      sends (mg 0 2 5 0) .merge (fun _ => true) (fun c => .ok (outTag c [9] (1, 0) false false [])) &&
      sends (mg 1 2 5 63) .merge (fun _ => true) (fun c => .ok (outTag c [9] (2, 64) false false [])) &&
      sends (mg 1 0x7FFFF 0x7FFFF 64) .merge (fun _ => true) (fun _ => .ok []) &&
      does (site 0x92 (nr .i32 .lit 0 3 2 5) (tok 0 [9]) (some (tok 1 [0]))) { plain with trigger := true } .gate
        (fun s c => gives true s (outBoth c [9] false false [])) &&
      sends (gr 3 false) .gaterel (fun c => gateBound c == 1) (fun c => outAppend (.ok [emission c 0 [0] (4, 4) false false []])
        (outPorts c [1] [9] .same false false [])) &&
      sends (gr 15 false) .gaterel (fun _ => true) (fun c => outPorts c [1] [9] .same false false []) &&
      passesLast (gr 3 true) plain .gaterel (fun c => outPorts c [1] oneZero .same false true []) &&
      [0, 2].all (fun n => goes (cn n) plain .copy (fun c => c.f.a.fill + 2 == 64 && (rateTrap c (all c) 0).isNone) fun s c =>
        modLaunch (sendEmissions s c [copy c n]) 0 fun l => modDesk l 0 fun d => { d with copying := some { c.f with made := n + 1 } }) &&
      goes (cn 3) plain .copy (fun _ => true) (fun s c => complete (rateAdvance s c (all c) 0) c ((all c).drop 3) 0) &&
      [2, 3].all (fun n =>
        let f := { benchFiring false with a := tok 0 [6] 3 62 true, made := n }
        let x := site 0x94 (nr .i32 .lit 1 4 2 5) f.a
        let x := { x with f, s := { x.s with issue := .node f } }
        let dead := fun (c : Ctx) j => emission c 0 (passLanes c) (12 + j, 64) true false []
        sees x fun c => let o := own x.s c plain
          decide (firesDl x.s c plain) && match outPorts o [1] (passLanes o) .same true false [] with
          | .ok rest => nextIs (exec (.copy c.r) x.s) (if n == 2 then modLaunch (sendEmissions (started x.s c plain) o [dead o 2]) 0 fun l =>
              modDesk l 0 fun d => { d with copying := some { f with made := 3 } }
            else complete (started x.s c plain) o (dead o 3 :: rest) 0)
          | .error _ => false) &&
      trapsWith (site 0x94 (nr .i32 .lit 1 4 2 5) (tok 0 [9] 3 63)) plain .copy ⟨0x01, 1, 0⟩ &&
      passesLast (cp true) plain .copy (fun c => outPorts c [1] oneZero .same false true [])) = true := by decide +kernel

/-- StreamsEndAndBlocksStart: each clause once; SEQ finds contexts 0 to 6 taken. -/
theorem witness_streams :
    (let none2 := nr .i32 .mono 0 0 0x7FFFF
      let lp := fun (m : BitVec 5) => site 0x96 (nr .i32 .mono m 0 2 5) (tok 0 [9] 1 4)
      let wl := fun (m : BitVec 5) (last : Bool) => site 0x97 (nr .i32 .mono m 0 2 5) (tok 0 [9] 0 0 false last)
      let ctxs := (List.range 7).map fun i => ({ idx := i, firing := benchFiring false, pc := 0, started := 0, group := 0, w := [], stores := [], adds := [], emits := [], flags := 0 } : BlockCtx);
      sends (site 0x95 none2 (tok 0 [9])) .sink (fun _ => true) (fun _ => .ok []) &&
      sees (site 0x95 none2 (tok 0 [0] 0 0 false true)) (fun c => let s := (site 0x95 none2 (tok 0 [0] 0 0 false true)).s
        decide (firesLp s c plain ∧ c.fr.kind = .root ∧ c.f.a.fill = 0) &&
          nextIs (exec (.sink c.r) s) (complete (modLaunch s 0 fun l => { l with posted := [0] }) c [] 0)) &&
      passesLast (site 0x95 none2 (tok 0 [0] 0 4 false true)) plain .sink (fun _ => .ok []) &&
      sends (lp 0) .lpost (fun _ => true) (fun c => outAppend (.ok (outTag c [9] (1, 4) false false [])) (outBoth c oneZero false true [])) &&
      sends (lp 1) .lpost (fun _ => true) (fun c => outBoth c oneZero false true []) &&
      passesLast (site 0x96 (nr .i32 .mono 0 0 2 5) (tok 0 [9] 0 0 false true)) plain .lpost (fun c => outBoth c oneZero false true []) &&
      sends (wl 0 false) .waitlp (fun _ => true) (fun c => outPorts c [0] [9] .same false false []) &&
      passesLast (wl 0 true) plain .waitlp (fun c => outPorts c [1] oneZero .same false false []) &&
      passesLast (wl 1 true) plain .waitlp (fun c => outAppend (outPorts c [1] oneZero .same false false [])
        (outPorts c [0] oneZero .same false true [])) &&
      meets (site 0x99 (nr .i32 .dyad) (tok 0 [9]) (some (tok 1 [8])) (tile0 fun t => { t with ctxs })) plain fun _ c =>
        (tileOf c.l 0).ctxs.map (·.idx) == List.range 7) = true := by decide +kernel


/-- BlockOnlyInstructionsComplete: GET of each of its four sources, EMIT, EMITC both ways, LMASK over its whole range. -/
theorem witness_block_only :
    (let got := fun (n : BitVec 32) (v : List Lane) => steps (bsite 0x80 (br .i32 1 0 0 n)) .get fun s c => some (s, setReg c.k 1 v)
      let emit := fun (c : BCtx) => { c.k with emits := [(3, fitLanes c.n (wreg c.k 1))] };
      got 0 [9, 8] && got 1 [7, 6] && got 2 [5, 5] && got 3 [0, 1] &&
      steps (bsite 0x81 (br .i32 0 1 0 3)) .emit (fun s c => some (s, emit c)) &&
      steps (bsite 0x82 (br .i32 0 1 2 3)) .emitc (fun s c => if bit (laneAt (wreg c.k 2) 0).toNat 0 then some (s, emit c) else none) &&
      steps (bsite 0x82 (br .i32 0 1 2 3) fun k => setReg k 2 [2, 1]) .emitc
        (fun s c => if bit (laneAt (wreg c.k 2) 0).toNat 0 then none else some (s, c.k)) &&
      steps (bsite 0x87 (br .i32 1 0 0 0x2001)) .lmask (fun s c => some (s, setReg c.k 1 [0, 1]))) = true := by decide +kernel

/-- BlockOnlyInstructionsComplete: LDTB of two words at the end of SRAM, one held by an earlier STTB, and with its second lane
excluded; STTB there; XADD; RDSYSB. -/
theorem witness_block_memory :
    (let at1 := fun (k : BlockCtx) => setReg k 2 [0x3FFFF8, 0]
      let held := fun (k : BlockCtx) => { at1 k with stores := [⟨0, 0x3FFFFC, false, [some 77]⟩] }
      let mem := tile0 fun t => writeSram t 0x3FFFF8 [1, 0, 0, 0, 2, 0, 0, 0]
      let reads := fun (s : State) (c : BCtx) => (checkAccesses s 0 ([0, 1].flatMap fun j =>
        sramBy s c.k.firing c.k.group c.k.pc .read (0x3FFFF8 + 4 * j) 4 j)).toOption;
      steps (bsite 0x83 (br .f32 1 2 0) at1 mem) .ldtb (fun s c => (reads s c).map fun sx => (sx, setReg c.k 1 [1, 2])) &&
      steps (bsite 0x83 (br .f32 1 2 0) held mem) .ldtb (fun s c => (reads s c).map fun sx => (sx, setReg c.k 1 [1, 77])) &&
      steps (bsite 0x84 (br .f32 0 3 2 0 0 .reg 0) at1) .sttb
        (fun s c => some (s, { c.k with stores := [⟨0, 0x3FFFF8, false, [some 0xC1, some 0xC0]⟩] })) &&
      steps (bsite 0x84 (br .f32 0 3 2 0 0 .reg 2) fun k => setReg (at1 k) 2 [0x3FFFF8, 1]) .sttb
        (fun s c => some (s, { c.k with stores := [⟨0, 0x3FFFF8, false, [none, some 0xC0]⟩] })) &&
      steps (bsite 0x85 (br .f32 3 2 3 1)) .xadd (fun s c =>
        let x := xaccTerms .f32 (wreg c.k 2) (wreg c.k 3) true fun _ => true
        some (s, { c.k with adds := [(0, 3, x.1)], flags := allFlags x.2 })) &&
      steps (bsite 0x86 (br .i32 1 0 0 4)) .rdsysb (fun s c =>
        some (s, setIncluded c 1 (sysLane (sysValue s c.l c.fr 0 0 2 4))))) = true := by decide +kernel

/-- A block whose last instruction has completed, of given held work. -/
def atEnd (kt : BlockCtx → BlockCtx) : BSite := bsite 0x81 (br .i32 0 1 0 1) fun k => kt { k with pc := 1 }

/-- BlocksCommitAsOneUnit: a store, an addition and a token committed; a token whose tag rule fails; a store to half of a bad word. -/
theorem witness_commit :
    (let x := atEnd fun k => { k with stores := [⟨0, 0x3FFFFC, false, [some 5]⟩], adds := [(0, 3, { v := 1, nan := false, pinf := false, ninf := false })], emits := [(1, [4])] }
      let y := atEnd fun k => { k with emits := [(1, [4])] }
      let half : BSite := { x with s := modLaunch x.s 0 (tile0 fun t => { t with bad := [0x7FFFF] }) }
      let r := nr .i32 .dyad 0 0x500
      let popped := (0, packFields (nodeLayout.zip (nodeFields 0x99 { r with tagop := .pop })))
      let pops : BSite := { y with s := (modLaunch y.s 0 fun l => shaped [4] { l with man := { l.man with nodes := [popped] } }) }
      let at1 := fun (x : BSite) (r : NodeRec) (g : Launch → BlockCtx → Ctx → Bool) =>
        match findLaunch x.s 0 with
        | none => false
        | some l => match findCtx l 0 0 with
          | none => false
          | some k => recOf l k.firing == some r && decide ((blockWords l k.firing).length ≤ k.pc) &&
            match ctxOf x.s k.firing r with
            | none => false
            | some c => g l k c;
      at1 x r (fun _ k c =>
        match blockOut c k, checkAccesses x.s 0 (commitAccesses x.s k) with
        | .ok es, .ok sx => (rateTrap c es 0).isNone && (commitBad (tileOf c.l 0) k).isNone && nextIs (exec (.blockCommit 0 0 0) x.s)
            (completed (modLaunch (dropCtx sx 0 0 0) 0 fun l => modTile l 0 fun t => commitAdds (commitStores t k) k) c es k.flags)
        | _, _ => false) &&
      at1 half r (fun _ k c => commitBad (tileOf c.l 0) k == some (0, 0) &&
        nextIs (exec (.blockCommit 0 0 0) half.s) (trapFiring (dropCtx half.s 0 0 0) c.f ⟨0x06, 1, 0⟩)) &&
      at1 pops { r with tagop := .pop } (fun _ k c =>
        match blockOut c k with
        | .error t => nextIs (exec (.blockCommit 0 0 0) pops.s) (trapFiring (dropCtx pops.s 0 0 0) c.f { t with detail := t.detail })
        | .ok _ => false)) = true := by decide +kernel

/-- TensorFiringsAreQueuedAndRun: each form queued behind three firings, held behind four, passed as a last post; ACCRD's dead
letters. -/
theorem witness_tensor_queue :
    (let rows := fun (o : Nat) => if o == 0xC0 || o == 0xC1 then nr .bf16 .dyad 0 3 2 5 true else if o == 0xC2 then nr .bf16 .mono 16 0x3F00 2 5
        else if o == 0xC3 then nr .i32 .mono 0 3 2 5 else nr .bf16 .mono 3 0 2 5
      let q := fun k => tile0 fun t => { t with tq := List.replicate k (benchFiring false) };
      [(0xC0, Instr.mma, true), (0xC1, .mmaz, true), (0xC2, .accrd, false), (0xC3, .accz, false), (0xC4, .fskip, false)].all fun p =>
        let b := if p.2.2 then some (tok 1 [0]) else none
        goes (site p.1 (rows p.1) (tok 0 [9]) b (q 3)) (unitPolicy p.2.2) p.2.1 (fun _ => true)
          (fun s c => modLaunch s 0 fun l => modTile l 0 fun t => { t with tq := t.tq ++ [c.f] }) &&
        waitsAt (site p.1 (rows p.1) (tok 0 [9]) b (q 4)) (unitPolicy p.2.2) p.2.1 &&
        passesLast (site p.1 (rows p.1) (tok 0 [0] 0 0 false true) b) (unitPolicy p.2.2) p.2.1 (fun c => outBoth c [0] false true [])) = true ∧
    passesDead (site 0xC2 (nr .f32 .mono 0 0x0100 2 5) (tok 0 [9, 8] 0 0 true)) (unitPolicy false) .accrd
      (fun c => accrdOut c (List.replicate 4 (passLanes c)) true []) = true := by decide +kernel

/-- The oldest firing of tile 0's tensor queue started: what it sees, and what the start is to answer. -/
def starts (x : Site) (g : State → Ctx → Option State) : Bool :=
  let s := modLaunch x.s 0 fun l => modTile l 0 fun t => { t with tq := [x.f] }
  match ctxOf x.s x.f x.r with
  | none => false
  | some c => match g x.s c with
    | none => false
    | some t => nextIs (exec (.tensorQueueStart 0 0) s) t

/-- With no flag enabled no result traps. -/
theorem firstRaised_zero (rows : List (List (Nat × Flags))) : firstRaised 0 rows = none := by
  unfold firstRaised
  simp

/-- TensorFiringsAreQueuedAndRun: an MMA and an MMAZ on full FIFOs meet their hypotheses (whatever the results, by
`firstRaised_zero`), as no access stands before them. -/
theorem witness_mma :
    (let full := [({ courier := 7, bytes := List.replicate 64 1 } : FifoSeg)]
      let n := panelBytes .f64 false / 64
      let ln := tile0 fun t => { t with fifoA := (List.replicate n full).flatten, fifoB := (List.replicate n full).flatten
                                        banks := List.replicate 4 { bytes := [], defined := true } };
      [(0xC0, 0), (0xC1, 3)].all fun p =>
        let x := site p.1 (nr .f64 .dyad p.2 3 2 5 true) (tok 0 [9]) (some (tok 1 [0])) ln
        sees x fun c =>
          let t := tileOf c.l 0
          let g := newGroup x.s
          let mine := fun k l => { unitBy g.1 c.f g.2 k l with hb := unionNat (firingHb c.f) (chainGroups c.l c.f) }
          decide (panelBytes .f64 false ≤ (fifoBytes t.fifoA).length ∧ panelBytes .f64 false ≤ (fifoBytes t.fifoB).length ∧
            (bankOf t 3).defined = true ∧ c.l.rcd.arithen = 0) &&
          (checkAccesses g.1 0 [mine .write (locAcc 3), mine .write locFifoA, mine .write locFifoB]).isOk &&
          (outBoth c c.f.a.lanes false false [g.2]).isOk) = true := by decide +kernel

/-- TensorFiringsAreQueuedAndRun: ACCRD of two rows runs. -/
theorem witness_accrd :
    (let defd := tile0 fun t => { t with banks := t.banks.set 0 { bytes := [(3, 0x40)], defined := true } }
      let mine := fun (g : State × Nat) (c : Ctx) k l => { unitBy g.1 c.f g.2 k l with hb := unionNat (firingHb c.f) (chainGroups c.l c.f) };
      starts (site 0xC2 (nr .f32 .mono 0 0x0100 2 5) (tok 0 [9]) none defd) (fun s c =>
        let g := newGroup s
        let toks := accrdTokensOf c (bankOf (tileOf c.l 0) 0)
        match checkAccesses g.1 0 [mine g c .read (locAcc 0)], accrdOut c (toks.map (accrdLanes .f32)) false [g.2] with
        | .ok sx, .ok es => some (completed sx c es (allFlags (toks.flatMap fun t => t.map fun x => (0, x.2.1))))
        | _, _ => none)) = true := by decide +kernel

/-- TensorFiringsAreQueuedAndRun: ACCZ runs. -/
theorem witness_accz :
    (let mine := fun (g : State × Nat) (c : Ctx) k l => { unitBy g.1 c.f g.2 k l with hb := unionNat (firingHb c.f) (chainGroups c.l c.f) };
      starts (site 0xC3 (nr .i32 .mono 0 3 2 5) (tok 0 [9])) (fun s c =>
        let g := newGroup s
        match checkAccesses g.1 0 [mine g c .write (locAcc 3)], outBoth c [9] false false [g.2] with
        | .ok sx, .ok es => some (completed (modLaunch sx 0 fun l => modTile l 0 fun t =>
            { t with banks := t.banks.set 3 { bytes := [], defined := true } }) c es 0)
        | _, _ => none)) = true := by decide +kernel

/-- TensorFiringsAreQueuedAndRun: FSKIP runs. -/
theorem witness_fskip :
    (let two := [({ courier := 7, bytes := List.replicate 4096 1 } : FifoSeg), ({ courier := 8, bytes := [2, 3] } : FifoSeg)]
      let mine := fun (g : State × Nat) (c : Ctx) k l => { unitBy g.1 c.f g.2 k l with hb := unionNat (firingHb c.f) (chainGroups c.l c.f) };
      starts (site 0xC4 (nr .f32 .mono 1 0 2 5) (tok 0 [9]) none (tile0 fun t => { t with fifoA := two })) (fun s c =>
        let g := newGroup s
        match checkAccesses g.1 0 [mine g c .write locFifoA], outBoth c [9] false false [g.2] with
        | .ok sx, .ok es => if panelBytes .f32 false ≤ 4098 then some (completed (popFifos sx c true false (panelBytes .f32 false) g.2) c es 0) else none
        | _, _ => none)) = true := by decide +kernel

/-- TensorFiringsAreQueuedAndRun: an MMAZ without its panels traps. -/
theorem witness_mma_missing :
    (starts (site 0xC1 (nr .bf16 .dyad 0 0 2 5 true) (tok 0 [9]) (some (tok 1 [0]))) (fun s c => some (trapFiring s c.f ⟨0x0D, 0, 0⟩))) = true := by decide +kernel

/-- TensorFiringsAreQueuedAndRun: ACCRD of an undefined bank traps. -/
theorem witness_bank_undefined :
    (starts (site 0xC2 (nr .f32 .mono 0 0 2 5) (tok 0 [9])) (fun s c => some (trapFiring s c.f ⟨0x08, 1, 0⟩))) = true := by decide +kernel

/-- CornerTurnsTransposePanels: a panel of 2 by 2 elements of 2 bytes. -/
theorem witness_transposed : (transposed 2 2 [1, 2, 3, 4, 5, 6, 7, 8] == [1, 2, 5, 6, 3, 4, 7, 8]) = true := by decide +kernel

/-- Where no launch has an access recorded, accesses meet no race. -/
theorem checkAccesses_empty (s : State) (slot : Nat) (xs : List Access) (h : s.launches.all (fun l => l.accesses.isEmpty) = true) :
    (checkAccesses s slot xs).isOk = true := by
  have none : ∀ f ys, (∀ x, f x = []) → firstRace f ys = .none := fun f ys hf => by induction ys <;> simp_all [firstRace, leastBy]
  have pool : ∀ l x, findLaunch s slot = some l → accessPool s l x = [] := fun l x hl => by
    have := List.mem_of_find?_eq_some hl
    simp_all [accessPool]
  unfold checkAccesses
  split
  · rfl
  · next l e => simp [none _ _ (fun x => pool l x e), Except.isOk, Except.toBool]

/-- FunctionUnitsComplete, CornerTurnsTransposePanels: CORNER and LUT_LOAD at the end of SRAM meet their hypotheses (their accesses race with nothing, by
`checkAccesses_empty`); misaligned offsets, panels past the limit and a single lane trap. -/
theorem witness_corner :
    (let sram : Policy := (specOf 0)
      let none2 := fun (x : Site) (c : Ctx) => let g := newGroup x.s
        g.1.launches.all (fun l => l.accesses.isEmpty) && (outBoth c c.f.a.lanes false false [g.2]).isOk
      let cx := site 0xC5 (nr .bf16 .mono 0 0 2 5) (tok 0 [0, 0x3FE000])
      let lx := site 0xC7 (nr .f32 .mono 16 15 2 5) (tok 0 [0x3FF800]);
      meets cx sram (fun _ c => none2 cx c && !badRange (tileOf c.l 0) 0 8192 && decide (0x3FE000 + 64 * 64 * 2 ≤ sramLimit c.l.man)) &&
      meets lx sram (fun _ c => none2 lx c && !badRange (tileOf c.l 0) 0x3FF800 2048 && decide (0x3FF800 + 2048 ≤ sramLimit c.l.man)) &&
      trapsWith (site 0xC5 (nr .bf16 .mono) (tok 0 [63, 0])) sram .corner ⟨0x0E, 0, 0⟩ &&
      trapsWith (site 0xC5 (nr .bf16 .mono) (tok 0 [0, 1])) sram .corner ⟨0x0E, 0, 1⟩ &&
      trapsWith (site 0xC5 (nr .bf16 .mono) (tok 0 [0x3FE040, 0])) sram .corner ⟨0x08, 0, 0⟩ &&
      trapsWith (site 0xC5 (nr .bf16 .mono) (tok 0 [0x3FE000, 0x3FE040])) sram .corner ⟨0x08, 0, 1⟩ &&
      trapsWith (site 0xC5 (nr .bf16 .mono) (tok 0 [0])) sram .corner ⟨0x04, 2, 0⟩ &&
      trapsWith (site 0xC7 (nr .f32 .mono 16 15) (tok 0 [1])) sram .lutLoad ⟨0x0E, 0, 0⟩) = true := by decide +kernel

/-- FunctionUnitsComplete: RANGE; LUT of a defined table and of an undefined one. -/
theorem witness_units :
    (let lut := tile0 fun t => { t with luts := t.luts.set 5 { bytes := memOfBytes 0 [0, 0, 0x80, 0x3F], defined := true } }
      let lx := fun ln => site 0xC7 (nr .f32 .mono 0 5 2 5) (tok 0 [0x3FC00000, 0x40000000]) none ln;
      does (site 0xC6 (nr .f32 .mono 0 0 2 5) (tok 0 [0x3F800000])) plain .range (fun s c =>
        let o := rangeElem (fmtOrF32 .f32) 0 0 false (decodeVal (fmtOrF32 .f32) 0x3F800000) .rne (rsrBits (rsrSeed 0 0 0 0) 0)
        gives true s (outAppend (outPorts c [0] (packElems .f32 [o.1]) .same false false [])
          (outPorts c [1] (packElems .i32 [ofInt 32 o.2.1]) .same false false [])) o.2.2) &&
      does (lx lut) plain .lut (fun s c =>
        let g := newGroup s
        match checkAccesses g.1 0 [unitBy g.1 c.f g.2 .read (locLut 0 5)] with
        | .error _ => none
        | .ok sx =>
          let f := fmtOrF32 .f32
          let tb := (tileOf c.l 0).luts.getD 5 { bytes := [], defined := false }
          let outs := c.f.a.lanes.map fun x =>
            let v := decodeVal f x.toNat
            let co := fun k => decodeVal f (readNat tb.bytes (4 * k) 4)
            fFma f (co (2 * lutEntry v)) v (co (2 * lutEntry v + 1)) .rne 0
          gives (lutIndex c == 5) sx (outBoth c (packElems .f32 (outs.map (·.1))) false false [g.2]) (allFlags (outs.mapIdx fun e o => (e, o.2)))) &&
      trapsWith (lx id) plain .lut ⟨0x08, 1, 0⟩) = true := by decide +kernel

/-- ExactSumInstructionsComplete: each form once, XSEND to the last tile and past it, and its arrival. -/
theorem witness_exact_sums :
    (let p := unitPolicy false
      let mine := fun (g : State × Nat) (c : Ctx) k l => unitBy g.1 c.f g.2 k l
      let one : Xacc := { v := 1 <<< 2176, nan := false, pinf := false, ninf := false }
      let with3 := tile0 fun t => setXacc t 3 one;
      does (site 0xC8 (nr .f32 .dyad 0 3 2 5) (tok 0 [0x3F800000, 0x40000000]) (some (tok 1 [0x40000000, 0x3F800000]))) p .reduce (fun s c =>
        let g := newGroup s
        let x := xaccTerms .f32 c.f.a.lanes (bLanes c) true fun _ => true
        match checkAccesses g.1 0 [mine g c (.cls 0) (locXacc 3)] with
        | .error _ => none
        | .ok sx => gives true (modFTile sx c.f fun t => setXacc t 3 (addToXacc t 3 x.1)) (outBoth c c.f.a.lanes false false [g.2]) (allFlags x.2)) &&
      does (site 0xC9 (nr .f32 .mono 0 3 2 5) (tok 0 [9, 8]) none with3) (unitPolicy true) .xread (fun s c =>
        let g := newGroup s
        match checkAccesses g.1 0 [mine g c .read (locXacc 3)] with
        | .error _ => none
        | .ok sx => gives true sx (outBoth c [0x3F800000, 0x3F800000] false false [g.2])) &&
      trapsWith (site 0xCA (nr .i32 .mono 0 (8 <<< 4) 2 5) (tok 0 [9])) p .xsend ⟨0x08, 2, 0⟩ &&
      does (site 0xCB (nr .i32 .mono 0 0xC 2 5) (tok 0 [9]) none with3) p .xmerge (fun s c =>
        let g := newGroup s
        match checkAccesses g.1 0 [mine g c .read (locXacc 3), mine g c (.cls 0) (locXacc 0)] with
        | .error _ => none
        | .ok sx => gives true (modFTile sx c.f fun t => setXacc t 0 (addToXacc t 0 (xaccOf t 3))) (outBoth c [9] false false [g.2])) &&
      does (site 0xCC (nr .i32 .mono 0 3 2 5) (tok 0 [9]) none with3) p .xclr (fun s c =>
        let g := newGroup s
        match checkAccesses g.1 0 [mine g c .write (locXacc 3)] with
        | .error _ => none
        | .ok sx => gives true (modFTile sx c.f fun t => setXacc t 3 { v := 0, nan := false, pinf := false, ninf := false }) (outBoth c [9] false false [g.2])) &&
      does (site 0xD2 (nr .i32 .mono 0 0x3FF 2 5) (tok 0 [9])) (specOf 4) .decodetab (fun s c =>
        let g := newGroup s
        match checkAccesses g.1 0 (c.l.couriers.map fun q => { mine g c .write (locSlot 3) with place := courierPlace q.node }) with
        | .error _ => none
        | .ok sx => gives true (modLaunch sx 0 fun l => { l with couriers := l.couriers.map fun q => { q with slots := q.slots.set 3 (some 255) } })
            (outBoth c [9] false false [g.2]))) = true := by decide +kernel

/-- ExactSumInstructionsComplete: XSEND of register 3 to register 1 of tile 7, then its arrival there. -/
theorem witness_xsend :
    (let x := site 0xCA (nr .i32 .mono 0 (7 <<< 4 ||| 0x7) 2 5) (tok 0 [9]) none (tile0 fun t => setXacc t 3 { v := 5, nan := false, pinf := false, ninf := false });
      sees x fun c =>
        let g := newGroup x.s
        match checkAccesses g.1 0 [unitBy g.1 c.f g.2 .read (locXacc 3)] with
        | .error _ => false
        | .ok sx =>
          let s1 := push (modLaunch { sx with nextId := sx.nextId + 1 } 0 fun l =>
            { l with cargo := [(sx.nextId, .xsend c.f 1 7 (xaccOf (tileOf c.l 0) 3) [g.2] [])] })
            (messageChan 0 0 0 7) (.xsendArrival 0 sx.nextId)
          decide (fires x.s c (unitPolicy false)) && nextIs (exec (.xsend c.r) x.s) s1 &&
          match takeCargo s1 0 sx.nextId with
          | some (s0, l, .xsend f reg vt v [g1] hb) => recOf l f == some x.r &&
            match ctxOf s0 f x.r, checkAccesses s0 0 [{ unitBy s0 f g1 (.cls 0) (locXacc reg) with place := vt }] with
            | some c1, .ok sy => hb == [] && match outBoth c1 f.a.lanes false false [g1] with
              | .ok es => nextIs (exec (.xsendArrival 0 sx.nextId) s1)
                  (completed (modLaunch sy 0 fun l => modTile l vt fun t => setXacc t reg (addToXacc t reg v)) c1 es 0)
              | .error _ => false
            | _, _ => false
          | _ => false) = true := by decide +kernel

/-- The literal of a memory record of no chain. -/
def noWave : BitVec 32 := 0x3FFFFFFF

/-- The literal of a memory record with predecessor none (0x3FE), wave 0x3FD and successor none. -/
def waved : BitVec 32 := 0x3FEFF7FE

/-- TileFormsComplete: each form on the last words of SRAM, in a chain, misaligned, and past the limit,
at its first unit and at its second. -/
theorem witness_tile_forms :
    (let sram : Policy := (specOf 0)
      let forms := [(0xA0, Instr.ldt, (fun _ => .read : Ctx → ReqOp), (0 : BitVec 5)), (0xA1, .stt, fun _ => .write, 0),
        (0xA4, .atomp, fun c => .atomP (low 3 c.r.modx.toNat), 5), (0xA5, .atomr, fun c => .atomR (low 3 c.r.modx.toNat), 6),
        (0xA6, .casr, fun _ => .cas, 0)]
      let addrs := fun (op : ReqOp) c => if op = .cas then (tileOffsets op c).take 1 else tileOffsets op c
      let b := some (tok 1 [7, 6])
      let req := fun (s : State) (c : Ctx) (op : ReqOp) => newReq s c op .sram (addrs op c) 4 (bLanes c) true false;
      forms.all fun p =>
        let x := fun (o : Lane) (lit : BitVec 32) => site p.1 (nr .u32 .dyad p.2.2.2 lit 2 5) (tok 0 [o, 0x3FFFF8]) b
          (tile0 fun t => writeSram t 0x3FFFF8 [1, 0, 0, 0, 2])
        does (x 0x3FFFFC noWave) sram p.2.1 (fun s c =>
          let op := p.2.2.1 c
          let q := req s c op
          let g := newGroup s
          let r := tileUnits .u32 q (tileOf c.l 0) 0 (addrs op c)
          match checkAccesses g.1 0 (tileAccesses g.1 c q g.2) with
          | .error _ => none
          | .ok sx => gives ((tileTrap c 4 (addrs op c)).isNone && waveNum c.r == 0x3FF && (tileBad (tileOf c.l 0) q).isNone)
              (dropReq (modFTile sx c.f fun _ => r.1) 0 q.id) (reqOut c q r.2 [g.2])) &&
        goes (x 0x3FFFFC waved) sram p.2.1 (fun c => waveNum c.r != 0x3FF && (outputTrap c 0).isNone)
          (fun s c => acceptReq s 0 (req s c (p.2.2.1 c))) &&
        trapsWith (x 0x3FFFFE noWave) sram p.2.1 ⟨0x0E, 0, 0⟩ &&
        trapsWith (x 0x400000 noWave) sram p.2.1 ⟨0x08, 0, 0⟩ &&
        (p.1 == 0xA6 || [(0x3FFFFE, 0x0E), (0x400000, 0x08)].all fun e =>
          trapsWith (site p.1 (nr .u32 .dyad p.2.2.2 noWave 2 5) (tok 0 [0x3FFFF8, e.1]) b) sram p.2.1 ⟨e.2, 0, 1⟩)) = true := by decide +kernel

/-- TileUnitsReadAndWrite: two disjoint units of 8 bytes, and what a store leaves at the second. -/
theorem witness_tile_units :
    (let t := writeSram (emptyTile 0) 0 [1, 2, 3, 4]
      let q : Req := { id := 0, op := .write, firing := benchFiring false, space := .sram, addrs := [8, 0], unit := 8, data := [1, 2, 3, 4]
                       pred := 0x3FF, wave := 0x3FF, succ := 0x3FF, state := .buffered, emitted := false, hb := [] }
      let r := tileUnits .u64 q t 0 q.addrs;
      decide (q.addrs.Pairwise fun a b => a + q.unit ≤ b ∨ b + q.unit ≤ a) && readNat r.1.sram 0 8 == 0x400000003 &&
        r.2 == [0, 0x04030201] && readByte r.1.sram 16 == 0) = true := by decide +kernel

/-- TileStoreFrame, ProgramsKeepTheMachineOutsideTheirLaunch: LDT and STT answer a next state that keeps what is outside. -/
theorem witness_store_frame :
    ([(0xA0, Instr.ldt), (0xA1, .stt)].all fun p =>
      let x := site p.1 (nr .u32 .dyad 0 noWave 2 5) (tok 0 [0x3FFFFC]) (some (tok 1 [7]))
      sees x fun c => match exec (p.2 c.r) x.s with
        | .next t => decide (outside t = outside x.s) && (findLaunch t 0).any fun l => readByte (tileOf l 0).sram 0x3FFFFB == 0 &&
            readByte (tileOf l 0).sram 0x3FFFFC == (if p.1 == 0xA1 then 7 else 0)
        | _ => false) = true := by decide +kernel

/-- A firing under its policy whose request is accepted. -/
def handsOver (x : Site) (p : Policy) (i : NodeRec → Instr) (q : State → Ctx → Req) : Bool :=
  goes x p i (fun c => (outputTrap c 0).isNone) fun s c => acceptReq s 0 (q s c)

/-- A firing under its policy whose request is accepted and whose token leaves at once. -/
def leaves (x : Site) (p : Policy) (i : NodeRec → Instr) (q : State → Ctx → Req) : Bool :=
  does x p i fun s c => gives true (acceptReq s 0 { q s c with emitted := true }) (outBoth c [0] false false [])

/-- DeviceFormsHandTheirRequests: loads of device and host memory, stores with and without DONEF, GATHER, SCATTER, DONE. -/
theorem witness_device_forms :
    (let dev := plain
      let host : Policy := (specOf 2)
      let a := tok 0 [0xFFFFFFF8, 0x7FFFF]
      let base := 0x7FFFFFFFFFFF8
      let b := some (tok 1 [7, 6])
      let rd := fun sp as (s : State) (c : Ctx) => newReq s c .read sp as 4 [] true false
      let wr := fun as (s : State) (c : Ctx) => newReq s c .write .device as 4 (bLanes c) true false;
      handsOver (site 0xA2 (nr .f32 .mono 1 noWave 2 5) a) dev .ldm (rd .device [base, base + 4]) &&
      handsOver (site 0xA2 (nr .f32 .mono 0 0x7FFFFFFF 2 5) a) host .ldm (rd .host [base]) &&
      handsOver (site 0xA8 (nr .f32 .mono 0 noWave 2 5) (tok 0 [4, 1, 8, 0])) dev .gather (rd .device [0x100000004, 8]) &&
      leaves (site 0xA3 (nr .f32 .dyad 0 noWave 2 5) a b) dev .stm (wr [base, base + 4]) &&
      handsOver (site 0xA3 (nr .f32 .dyad 12 noWave 2 5) a b) dev .stm (wr [base, base + 4]) &&
      leaves (site 0xA9 (nr .f32 .dyad 0 noWave 2 5) a (some (tok 1 [7]))) dev .scatter (wr [base]) &&
      handsOver (site 0xA9 (nr .f32 .dyad 8 noWave 2 5) a (some (tok 1 [7]))) dev .scatter (wr [base]) &&
      handsOver (site 0xA7 (nr .i32 .mono 4 waved 2 5) (tok 0 [7])) dev .done (fun s c => newReq s c .done .device [] 4 [] true false) &&
      trapsWith (site 0xA2 (nr .f32 .mono 1 noWave) (tok 0 [7])) dev .ldm ⟨0x04, 2, 0⟩ &&
      trapsWith (site 0xA3 (nr .f32 .dyad 0 noWave) (tok 0 [7]) b) dev .stm ⟨0x04, 2, 0⟩) = true := by decide +kernel

/-- DeviceFormsHandTheirRequests: ATOMP with and without DONEF, ATOMR, CASR in device memory. -/
theorem witness_device_atomics :
    (let at1 := fun op (s : State) (c : Ctx) => newReq s c op .device [0x100000008] 4 (bLanes c) true false
      let x := fun opc m => site opc (nr .u32 .dyad m noWave 2 5) (tok 0 [8, 1]) (some (tok 1 [7, 6]));
      leaves (x 0xA4 21) plain .atomp (at1 (.atomP 5)) && handsOver (x 0xA4 29) plain .atomp (at1 (.atomP 5)) &&
      handsOver (x 0xA5 22) plain .atomr (at1 (.atomR 6)) && handsOver (x 0xA6 16) plain .casr (at1 .cas)) = true := by decide +kernel

/-- The root frame as a task that runs speculatively. -/
def asTask (s : State) : State := root0 (fun f => { f with kind := .task, state := .taskSpec }) s

/-- SemaphoreNodesHandTheirRequests: a host and a device semaphore, and every trap. -/
theorem witness_semaphore_nodes :
    (let p : Policy := (specOf 3);
      [(0xB9, Instr.semsig, (fun c => if bit c.r.modx.toNat 3 then .semAdd else .semSet : Ctx → ReqOp)), (0xBA, .semwait, fun _ => .semWait)].all fun i =>
        let m : BitVec 5 := if i.1 == 0xB9 then 12 else 0
        let b := some (tok 1 [7, 6])
        let x := fun (lo hi : Lane) => site i.1 (nr .i32 .dyad m 0 2 5) (tok 0 [lo, hi]) b
        let t := site i.1 (nr .i32 .dyad m 0 2 5) (tok 0 [8, 0]) b id asTask
        handsOver (x 0xFFFFFFF8 0x800FFFFF) p i.2.1 (fun s c => newReq s c (i.2.2 c) .host [0xFFFFFFFFFFFF8] 8 (bLanes c) false false) &&
        handsOver (x 8 0) p i.2.1 (fun s c => newReq s c (i.2.2 c) .device [8] 8 (bLanes c) false false) &&
        trapsWith (site i.1 (nr .i32 .dyad m 0 2 5) (tok 0 [8]) b) p i.2.1 ⟨0x04, 2, 0⟩ &&
        trapsWith (x 8 0x100000) p i.2.1 ⟨0x08, 4, 0⟩ && trapsWith (x 4 0) p i.2.1 ⟨0x0E, 0, 0⟩ &&
        sees t fun c => decide (issued t.s c p) && speculative t.s 0 && nextIs (exec (i.2.1 c.r) t.s) (trapFiring t.s c.f ⟨0x0B, 3, 0⟩)) = true := by
  decide +kernel

/-- A request of the site's firing, in its launch, in a machine with 1 MiB of working memory whose first device page and first
host page are translated; no unit is issued. -/
def asked (x : Site) (op : ReqOp) (st : ReqState) (addrs : List Nat) (unit : Nat) (data : List Lane) (host : Bool := false)
    (wave : Nat := 0x3FF) (emitted : Bool := false) : State × Req :=
  let q : Req := { id := 9, op, firing := x.f, space := if host then .host else .device, addrs, unit, data, pred := wave
                   wave, succ := wave, state := st, emitted, hb := [] }
  let es : List (Nat × TlbEntry) := [(0, ⟨false, 0, 0, 0, 0, true, true⟩), (0, ⟨true, 0, 5, 0, 0, true, true⟩)]
  let s := modLaunch { x.s with issue := .none, nextId := 10, dieTlb := es, tileTlb := es } 0
    fun l => { l with reqs := [q], rcd := { l.rcd with pasid := 5, pasidv := true } }
  ({ s with cfg := { s.cfg with memBytes := 0x100000 }, mem := [(0x40, 5)], bus := [(0x40, 5)] }, q)

/-- What a request's event sees. -/
def atReq (x : Site) (p : State × Req) (g : State → Req → Launch → Ctx → Bool) : Bool :=
  match findLaunch p.1 0 with
  | none => false
  | some l => findReq l 9 == some p.2 && recOf l p.2.firing == some x.r &&
    match reqCtx p.1 p.2.firing x.r with
    | none => false
    | some c => g p.1 p.2 l c

/-- RequestsIssueAndPerform: a buffered load and a DONE issue; a performed chain member is announced. -/
theorem witness_issue :
    (let x := site 0xA2 (nr .f32 .mono 0 noWave 2 5) (tok 0 [0x40, 0])
      let d := site 0xA7 (nr .i32 .mono 0 waved 2 5) (tok 0 [7]);
      atReq x (asked x .read .buffered [0x40] 4 []) (fun s q l _ => match waveReady l q with
        | some hb => nextIs (exec (.waveIssue 0 9) s) (pushAlone (setReq s 0 { q with state := .issued, hb }) (.memoryPerform 0 9))
        | none => false) &&
      atReq d (asked d .done .buffered [] 4 [] false 0x3FE) (fun s q l c => match waveReady l q, outBoth c c.f.a.lanes false false [] with
        | some hb, .ok es => (rateTrap c es 0).isNone &&
          nextIs (exec (.waveIssue 0 9) s) (completed (markPerformed s 0 { q with hb } (unionNat (firingHb c.f) hb)) c es 0)
        | _, _ => false) &&
      atReq d (asked d .done .performed [] 4 [] false 0x3FD) (fun s q _ _ => nextIs (exec (.performedNotice 0 9) s)
        (modLaunch s 0 fun l => { l with reqs := [], performed := [{ fh := 0, tag := 0, fill := 0, wave := 0x3FD, succ := 0x3FD, acc := q.hb }] }))) = true := by
  decide +kernel

/-- RequestsIssueAndPerform: a load and two stores perform; a page not cached; a misaligned unit; a host wait that is short. -/
theorem witness_perform :
    (let x := site 0xA2 (nr .f32 .mono 0 noWave 2 5) (tok 0 [0x40, 0])
      let w := site 0xA3 (nr .f32 .dyad 0 noWave 2 5) (tok 0 [0x40, 0]) (some (tok 1 [0x3F800000]))
      let v := site 0xBA (nr .i32 .dyad 0 0 2 5) (tok 0 [0x40, 0]) (some (tok 1 [6, 0]))
      let ready := fun (g : State → Req → Ctx → State → Nat → Bool) (s : State) (q : Req) (l : Launch) (c : Ctx) =>
        checkUnits s l (portOf l q.firing) (q.space == .host) false (needOf q.op) q.unit (unitLane c.r.type) 0 q.addrs == .ok [0x40] &&
        decide (fillTile s l (portOf l q.firing) (q.space == .host) q.addrs = s) &&
        (taskFrame s c.f).isNone && !semShort s q [0x40] && lostLine s [0x40] q.unit == none &&
        match checkAccesses (newGroup s).1 0 (reqAccesses (newGroup s).1 l c.r.type q (newGroup s).2 [0x40]) with
        | .ok sx => g s q c sx (newGroup s).2
        | .error _ => false
      let store := fun (sx : State) (q : Req) (c : Ctx) g => markPerformed (writeSpace sx 0 false 0x40 4 0x3F800000) 0 q (unionNat (firingHb c.f) [g]);
      atReq x (asked x .read .issued [0x40] 4 []) (ready fun s q c sx g => match outBoth c [5] false false [g] with
        | .ok es => nextIs (exec (.memoryPerform 0 9) s) (completed (markPerformed sx 0 q (unionNat (firingHb c.f) [g])) c es 0)
        | .error _ => false) &&
      atReq w (asked w .write .issued [0x40] 4 [0x3F800000] false 0x3FF true) (ready fun s q c sx g =>
        nextIs (exec (.memoryPerform 0 9) s) (store sx q c g)) &&
      atReq w (asked w .write .issued [0x40] 4 [0x3F800000]) (ready fun s q c sx g => match outBoth c [0] false false [g] with
        | .ok es => nextIs (exec (.memoryPerform 0 9) s) (completed (store sx q c g) c es 0)
        | .error _ => false) &&
      atReq x (asked x .read .issued [0x10000] 4 []) (fun s q _ _ =>
        nextIs (exec (.memoryPerform 0 9) s) (pushAlone (parkReq s 0 q .walking) (.walkComplete 0 9))) &&
      atReq x (asked x .read .issued [0x42] 4 []) (fun s q _ _ => nextIs (exec (.memoryPerform 0 9) s) (trapReq s 0 q ⟨0x0E, 0, 0⟩)) &&
      atReq v (asked v .semWait .waiting [0x40] 8 [6, 0] true) (fun s q l _ =>
        checkUnits s l (portOf l q.firing) true false (needOf q.op) 8 (unitLane .i32) 0 q.addrs == .ok [0x40] && decide (readNat s.bus 0x40 8 < 6) &&
        nextIs (exec (.semwaitHostPoll 0 9) s) (setReq s 0 { q with state := .waiting })) &&
      atReq v (asked v .semWait .issued [0x40] 8 [6, 0]) (fun s q _ _ => readNat s.mem 0x40 8 == 5 &&
        nextIs (exec (.memoryPerform 0 9) s) (setReq s 0 { q with state := .waiting, places := [0x40] }))) = true := by decide +kernel

/-- SemaphoreWaitsEnd, DeviceMemoryFrame: a wait at its very target in device and in host memory, a set and an add that wraps. -/
theorem witness_semaphores :
    (let wx := site 0xBA (nr .i32 .dyad 0 0 2 5) (tok 0 [0x40, 0]) (some (tok 1 [5, 0]))
      let sx := fun m => site 0xB9 (nr .i32 .dyad m 0 2 5) (tok 0 [0x40, 0]) (some (tok 1 [0xFFFFFFFF, 0xFFFFFFFF]))
      let go := fun (x : Site) (p : State × Req) (i : Instr) (got : State → Req → List Nat) (f : State → Req → Ctx → Nat → State) =>
        atReq x p fun s q l c =>
          let g := newGroup s
          checkUnits s l (portOf l q.firing) (q.space == .host) false (needOf q.op) 8 (unitLane c.r.type) 0 q.addrs == .ok [0x40] && !q.emitted && q.unit == 8 &&
          (taskFrame s c.f).isNone && match checkAccesses g.1 0 (reqAccesses g.1 l c.r.type { q with hb := got s q } g.2 [0x40]) with
          | .error _ => false
          | .ok s1 =>
            match outBoth c [0] false false (got s q) with
            | .ok es => nextIs (exec i s) (completed (markPerformed (f s1 q c g.2) 0 { q with hb := got s q }
                (unionNat (firingHb c.f) (unionNat (got s q) [g.2]))) c es 0)
            | .error _ => false
      let got := fun (s : State) (q : Req) => unionNat q.hb (acquired s (q.space == .host) 0x40 (some ⟨0, some 0⟩))
      let wait := fun (sx : State) (_ : Req) (_ : Ctx) (_ : Nat) => sx
      let sig := fun (isSet : Bool) (v : Nat) (sx : State) (q : Req) (c : Ctx) g => addSignal (writeSpace sx 0 false 0x40 8 v)
        { host := false, addr := 0x40, isSet, scope := recScope c.r, port := some ⟨0, some 0⟩, hb := unionNat (unionNat (firingHb c.f) q.hb) [g] };
      go wx (asked wx .semWait .issued [0x40] 8 [5, 0]) (.memoryPerform 0 9) got wait &&
      go wx (asked wx .semWait .waiting [0x40] 8 [5, 0] true) (.semwaitHostPoll 0 9) got wait &&
      go (sx 4) (asked (sx 4) .semSet .issued [0x40] 8 [0xFFFFFFFF, 0xFFFFFFFF]) (.memoryPerform 0 9) (fun _ q => q.hb) (sig true (2 ^ 64 - 1)) &&
      go (sx 12) (asked (sx 12) .semAdd .issued [0x40] 8 [0xFFFFFFFF, 0xFFFFFFFF]) (.memoryPerform 0 9) (fun _ q => q.hb) (sig false 4)) = true := by
  decide +kernel

/-- TranslationsArriveAndLeave: a walk ends, and no walk; each answer to a waiting host read; a failed page request; an
invalidation over. -/
theorem witness_translations :
    (let x := site 0xA2 (nr .f32 .mono 0 noWave 2 5) (tok 0 [0x40, 0])
      let p := asked x .read .walking [0x40] 4 []
      let h := (asked x .read .walking [0x1040] 4 [] true).1
      let sp : HostSpace := ⟨0, 5⟩
      let e1 : List (Nat × TlbEntry) := [(0, ⟨true, 0, 5, 1, 7, true, true⟩)]
      let v : Inval := { id := 3, scope := .pasid 5 0 0x1000, waits := [], queue := none }
      let s := { p.1 with pages := [(0, 7, 1)], invals := [v] };
      (findLaunch p.1 0).any (fun l => nextIs (exec (.walkComplete 0 9) p.1) (remake (walkPages p.1 (portOf l x.f) 0 [0x40]) 0 p.2 true)) &&
      nextIs (exec (.walkComplete 0 8) p.1) p.1 && (findLaunch h 0).any (fun l => !(pageWaiters h l .walking (0, 5, 1)).isEmpty) &&
      (match exec (.atsAnswer sp 1 .notPresent) h, exec (.atsAnswer sp 1 .refused) h with
        | .next t, .next u => t.pages == [(0, 5, 1)] && (findLaunch t 0).any (fun l => l.reqs.all fun q => q.state == .paging) &&
            (findLaunch u 0).any (fun l => l.phase == .ended && l.code == 0x07 && l.detail == 6) &&
            match exec (.priResponse sp 1 false) t, exec (.priResponse sp 1 true) t, exec (.priResponse sp 1 true) { t with dieTlb := e1, tileTlb := e1 } with
            | .next a, .next b, .next c => (findLaunch a 0).any (fun l => l.detail == 5) && (findLaunch b 0).any (fun l => l.reqs.all fun q => q.state == .walking) &&
                (findLaunch c 0).any (fun l => l.reqs.all fun q => q.state == .issued)
            | _, _, _ => false
        | _, _ => false) &&
      courierWaiters s (0, 5, 1) == [] && copyWaiters s (0, 5, 1) == [] && invalDone s v && s.invals.find? (fun x => x.id == 3) == some v &&
      nextIs (exec (.invalidationComplete 3) s) { s with invals := [] } && nextIs (exec (.invalidationComplete 4) s) s &&
      (match exec (.invalidation 6 ⟨.part 0 0 0x10000, [(0, 1), (0x100000, 1)]⟩) s with
      | .next t => t.dieTlb == [(0, ⟨true, 0, 5, 0, 0, true, true⟩)] && readByte t.mem 0 == 1 && readByte t.mem 0x100000 == 0 && t.invals.map (·.id) == [3, 6]
      | _ => false)) = true := by decide +kernel


/-- The root frame as a task that runs speculatively. -/
def asTask5 (s : State) : State := root0 (fun f => { f with kind := .task, state := .taskSpec }) s

/-- BarrierInstructionsComplete: BARINIT, ARRIVE by COUNT and by lane 0 and of a dead letter, WAITCNT at its phase with and
without a poison, held before it, and BARINIT's trap. -/
theorem witness_barriers :
    (let p : Policy := (specOf 3)
      let by1 := fun (g : State × Nat) (c : Ctx) (k : AccKind) => barrierBy g.1 c.f g.2 0 k 0xFFFF
      let bar := fun (ws : List Nat) => tile0 fun t => writeSram t 0x3FFFC0 (ws.flatMap fun w => leBytes 4 w)
      let ar := fun (lit : BitVec 32) (a : Token) => site 0xB4 (nr .i32 .mono 0 lit 2 5) a none (bar [256, 128])
      let arrived := fun (s : State) (c : Ctx) (n : Nat) (poison : Option Nat) => match
          arrival c.l (tileOf c.l 0) 0xFFFF n poison (unionNat (firingHb c.f) [(newGroup s).2]),
          checkAccesses (newGroup s).1 0 [by1 (newGroup s) c addClass] with
        | .ok t, .ok sx => some (modFTile sx c.f fun _ => t)
        | _, _ => none
      let sent := fun (s : State) (c : Ctx) (n : Nat) => match arrived s c n none with
        | some t => gives true t (outBoth c c.f.a.lanes false false [(newGroup s).2])
        | none => none
      let wx := fun (ws : List Nat) (q : Lane) => site 0xB5 (nr .i32 .dyad 0 0xFFFF 2 5) (tok 0 [9, 8]) (some (tok 1 [q])) (bar ws)
      let waits := fun (ok : Bool) (s : State) (c : Ctx) (out : Except Trap (List Emission)) =>
        match checkAccesses (newGroup s).1 0 [by1 (newGroup s) c .sync] with
        | .ok s1 => gives (ok && waitDue c.l c.f c.r && waitTarget c.r c.shape c.f.a c.f.b != 0) s1 out
        | .error _ => none
      let dx := ar 0xFFFF (tok 0 [3] 0 0 true);
      does (site 0xB3 (nr .i32 .mono 0 0xFFFF 2 5) (tok 0 [256])) p .barinit (fun s c =>
        match checkAccesses (newGroup s).1 0 [by1 (newGroup s) c .write] with
        | .error _ => none
        | .ok sx => gives true (modFTile sx c.f fun t => { writeSram t 0x3FFFC0 (leBytes 64 256) with barriers := [] })
            (outBoth c [256] false false [])) &&
      trapsWith (site 0xB3 (nr .i32 .mono 0 0xFFFF 2 5) (tok 0 [0])) p .barinit ⟨0x0F, 2, 0⟩ &&
      does (ar 0x80FFFF (tok 0 [9])) p .arrive (fun s c => sent s c 128) && does (ar 0xFFFF (tok 0 [127])) p .arrive (fun s c => sent s c 127) &&
      sees dx (fun c => match arrived dx.s c 0 (some (poisonOf c)), outBoth c (poisonLanes 1 (poisonOf c)) true false [(newGroup dx.s).2] with
        | some t, .ok es => decide (firesDl dx.s c p) && !speculative dx.s 0 && nextIs (exec (.arrive c.r) dx.s) (complete t c es 0)
        | _, _ => false) &&
      does (wx [256, 0, 3] 3) p .waitcnt (fun s c => waits true s c (outBoth c [9, 8] false false [])) &&
      does (wx [256, 0, 3, 2, 6] 2) p .waitcnt (fun s c => waits true s c (outBoth c (poisonLanes 2 6) true false [])) &&
      does (wx [256, 0, 3] 0) p .waitcnt (fun s c => gives (waitTarget c.r c.shape c.f.a c.f.b == 0) s (outBoth c [9, 8] false false [])) &&
      waitsAt (wx [256, 0, 3] 4) p .waitcnt (fun c => !waitDue c.l c.f c.r) &&
      trapsWith (ar 0x81FFFF (tok 0 [9])) p .arrive ⟨0x0F, 0, 0⟩ &&
      (let d := site 0xB4 (nr .i32 .mono 0 0xFFFF 2 5) (tok 0 [3] 0 0 true) none (bar [256, 128]) asTask5
       sees d fun c => decide (firesDl d.s c p) && speculative d.s 0 && nextIs (exec (.arrive c.r) d.s) (trapFiring (counted d.s c p) c.f ⟨0x0B, 3, 0⟩))) = true := by
  decide +kernel

/-- ArrivalsCountTheirBytes: each branch at its boundary. -/
theorem witness_arrivals :
    (let l := benchLaunch (benchManifest [] [] [])
      let t := fun (ws : List Nat) => writeSram (emptyTile 0) 64 (ws.flatMap fun w => leBytes 4 w)
      let at1 := fun ws n p => (arrival l (t ws) 1 n p []).toOption.map fun t1 => (List.range 5).map (barWord t1 1);
      !badRange (t [256, 128]) 64 20 && at1 [0, 0] 0 none == none && at1 [256, 128] 129 none == none &&
      at1 [256, 128, 0xFFFFFFFF] 128 none == none && at1 [256, 128, 0xFFFFFFFE] 128 none == some [256, 0, 0xFFFFFFFF, 0, 0] &&
      at1 [256, 128, 3] 127 (some 7) == some [256, 255, 3, 4, 7] && at1 [256, 128, 3, 5, 1] 0 (some 7) == some [256, 128, 3, 4, 7]) = true := by
  decide +kernel

/-- A letterbox of two slots of 64 bytes at offset 0 of tile 0, with its sequence numbers and the messages written. -/
def box (w r f : BitVec 16) : Letterbox :=
  { wseq := w, rseq := r, fseq := f, arc := 1, slots := 2, slotb := 64, base := 0, valid := true, wrote := [(0xFFFF, [7])] }

/-- The launch with arc 1 of a kind from node 0 to letterbox 0, in a given state, and that letterbox. -/
def withArc (kind : Nat) (b : Letterbox) (bind : ArcBind) (credit : Nat) (l : Launch) : Launch :=
  tile0 (fun t => { t with lbs := t.lbs.set 0 b })
    { l with
      man := { l.man with arcs := [{ arc := 1, kind, src := 0, dst := 0, lb := 0, delay := 3, peer := 0 }] }
      arcs := [{ arc := 1, credit, bind, slots := 2, slotb := 64, peerSlot := 0, peerArc := 1, peerTile := 0, plane := 0, cver := 0, sent := 0, fired := 0, frees := [] }] }

/-- LetterboxInstructionsComplete: SEND with credit, of a task, on no arc, an unbound one and one without credit, after a held
SEND, and each trap: odd lanes, a message past SLOTB, a tag rule that fails, a mismatched and an ended arc. -/
theorem witness_send :
    (let x := fun (n : Nat) (k : Nat) (b : ArcBind) => site 0xB0 (nr .f32 .mono 0 0 2 5 true) (tok 0 (List.replicate n 7)) none
        (withArc 1 (box 0 0 0) b k)
      let y := site 0xB0 (nr .f64 .mono 0 0 2 5 true) (tok 0 [7, 7, 7]) none (withArc 1 (box 0 0 0) .bound 1)
      let z := site 0xB0 (nr .f32 .mono 0 0 2 5 false .iter) (tok 0 [7] 0xF 4) none (fun l => shaped [4] (withArc 1 (box 0 0 0) .bound 1 l))
      let u := site 0xB0 (nr .f32 .mono 0 0 2 5 true) (tok 0 [7]) none (withArc 1 (box 0 0 0) .bound 1) asTask5
      let v := site 0xB0 (nr .f32 .mono 0 0 2 5 true) (tok 0 [7])
      let w := site 0xB0 (nr .f32 .mono 0 0 2 5 true) (tok 0 [7]) none (fun l => tile0
        (fun t => { t with sends := [⟨0, 0, benchFiring false⟩] }) (withArc 1 (box 0 0 0) .bound 1 l))
        (root0 fun f => { f with kind := .task, state := .taskFront, vtile := 0, tcidx := 0 })
      let arc := fun (c : Ctx) => (arcFrom c.l 0).isSome && (arcOf c.l 1).isSome
      let free := fun (s : State) (c : Ctx) => (outputTrap c 1).isNone && !speculative s 0;
      goes (x 16 1 .bound) sendPolicy .send (fun c => arc c && free (x 16 1 .bound).s c && !sendsLeft (x 16 1 .bound).s c.l 0)
        (fun s c => (arcOf c.l 1).elim s fun a => launchSend s 0 c.f c.r a false) &&
      goes u sendPolicy .send (fun c => arc c && (outputTrap c 1).isNone && speculative u.s 0) (fun s c => holdSend s c.f) &&
      waitsAt v sendPolicy .send (fun c => (arcFrom c.l 0).isNone) && waitsAt (x 16 0 .bound) sendPolicy .send arc &&
      waitsAt (x 16 1 .unbound) sendPolicy .send arc && waitsAt (x 17 1 .unbound) sendPolicy .send arc &&
      waitsAt w sendPolicy .send (fun c => arc c && sendsLeft w.s c.l 0) &&
      trapsWith y sendPolicy .send ⟨0x04, 1, 0⟩ && trapsWith (x 17 1 .bound) sendPolicy .send ⟨0x10, 1, 0⟩ &&
      trapsWith z sendPolicy .send ⟨0x01, 0, 0⟩ arc &&
      trapsWith (x 16 1 .mismatch) sendPolicy .send ⟨0x08, 13, 0⟩ arc && trapsWith (x 16 1 .ended) sendPolicy .send ⟨0x08, 11, 0⟩ arc) = true := by
  decide +kernel

/-- A state with one thing under way, number 4. -/
def carrying (x : Site) (g : Cargo) : State := modLaunch { x.s with issue := .none } 0 fun l => { l with cargo := [(4, g)] }

/-- LetterboxInstructionsComplete, MessagesFillTheirSlots: MESSAGE_WRITE into the last slot number, of a committed task's SEND,
one that fails, and one whose arc has ended. -/
theorem witness_message :
    (let kx := fun kind b => site 0xB0 (nr .f32 .mono 0 0 2 5 true) (tok 0 [7]) none (withArc kind (box 0xFFFF 0xFFFE 0xFFFE) b 0)
      let x := kx 1 .bound
      let go := fun (x : Site) (bar : Option Nat) (held : Bool) (g : State → State → Launch → Firing → Ctx → Arc → Launch → Bool) =>
        let s := carrying x (.send x.f 0 0 (List.replicate 64 7) bar held [])
        match takeCargo s 0 4 with
        | some (s1, l, .send f _ _ _ _ _ _) => recOf l f == some x.r && match arcFrom l (fNode f) with
          | some a => match arcOf l a.arc, reqCtx s1 f x.r with
            | some y, some c => match findLaunch s1 y.peerSlot with
              | some tl => g s s1 l f c y tl
              | none => nextIs (exec (.messageWrite 0 4) s) (discardMessage s1 l f y)
            | _, _ => false
          | none => false
        | _ => false
      let wrote := fun (s1 : State) (f : Firing) (tl : Launch) => writeMessage s1 f .f32 tl 0 0 (List.replicate 64 7) none [];
      go x none false (fun s s1 _ f c _ tl => match wrote s1 f tl with
        | .ok (s2, g) => match outBoth c [0] false false [g] with
          | .ok es => (rateTrap c es 1).isNone && nextIs (exec (.messageWrite 0 4) s) (complete (rateAdvance s2 c es 1) c es 0) &&
              (findLaunch s2 0).any fun l => readByte (tileOf l 0).sram 127 == 7 && readByte (tileOf l 0).sram 128 == 0 &&
                (lbOf (tileOf l 0) 0).wseq == 0
          | .error _ => false
        | .error _ => false) &&
      go x none true (fun s s1 _ f _ _ tl => match wrote s1 f tl with
        | .ok (s2, _) => nextIs (exec (.messageWrite 0 4) s) s2
        | .error _ => false) &&
      [false, true].all (fun held => go x (some 0xFFFF) held fun s s1 _ f _ y tl =>
        match writeMessage s1 f .f32 tl 0 0 (List.replicate 64 7) (some 0xFFFF) [] with
        | .ok _ => false
        | .error e => nextIs (exec (.messageWrite 0 4) s) (failSend (returnCredit s1 0 y.arc) f held e)) &&
      nextIs (exec (.messageWrite 0 5) (carrying x (.freed 0 1 2 []))) (carrying x (.freed 0 1 2 []))) = true := by decide +kernel

/-- LetterboxInstructionsComplete: what discards a message: an arc of KIND 2 that has ended, and a target launch that is gone. The
code of that end is a free value, so only the hypotheses are shown. -/
theorem witness_message_lost :
    (let x := fun g => site 0xB0 (nr .f32 .mono 0 0 2 5 true) (tok 0 [7]) none g
      let y := x (withArc 2 (box 0 0 0) .ended 0)
      let z := x (fun l => { withArc 1 (box 0 0 0) .bound 0 l with
        arcs := (withArc 1 (box 0 0 0) .bound 0 l).arcs.map fun a => { a with peerSlot := 3 } })
      [(y, true), (z, false)].all fun p =>
        match takeCargo (carrying p.1 (.send p.1.f 0 0 [] none false [])) 0 4 with
        | some (s1, l, _) => recOf l p.1.f == some p.1.r && match arcFrom l 0 with
          | some a => match arcOf l a.arc, reqCtx s1 p.1.f p.1.r with
            | some q, some _ => if p.2 then a.kind == 2 && q.bind == .ended else (findLaunch s1 q.peerSlot).isNone
            | _, _ => false
          | none => false
        | none => false) = true := by decide +kernel

/-- LetterboxInstructionsComplete: a freed-slot notice to a bound arc, to one that has ended (the code of the end it brings
is a free value, so only the hypotheses are shown), to no launch, to a courier, and one that nothing carries. -/
theorem witness_freed_notices :
    (let x := fun b => site 0xB0 (nr .f32 .mono 0 0 2 5 true) (tok 0 [7]) none (withArc 1 (box 0 0 0) b 0)
      let go := fun (s : State) (t : State → Cargo → State) => match takeCargo s 0 4 with
        | some (s1, _, g) => nextIs (exec (.freedSlotNotice 0 4) s) (t s1 g)
        | none => nextIs (exec (.freedSlotNotice 0 4) s) s
      let f := fun b => carrying (x b) (.freed 0 1 2 [5])
      let out := carrying (x .bound) (.freed 5 1 2 [5]);
      go (f .bound) (fun s1 _ => modLaunch s1 0 fun l => modArc l 1 fun x => { x with credit := x.credit + 2, frees := x.frees ++ [[5], [5]] }) &&
      (match takeCargo (f .ended) 0 4 with
        | some (_, l, .freed 0 1 _ _) => (noticeEnd (f .ended) 0 0 1).isNone && (arcOf l 1).any (fun x => x.bind == .ended)
        | _ => false) &&
      go out (fun s1 _ => (findLaunch s1 0).elim s1 fun l => discardNotice s1 l 5 1) && go { f .bound with launches := [] } (fun s1 _ => s1) &&
      go (carrying (x .bound) (.popped 0 3 64 7 [5])) (fun s1 _ => modLaunch s1 0 fun l => modCourier l 0 fun q => addCredit q 3 64 7 [5])) = true := by
  decide +kernel

/-- LetterboxInstructionsComplete: RECV of an offset and of data, freeing and not, held, and past SLOTB; FREESLOT of the most
and of one more. -/
theorem witness_recv :
    (let rp : Policy := (streamOf 3)
      let ln := fun (w r f : BitVec 16) (l : Launch) => tile0 (fun t => writeSram t 64 [1, 0, 0, 0, 2]) (withArc 1 (box w r f) .bound 0 l)
      let rx := fun (m : BitVec 5) (n : Nat) (w : BitVec 16) => site 0xB1 (nr .u32 .mono m 0 2 5 true) (tok 0 (List.replicate n 0)) none (ln w 0xFFFF 0xFFFF)
      let fx := fun (n : BitVec 32) => site 0xB2 (nr .i32 .mono 0 (n <<< 8) 2 5 true) (tok 0 [9]) none (ln 0 0xFFFF 0xFFFD)
      let odd := site 0xB1 (nr .f64 .mono 1 0 2 5 true) (tok 0 [0, 0, 0]) none (ln 0 0xFFFF 0xFFFF)
      let bad := site 0xB1 (nr .u32 .mono 1 0 2 5 true) (tok 0 [0, 0, 0]) none (fun l => tile0 (fun t => { t with bad := [9] }) (ln 0 0xFFFF 0xFFFF l))
      let seq := fun (s : State) (c : Ctx) => gives true (takeMessage (newGroup s).1 c (newGroup s).2 [7])
        (outBoth c [64, 0xFFFF] false false (unionNat [7] [(newGroup s).2]));
      does (rx 0 1 0) rp .recv seq && does (rx 2 1 0) rp .recv seq &&
      does (rx 1 2 0) rp .recv (fun s c =>
        let g := newGroup s
        match checkAccesses g.1 0 (([0, 1].flatMap fun k => sramBy g.1 c.f g.2 0 .read (64 + 4 * k) 4 k).map fun x => { x with hb := unionNat x.hb [7] }) with
        | .error _ => none
        | .ok sx => gives (!badRange (tileOf c.l 0) 64 8) (takeMessage sx c g.2 [7]) (outBoth c [1, 2] false false (unionNat [7] [g.2]))) &&
      waitsAt (rx 0 1 0xFFFF) rp .recv &&
      waitsAt (rx 1 2 0xFFFF) rp .recv && trapsWith odd rp .recv ⟨0x04, 1, 0⟩ &&
      does bad rp .recv (fun s c =>
        let g := newGroup s
        match checkAccesses g.1 0 (([0, 1, 2].flatMap fun k => sramBy g.1 c.f g.2 0 .read (64 + 4 * k) 4 k).map fun x => { x with hb := unionNat x.hb [7] }) with
        | .error _ => none
        | .ok sx =>
          let d := postDlout sx c.f 2
          gives (badRange (tileOf c.l 0) 64 12 && badLane (tileOf c.l 0) c.r.type 64 3 == 2) (takeMessage d.1 c g.2 [7])
            (outBoth c (poisonLanes 3 d.2) true false (unionNat [7] [g.2]))) &&
      trapsWith (rx 1 17 0) rp .recv ⟨0x10, 1, 0⟩ &&
      does (fx 2) rp .freeslot (fun s c => gives (freeCount c == 2 && unfreed (lbOf (tileOf c.l 0) 0) == 2)
        (freeMessages s c.l 0 0 2 (firingHb c.f)) (outBoth c [9] false false [])) 2 &&
      trapsWith (fx 3) rp .freeslot ⟨0x10, 2, 0⟩) = true := by decide +kernel

/-- The smallest manifest image: one section of one desk entry that holds one node, a NOP whose outputs go nowhere (R85 to R87). -/
def image (depots : Nat) : List Byte :=
  let header := 0x4D5A4543 + 1 <<< 32 + 1 <<< 48 + 576 <<< 64 + depots <<< 96
  let table := 1 + 1 <<< 32 + 128 <<< 64 + 400 <<< 96
  leBytes 576 (header + table <<< 512 + 1 <<< 1024 + 0xE00000000000000000000000 <<< 1152 + 0x3FFFFFFFFF00000000 <<< 1152)

/-- ModesChangeAtQuiescence: the held MODE token found quiescent; a launch with a token more; MODE next and not next. -/
theorem witness_modes :
    (let p : Policy := (specOf 3)
      let r := nr .i32 .mono 0 15 2 5
      let f := { benchFiring false with a := tok 0 [9] }
      let qs := site 0xB6 r (tok 0 [9]) none fun l => modDesk l 0 fun d => { d with ready := [⟨f, false, false⟩] }
      let nq := site 0xB6 r (tok 0 [9])
      let mx := site 0xB6 r (tok 0 [9]) none fun l => { l with modeQueue := [f.a, f.a] };
      (findLaunch qs.s 0).any (fun l => quiescent qs.s l && l.phase == .running &&
        nextIs (exec (.quiescenceDetected 0) qs.s) (setLaunch qs.s { l with modeQueue := [f.a] })) &&
      (findLaunch nq.s 0).any (fun l => !quiescent nq.s l && nextIs (exec (.quiescenceDetected 0) nq.s) nq.s) &&
      does mx p .mode (fun s c => gives (modeNext c.l c.f) (setLaunch s (loadPhases { c.l with active := 15, modeQueue := [f.a] }))
        (outBoth c [9] false false [])) &&
      (findLaunch mx.s 0).any (fun l => l.modeQueue != [] && nextIs (exec (.quiescenceDetected 0) mx.s) mx.s) &&
      waitsAt nq p .mode (fun c => !modeNext c.l c.f)) = true := by decide +kernel

/-- A machine whose first 64 KiB device page is translated and holds a number of bytes at 0x1000. -/
def loaded (bs : List Byte) (s : State) : State :=
  { s with dieTlb := [(0, ⟨false, 0, 0, 0, 0, true, true⟩)], tileTlb := [(0, ⟨false, 0, 0, 0, 0, true, true⟩)], mem := memOfBytes 0x1000 bs, cfg := { s.cfg with memBytes := 0x100000 } }

/-- ModesChangeAtQuiescence: a reconfiguration held, one whose image is valid, one whose image asks for two depots. -/
theorem witness_reconf :
    (let p : Policy := (specOf 3)
      let a := tok 0 [9]
      let x := fun (n : Nat) (q : List Token) => site 0xB6 (nr .i32 .dyad 0 16 2 5) a (some (tok 1 [0x1000, 0])) (fun l => { l with modeQueue := q }) (loaded (image n));
      waitsAt (x 1 []) p .modeReconf (fun c => !modeNext c.l c.f && decide (2 ≤ (bLanes c).length)) &&
      trapsWith (site 0xB6 (nr .i32 .dyad 0 16 2 5) a (some (tok 1 [0x1000]))) p .modeReconf ⟨0x04, 2, 0⟩ &&
      sees (x 1 [a]) (fun c => match loadMode (x 1 [a]).s c.l (lanes64 (bLanes c) 0) with
        | .ok m => decide (fires (x 1 [a]).s c p) && modeNext c.l c.f && match stageData (x 1 [a]).s c.l m m.data with
          | .ok placed => nextIs (exec (.modeReconf c.r) (x 1 [a]).s) (setLaunch (x 1 [a]).s { c.l with
              staged := some m, reconf := some c.f, placed, tiles := c.l.tiles.map fun t => { t with state := .staging, answered := false } })
          | .error _ => false
        | .error _ => false) &&
      sees (x 2 [a]) (fun c => match loadMode (x 2 [a]).s c.l (lanes64 (bLanes c) 0) with
        | .error (.invalid k) => decide (fires (x 2 [a]).s c p) &&
          match outPorts c [1] ([0x17, BitVec.ofNat 32 (errDetail k)] ++ lanesOf64 k.1) .same false false [] with
          | .ok es => nextIs (exec (.modeReconf c.r) (x 2 [a]).s) (completed (discardModes (x 2 [a]).s 0 c.f.a) c es 0)
          | .error _ => false
        | _ => false)) = true := by decide +kernel

/-- TrapAndHandlerInstructionsComplete: NOP, RDSYS of a 32-bit and of a 64-bit value, TAILL with room and without, TRAP and
BRK each way. -/
theorem witness_handler_nodes :
    (let taill : Policy := (specOf 4)
      let tails := fun k (l : Launch) => { l with tails := List.replicate k { fh := 0, fid := 0, ffill := 0, tag := 0, fill := 0, node := 0, addr := 0 } }
      let tx := fun k => site 0xE6 (nr .i32 .mono 0 0 2 5) (tok 0 [0xFFFFFFF8, 0x800FFFFF]) none (tails k)
      let sys := fun (sel : Nat) (n : Nat) => sends (site 0xE1 (nr .i32 .mono 0 (BitVec.ofNat 32 sel) 2 5) (tok 0 (List.replicate n 9) 3 4)) .rdsys (fun _ => true) fun c =>
        let v := sysValue (site 0xE1 (nr .i32 .mono 0 (BitVec.ofNat 32 sel) 2 5) (tok 0 (List.replicate n 9) 3 4)).s c.l c.fr 0 3 n sel
        if v.2 && n % 2 == 1 then .error ⟨0, 0, 0⟩ else outBoth c ((List.range n).map fun k => BitVec.ofNat 32 (if v.2 ∧ k % 2 = 1 then v.1 / 2 ^ 32 else v.1)) false false [];
      sends (site 0xE0 (nr .i32 .mono 0 0 2 5) (tok 0 [9])) .nop (fun _ => true) (fun c => outBoth c [9] false false []) &&
      sys 1 2 && sys 5 3 &&
      does (tx 7) taill .taill (fun s c => gives (decide (c.l.tails.length < 8)) (modLaunch s 0 fun l => { l with tails := l.tails ++
          [{ fh := 0, fid := 0, ffill := 0, tag := 0, fill := 0, node := 0, addr := 0x800FFFFFFFFFFFF8 }] }) (outBoth c [0] false false [])) &&
      trapsWith (tx 8) taill .taill ⟨0x08, 12, 0⟩ &&
      trapsWith (site 0xE2 (nr .i32 .mono 0 0xFFFFFFFF) (tok 0 [9])) plain .trap ⟨0x14, 0xFFFFFFFF, 0⟩ &&
      trapsWith (site 0xE2 (nr .i32 .dyad 0 7) (tok 0 [9]) (some (tok 1 [1]))) plain .trap ⟨0x14, 7, 0⟩ &&
      sends (site 0xE2 (nr .i32 .dyad 0 7 2 5) (tok 0 [9]) (some (tok 1 [2]))) .trap (fun _ => true) (fun c => outBoth c [9] false false []) &&
      trapsWith (site 0xE3 (nr .i32 .mono 0 7) (tok 0 [9])) plain .brk ⟨0x13, 7, 0⟩ &&
      sends (site 0xE3 (nr .i32 .mono 0 7 2 5) { tok 0 [9] with src := passSource }) .brk (fun _ => true) (fun c => outBoth c [9] false false [])) = true := by
  decide +kernel

/-- A fault record of ticket 3, of the firing of the root frame's node 1. -/
def ticket3 : FaultRec :=
  { ticket := 3, code := 0x01, vdesk := 0, node := 1, port := 0, lane := 0, colour := 0, carry := 0, defer := false, dlout := false
    detail := 0, fid := 0, ffill := 0, fill := 0, fh := 0, tag := 0, postmark := 0, opa := 0, opb := 0
    firing := some { benchFiring false with node := 1, a := tok 2 [7] }, carried := [], req := none, round := none, deadlock := false
    arrival := false, opens := true }

/-- The firing's token in the office frame, of a launch in which ticket 3 is open on the parked root frame. -/
def officeSite (opc : Nat) (r : NodeRec) (a : Token) (b : Option Token := none) : Site :=
  let there := fun (t : Token) => makeToken t.dest 1 t.tag t.fill t.dl t.lp t.sp t.lanes t.src t.hb
  let x := site opc r (there a) (b.map there)
    (fun l => { l with faults := [ticket3], tickets := 4, faulted := true
                       man := { l.man with nodes := l.man.nodes ++ [(1, 0x1E0010000007FFFF00000000)] } })
    (root0 fun f => { f with state := .parkedFault, home := .live, opens := [3], fcode := 1 })
  x

/-- TrapAndHandlerInstructionsComplete: each RESUME form on the open ticket, on none, and outside the office; KILLF. -/
theorem witness_resume :
    ([(0xE4, Instr.resumeSubstitute, 0), (0xE4, .resumeRetry, 1), (0xE4, .resumePoison, 2)].all fun p =>
      let r := nr .i32 (if p.2.2 == 0 then .dyad else .mono) (BitVec.ofNat 5 p.2.2) 0 2 5
      let x := fun (t : Lane) => officeSite p.1 r (tok 0 [t]) (if p.2.2 == 0 then some (tok 1 [t]) else none)
      does (x 4) plain p.2.1 (fun s c => gives (c.f.a.fh == c.l.office && (openTicket c.l 4).isNone) s (outBoth c [1] false false [])) &&
      does (x 3) plain p.2.1 (fun s c =>
        let q := resolveTicket s 0 ticket3 p.2.2 c.f.a.lanes (firingHb c.f)
        gives (openTicket c.l 3 == some ticket3 && q.2 == 0) q.1 (outBoth c [BitVec.ofNat 32 q.2] false false [])) &&
      trapsWith (site p.1 r (tok 0 [3]) (if p.2.2 == 0 then some (tok 1 [3]) else none)) plain p.2.1 ⟨0x08, 3, 0⟩) = true ∧
    (does (officeSite 0xE5 (nr .i32 .mono 0 0 2 5) (tok 0 [3])) plain .killf (fun s c =>
        gives (openTicket c.l 3 == some ticket3) (killFrame s 0 0) (outBoth c [0] false false [])) &&
      does (officeSite 0xE5 (nr .i32 .mono 0 0 2 5) (tok 0 [4])) plain .killf (fun s c =>
        gives (c.f.a.fh == c.l.office && (openTicket c.l 4).isNone) s (outBoth c [1] false false [])) &&
      trapsWith (site 0xE5 (nr .i32 .mono 0 0 2 5) (tok 0 [3])) plain .killf ⟨0x08, 3, 0⟩) = true := by decide +kernel

/-- TrapAndHandlerInstructionsComplete: PARK_NOTICE of a frame not parked and of a parked one with one token waiting. -/
theorem witness_park_notice :
    (let t := tok 1 [7]
      let ln := fun l => modDesk l 0 fun d => { d with waiting := [t] }
      let x := site 0x00 (nr .i32 .dyad) (tok 0 [9]) none ln
      let y := site 0x00 (nr .i32 .dyad) (tok 0 [9]) none ln (root0 fun f => { f with state := .parkedFault });
      nextIs (exec (.parkNotice 0 0 0) x.s) x.s && match findLaunch y.s 0, findFrame y.s 0 with
      | some l, some f =>
        let noticed := fun (l : Launch) => modDesk (poolFaults l 0 0) 0 fun d => { d with noticed := unionNat d.noticed [0] }
        let taken := fun (l : Launch) => modDesk l 0 fun d => { d with waiting := d.waiting.erase t }
        let l1 := taken (noticed l)
        let k := slotOf f.spilld t
        parked f && (deskOf l 0).waiting.filter (fun t => t.fh == 0) == [t] && (deskOf l 0).ready == [] && !slotHeld l1 0 0 k f.spilld &&
        (deskOf l 0).aside == [] && !(unresolved (poolFaults l 0 0)).any (unpooled 0 0) && headerOk t && payloadOk t &&
        nextIs (exec (.parkNotice 0 0 0) y.s) (setLaunch (modLaunch (setLaunch y.s (noticed l)) 0 taken)
          (modDesk { l1 with spill := l1.spill ++ [⟨0, k, t, true⟩] } 0 fun d => setCount d (setOf t) (· + 1)))
      | _, _ => false) = true := by decide +kernel

/-- ResolutionsReleaseTheirFrame: retries of one and of two operands, refused substitutes, a frame released and one kept. -/
theorem witness_resolutions :
    (let x := officeSite 0xE0 (nr .i32 .mono) (tok 0 [9])
      let s := x.s
      let f := { benchFiring false with node := 1, a := tok 2 [7] }
      let two := { ticket3 with firing := some { f with b := some (tok 3 [6]) } }
      let frameNode := modLaunch s 0 fun l => { l with man := { l.man with nodes := [(1, 0x850010000017FFFF00000000)] } }
      let other := modFrame s 0 fun f => { f with opens := [3, 5] }
      let waits := modFrame s 0 fun f => { f with waits := 1 };
      decide (resolveTicket s 0 two 1 [] [] = (closeTicket (sendToken (sendToken s 0 f.a) 0 (tok 3 [6])) 0 0 3, 0)) &&
      decide (resolveTicket s 0 ticket3 1 [] [] = (closeTicket (sendToken s 0 f.a) 0 0 3, 0)) &&
      decide (resolveTicket s 0 { ticket3 with firing := none } 0 [] [] = (s, 2)) &&
      (findLaunch frameNode 0).any (fun l => (opRecOf l f).any fun o => o.1 == 0x85 && (ctxOf frameNode f o.2).isSome) &&
      decide (resolveTicket frameNode 0 ticket3 0 [9] [] = (frameNode, 2)) &&
      (findFrame s 0).any (fun f => f.state == .parkedFault && f.opens == [3] && f.waits == 0 && (taskOf s 0).isNone) &&
      (findFrame (closeTicket s 0 0 3) 0).any (fun f => f.state == .live && f.fcode == 0 && f.opens == []) &&
      (findFrame (closeTicket waits 0 0 3) 0).any (fun f => f.state == .parkedWait && f.fcode == 0 && f.opens == []) &&
      (findFrame (closeTicket other 0 0 3) 0).any fun f => f.state == .parkedFault && f.opens == [5]) = true := by decide +kernel

/-- FabricInstructionsComplete: ARCOUT whose message just fits, and held without credit; ARCIN below its DELAY, at it with a
message of data and with a last post. -/
theorem witness_arcs :
    (let p : Policy := (streamOf 3)
      let out := fun k => site 0xBB (nr .f32 .mono 0 1 2 5 true) (tok 0 (List.replicate 14 7)) none (withArc 3 (box 0 0 0) .bound k)
      let inn := fun (tag : Dword) (d : Nat) => site 0xBC (nr .f32 .mono 0 1 2 5 true) (tok 0 [9] tag 8) none
        (fun l => modDesk (tile0 (fun t => writeSram t 0 (leBytes 8 d ++ leBytes 8 0x900000008)) (withArc 3 (box 1 0 0) .bound 0 l)) 0
          fun d => { d with ord := [⟨0, 0, tag.toNat⟩] })
      let take := fun (d : Nat) (es : Ctx → List Nat → Except Trap (List Emission)) => does (inn 3 d) p .arcin (fun s c => match nodeArc c with
        | some x =>
          let g := newGroup s
          match checkAccesses g.1 0 (arcAccesses g.1 c.f g.2 .read 0 (d % 32 + 1)) with
          | .ok sx => gives (written (box 1 0 0) 0 && nodeDecl c != none) (takeArc sx c x 0 0 (unionNat (unionNat (firingHb c.f) []) [g.2])) (es c [])
          | .error _ => none
        | none => none) 1;
      does (out 1) p .arcout (fun s c => (nodeArc c).elim none fun x => gives (x.bind == .bound && x.slotb == 64)
        (modLaunch (sendFlit s 0 (peerPkg s c.l x) (.message 0 1 0 (arcBytes 0 false false c.f.a.lanes))) 0 fun l => modArc l 1 fun x => { x with credit := 0, sent := x.sent + 1 })
        (outBoth c [0] false false [])) 1 &&
      waitsAt (out 0) p .arcout (fun c => (nodeArc c).any fun x => x.bind == .bound && (bindTrap x true).isNone) &&
      waitsAt (site 0xBB (nr .f32 .mono 0 1 2 5 true) (tok 0 [7])) p .arcout (fun c => (nodeArc c).isNone) &&
      trapsWith (site 0xBB (nr .f32 .mono 0 1 2 5 true) (tok 0 (List.replicate 15 7)) none (withArc 3 (box 0 0 0) .bound 1)) p .arcout ⟨0x10, 1, 0⟩
        (fun c => (nodeArc c).any fun x => x.bind == .bound && x.credit == 1) &&
      waitsAt (inn 4 0) p .arcin (fun c => !written (lbOf (tileOf c.l 0) 0) (ctxTag c - 3)) &&
      sees (inn 2 0) (fun c => match outBoth c [9] false false [] with
        | .ok es => decide (fires (inn 2 0).s c p) && (nodeDecl c).any (fun a => ctxTag c < a.delay) &&
            nextIs (exec (.arcin c.r) (inn 2 0).s) (complete (started (inn 2 0).s c p) c es 0)
        | .error _ => false) &&
      take 1 (fun c hb => outBoth c [8, 9] false false hb) && take 0x20 (fun c hb => outBoth c [0] false true hb)) = true := by
  decide +kernel

/-- FabricInstructionsComplete: a last post and a dead letter at ARCOUT and at ARCIN; in a speculative task; a last post whose turn has
not come; and, at the arc's DELAY, a broken one. -/
theorem witness_arc_passes :
    (let p : Policy := (streamOf 3)
      let at1 := fun (opc : Nat) (b : ArcBind) (tag : Dword) (dl : Bool) (turn : Nat) => site opc (nr .f32 .mono 0 1 2 5 true) (tok 0 [4] tag 8 dl !dl)
        none (fun l => modDesk (modArc (withArc 3 (box 0 0 0) b 1 l) 1 fun x => { x with slotb := 72 }) 0
          fun d => { d with ord := [⟨0, 0, turn⟩] })
      let turn := fun (c : Ctx) => ctxTag c == ordNext (deskOf c.l 0) 0 0
      let sent := fun (s : State) (c : Ctx) (bs : List Byte) => (nodeArc c).elim s fun x =>
        modLaunch (sendFlit s 0 (peerPkg s c.l x) (.message 0 1 0 bs)) 0 fun l => modArc l 1 fun x => { x with credit := 0, sent := 1 }
      let goesTo := fun (x : Site) (i : NodeRec → Instr) (dl : Bool) (es : Ctx → Except Trap (List Emission)) (t : State → Ctx → State) =>
        sees x fun c =>
          let o := own x.s c p
          (if dl then decide (firesDl x.s c p) else decide (firesLp x.s c p) && turn o) && !speculative (started x.s c p) 0 && match es o with
          | .ok es => nextIs (exec (i c.r) x.s) (complete (t (started x.s c p) o) c es 0)
          | .error _ => false
      let dead := fun (c : Ctx) => outBoth c (poisonLanes 1 (poisonOf c)) true false [];
      goesTo (at1 0xBB .bound 3 false 3) .arcout false (fun c => outBoth c [0] false true []) (fun s c => sent s c (arcBytes 0 false true [0])) &&
      goesTo (at1 0xBB .bound 3 true 3) .arcout true dead (fun s c => sent s c (arcBytes 0 true false (List.replicate 16 0))) &&
      goesTo (at1 0xBC .bound 3 false 3) .arcin false (fun c => outBoth c [0] false true []) (fun s _ => s) &&
      goesTo (at1 0xBC (.broken 2) 2 true 2) .arcin true dead (fun s _ => s) &&
      [(0xBB, Instr.arcout), (0xBC, .arcin)].all (fun i =>
        let early := at1 i.1 .bound 4 false 3
        sees early (fun c => decide (firesLp early.s c p) && !turn (own early.s c p) && nextIs (exec (i.2 c.r) early.s) (holdFiring early.s c.f)) &&
        [false, true].all fun dl =>
          let x := at1 i.1 .bound 3 dl 3
          let x := { x with s := asTask5 x.s }
          sees x fun c => (if dl then decide (firesDl x.s c p) else decide (firesLp x.s c p) && turn (own x.s c p)) &&
            speculative (started x.s c p) 0 && nextIs (exec (i.2 c.r) x.s) (trapFiring (counted x.s c p) c.f ⟨0x0B, 3, 0⟩)) &&
      [(ArcBind.broken 2, (3 : Dword), (⟨0x18, 2, 0⟩ : Trap)), (.delay 1, 2, ⟨0x19, 1, 0⟩)].all fun e => [false, true].all fun dl =>
        let x := at1 0xBC e.1 e.2.1 dl e.2.1.toNat
        sees x fun c => (if dl then decide (firesDl x.s c p) else decide (firesLp x.s c p) && turn (own x.s c p)) && !speculative (started x.s c p) 0 &&
          nextIs (exec (.arcin c.r) x.s) (trapFiring (counted x.s c p) c.f e.2.2)) = true := by
  decide +kernel

/-- FabricInstructionsComplete: arrivals on a bound and on a broken arc, a credit, flits, timeouts, a notice, a rebuild. -/
theorem witness_fabric :
    (let x := fun b => site 0xBC (nr .f32 .mono 0 1 2 5 true) (tok 0 [9]) none fun l => { withArc 3 (box 0 0 0) b 0 l with meters := List.replicate 6 ⟨0, 16, 12⟩ }
      let msg := arcBytes 0 false false [7]
      let arr := fun (b : ArcBind) => carrying (x b) (.arcMsg 1 0 msg)
      let s := modPort (x .bound).s 2 fun q => { q with rcvd := 0xFFFF, attempts := 6, replay := [⟨5, 0, 1, .credit 0 1⟩], out := 1 }
      let flit := fun seq ok => exec (.linkFlitReceive 2 seq 5 (.credit 0 1) ok) s;
      (match takeCargo (arr (.broken 0)) 0 4 with
        | some (s1, _) => nextIs (exec (.arcMessageArrival 0 4) (arr (.broken 0))) s1
        | none => false) &&
      (match takeCargo (arr .bound) 0 4 with
        | some (s1, l, _) => match l.man.arcs.head?, arcOf l 1 with
          | some a, some x => x.bind == .bound && meterHas l 2 12 && nextIs (exec (.arcMessageArrival 0 4) (arr .bound))
              (arcWrite (setLaunch s1 (meterTake l 2 12)) (meterTake l 2 12) a x 0 msg)
          | _, _ => false
        | none => false) &&
      (let y := site 0xBC (nr .f32 .mono 0 1 2 5 true) (tok 0 [9]) none fun l => { withArc 3 (box 0 0 0) .bound 0 l with meters := List.replicate 6 ⟨0, 16, 11⟩ }
       let t := carrying y (.arcMsg 1 0 msg)
       (takeCargo t 0 4).any (fun q => !meterHas q.2.1 2 12) && nextIs (exec (.arcMessageArrival 0 4) t) (putBack t ⟨8, 0, 1, 0⟩ (.arcMessageArrival 0 4))) &&
      nextIs (exec (.arcCredit 0 1) s) (modLaunch s 0 fun l => modArc l 1 fun x => { x with credit := 1 }) &&
      nextIs (flit 0x1FFFF true) (takeFlit (modPort s 2 fun q => { takeAck q 5 with rcvd := 0, attempts := 0, retries := 1, buffers := [[], [(0, .idle)], []] }) 2 (.credit 0 1)) &&
      nextIs (flit 0 true) (modPort s 2 fun q => takeAck q 5) && nextIs (flit 0 false) (sendFlit (modPort s 2 fun q => { q with attempts := 7 }) 2 0 .again) &&
      nextIs (exec (.linkFlitReceive 2 0 5 .idle false) (modPort s 2 fun q => { q with attempts := 7 })) (portDown (modPort s 2 fun q => { q with attempts := 8 }) 2) &&
      nextIs (exec (.linkAckTimeout 2) s) (portDown s 2) && nextIs (exec (.linkAckTimeout 3) s) s && nextIs (exec (.linkTrainingFail 3) s) (portDown s 3) &&
      nextIs (exec (.failureNotice 0 144) s) (askRebuild (breakArcs s 1 fun _ x => x.plane == 0) 0 fun _ => true) &&
      nextIs (exec (.communicatorRebuild 0 []) s) (breakArcs { s with comms := s.comms.set 0 { cver := 1, entries := [] } } 2 fun l x =>
        l.part == 0 && x.cver != 1)) = true := by decide +kernel

/-- A round instruction issued on the courier of node 0, with registers, in a machine whose first device page is translated;
`kq` changes the courier, `ln` the launch. -/
def rsite (g : List Dword) (kq : Courier → Courier := id) (ln : Launch → Launch := id) (lit : BitVec 32 := 0) : Site :=
  let x := site 0xD0 (nr .i32 .mono 0 lit 2 5 true) (tok 0 [9]) none ln (loaded [5, 6, 7, 8])
  let k := fun (q : Courier) => kq { q with state := .running, firing := some x.f, g };
  { x with s := modLaunch { x.s with issue := .round 0 0 } 0 fun l => modCourier l 0 k }

/-- What a round instruction sees at a site. -/
def inSite (x : Site) (g : State → RCtx → Bool) : Bool :=
  match findLaunch x.s 0, ctxOf x.s x.f x.r with
  | some l, some c => recOf l x.f == some x.r &&
    match courierOf l 0 with
    | some q => q.firing == some x.f && g x.s { l, q := { q with state := .running }, f := x.f, c }
    | none => false
  | _, _ => false

/-- The hypotheses and the conclusion of `roundRuns`. -/
def rounds (x : Site) (i : Instr) (out : State → RCtx → Option (State × Courier)) : Bool :=
  inSite x fun s r => match out s r with
    | some (s1, q) => nextIs (exec i s) (putCourier s1 0 q)
    | none => false

/-- The same where the state is kept. -/
def roundGoes (x : Site) (i : Instr) (q : RCtx → Courier) : Bool := rounds x i fun s r => some (s, q r)

/-- The hypotheses and the conclusion of `roundTraps`. -/
def roundTrapsWith (x : Site) (i : Instr) (t : Trap) : Bool :=
  inSite x fun s r => nextIs (exec i s) (trapRound s r.l r.q r.f [] t)

/-- RoundsStartRunAndEnd: ROUND on an idle and on a busy courier; ROUNDSTOP of a running round. -/
theorem witness_rounds :
    (let p : Policy := (streamOf 4)
      let x := fun (st : CourierState) => site 0xD0 (nr .i32 .mono 0 7 2 5 true) (tok 0 [9, 8, 7]) none fun l => modCourier l 0 fun q => { q with state := st }
      let y := site 0xD1 (nr .i32 .mono 0 0 2 5) (tok 0 [9]) none fun l => { l with couriers := [{ sealCourier l 3 with state := .running, firing := some (benchFiring false) }] };
      sees (x .idle) (fun c => match courierOf c.l 0, outBoth c [0] false false [] with
        | some q, .ok _ => decide (fires (x .idle).s c p) && nextIs (exec (.round c.r) (x .idle).s) (putCourier (started (x .idle).s c p) 0
            { q with state := .running, held := false, pc := 0, round := 7, firing := some c.f, bufs := List.replicate 4 []
                     delivered := [], sunk := [], hb := [], ending := false, g := 0x800000009 :: List.replicate 7 0 })
        | _, _ => false) &&
      waitsAt (x .running) p .round &&
      waitsAt (site 0xD0 (nr .i32 .mono 0 7 2 5 true) (tok 0 [9, 8, 7]) none fun l => modCourier l 0 fun q => { q with pending := 1 }) p .round &&
      does y (specOf 4) .roundstop (fun s c => c.l.couriers.head?.elim none fun q => q.firing.elim none fun f =>
        gives true (modLaunch (stopRound s q f) 0 fun l => { l with stopped := true }) (outBoth c [1] false false []))) = true := by
  decide +kernel

/-- RoundsStartRunAndEnd: each register instruction with a carry past bit 63 or a negative immediate; loops taken and left; END. -/
theorem witness_round_registers :
    (let x := rsite [1, 0xFFFFFFFFFFFFFFFF, 2, 0, 0, 0, 0, 0] fun q => { q with pc := 9 }
      let reg := fun (k : Nat) (v : Dword) (pc : Nat) (r : RCtx) => { r.q with g := r.q.g.set k v, pc };
      roundGoes x (.setg 7 0x800000000000) (reg 7 0xFFFF800000000000 10) && roundGoes x (.addg 3 1 2) (reg 3 1 10) &&
      roundGoes x (.addg 0 0 0xFFFFFFFFFFFF) (reg 0 0 10) && roundGoes x (.addgg 3 1 2 63) (reg 3 0xFFFFFFFFFFFFFFFF 10) &&
      roundGoes x (.loop 3 5 0) (reg 3 0 14) && roundGoes x (.loop 3 5 0xFFFFFFFF) (reg 3 0xFFFFFFFF 10) && roundGoes x (.loop 1 5 0) (reg 1 0xFFFFFFFFFFFFFFFF 10) &&
      roundGoes x (.endl 0 5) (reg 0 0 10) && roundGoes x (.endl 2 5) (reg 2 1 4) && roundGoes x (.endl 3 5) (reg 3 0xFFFFFFFFFFFFFFFF 4)) = true := by
  decide +kernel

/-- RoundsStartRunAndEnd: END with a monitor whose rate is met, and with one whose rate is not. -/
theorem witness_end_round :
    (let m : Monitor := { count := 3, firings := 4, fh := 0, phases := 1, role := 0, arc := 1, kind := 2, node := 0 }
      let x := fun (n : Nat) => rsite (List.replicate 8 0) (fun q => { q with delivered := [(1, 1)] }) fun l =>
        tile0 (fun t => { t with monitors := [m] }) { withArc 1 (box 0 0 0) .bound 0 l with
          man := { l.man with arcs := [{ arc := 1, kind := 1, src := 0, dst := 0, lb := 0, delay := 0, peer := 0 }], rates := [{ set := 0, arc := 1, prod := [n], cons := [1] }] } };
      inSite (x 1) (fun s r => match outBoth r.c [0] false false (roundHb r) with
        | .ok es => (endTrap r es).isNone && nextIs (exec .endRound s) (complete (putCourier (modLaunch s 0 fun l =>
            tile0 (fun t => { t with monitors := [{ m with count := 4, firings := 5 }] }) l) 0 { r.q with state := .idle, firing := none, ending := false }) r.c es 0)
        | .error _ => false) &&
      inSite (x 2) (fun s r => match outBoth r.c [0] false false (roundHb r) with
        | .ok es => (endTrap r es).any fun t => nextIs (exec .endRound s) (trapRound s r.l r.q r.f [] t)
        | .error _ => false)) = true := by decide +kernel

/-- A round's state whose registers are an address in the translated page, a stride of 0, tile 0 and three more values. -/
def mover (kq : Courier → Courier := id) (b : Letterbox := box 1 0 0) (ln : Launch → Launch := id) : Site :=
  rsite [0x1000, 0, 0, 0x2000, 0x800000003, 0xFFFFFFFFFFFFFFFF, 0x1008, 5] kq fun l => ln (tile0 (fun t => writeSram t 0 [1, 2, 3, 4, 5])
    { withArc 1 b .bound 0 l with meters := List.replicate 6 ⟨0, 64, 64⟩ })

/-- Accesses recorded where none races. -/
def checked (s : State) (xs : State → Nat → List Access) : Option (State × Nat) :=
  match checkAccesses (newGroup s).1 0 (xs (newGroup s).1 (newGroup s).2) with
  | .ok sx => some (sx, (newGroup s).2)
  | .error _ => none

/-- RoundsMoveAndAnnounce: FETCH of two rows, SINK of a message, WAITSLOT at its credit and one above. -/
theorem witness_fetch_sink :
    (let fx := mover
      let sx := mover
      let wx := mover;
      rounds fx (.fetch 0 1 3 false 1 0) (fun s r =>
        (checked s fun s g => pieceAccesses s r g false .read [(0x1000, 0x1000, 4), (0x1000, 0x1000, 4)]).map fun p =>
          (p.1, { r.q with pc := 1, bufs := [[], [], [], [5, 6, 7, 8, 5, 6, 7, 8]], hb := [p.2] })) &&
      rounds sx (.courierSink 0 1 2 false 0 0 0) (fun s r =>
        let w := newGroup (newGroup s).1
        let id := (newGroup s).2
        match checkAccesses w.1 0 ((granules 0 4).map (fun g => roundAccess w.1 r id .sram 0 g .read (4 * g)) ++
            (pieceAccesses w.1 r w.2 false .write [(0x1000, 0x1000, 4)]).map fun (x : Access) => { x with hb := x.hb ++ [id] }) with
        | .ok s1 =>
          let s3 := modLaunch (writePieces s1 0 false [(0x1000, 0x1000, 4)] [1, 2, 3, 4]) 0 fun l => tile0 (fun t => modLb t 0 fun b => { b with rseq := 1 }) l
          (findLaunch s3 0).map fun l3 => (freeMessages s3 l3 0 0 1 (unionNat (unionNat (roundHb r) (messageHb (lbOf (tileOf r.l 0) 0))) [id]),
            { r.q with pc := 1, hb := unionNat r.q.hb (unionNat (messageHb (lbOf (tileOf r.l 0) 0)) [id, w.2]), sunk := [(1, 1)] })
        | .error _ => none) &&
      roundGoes wx (.waitslot 2 0 2) (fun r => { r.q with pc := 1, credits := [⟨0, 0, 2, []⟩] }) &&
      roundGoes wx (.waitslot 2 0 3) (fun r => { r.q with state := .waiting, held := true, credits := [⟨0, 0, 2, []⟩] })) = true := by
  decide +kernel

/-- RoundsMoveAndAnnounce: DELIVER with its last credit, without credit and of an empty buffer, and the delivery's arrival in a round that goes on and in one stopped. -/
theorem witness_deliver :
    (let bs := List.replicate 64 (3 : Byte)
      let x := fun (n : Nat) (bs : List Byte) => mover fun q => { q with bufs := [bs, [], [], []], credits := [⟨0, 0, n, []⟩] }
      let y := fun (e : Bool) => mover (fun q => { q with state := .waiting, held := true, pending := 1, ending := e }) (box 1 0 0) fun l =>
        { l with cargo := [(4, .deliver 0 0 0 { benchFiring false with a := tok 0 [9] } 0 0 bs ⟨0, 0, 1, []⟩ [])] };
      rounds (x 1 bs) (.deliver 2 0 0) (fun s r =>
        some (push (modLaunch { s with nextId := s.nextId + 1 } 0 fun l =>
          { meterTake l 0 64 with cargo := [(s.nextId, .deliver 0 0 0 r.f 0 0 bs ⟨0, 0, 1, []⟩ (unionNat (roundHb r) []))] })
            ⟨7, 0, 0, 0⟩ (.deliveryArrival 0 s.nextId),
          { r.q with credits := [⟨0, 0, 0, []⟩], pending := 1, state := .waiting, held := true })) &&
      roundGoes (x 0 bs) (.deliver 2 0 0) (fun r => { r.q with state := .waiting, held := true }) &&
      roundTrapsWith (x 0 []) (.deliver 2 0 0) ⟨0x08, 1, 0⟩ &&
      [false, true].all fun e => match takeCargo (y e).s 0 4 with
      | none => false
      | some (s1, l, _) => match courierOf l 0, ctxOf s1 (y e).f (y e).r with
        | some q, some c => match deliverWrite s1 l { l, q := { q with round := 0 }, f := (y e).f, c } 0 0 bs [] with
          | .ok (s2, g) =>
            let q1 := { q with pending := 0, state := .running, held := false, hb := unionNat q.hb (unionNat [] [g]) }
            recOf l (y e).f == some (y e).r && nextIs (exec (.deliveryArrival 0 4) (y e).s)
              (if e then finishRound s2 c q1 1 [] else putCourier s2 0 { q1 with delivered := [(1, 1)], pc := 1 })
          | .error _ => false
        | _, _ => false) = true := by decide +kernel

/-- RoundsMoveAndAnnounce: DECODE of three symbols, of a block cut short and of nothing; ARRIVE; TOKEN of 64 tag bits. -/
theorem witness_decode :
    (let tab := fun (l : Launch) => { l with man := { l.man with codetabs := [(5, [1, 1])] } }
      let x := fun bs => mover (fun q => { q with bufs := [bs, [], [], []], slots := [none, none, none, some 5] }) (box 1 0 0) tab
      let ax := mover id (box 1 0 0) (tile0 fun t => writeSram t 0x3FFFC0 (leBytes 4 256))
      let acc := fun (s : State) (r : RCtx) => checked s fun s g => [roundAccess s r g .unit (courierPlace 0) (locSlot 3) .read 0];
      rounds (x [3, 0, 3, 0, 0, 0, 0, 0, 6]) (.decode 0 2 3) (fun s r => (acc s r).map fun p =>
        (p.1, { r.q with pc := 1, bufs := [[3, 0, 3, 0, 0, 0, 0, 0, 6], [], [0, 1, 1], []], hb := [p.2] })) &&
      roundTrapsWith (x [3, 0, 4, 0, 0, 0, 0, 0, 6]) (.decode 0 2 3) ⟨0x05, 2, 0⟩ && roundTrapsWith (x []) (.decode 0 2 3) ⟨0x08, 1, 0⟩ &&
      rounds ax (.courierArrive 2 0xFFFF 256) (fun s r =>
        match arrival r.l (tileOf r.l 0) 0xFFFF 256 none (unionNat (roundHb r) [(newGroup s).2]),
          checked s fun s g => [roundAccess s r g .unit 0 (barrierLoc 0xFFFF) addClass 0] with
        | .ok t, some p => some (modLaunch p.1 0 (tile0 fun _ => t), { r.q with pc := 1, hb := [p.2] })
        | _, _ => none) &&
      rounds mover (.token 6 5 64) (fun s r => some (emitToken s 0
        { dest := 6, fh := 0, tag := 0xFFFFFFFFFFFFFFFF, fill := 64, dl := false, lp := false, sp := false, lanes := [0xFFFFFFFF, 0xFFFFFFFF]
          lpar := 0, hp := 0, src := 2 ^ 24, hb := roundHb r }, { r.q with pc := 1 }))) = true := by decide +kernel

/-- RoundsMoveAndAnnounce: a courier's SEMWAIT at its target and below it, SEMSIG that stores and one that adds past 2^64. -/
theorem witness_round_semaphores :
    (let x := mover
      let fin := fun (r : RCtx) (p : State × Nat) => ({ r.q with pc := 1, hb := unionNat [] [p.2] } : Courier)
      let sig := fun (add : Bool) (v : Nat) => rounds x (.courierSemsig 0 5 add .die) (fun s r =>
        (checked s fun s g => semAccess s r g 0x1000 0x1000 (if add then addClass else .write)).map fun p =>
          (addSignal (writeSpace p.1 0 false 0x1000 8 v) { host := false, addr := 0x1000, isSet := !add, scope := .die, port := some (courierPort r.q), hb := unionNat (roundHb r) [p.2] },
            fin r p));
      rounds x (.courierSemwait 6 2) (fun s r => (checked s fun s g => semAccess s r g 0x1008 0x1008 .sync).map fun p => (p.1, fin r p)) &&
      rounds x (.courierSemwait 0 7) (fun s r => (checked s fun s g => semAccess s r g 0x1000 0x1000 .sync).map fun p => (p.1, fin r p)) &&
      roundGoes x (.courierSemwait 6 7) (fun r => { r.q with state := .waiting, held := true }) &&
      sig false 0xFFFFFFFFFFFFFFFF && sig true 0x8070604) = true := by decide +kernel

/-- A state with a token on its route to desk 0, number 4, and that desk changed. -/
def flying (x : Site) (t : Token) (g : Desk → Desk := id) : State :=
  modLaunch { x.s with issue := .none } 0 fun l => modDesk { l with flights := [(4, t)] } 0 g

/-- TokensArriveAtTheirDesks: to a node of one operand, to a dyadic one alone and after its partner, to a full latch, a GATE's
credit, to a draining frame, each with the last way of its set. -/
theorem witness_arrivals_at_desks :
    (let t := tok 0 [7]
      let u := tok 1 [6]
      let mono := site 0xE0 (nr .i32 .mono) t
      let dyad := site 0x00 (nr .i32 .dyad) t
      let ways := fun ts (d : Desk) => { d with waiting := ts }
      let other := fun k => tok 0 [k] 0 0
      let off := fun (s : State) => modLaunch s 0 fun l => modDesk { l with flights := [] } 0 id
      let ev := Instr.tokenArrival 0 4
      let free := fun (s : State) => (findLaunch s 0).any fun l => decide (0 < freeWays (deskOf l 0) (setOf t)) && headerOk t && payloadOk t && t.lanes.length == u.lanes.length
      let full := flying mono t fun d => { d with latch := some (3, other 1) }
      let w3 := List.replicate 3 (other 1);
      free (flying mono t (ways w3)) && nextIs (exec ev (flying mono t (ways w3))) (makeReady (off (flying mono t (ways w3))) 0 0 t none) &&
      free (flying dyad t) && nextIs (exec ev (flying dyad t)) (modLaunch (off (flying dyad t)) 0 fun l => modDesk l 0 (ways [t])) &&
      free (flying dyad t (ways [u])) && nextIs (exec ev (flying dyad t (ways [u]))) (makeReady (modLaunch (off (flying dyad t (ways [u]))) 0 fun l => modDesk l 0 (ways [])) 0 0 t (some u)) &&
      free (flying dyad u (ways [t])) && nextIs (exec ev (flying dyad u (ways [t]))) (makeReady (modLaunch (off (flying dyad u (ways [t]))) 0 fun l => modDesk l 0 (ways [])) 0 0 t (some u)) &&
      nextIs (exec ev full) { full with agenda := [⟨⟨1, 0, t.src, t.dest.toNat⟩, ev⟩] } &&
      let gate := site 0x92 (nr .i32 .lit (lit := 3)) u;
      nextIs (exec ev (flying gate u)) (modLaunch (off (flying gate u)) 0 fun l => modDesk l 0 (ways [u])) &&
      let dr := root0 (fun f => { f with state := .draining }) (flying mono t);
      nextIs (exec ev dr) (consume (off dr) 0 1) &&
      let aside := flying mono t fun d => { d with aside := [⟨u, none, true⟩] };
      nextIs (exec ev aside) { aside with agenda := [⟨⟨1, 0, t.src, t.dest.toNat⟩, ev⟩] }) = true := by decide +kernel

/-- TokensArriveAtTheirDesks: a spill write into a free slot, a probe that finds its partner; a handle returned and one not. -/
theorem witness_spills :
    (let t := tok 0 [7]
      let u := tok 1 [6]
      let x := site 0x00 (nr .i32 .dyad) t
      let at1 := fun (o : SpillOp) (ps : List SpillSlot) => modLaunch { x.s with issue := .none } 0 fun l =>
        modDesk { l with spill := ps } 0 fun d => { d with spill := [o], counts := d.counts.set (setOf t) 1 }
      let k := slotOf 0 t
      let pop := fun (s : State) => modLaunch s 0 fun l => modDesk l 0 fun d => { d with spill := [] }
      let w := at1 (.write t) []
      let p := at1 (.probe t) [⟨0, k, u, false⟩]
      let q := modLaunch p 0 fun l => modDesk l 0 fun d => { d with ready := List.replicate 3 ⟨{ benchFiring false with a := t }, false, false⟩ }
      let dr := root0 (fun f => { f with state := .draining, tokens := 0 }) x.s;
      (findFrame w 0).any (fun f => slotOf f.spilld t == k) && nextIs (exec (.spillWriteDone 0 0) w) (modLaunch (pop w) 0 fun l => { l with spill := [⟨0, k, t, false⟩] }) &&
      (findLaunch p 0).any (fun l => decide (1 < freeWays (deskOf l 0) (setOf t))) && sameActivation u t &&
      nextIs (exec (.spillProbeReturn 0 0) p) (makePair (clearSlot (pop p) 0 0 ⟨0, k, u, false⟩) 0 0 t u) &&
      (findLaunch q 0).any (fun l => freeWays (deskOf l 0) (setOf t) == 1 && setWaiting (deskOf l 0) (setOf t) == []) &&
      nextIs (exec (.spillProbeReturn 0 0) q) (putAside (clearSlot (pop q) 0 0 ⟨0, k, u, false⟩) 0 0 ⟨t, some u, true⟩) &&
      (findFrame dr 0).any returnable && nextIs (exec (.handleReturn 0) dr) (returnHandle dr 0) && (findFrame (returnHandle dr 0) 0).isNone &&
      (findFrame x.s 0).any (fun f => !returnable f) && nextIs (exec (.handleReturn 0) x.s) x.s) = true := by decide +kernel

/-- TasksReportAndCommit: a report, a close over the last report, a broadcast. -/
theorem witness_epochs :
    (let x := site 0xE0 (nr .i32 .mono) (tok 0 [7])
      let s := { x.s with issue := .none }
      let all := modLaunch s 0 fun l => { l with tiles := l.tiles.map fun t => { t with report := some keyTop }, regs := [(3, ⟨2, 1, 1⟩)] }
      let b := modLaunch s 0 fun l => { l with bcast := [3, 4], formed := some ⟨2, 1, 1⟩ };
      nextIs (exec (.frontierReport 0 3) s) (modLaunch s 0 fun l => modTile { l with regs := [] } 3 fun t => { t with report := some keyTop }) &&
      nextIs (exec (.epochClose 0) all) (pushAll (modLaunch all 0 fun l => { l with
        epoch := 1, formed := some ⟨2, 1, 1⟩, bcast := [0, 1, 2, 3, 4, 5, 6, 7], tiles := l.tiles.map fun t => { t with report := none } })
        ((List.range 8).map fun v => .frontierBroadcast 0 v)) &&
      nextIs (exec (.frontierBroadcast 0 3) b) (modLaunch b 0 fun l => modTile { l with bcast := [4] } 3 fun t => { t with frontier := some ⟨2, 1, 1⟩ })) = true := by
  decide +kernel

/-- The root frame as a task in context 0 of tile 0, in a given state, with the mailbag lines and SENDs held and the frontier. -/
def tasked (st : FrameState) (lines : List Line) (sends : List HeldSend) (k : Key) (s : State) : State :=
  modLaunch (root0 (fun f => { f with kind := .task, state := st, home := st, postmark := 2, freed := true, tokens := 0 }) { s with issue := .none }) 0
    (tile0 fun t => { t with frontier := some k, lines, sends, tasks := [{ fh := 0, phase := .spec, lines := lines.length, sends := sends.length, defer := 0, unf := 0 }] })

/-- A store line of context 0 at line 0x40: bytes 0 to 3. -/
def line40 : Line :=
  { ctx := 0, kind := 1, aop := 0, type := .u32, addr := 0x40, bmask := 0xF, data := [1, 2, 3, 4] ++ List.replicate 60 0, order := 0, vas := [0x1000], acc := [] }

/-- TasksReportAndCommit: a store enters the mailbag in its last free line, and a held SEND. -/
theorem witness_mailbag :
    (let k : Key := ⟨1, 0, 0⟩
      let x := site 0xA3 (nr .f32 .dyad 0 noWave 2 5) (tok 0 [0x1000, 0]) (some (tok 1 [7])) id (loaded [])
      let q : Req := { id := 9, op := .write, firing := x.f, space := .device, addrs := [0x1000], unit := 4, data := [7], pred := 0x3FF
                       wave := 0x3FF, succ := 0x3FF, state := .issued, emitted := true, hb := [] }
      let s := modLaunch (tasked .taskSpec [] [] k x.s) 0 fun l => { l with reqs := [q] }
      let p : Port := ⟨0, some 0⟩
      let y := site 0xB0 (nr .f32 .mono 0 0 2 5 true) (tok 0 [7]) none (withArc 1 (box 0 0 0) .bound 2)
      let h := modLaunch (tasked .taskSpec [] [] k y.s) 0 fun l => { l with cargo := [(9, .sendHeld y.f false)] };
      (match findLaunch s 0, specTask s x.f, reqCtx s x.f x.r with
        | some l, some t, some c => findReq l 9 == some q && recOf l x.f == some x.r && decide (portOf l x.f = p) &&
            checkUnits s l p false false (needOf .write) 4 (unitLane .f32) 0 [0x1000] == .ok [0x1000] &&
            linesFit l 0 (linesFor l t q [0x1000]) && decide (setReq s 0 q = s) &&
            nextIs (exec (.mailbagEntry 0 9) s) (enterReq (fillTile s l p false [0x1000]) l c t q [0x1000])
        | _, _, _ => false) &&
      let h1 := modLaunch h 0 fun l => { l with cargo := [] };
      match findLaunch h1 0, specTask h1 y.f, ctxOf h1 y.f y.r with
      | some l, some t, some c => recOf l y.f == some y.r && c.fr.state != .draining && linesFit l 0 (sendLines y.f) &&
          nextIs (exec (.mailbagEntry 0 9) h) (enterSend h1 c t)
      | _, _, _ => false) = true := by decide +kernel

/-- TasksReportAndCommit, CommittedLinesReachMemory: a commit performs its line, releases its SEND, and ends; a task enters the
frontier at its own key; both wait for a lost line that an atomic combines with. -/
theorem witness_task_commit :
    (let x := site 0xB0 (nr .f32 .mono 0 0 2 5 true) (tok 0 [7]) none (withArc 1 (box 0 0 0) .bound 2) (loaded [])
      let hs : HeldSend := { ctx := 0, order := 5, firing := x.f }
      let past : Key := ⟨3, 0, 0⟩
      let own : Key := ⟨2, 0, 0⟩
      let s := fun ls hs => tasked .taskDone ls hs past x.s
      let due := fun (s : State) (g : Launch → Frame → Bool) => match findLaunch s 0, findFrame s 0 with
        | some l, some f => g l f
        | _, _ => false
      let fr := tasked .taskSpec [line40] [] own x.s
      let atom : Line := { line40 with kind := 2 }
      let lost := fun (s : State) => { s with lost := [0x40] };
      due (s [line40] []) (fun l f => commitDue (s [line40] []) l f && nextIs (exec (.taskCommit 0 0) (s [line40] [])) (freeLines (performLines (s [line40] []) 0 [line40]) f)) &&
      readBytes (performLines (s [line40] []) 0 [line40]).mem 0xFFF 6 == [0, 1, 2, 3, 4, 0] &&
      due (s [] [hs]) (fun l f => commitDue (s [] [hs]) l f && nextIs (exec (.taskCommit 0 0) (s [] [hs])) (releaseSend (s [] [hs]) l f hs)) &&
      due (s [] []) (fun l f => commitDue (s [] []) l f && nextIs (exec (.taskCommit 0 0) (s [] [])) (finishCommit (s [] []) l f)) &&
      due fr (fun l f => frontDue fr l f && nextIs (exec (.taskFrontEntry 0 0) fr) (enterFront fr l f)) &&
      due (lost (s [atom] [])) (fun l f => commitDue (lost (s [atom] [])) l f && (lostAtom (lost (s [atom] [])).lost [atom]).any fun n =>
        nextIs (exec (.taskCommit 0 0) (lost (s [atom] []))) (askRecovery (lost (s [atom] [])) 0 n)) &&
      (let y := lost (tasked .taskSpec [atom] [] own x.s)
       due y fun l f => frontDue y l f && (lostAtom y.lost [atom]).any fun n => nextIs (exec (.taskFrontEntry 0 0) y) (askRecovery y 0 n))) = true := by decide +kernel

/-- TasksReportAndCommit: a pending record starts again in the free context of its tile. -/
theorem witness_respawn :
    (let r : SpawnRec := { id := 6, slot := 0, fh := 9, pending := true, addr := 0, respawn := 0xFFFF, parent := 0, fid := 3, ffill := 2, postmark := 4, dest := 0
                           lanes := [7], lpar := 0, hb := [] }
      let s := roomy { (site 0xE0 (nr .i32 .mono) (tok 0 [7])).s with issue := .none, spawns := [r] };
      (findLaunch s 0).any fun l => (freeTaskCtx l.man (tileOf l (homeTile r))).isSome && poolFree s 0) = true := by decide +kernel

/-- A ready device with given bytes at 0x1000 of its first 64 KiB page, queues, launches, and partition 0 on depot 0. -/
def hosted (bs : List Byte) (qs : List Queue) (ls : List Launch := []) : State :=
  { loaded bs State.reset with dev := .ready, routed := State.reset.badnode, queues := qs, launches := ls, parts := [{ partReset with depots := [0] }] }

/-- A launch whose only tensor is the 16 bytes at 0x2000. -/
def mapping : Launch :=
  let l := benchLaunch (benchManifest [] [] []);
  { l with man := { l.man with tensors := [{ tensor := 1, access := 2, base := 0x2000, bytes := 16, off := 0 }] } }

/-- QueuesTakeAndCompleteRecords: a doorbell that fills the ring and one past it, before READY and of a page not seen; writes of
the last queue, narrow, misaligned and foreign. -/
theorem witness_doorbells :
    (let s := hosted [] [{ queueReset 0 with head := 0xFFFFFFFF }]
      let w := fun fn o n v => exec (.registerWrite fn ⟨o, n⟩ v) s;
      nextIs (exec (.doorbell ⟨0, 0⟩ 15) s) (modQueue s 0 fun x => rewait { x with tail := 15 }) &&
      nextIs (exec (.doorbell ⟨0, 0⟩ 16) s) (logEntry (modQueue s 0 fun x => { x with err := true }) { kind := 1, part := 0, queue := 0, lslot := 0, value := 16, user := 0 }) &&
      nextIs (exec (.doorbell ⟨1, 0⟩ 15) s) (modQueue s 0 fun x => rewait { x with tail := 15 }) &&
      nextIs (exec (.doorbell ⟨2, 0⟩ 15) s) s && nextIs (exec (.doorbell ⟨0, 16384⟩ 15) s) s &&
      nextIs (exec (.doorbell ⟨0, 0⟩ 15) State.reset) State.reset &&
      nextIs (exec (.doorbell ⟨0, 0⟩ 15) { s with dev := .recovering }) (modQueue { s with dev := .recovering } 0 fun x => rewait { x with tail := 15 }) &&
      nextIs (w 0 (0x100000 + 32 * 16383) 8 0x51) (modQueue s 16383 fun x => rewait { x with en := true, pause := true, err := false }) &&
      nextIs (w 2 0x100000 8 1) s && nextIs (w 0 0x100004 8 1) s && nextIs (w 0 0x100000 4 1) s && nextIs (w 0 0x1018 8 1) s &&
      nextIs (w 0 (0x2200 + 8 * 35) 8 0) s) = true := by decide +kernel

/-- QueuesTakeAndCompleteRecords: the dispatcher chooses by weight, takes a good and a bad record, and finds none. -/
theorem witness_dispatch :
    (let q := fun (n w : Nat) => { queueReset n with base := 0x1000, tail := 1, en := true, weight := w }
      let s := fun (b : Byte) => hosted [b] [q 0 1, q 7 3]
      let r := fun (b : Byte) => parseRecord (cpRead (s b) 0x1000 128) 0 false
      let t := fun (b : Byte) => { s b with rotation := 1, queues := [{ q 0 1 with cnt := 1 }, takeRecord { q 7 3 with cnt := -1 } (r b)] };
      nextPart (s 3) == some 0 && (chosen ((contenders (s 3) 0).map fun q => { q with cnt := q.cnt + queueWeight q })).map (·.q) == some 7 &&
      nextIs (exec .dispatch (s 3)) (t 3) && nextIs (exec .dispatch (s 5)) (finishRecord (t 5) 7 (r 5) (plainDone 0x80 0) []) &&
      nextIs (exec .dispatch State.reset) State.reset) = true := by decide +kernel

/-- QueuesTakeAndCompleteRecords: FENCE, COPY outside and across the last byte of a mapped tensor, INVAL of a mapped range and of
another. -/
theorem witness_records :
    (let run := fun (r : Rec) => hosted [5, 6] [{ queueReset 0 with running := some r }] [mapping]
      let cp := fun (dst : Nat) => { benchRec with kind := 2, body0 := 0x1000, body1 := dst, body2 := 2 }
      let iv := fun (a : Nat) => { benchRec with kind := 4, body0 := a, body1 := 0x100 }
      let fe := { benchRec with kind := 3 }
      let free := run (cp 0x2010)
      let bad := fun (s : State) (u : UnitCheck) (src dst : Nat) => let c := { cp dst with body0 := src, pasidv := true }
        let s := { s with queues := [{ queueReset 0 with running := some c }] }
        let l := recordSetting s 0 c
        (match copyEnd s l src 2 ⟨true, false⟩, copyEnd s l dst 2 ⟨false, true⟩ with
          | .ok _, .error e => decide (e = u)
          | .error e, _ => decide (e = u)
          | _, _ => false) && nextIs (exec (.copyRecord 0) s) (match u with
          | .trap t => finishRecord s 0 c (plainDone t.code t.detail) []
          | .lost _ => finishRecord s 0 c (plainDone 0x16 0) []
          | _ => s)
      let met := run (cp 0x200F);
      nextIs (exec (.fence 0) (run fe)) (finishRecord (run fe) 0 fe (plainDone 0 0) []) &&
      (match copyEnd free (recordSetting free 0 (cp 0x2010)) 0x1000 2 ⟨true, false⟩, copyEnd free (recordSetting free 0 (cp 0x2010)) 0x2010 2 ⟨false, true⟩ with
        | .ok src, .ok dst => rangeFoes free 0 (copyRange 0x1000 2 1 ++ copyRange 0x2010 2 2) == [] &&
            nextIs (exec (.copyRecord 0) free) (finishRecord (copyWrite free false dst (copyBytes free false src)) 0 (cp 0x2010) (plainDone 0 0) []) &&
            readBytes (copyWrite free false dst (copyBytes free false src)).mem 0x200F 4 == [0, 5, 6, 0]
        | _, _ => false) &&
      rangeFoes met 0 (copyRange 0x1000 2 1 ++ copyRange 0x200F 2 2) != [] && nextIs (exec (.copyRecord 0) met) (finishRecord met 0 (cp 0x200F) (plainDone 0x81 0) []) &&
      bad free (.trap ⟨0x07, 0, 0⟩) 0x1000 0x10000 && bad free (.trap ⟨0x07, 0, 0⟩) 0x20000 0x1000 &&
      bad { free with lost := [0] } (.lost 0) 0x1000 0x20000 && bad free (.miss 0 1) 0x8000000000001000 0x1000 &&
      (let w := run { iv 0x200F with hostinv := true, pasid := 5 };
        nextIs (exec (.inval 0) w) (beginInval { w with nextId := 1 } 0 (.pasid 5 0x200F 0x100) (some 0))) &&
      nextIs (exec (.inval 0) (run (iv 0x200F))) (finishRecord (run (iv 0x200F)) 0 (iv 0x200F) (plainDone 0x81 0) []) &&
      nextIs (exec (.inval 0) (run (iv 0x2010))) (beginInval { run (iv 0x2010) with nextId := 1 } 0 (.part 0 0x2010 0x100) (some 0))) = true := by decide +kernel

/-- The same image with two tensors of one range, both written, in a declarations section. -/
def twice : List Byte :=
  let header := 0x4D5A4543 + 1 <<< 32 + 2 <<< 48 + 640 <<< 64 + 1 <<< 96
  let table := 1 + 1 <<< 32 + 128 <<< 64 + 400 <<< 96 + (4 + 2 <<< 32 + 576 <<< 64 + 64 <<< 96) <<< 128
  let tensor := fun (k : Nat) => 5 + 32 <<< 16 + (k + 2 <<< 16 + 0x2000 <<< 32 + 16 <<< 96) <<< 64
  leBytes 640 (header + table <<< 512 + 1 <<< 1024 + 0xE00000000000000000000000 <<< 1152 + 0x3FFFFFFFFF00000000 <<< 1152 +
    tensor 1 <<< 4608 + tensor 2 <<< 4864)

/-- LaunchesStageSealAndEnd: a pinned image staged, blocked by a launch on its depot, beyond its partition, not readable, invalid,
with tensors that overlap, and one that route tables to be built anew let stage or keep waiting. -/
theorem witness_launch :
    (let img := leBytes 576 (leNat (image 1) + 2 ^ 102)
      let r : Rec := { benchRec with body0 := 0x1000 }
      let at1 := fun (r : Rec) (bs : List Byte) (ls : List Launch) => hosted bs [{ queueReset 1 with running := some r }] ls
      let s := at1 r img []
      let far := { r with body0 := 0x100000 }
      let b := at1 r img [benchLaunch (benchManifest [] [] [])]
      let u := { s with parts := [partReset] }
      let x := at1 far img []
      let i := at1 r [0] []
      let old := { s with routed := s.badnode.set 0 0x100 }
      let wait := { old with launches := [benchLaunch (benchManifest [] [] [])] }
      let both := at1 r twice [];
      (match loadLaunch s 0 r with
        | .ok (s1, m) => ownOverlap m.tensors == none && !unplaceable s1 0 m 0 && findPlace s1 0 m 0 == some (1, [0]) &&
            nextIs (exec (.launch 1) s) (stageLaunch s1 1 r m 1 [0])
        | .error _ => false) &&
      (match loadLaunch b 0 r with
        | .ok (s1, m) => !unplaceable s1 0 m 0 && findPlace s1 0 m 0 == none && nextIs (exec (.launch 1) b) (blockLaunch s1 1 r m)
        | .error _ => false) &&
      (match loadLaunch u 0 r with
        | .ok (s1, m) => unplaceable s1 0 m 0 && nextIs (exec (.launch 1) u) (finishRecord s1 1 r (plainDone 0x82 0) [])
        | .error _ => false) &&
      (match loadLaunch x 0 far with
        | .error .fetch => nextIs (exec (.launch 1) x) (finishRecord x 1 far (plainDone 0x16 0) [])
        | _ => false) &&
      (match loadLaunch both 0 r with
        | .ok (s1, m) => ownOverlap m.tensors == some 608 &&
            nextIs (exec (.launch 1) both) (finishRecord s1 1 r { plainDone 0x17 (errDetail (608, 0x0B)) with moffset := 608 } [])
        | .error _ => false) &&
      (match loadLaunch old 0 r, loadLaunch wait 0 r with
        | .ok (s1, m), .ok (s2, n) => (routedState s1).any (fun t => (findPlace t 0 m 0).any fun p =>
              nextIs (exec (.launch 1) old) (stageLaunch t 1 r m p.1 p.2)) &&
            routedState s2 == none && !unplaceable s2 0 n 0 &&
            nextIs (exec (.launch 1) wait) (modQueue s2 1 fun x => { putRecord x r with blocked := true })
        | _, _ => false) &&
      (match loadLaunch i 0 r with
        | .error (.invalid e) => nextIs (exec (.launch 1) i) (finishRecord i 1 r { plainDone 0x17 (errDetail e) with moffset := e.1 } [])
        | _ => false)) = true := by decide +kernel

/-- LaunchesStageSealAndEnd: seal waves before the last and the last, the commit wave of a launch, of a mode and of seeds left,
the end and the release of a slot. -/
theorem witness_seal :
    (let l0 := benchLaunch (benchManifest [(0, benchNode 0xE0)] [] [])
      let st := fun (n : Nat) => hosted [] [queueReset 0] [{ l0 with phase := .staging, tiles := l0.tiles.map fun t => { t with state := .staging, answered := decide (t.vtile < n) } }]
      let on := fun (g : Launch → Launch) => hosted [] [queueReset 0] [g l0]
      let sealed := on fun l => { l with phase := .sealed }
      let modal := on fun l => { l with staged := some l.man, reconf := some (benchFiring false), tiles := l.tiles.map fun t => { t with answered := true } }
      let ends := on fun l => { l with phase := .ended }
      let gone := { on (fun l => { l with phase := .closed }) with agenda := [⟨⟨1, 0, 0, 0⟩, .tokenArrival 0 4⟩, ⟨⟨1, 1, 0, 0⟩, .tokenArrival 1 4⟩] }
      let answered := fun (v : Nat) (s : State) (ph : Phase) => match exec (.sealWave 0 7) s with
        | .next t => (findLaunch t 0).any fun l => (findLaunch s 0).any fun k => decide (l = { modTile k v fun t => { t with answered := true } with phase := ph })
        | _ => false
      let has := fun (s : State) (g : Launch → Bool) => (findLaunch s 0).any g;
      answered 7 (st 7) .sealed && answered 7 (st 6) .staging &&
      has sealed (fun l => l.phase == .sealed) &&
      has modal (fun l => nextIs (exec (.commitWave 0) modal) (commitMode modal l l.man (benchFiring false))) &&
      nextIs (exec (.commitWave 0) (on id)) (injectSeeds (on id) 0 []) &&
      has ends (fun l => nextIs (exec (.launchEnd 0) ends) (completeLaunch ends l)) &&
      has (on id) (fun l => endDue (on id) l && nextIs (exec (.launchEnd 0) (on id)) (completeLaunch (on id) l)) &&
      has (st 8) (fun l => !endDue (st 8) l && nextIs (exec (.launchEnd 0) (st 8)) (st 8)) &&
      nextIs (exec (.slotRelease 0) gone) { gone with launches := [], agenda := [⟨⟨1, 1, 0, 0⟩, .tokenArrival 1 4⟩] } && nextIs (exec (.slotRelease 0) ends) ends) = true := by
  decide +kernel

/-- LaunchesStageSealAndEnd: arcs of two launches bound at either end, an arc with no partner, a cross-package arc with its peer,
with a declaration of another end and without one, and one with no plane. -/
theorem witness_bindings :
    (let l := fun (slot kind : Nat) (src dst : Nat) =>
        { benchLaunch (benchManifest [] [] []) with
          slot
          man := { (benchManifest [] [] []) with arcs := [{ arc := 1, kind, src, dst, lb := 0, delay := 0, peer := 1 }] }
          arcs := [{ arc := 1, credit := 0, bind := .unbound, slots := 2, slotb := 64, peerSlot := 0, peerArc := 1, peerTile := 0, plane := 0, cver := 0, sent := 0, fired := 0, frees := [] }] }
      let s := hosted [] [] [l 0 2 0 0x3FFFF, l 1 2 0x3FFFF 0]
      let one := hosted [] [] [l 0 2 0 0x3FFFF]
      let c := { hosted [] [] [l 0 3 0 0x3FFFF] with comms := [{ cver := 4, entries := [{ valid := true, pkg := 3, rpart := 0, planes := 6 }, { valid := true, pkg := 0, rpart := 0, planes := 6 }] }] };
      let part := fun (slot : Nat) => (match findLaunch s slot with
        | some l => match l.man.arcs.head? with
          | some a => match arcPartner s l a with
            | some (o, b) => unboundArc l a &&
                nextIs (exec (.arcBind slot 1 none) s) (if a.src == 0x3FFFF then bindPair s o b l a else bindPair s l a o b)
            | none => false
          | none => false
        | none => false);
      part 0 && part 1 && nextIs (exec (.arcBind 0 1 none) one) one && 
      (findLaunch c 0).any (fun l => l.man.arcs.head?.any fun a => (c.comms.head?.bind fun m => m.entries.head?).any fun e => planeOf e 1 == some 2 &&
        nextIs (exec (.arcBind 0 1 none) c) (sendFlit c 2 3 (.declare (declaration c l a) false))) &&
      (let dead := { c with comms := [{ cver := 4, entries := [{ valid := true, pkg := 3, rpart := 0, planes := 0 }] }] };
        nextIs (exec (.arcBind 0 1 none) dead) (modLaunch dead 0 fun l => modArc l 1 fun x => { x with bind := .broken 3 })) &&
      (let p : ArcPeer := { pkg := 3, part := 0, rank := 1, rendezvous := 1, producer := false, slot := 9, arc := 8, delay := 0, slots := 4, slotb := 128, rates := [] };
        nextIs (exec (.arcBind 0 1 (some p)) c) (modLaunch c 0 fun l => modArc l 1 fun x =>
          { x with bind := .bound, peerSlot := 9, peerArc := 8, plane := 2, cver := 4, credit := 4, slots := 4, slotb := 128 }) &&
        [{ p with pkg := 4 }, { p with part := 1 }, { p with rank := 0 }, { p with rendezvous := 2 }, { p with producer := true }].all fun o =>
          nextIs (exec (.arcBind 0 1 (some o)) c) c)) = true := by decide +kernel

/-- RegionsClocksAndMetersChange: a halt asked of a running region, a staging one, one due to commit and a MODE staged and due;
halts that end before the last and at it. -/
theorem witness_halts :
    (let l0 := benchLaunch (benchManifest [(0, benchNode 0xE0)] [] [])
      let on := fun (g : Launch → Launch) => hosted [] [queueReset 0] [g l0]
      let has := fun (s : State) (g : Launch → Bool) => (findLaunch s 0).any g
      let st := fun (a b : TileState) => on fun l => { l with phase := .halting, tiles := l.tiles.map fun t => { t with state := if t.vtile = 3 then a else b } }
      let halts := fun (s : State) (ph : Phase) => has s fun l => tileIdle s l (tileOf l 3) && l.couriers.all (fun q => q.pending == 0) &&
        nextIs (exec (.haltComplete 0 3) s) (setLaunch s { modTile l 3 (fun t => { t with state := .halted }) with phase := ph })
      let early := on fun l => { l with phase := .staging }
      let sealed := on fun l => { l with phase := .sealed }
      let modal := fun (b : Bool) => on fun l => { l with reconf := some (benchFiring false), staged := some l.man
                                                          tiles := l.tiles.map fun t => { t with state := .staging, answered := b } };
      nextIs (exec (.haltRequest 0) (on id)) (modLaunch (on id) 0 fun l => { l with phase := .halting, tiles := l.tiles.map fun t => { t with state := .halting } }) &&
      has early (fun l => nextIs (exec (.haltRequest 0) early) (abandonLaunch early l)) &&
      nextIs (exec (.haltRequest 0) sealed) (pushAlone sealed (.haltRequest 0)) &&
      nextIs (exec (.haltRequest 0) (modal true)) (pushAlone (modal true) (.haltRequest 0)) &&
      has (modal false) (fun l => nextIs (exec (.haltRequest 0) (modal false)) (modLaunch (abortMode (modal false) l (benchFiring false)) 0 haltRegion)) &&
      halts (st .halting .halting) .halting && halts (st .halting .halted) .halted) = true := by decide +kernel

/-- RegionsClocksAndMetersChange: an exchange of folds, a shrink and none, a restoration begun, ended, and of a region whose
depots are taken, running and halted. -/
theorem witness_regions :
    (let l0 := benchLaunch (benchManifest [(0, benchNode 0xE0)] [] [])
      let on := fun (g : Launch → Launch) => hosted [] [queueReset 0] [g l0]
      let has := fun (s : State) (g : Launch → Bool) => (findLaunch s 0).any g
      let shrunk := on fun l => { l with phase := .halted, target := 2 }
      let at1 := fun (ph : Phase) (d : Nat) => on fun l => { l with phase := ph, fold := 2, target := 2, live := 1, before := [(1, [d])] };
      has (at1 .running 0) (fun l => (l.tiles.all fun t => !bankLive l t.vtile || tileIdle (at1 .running 0) l t) &&
        nextIs (exec (.foldExchange 0) (at1 .running 0)) (setLaunch (at1 .running 0) { l with live := 0 })) &&
      has shrunk (fun l => nextIs (exec (.regionShrink 0) shrunk) (unblock (setLaunch (leaveRegion shrunk l) (resumeRegion
        (resetRates shrunk { l with depots := [0], fold := 2, live := 0, before := [(1, [0])] }))) 0)) &&
      has (at1 .halted 0) (fun l => nextIs (exec (.regionShrink 0) (at1 .halted 0)) (setLaunch (at1 .halted 0) (resumeRegion l))) &&
      nextIs (exec (.foldRestore 0) (at1 .running 0)) (pushAll (at1 .running 0) [.haltRequest 0, .foldRestore 0]) &&
      has (at1 .halted 0) (fun l => nextIs (exec (.foldRestore 0) (at1 .halted 0)) (setLaunch (leaveRegion (at1 .halted 0) l)
        (resumeRegion (resetRates (at1 .halted 0) { l with depots := [0], fold := 1, target := 1, live := 0, before := [] })))) &&
      !(freeDepots (at1 .running 5) 0).contains 5 && nextIs (exec (.foldRestore 0) (at1 .running 5)) (at1 .running 5) &&
      has (at1 .halted 5) (fun l => nextIs (exec (.foldRestore 0) (at1 .halted 5)) (setLaunch (at1 .halted 5) (resumeRegion l)))) = true := by
  decide +kernel

/-- RegionsClocksAndMetersChange: an idle region with a held firing, one not running and one with a SEMWAIT; clock steps at both
ends and beyond; a trip of a region's die, with and without another trip. -/
theorem witness_clocks :
    (let x := site 0xE0 (nr .i32 .mono) (tok 0 [9]) none fun l =>
        { modDesk l 0 (fun d => { d with ready := [⟨benchFiring false, false, true⟩] }) with
          depots := [0, 9], meters := List.replicate 4 ⟨0, 64, 7⟩ }
      let s := { x.s with issue := .none, clocks := [2400, 2400, 2400, 2400] }
      let off := modLaunch s 0 fun l => { l with phase := .halted }
      let w := modLaunch s 0 fun l => { l with reqs := [{ id := 9, op := .semWait, firing := x.f, space := .device, addrs := [0], unit := 8, data := [], pred := 0
                                                          wave := 0, succ := 0, state := .waiting, emitted := false, hb := [] }] }
      let clock := fun (mhz k : Nat) => nextIs (exec (.clockStep 3 mhz) s) { s with clocks := [2400, 2400, 2400, k] }
      let rates := fun (s : State) (f : Nat → Nat) => modLaunch s 0 fun l => { l with meters := l.meters.mapIdx fun k m => { m with rate := f k } }
      let low := fun k => meterCap 1 k / 16
      let trip := rates { s with trips := [true, false, false, false], clocks := [1200, 2400, 2400, 2400] } low
      let two := { trip with trips := [true, true, false, false] };
      (findLaunch s 0).any (fun l => !idleExempt s l && heldFirings s l != [] && launchIdle s l &&
        nextIs (exec (.deadlockIdle 0) s) (trapDeadlock s 0 1 (heldFirings s l))) &&
      (findLaunch w 0).any (fun l => idleExempt w l && nextIs (exec (.deadlockIdle 0) w) w) && nextIs (exec (.deadlockIdle 0) off) off &&
      clock 1200 1200 && clock 1100 2400 && clock 2500 2400 && clock 1250 2400 &&
      nextIs (exec (.thermalTrip 0) s) trip && nextIs (exec (.clockStep 0 2000) trip) trip &&
      nextIs (exec (.thermalClear 0) trip) (rates s fun _ => 0) &&
      nextIs (exec (.thermalClear 0) two) (rates { two with trips := [false, true, false, false], clocks := [2400, 2400, 2400, 2400] } low) &&
      nextIs (exec .meterRefill trip) (modLaunch trip 0 fun l => { l with meters := l.meters.map fun m => { m with level := 64 } })) = true := by
  decide +kernel

/-- DeviceBootsReportsAndResets: BOOTGO in each state, a failed fetch, a bad image, initialisations that end well and badly, a
report started. Whether an image is good rests on free functions (log entry 8), so no witness can name one. -/
theorem witness_boot :
    (let s := State.reset
      let go := fun (d : DevState) => { s with dev := d }
      let cfg := { cfgReset with ok := true, version := 7, stackMap := 0xF7FF, budget := 2401, badnode := List.replicate 36 0xFFFFFFFFFFFFFFFF }
      let att := { go .ready with attBusy := true };
      nextIs (exec (.bootgo 1) s) (pushAlone { s with dev := .loading } (.bootImageChecked true)) &&
      nextIs (exec (.bootgo 1) { go .failed with failcode := 4 }) (pushAlone { s with dev := .loading } (.bootImageChecked true)) &&
      nextIs (exec (.bootgo 1) (go .init)) (go .init) && nextIs (exec (.attestGo 1) (go .ready)) (pushAlone att .attestReportDone) &&
      nextIs (exec (.bootImageChecked false) (go .loading)) { go .failed with failcode := 1 } && imageFail [] == some 2 &&
      nextIs (exec (.bootImageChecked true) (go .loading)) { go .failed with failcode := 2 } &&
      nextIs (exec (.bootReady cfgReset) (go .init)) { go .failed with failcode := 6 } &&
      nextIs (exec (.bootgo 1) (go .failed)) (pushAlone { s with dev := .loading } (.bootImageChecked true)) &&
      match exec (.bootReady cfg) (go .init) with
      | .next t => t.dev == .ready && t.budget == 2400 && t.cfg.memBytes == 528 * 2 ^ 30 && t.queues == [] && t.routed == t.badnode &&
          t.badnode == (upTo 36).map (fun d => BitVec.ofNat 64 (badnodeMask d))
      | _ => false) = true := by decide +kernel

/-- DeviceBootsReportsAndResets: flits that fail once and twice, a hop log cleared and not, recoveries, an FLR, resets. -/
theorem witness_resets :
    (let x := site 0xE0 (nr .i32 .mono) (tok 0 [9])
      let s := { flying x (tok 0 [9]) with badnode := 2 :: List.replicate 35 0, hoplog := List.replicate 35 0 ++ [255 * 2 ^ 48], bus := [(0x40, 5)] }
      let flit := fun c port fail retry => exec (.flitReceive 0 c 35 port 0 1 fail retry) s;
      nextIs (flit (.token 4) 2 false true) s && !portExists 35 10 && nextIs (flit (.token 4) 10 true true) s && nextIs (flit (.token 5) 2 true true) s &&
      portExists 35 7 && portExists 35 8 && nextIs (flit (.token 4) 2 true false) { s with telemetry := modAt s.telemetry 19 (· + 1) } &&
      nextIs (flit .barrier 2 true true) (endFault { s with
        hoplog := modWord s.hoplog 35 fun w => logHop w 2 2 1, badnode := modWord s.badnode 35 fun w => w ||| portBit 2 } 0 0x05 3 none) &&
      (match flit (.token 4) 2 true true with
        | .next t => field (t.badnode.getD 35 0).toNat 0 17 == portBit 2 && (findLaunch t 0).any fun l => decide (l.flights ≠ [(4, tok 0 [9])])
        | _ => false) &&
      nextIs (exec (.hoplogClear 35 (2 ^ 63)) s) { s with hoplog := List.replicate 36 0 } && nextIs (exec (.hoplogClear 35 0) s) s &&
      nextIs (exec (.recovery (.line 7)) s) { s with lost := [7] } &&
      nextIs (exec (.recovery (.sram 0 3 9)) s) (modLaunch s 0 fun l => modTile l 3 fun t => { t with bad := [9] }) &&
      (match exec (.recovery (.die 0)) s, exec (.recovery (.die 1)) s with
        | .next t, .next u => t.recovering == [(0, none)] && (t.launches.all fun l => l.phase == .ended) && u.launches == s.launches
        | _, _ => false) &&
      (match exec (.recovery (.read 0 7)) s, exec (.recovery (.owned 0)) s with
        | .next t, .next u => t.lost == [7] && t.epoch == 0 && t.dev == .recovering && nextIs (exec (.vfFlr 0) t) (pushAlone t (.vfFlr 0)) &&
            u.recovering == [(0, none)] && match exec (.recovery (.owned 0)) t, exec (.recovery (.owned 0)) { t with recovering := [(0, some 7), (3, none)] } with
              | .next v, .next w => v.dev == .ready && v.epoch == 1 && v.recovering == [] && (v.launches.all fun l => l.phase == .closed) &&
                  w.dev == .recovering && w.recovering == [(3, none)]
              | _, _ => false
        | _, _ => false) &&
      (match exec (.vfFlr 0) { s with queues := [{ queueReset 3 with en := true, head := 4, tail := 6, done := 3 }] } with
        | .next t => t.queues == [queueReset 3] && (t.launches.all fun l => l.phase == .closed) && t.bus == [(0x40, 5)]
        | _ => false) &&
      nextIs (exec .pfReset s) { State.reset with bus := [(0x40, 5)], badnode := 2 :: List.replicate 35 0, nextId := s.nextId, tick := s.tick } &&
      nextIs (exec .powerUp s) { State.reset with bus := [(0x40, 5)], nextId := s.nextId, tick := s.tick }) = true := by decide +kernel

/-- TrapsAreTakenPrecisely: a trap of the root frame with a handler and without one. -/
theorem witness_traps :
    (let at1 := fun (h : Option Nat) => site 0xE2 (nr .i32 .mono 0 7) (tok 0 [9]) none fun l => { l with tickets := 65535, man := { l.man with handler := h } }
      let ok := fun (x : Site) (g : Launch → State → Bool) => match findLaunch x.s 0, findFrame x.s 0 with
        | some l, some f => decide (l.tickets < 65536) && l.office != 0 && !speculative x.s 0 && !speculative x.s l.office && f.state != .draining &&
            g l (trapFiring x.s x.f ⟨0x14, 7, 0⟩) && (findFrame (trapFiring x.s x.f ⟨0x14, 7, 0⟩) 0 == some { f with
              state := .parkedFault, home := standing f, fcode := 0x14, opens := [65535] })
        | _, _ => false;
      ok (at1 (some 3)) (fun l u => placeDest 6 != 0x7FFFF && l.man.handler == some 3 && (findLaunch u 0).any fun l1 => l1.phase == .running && l1.flights.length == 1) &&
      ok (at1 none) (fun l u => l.phase != .ended && (findLaunch u 0).any fun l1 => l1.phase == .ended && l1.code == 0x14 && l1.detail == 7)) = true := by
  decide +kernel

/-- LastPostsDeadLettersAndDrainingPass: a last post and a dead letter at a shared node, at NOP, RECV and BARINIT; a last post of
GATE with a dead credit; a draining frame's firing; a last post of a load. -/
theorem witness_passing :
    (let lp := fun opc (r : NodeRec) => site opc r (tok 0 [0] 0 0 false true) none (modDesk · 0 fun d => { d with ord := [⟨0, 0, 0⟩] })
      let dl := fun opc (r : NodeRec) => site opc r (tok 0 [3] 0 0 true) none
      let both := fun opc (r : NodeRec) (p : Policy) (i : NodeRec → Instr) =>
        passesLast (lp opc r) p i (fun c => outBoth c [0] false true []) && passesDead (dl opc r) p i (fun c => outBoth c (poisonLanes 1 3) true false [])
      let out := nr .i32 .mono 0 0 2 5
      let dr := site 0xE0 out (tok 0 [9]) none id (root0 fun f => { f with state := .draining });
      both 0x16 out plain (fun r => .clz (.node r)) && both 0xE0 out plain .nop && both 0xB1 (nr .i32 .mono 0 0 2 5 true) (streamOf 3) .recv &&
      both 0xB3 out (specOf 3) .barinit &&
      passesLast (site 0x92 (nr .i32 .lit 0 3 2 5) (tok 0 [0] 0 0 false true) (some (tok 1 [6] 0 0 true))) { plain with trigger := true } .gate
        (fun c => outBoth c [6] true true []) &&
      sees dr (fun c => c.fr.state == .draining && nextIs (exec (.nop c.r) dr.s) (consume dr.s 0 1)) &&
      passesLast (lp 0xA2 (nr .f32 .mono 0 noWave 2 5)) plain .ldm (fun c => outBoth c [0] false true [])) = true := by decide +kernel

/-- OnlyTheHostAndItsEventsChangeTheHostsView, StepsKeepMemoriesCanonical, ProgramsKeepTheMachineOutsideTheirLaunch: a NOP, a
doorbell and a step each answer a next state. -/
theorem witness_answers :
    (let x := site 0xE0 (nr .i32 .mono) (tok 0 [9])
      let s := hosted [5] [{ queueReset 0 with en := true }];
      (match exec (.nop x.r) x.s with
        | .next t => !hostEvent (.nop x.r) && decide (hostView t = hostView x.s) && decide (outside t = outside x.s)
        | _ => false) &&
      memoriesWf s && (match exec (.doorbell ⟨0, 0⟩ 1) s with
        | .next t => memoriesWf t && match step t with
          | .next u => memoriesWf u
          | _ => false
        | _ => false)) = true := by decide +kernel

/-- Whether a state's next action is a given one, and its step is the execution of an instruction there, settled. -/
def stepsAs (s : State) (a : Act) (o : Out) : Bool :=
  picked s == some a && match o with
    | .next t => nextIs (step s) (settleAct s a t)
    | _ => false

/-- StepsRunTheDecodedInstruction: a firing, a block's and a round's next instruction, an event of the agenda, one the state
brings about, and nothing enabled. -/
theorem witness_steps :
    (let n := State.reset.withFetchWord 96 (benchNode 0xE0)
      let r : Ready := ⟨benchFiring false, false, false⟩
      let w := packFields (blockLayout.zip (blockFields 0x00 (br .u32 7 1 2)))
      let b := { (bsite 0x00 (br .u32 7 1 2)).s with issue := .none }
      let q := rsite (List.replicate 8 0) id fun l => { l with man := { l.man with rounds := [(0, [0x0680FFFFFFFFFFFE])] } }
      let rs := { q.s with issue := .none }
      let e := { State.reset with agenda := [⟨⟨0, 0, 0, 0⟩, .bootgo 1⟩] }
      let d := hosted [3] [{ queueReset 0 with base := 0x1000, tail := 1, en := true }];
      okInstr (decodeNode (benchNode 0xE0)) == some (.nop (nr .i32 .mono 0 0 0x7FFFF)) &&
      stepsAs n (.fire 0 0 r) (exec (.nop (nr .i32 .mono 0 0 0x7FFFF)) { takeReady n 0 0 r with issue := .node r.firing }) &&
      okInstr (decodeBlock w) == some (.add (.block (br .u32 7 1 2))) &&
      stepsAs b (.block 0 0 0) (exec (.add (.block (br .u32 7 1 2))) { b with issue := .block 0 0 0 }) &&
      (match okInstr (decodeRound 0x0680FFFFFFFFFFFE) with
        | some i => stepsAs rs (.round 0 0) (exec i { rs with issue := .round 0 0 })
        | none => false) &&
      stepsAs e (.event 0) (exec (.bootgo 1) { e with agenda := [] }) && stepsAs d (.make .dispatch) (exec .dispatch d) &&
      picked State.reset == none && nextIs (step State.reset) State.reset) = true := by decide +kernel

/-- The fields of a frame table entry, a spill slot, a park pool entry, a monitor slot and a task context stand at the bits of
R21, R36, R240, R232 and R331. -/
theorem test_layouts :
    (let l := benchLaunch (benchManifest [] [] [])
      let f := { makeFrame State.reset l 5 9 .task 0x8000000000000001 63 7 with state := .taskFront, tcidx := 127, tokens := 3 }
      let e := frameEntryBits l f
      let t := tok 1 [7, 6] 0x55 9 true
      let m : Monitor := { count := 2, firings := 3, fh := 0xFFFFE, phases := 64, role := 1, arc := 5, kind := 2, node := 0 }
      let c : TaskCtx := { fh := 9, phase := .front, lines := 512, sends := 255, defer := 1, unf := 0xFFFF };
      field e 448 64 == 0x8000000000000001 && field e 441 7 == 63 && field e 421 20 == 9 && field e 402 4 == 6 && field e 400 2 == 2 &&
      field e 363 24 == 3 && field e 299 64 == 7 && field e 169 7 == 127 && field e 0 169 == 0 &&
      bit (spillSlotBits t) 1151 && bit (spillSlotBits t) 1150 && field (spillSlotBits t) 1143 7 == 9 && field (spillSlotBits t) 1138 5 == 1 &&
      field (spillSlotBits t) 1135 3 == 4 && field (spillSlotBits t) 1024 64 == 0x55 && field (spillSlotBits t) 32 32 == 6 &&
      field (poolEntryBits t) 1152 19 == 1 && field (poolEntryBits t) 1171 20 == 0 &&
      field (monitorBits m) 96 32 == 2 && field (monitorBits m) 44 20 == 0xFFFFE && field (monitorBits m) 33 7 == 64 && field (monitorBits m) 16 16 == 5 &&
      field (taskCtxBits c) 108 20 == 9 && field (taskCtxBits c) 106 2 == 3 && field (taskCtxBits c) 96 10 == 512 && field (taskCtxBits c) 64 16 == 0xFFFF) = true := by
  decide +kernel

end Sys2Proof.Tests
end

section
/-! SUPPORT. Patterns of the IEEE shaped formats as a sign and a magnitude: the value of a magnitude grows with its bits
(R42), a value that a format holds rounds to its own bits (R49), and FMIN and FMAX choose by the order of the patterns
(R46). -/

namespace Sys2Proof.NumberFormats

open Machine

/-- What the formats but e4m3 share: an exponent field whose top value is infinity or NaN (R41, R42). -/
structure IeeeShaped (f : Fmt) : Prop where
  ieee : f.ieee = true
  expw_pos : 0 < f.expw

/-- The sign bit of a pattern (R42). -/
def signBit (f : Fmt) (x : Nat) : Bool := bit x (f.expw + f.frac)

/-- The bits of a pattern below its sign. -/
def magBits (f : Fmt) (x : Nat) : Nat := low (f.expw + f.frac) x

/-- How far the last place of a magnitude stands above that of a subnormal one: `E - 1`, and 0 for `E = 0` (R42). -/
def ulpShift (f : Fmt) (n : Nat) : Nat := n / 2 ^ f.frac - 1

/-- The significand of a magnitude, with the leading bit of a normal one: `n = shift * 2 ^ frac + significand`. -/
def significand (f : Fmt) (n : Nat) : Nat := n - ulpShift f n * 2 ^ f.frac

/-- The value of a magnitude in units of the least subnormal number. An infinity counts as the next power of two above the
finite values, which keeps it above them. -/
def magValue (f : Fmt) (n : Nat) : Nat := significand f n * 2 ^ ulpShift f n

/-- The value of a pattern in units of the least subnormal number. -/
def signedValue (f : Fmt) (x : Nat) : Int := if signBit f x then -(magValue f (magBits f x)) else magValue f (magBits f x)

/-- The place of a pattern in the order of R46: -0 stands just below +0. -/
def orderKey (f : Fmt) (x : Nat) : Int := if signBit f x then -(magBits f x : Int) - 1 else magBits f x

/-- What FMIN and FMAX order their operands by: the order of the values, -0 below +0 (R46). -/
def below (a b : Val) : Bool := valLt a b || (isZero a && isZero b && signOf a && !signOf b)

variable {f : Fmt} {n x y z : Nat}

/-! The parts of a magnitude. -/

theorem ulpShift_of_lt (h : n < 2 ^ f.frac) : ulpShift f n = 0 := by
  simp [ulpShift, Nat.div_eq_of_lt h]

theorem significand_of_lt (h : n < 2 ^ f.frac) : significand f n = n := by
  simp [significand, ulpShift_of_lt h]

theorem ulpShift_of_le (h : 2 ^ f.frac ≤ n) : ulpShift f n + 1 = n / 2 ^ f.frac :=
  Nat.sub_add_cancel ((Nat.one_le_div_iff (Nat.two_pow_pos _)).2 h)

theorem ulpShift_mul_le (f : Fmt) (n : Nat) : ulpShift f n * 2 ^ f.frac ≤ n :=
  calc ulpShift f n * 2 ^ f.frac
    _ ≤ n / 2 ^ f.frac * 2 ^ f.frac := Nat.mul_le_mul_right _ (Nat.sub_le _ _)
    _ ≤ n := Nat.div_mul_le_self _ _

theorem shift_add_significand (f : Fmt) (n : Nat) : ulpShift f n * 2 ^ f.frac + significand f n = n :=
  Nat.add_sub_cancel' (ulpShift_mul_le f n)

theorem significand_of_le (h : 2 ^ f.frac ≤ n) : significand f n = 2 ^ f.frac + n % 2 ^ f.frac := by
  have hn := Nat.div_add_mod' n (2 ^ f.frac)
  rw [← ulpShift_of_le h, Nat.add_one_mul] at hn
  have := shift_add_significand f n
  omega

theorem significand_pos (h : n ≠ 0) : 0 < significand f n := by
  rcases Nat.lt_or_ge n (2 ^ f.frac) with hn | hn
  · rw [significand_of_lt hn]; omega
  · rw [significand_of_le hn]; positivity

theorem significand_lt (f : Fmt) (n : Nat) : significand f n < 2 * 2 ^ f.frac := by
  have hmod := Nat.mod_lt n (Nat.two_pow_pos f.frac)
  rcases Nat.lt_or_ge n (2 ^ f.frac) with hn | hn
  · rw [significand_of_lt hn]; omega
  · rw [significand_of_le hn]; omega

theorem le_significand (h : ulpShift f n ≠ 0) : 2 ^ f.frac ≤ significand f n := by
  rcases Nat.lt_or_ge n (2 ^ f.frac) with hn | hn
  · exact absurd (ulpShift_of_lt hn) h
  · rw [significand_of_le hn]; omega

theorem ulpShift_succ (f : Fmt) (n : Nat) :
    ulpShift f (n + 1) = ulpShift f n ∨ ulpShift f (n + 1) = ulpShift f n + 1 := by
  unfold ulpShift
  rw [Nat.succ_div]
  split <;> omega

/-- The next magnitude has a greater value: one more in the same place, or a leading bit one place higher. -/
theorem magValue_lt_succ (f : Fmt) (n : Nat) : magValue f n < magValue f (n + 1) := by
  rcases ulpShift_succ f n with hs | hs
  · have hlt : significand f n < significand f (n + 1) := by
      have := ulpShift_mul_le f n
      simp only [significand, hs]
      omega
    simpa only [magValue, hs] using Nat.mul_lt_mul_of_pos_right hlt (Nat.two_pow_pos _)
  · have hle : 2 ^ f.frac ≤ significand f (n + 1) := le_significand (by omega)
    calc magValue f n
      _ < 2 * 2 ^ f.frac * 2 ^ ulpShift f n := Nat.mul_lt_mul_of_pos_right (significand_lt f n) (Nat.two_pow_pos _)
      _ = 2 ^ f.frac * 2 ^ ulpShift f (n + 1) := by rw [hs, pow_succ]; ring
      _ ≤ magValue f (n + 1) := Nat.mul_le_mul_right _ hle

theorem magValue_strictMono (f : Fmt) : StrictMono (magValue f) := strictMono_nat_of_lt_succ (magValue_lt_succ f)

@[simp] theorem magValue_zero (f : Fmt) : magValue f 0 = 0 := by simp [magValue, significand]

/-! Decoding a pattern by its sign and magnitude. -/

theorem fmtInf_eq (hf : IeeeShaped f) : fmtInf f = (2 ^ f.expw - 1) * 2 ^ f.frac := by
  simp [fmtInf, hf.ieee, ones, Nat.shiftLeft_eq]

theorem two_le_pow_expw (hf : IeeeShaped f) : 2 ≤ 2 ^ f.expw := Nat.le_self_pow hf.expw_pos.ne' 2

theorem fmtInf_pos (hf : IeeeShaped f) : 0 < fmtInf f := by
  have := two_le_pow_expw hf
  rw [fmtInf_eq hf]
  exact Nat.mul_pos (by omega) (Nat.two_pow_pos _)

theorem field_exponent (f : Fmt) (x : Nat) : field x f.frac f.expw = magBits f x / 2 ^ f.frac := by
  simp only [field, magBits, low, Nat.shiftRight_eq_div_pow, Nat.one_shiftLeft, Nat.add_comm f.expw, pow_add,
    Nat.mod_mul_right_div_self]

theorem low_fraction (f : Fmt) (x : Nat) : low f.frac x = magBits f x % 2 ^ f.frac := by
  simp only [magBits, low, Nat.one_shiftLeft, pow_add, Nat.mod_mul_left_mod]

/-- A pattern is its magnitude with its sign above. -/
theorem magBits_add_sign (h : x < 2 ^ fmtWidth f) : magBits f x + b2n (signBit f x) * fmtSign f = x := by
  have hdiv : x / 2 ^ (f.expw + f.frac) < 2 := by
    rw [Nat.div_lt_iff_lt_mul (Nat.two_pow_pos _), ← pow_succ']
    simpa only [fmtWidth, Nat.add_comm 1, Nat.add_right_comm] using h
  have hsign : b2n (signBit f x) = x / 2 ^ (f.expw + f.frac) := by
    simp only [b2n, signBit, bit, Nat.shiftRight_eq_div_pow, beq_iff_eq]
    generalize x / 2 ^ (f.expw + f.frac) = q at hdiv
    split <;> omega
  simp only [hsign, magBits, low, fmtSign, Nat.one_shiftLeft]
  exact Nat.mod_add_div' x _

/-- The exponent field of a magnitude is at most all ones. -/
theorem magBits_div_le (f : Fmt) (x : Nat) : magBits f x / 2 ^ f.frac ≤ 2 ^ f.expw - 1 := by
  rw [← field_exponent, field, Nat.one_shiftLeft]
  exact Nat.le_sub_one_of_lt (Nat.mod_lt _ (Nat.two_pow_pos _))

/-- R42 for the formats that are IEEE shaped, by the magnitude alone. -/
theorem decodeVal_eq (hf : IeeeShaped f) (x : Nat) :
    decodeVal f x =
      if magBits f x = 0 then .zero (signBit f x)
      else if magBits f x < fmtInf f then
        .fin (signBit f x) (significand f (magBits f x)) (fmtEmin f - f.frac + ulpShift f (magBits f x))
      else if magBits f x = fmtInf f then .inf (signBit f x)
      else .nan (!bit (magBits f x % 2 ^ f.frac) (f.frac - 1)) := by
  have hq := magBits_div_le f x
  have hones := two_le_pow_expw hf
  simp only [decodeVal, field_exponent, low_fraction, fmtInf_eq hf, signBit, ones, Nat.one_shiftLeft, hf.ieee, fmtEmin,
    ← Nat.div_lt_iff_lt_mul (Nat.two_pow_pos f.frac), beq_iff_eq, Bool.and_true]
  generalize magBits f x = n at *
  rcases Nat.lt_or_ge n (2 ^ f.frac) with hn | hn
  · have htop : 0 < 2 ^ f.expw - 1 := by omega
    simp [Nat.div_eq_of_lt hn, Nat.mod_eq_of_lt hn, ulpShift_of_lt hn, significand_of_lt hn, htop]
  · have hshift := ulpShift_of_le hn
    have hn0 : n ≠ 0 := by have := Nat.two_pow_pos f.frac; omega
    rw [if_neg (by omega), if_neg hn0]
    rcases Nat.lt_or_ge (n / 2 ^ f.frac) (2 ^ f.expw - 1) with hfin | hinf
    · have hexp : ((n / 2 ^ f.frac : Nat) : Int) = ulpShift f n + 1 := by rw [← hshift]; rfl
      have htop : (n / 2 ^ f.frac == 2 ^ f.expw - 1) = false := beq_false_of_ne hfin.ne
      simp only [hfin, hfin.ne, htop, hexp, significand_of_le hn, if_true, if_false, Bool.false_and, Bool.false_eq_true]
      congr 1
      ring
    · have htop : n / 2 ^ f.frac = 2 ^ f.expw - 1 := le_antisymm hq hinf
      have hmod := Nat.div_add_mod' n (2 ^ f.frac)
      have hzero : n % 2 ^ f.frac = 0 ↔ n = (2 ^ f.expw - 1) * 2 ^ f.frac := by rw [← htop]; omega
      simp [htop, hzero]

theorem decodeVal_zero (hf : IeeeShaped f) (h : magBits f x = 0) : decodeVal f x = .zero (signBit f x) := by
  rw [decodeVal_eq hf, if_pos h]

theorem decodeVal_fin (hf : IeeeShaped f) (h0 : magBits f x ≠ 0) (h : magBits f x < fmtInf f) :
    decodeVal f x =
      .fin (signBit f x) (significand f (magBits f x)) (fmtEmin f - f.frac + ulpShift f (magBits f x)) := by
  rw [decodeVal_eq hf, if_neg h0, if_pos h]

theorem decodeVal_inf (hf : IeeeShaped f) (h : magBits f x = fmtInf f) : decodeVal f x = .inf (signBit f x) := by
  rw [decodeVal_eq hf, if_neg (h ▸ (fmtInf_pos hf).ne'), if_neg h.not_lt, if_pos h]

/-- A pattern that is no NaN is a zero, a finite number or an infinity, by its magnitude. -/
theorem magBits_le_of_not_nan (hf : IeeeShaped f) (h : isNaN (decodeVal f x) = false) : magBits f x ≤ fmtInf f := by
  by_contra hlt
  rw [decodeVal_eq hf, if_neg (by omega), if_neg (by omega), if_neg (by omega)] at h
  exact absurd h (by simp [isNaN])

/-- A magnitude below infinity is a zero or a finite number. -/
theorem decodeVal_finite (hf : IeeeShaped f) (h : magBits f x < fmtInf f) :
    decodeVal f x = .zero (signBit f x) ∨ ∃ m e, decodeVal f x = .fin (signBit f x) m e := by
  by_cases h0 : magBits f x = 0
  · exact .inl (decodeVal_zero hf h0)
  · exact .inr ⟨_, _, decodeVal_fin hf h0 h⟩

theorem signOf_decodeVal (hf : IeeeShaped f) (h : magBits f x ≤ fmtInf f) : signOf (decodeVal f x) = signBit f x := by
  rcases h.lt_or_eq with hlt | heq
  · rcases decodeVal_finite hf hlt with hv | ⟨m, e, hv⟩ <;> rw [hv] <;> rfl
  · rw [decodeVal_inf hf heq]; rfl

theorem isZero_decodeVal (hf : IeeeShaped f) (h : magBits f x ≤ fmtInf f) :
    isZero (decodeVal f x) = decide (magBits f x = 0) := by
  by_cases h0 : magBits f x = 0
  · rw [decodeVal_zero hf h0, decide_eq_true h0]; rfl
  · rw [decide_eq_false h0]
    rcases h.lt_or_eq with hlt | heq
    · rw [decodeVal_fin hf h0 hlt]; rfl
    · rw [decodeVal_inf hf heq]; rfl

/-! A value that a format holds rounds to its own bits. -/

/-- The leading bit of an integer multiple of `2 ^ e`. -/
theorem floorLog2_ratio_one {m : Nat} (hm : m ≠ 0) (e : Int) : floorLog2 (.ratio m 1 e) = Nat.log2 m + e := by
  have hle : ¬ m < 1 <<< Nat.log2 m := by
    rw [Nat.one_shiftLeft, not_lt]; exact Nat.log2_self_le hm
  have hone : (Nat.log2 m : Int) - Nat.log2 1 = Int.ofNat (Nat.log2 m) := sub_zero _
  simp only [floorLog2, hone, hle, decide_false, Bool.false_eq_true, if_false]
  rfl

/-- Rounding an integer multiple of the last place changes nothing (R49). -/
theorem roundAt_multiple (m : Nat) (u : Int) (neg : Bool) (rnd : Rnd) {r : Nat} (hr : r < 2 ^ 32) :
    roundAt (.ratio m 1 u) u neg rnd r = (m, false) := by
  have hexp : u + (32 - u) = Int.ofNat 32 := by simp
  have hfloor : floorMul (.ratio m 1 u) (32 - u) = (m <<< 32, true) := by
    simp only [floorMul, hexp, Nat.div_one, Nat.mod_one, beq_self_eq_true]
  have hlow : low 32 (m <<< 32) = 0 := by simp [low, Nat.shiftLeft_eq]
  have hup : r < 4294967296 := hr
  cases rnd <;> simp [roundAt, hfloor, hlow, b2n, Nat.one_shiftLeft, hup]

/-- The exponent that R49 rounds a magnitude at is its own. -/
theorem roundExponent_eq (hn : n ≠ 0) :
    max (floorLog2 (.ratio (significand f n) 1 (fmtEmin f - f.frac + ulpShift f n))) (fmtEmin f) =
      fmtEmin f + ulpShift f n := by
  have hpos := (significand_pos (f := f) hn).ne'
  rw [floorLog2_ratio_one hpos]
  have hlt : Nat.log2 (significand f n) < f.frac + 1 :=
    (Nat.log2_lt hpos).2 (by rw [pow_succ']; exact significand_lt f n)
  rcases Nat.eq_zero_or_pos (ulpShift f n) with h0 | h0
  · omega
  · have hge : f.frac ≤ Nat.log2 (significand f n) := (Nat.le_log2 hpos).2 (le_significand h0.ne')
    omega

/-- R49 and R50 leave the value of a finite magnitude as it is, whatever the mode. -/
theorem roundMag_significand (hn : n ≠ 0) (hmax : n ≤ fmtMax f) (hexp : ulpShift f n + 1 ≤ ones f.expw) (s : Bool)
    (rnd : Rnd) (sat : Bool) {r : Nat} (hr : r < 2 ^ 32) :
    roundMag f s (.ratio (significand f n) 1 (fmtEmin f - f.frac + ulpShift f n)) rnd sat r =
      (n + b2n s * fmtSign f, 0) := by
  have he := roundExponent_eq (f := f) hn
  have hround := roundAt_multiple (significand f n) (fmtEmin f - f.frac + ulpShift f n) s rnd hr
  have hulp : fmtEmin f + (ulpShift f n : Int) - f.frac = fmtEmin f - f.frac + ulpShift f n := by ring
  have hbits : (fmtEmin f + (ulpShift f n : Int) - fmtEmin f).toNat <<< f.frac + significand f n = n := by
    rw [add_sub_cancel_left, Int.toNat_natCast, Nat.shiftLeft_eq, shift_add_significand]
  have hrange : ¬ fmtEmin f + (ulpShift f n : Int) > ones f.expw - f.bias := by unfold fmtEmin; omega
  rw [max_def_lt] at he
  simp only [roundMag, he, hulp, hround, hbits, hrange, hmax.not_gt, if_false, Bool.false_eq_true]

/-- The exponent of a finite magnitude stays below the top one. -/
theorem ulpShift_lt_ones (hf : IeeeShaped f) (h : n < fmtInf f) : ulpShift f n + 1 ≤ ones f.expw := by
  have := two_le_pow_expw hf
  rw [fmtInf_eq hf, ← Nat.div_lt_iff_lt_mul (Nat.two_pow_pos _)] at h
  rw [ones, Nat.one_shiftLeft, ulpShift]
  omega

/-- Rounding a value that is no NaN to the format that holds it gives its bits and no flag (R42, R49, R50). -/
theorem roundVal_decodeVal (hf : IeeeShaped f) (hx : x < 2 ^ fmtWidth f) (hnan : isNaN (decodeVal f x) = false)
    (rnd : Rnd) (sat : Bool) {r : Nat} (hr : r < 2 ^ 32) : roundVal f (decodeVal f x) rnd sat r = (x, 0) := by
  have hbits := magBits_add_sign hx
  rcases (magBits_le_of_not_nan hf hnan).lt_or_eq with hlt | heq
  · by_cases h0 : magBits f x = 0
    · rw [h0, zero_add] at hbits
      rw [decodeVal_zero hf h0, roundVal, zeroOut, hbits]
    · have hmax : magBits f x ≤ fmtMax f := by
        rw [fmtInf, if_pos hf.ieee] at hlt
        rw [fmtMax, if_pos hf.ieee]
        exact Nat.le_sub_one_of_lt hlt
      rw [decodeVal_fin hf h0 hlt, roundVal, roundMag_significand h0 hmax (ulpShift_lt_ones hf hlt) _ _ _ hr, hbits]
  · rw [decodeVal_inf hf heq, roundVal, infOut, if_pos hf.ieee, ← heq, hbits]

theorem exactBits_decodeVal (hf : IeeeShaped f) (hx : x < 2 ^ fmtWidth f) (hnan : isNaN (decodeVal f x) = false) :
    exactBits f (decodeVal f x) = x := by
  rw [exactBits, roundVal_decodeVal hf hx hnan _ _ (Nat.two_pow_pos 32)]

/-! The order of values. -/

/-- The number that a dyadic number stands for. -/
def dyValue (d : Machine.Dyadic) : ℚ := d.n * 2 ^ d.e

theorem dyValue_dyAdd (a b : Machine.Dyadic) : dyValue (dyAdd a b) = dyValue a + dyValue b := by
  have hshift (n i j : Int) (h : i ≤ j) : (shlInt n (j - i).toNat : ℚ) * 2 ^ i = n * 2 ^ j := by
    have hj : j = (j - i).toNat + i := by omega
    conv_rhs => rw [hj, zpow_add₀ two_ne_zero, zpow_natCast, ← mul_assoc]
    simp [shlInt, Nat.one_shiftLeft]
  unfold dyAdd
  split_ifs with ha hb hle
  · simp [dyValue, beq_iff_eq.1 ha]
  · simp [dyValue, beq_iff_eq.1 hb]
  · simp only [dyValue, Int.cast_add, add_mul, hshift b.n _ _ hle]
  · simp only [dyValue, Int.cast_add, add_mul, hshift a.n _ _ (not_le.mp hle).le]

@[simp] theorem dyValue_dyNeg (a : Machine.Dyadic) : dyValue (dyNeg a) = -dyValue a := by simp [dyValue, dyNeg]

theorem dyLt_iff (a b : Machine.Dyadic) : dyLt a b = true ↔ dyValue a < dyValue b := by
  have hadd := dyValue_dyAdd a (dyNeg b)
  have hpos : (0 : ℚ) < 2 ^ (dyAdd a (dyNeg b)).e := by positivity
  rw [dyValue_dyNeg, dyValue, ← sub_eq_add_neg] at hadd
  rw [dyLt, decide_eq_true_iff, ← sub_neg (a := dyValue a), ← hadd, ← Int.cast_lt_zero (R := ℚ),
    ← mul_lt_mul_iff_left₀ hpos, zero_mul]

theorem dyValue_decodeVal (hf : IeeeShaped f) (h : magBits f x < fmtInf f) :
    dyValue (dyadicOf (decodeVal f x)) = signedValue f x * 2 ^ (fmtEmin f - f.frac) := by
  by_cases h0 : magBits f x = 0
  · simp [decodeVal_zero hf h0, signedValue, h0, dyadicOf, dyValue]
  · rw [decodeVal_fin hf h0 h]
    have hexp : (2 : ℚ) ^ (fmtEmin f - f.frac + ulpShift f (magBits f x)) =
        2 ^ ulpShift f (magBits f x) * 2 ^ (fmtEmin f - f.frac) := by
      rw [zpow_add₀ two_ne_zero, zpow_natCast, mul_comm]
    cases hs : signBit f x <;> simp [dyValue, dyadicOf, signedValue, magValue, hs, hexp, mul_assoc]

theorem valLt_finite (hf : IeeeShaped f) (hx : magBits f x < fmtInf f) (hy : magBits f y < fmtInf f) :
    valLt (decodeVal f x) (decodeVal f y) = dyLt (dyadicOf (decodeVal f x)) (dyadicOf (decodeVal f y)) := by
  rcases decodeVal_finite hf hx with hv | ⟨m, e, hv⟩ <;> rcases decodeVal_finite hf hy with hw | ⟨m', e', hw⟩ <;>
    rw [hv, hw] <;> rfl

theorem valLt_inf_finite (hf : IeeeShaped f) (s : Bool) (hy : magBits f y < fmtInf f) :
    valLt (.inf s) (decodeVal f y) = s := by
  rcases decodeVal_finite hf hy with hv | ⟨m, e, hv⟩ <;> rw [hv] <;> rfl

theorem valLt_finite_inf (hf : IeeeShaped f) (t : Bool) (hx : magBits f x < fmtInf f) :
    valLt (decodeVal f x) (.inf t) = !t := by
  rcases decodeVal_finite hf hx with hv | ⟨m, e, hv⟩ <;> rw [hv] <;> rfl

theorem valLt_nan_left (s : Bool) (b : Val) : valLt (.nan s) b = false := by cases b <;> rfl

theorem valLt_nan_right (a : Val) (s : Bool) : valLt a (.nan s) = false := by cases a <;> rfl

theorem not_nan_of_valLt {a b : Val} (h : valLt a b = true) : isNaN a = false ∧ isNaN b = false := by
  constructor
  · cases a with
    | nan s => rw [valLt_nan_left] at h; contradiction
    | inf | zero | fin => rfl
  · cases b with
    | nan s => rw [valLt_nan_right] at h; contradiction
    | inf | zero | fin => rfl

/-- The order of values is the order of the patterns' values in units of the least subnormal number. -/
theorem valLt_decodeVal_iff (hf : IeeeShaped f) (hx : magBits f x ≤ fmtInf f) (hy : magBits f y ≤ fmtInf f) :
    valLt (decodeVal f x) (decodeVal f y) = true ↔ signedValue f x < signedValue f y := by
  rcases hx.lt_or_eq with hx | hx <;> rcases hy.lt_or_eq with hy | hy
  · have hunit : (0 : ℚ) < 2 ^ (fmtEmin f - f.frac) := by positivity
    rw [valLt_finite hf hx hy, dyLt_iff, dyValue_decodeVal hf hx, dyValue_decodeVal hf hy,
      mul_lt_mul_iff_left₀ hunit, Int.cast_lt]
  · have hlt := magValue_strictMono f hx
    rw [decodeVal_inf hf hy, valLt_finite_inf hf _ hx]
    simp only [signedValue, hy]
    cases signBit f x <;> cases signBit f y <;> simp <;> omega
  · have hlt := magValue_strictMono f hy
    rw [decodeVal_inf hf hx, valLt_inf_finite hf _ hy]
    simp only [signedValue, hx]
    cases signBit f x <;> cases signBit f y <;> simp <;> omega
  · have hpos := magValue_strictMono f (fmtInf_pos hf)
    rw [decodeVal_inf hf hx, decodeVal_inf hf hy]
    simp only [valLt, signedValue, hx, hy]
    cases signBit f x <;> cases signBit f y <;> simp
    omega

/-- The order of R46 on patterns that are no NaN: the order of their keys. -/
theorem below_decodeVal_iff (hf : IeeeShaped f) (hx : isNaN (decodeVal f x) = false)
    (hy : isNaN (decodeVal f y) = false) :
    below (decodeVal f x) (decodeVal f y) = true ↔ orderKey f x < orderKey f y := by
  have hx := magBits_le_of_not_nan hf hx
  have hy := magBits_le_of_not_nan hf hy
  have hiff (a b : Nat) : magValue f a < magValue f b ↔ a < b := (magValue_strictMono f).lt_iff_lt
  have hxy := hiff (magBits f x) (magBits f y)
  have hyx := hiff (magBits f y) (magBits f x)
  have hx0 : 0 < magValue f (magBits f x) ↔ 0 < magBits f x := by simpa using hiff 0 (magBits f x)
  have hy0 : 0 < magValue f (magBits f y) ↔ 0 < magBits f y := by simpa using hiff 0 (magBits f y)
  simp only [below, Bool.or_eq_true, Bool.and_eq_true, valLt_decodeVal_iff hf hx hy, isZero_decodeVal hf hx,
    isZero_decodeVal hf hy, signOf_decodeVal hf hx, signOf_decodeVal hf hy, decide_eq_true_eq, signedValue, orderKey]
  cases signBit f x <;> cases signBit f y <;> simp <;> omega

/-- Patterns of one format with the same key are the same. -/
theorem orderKey_inj (hx : x < 2 ^ fmtWidth f) (hy : y < 2 ^ fmtWidth f) (h : orderKey f x = orderKey f y) : x = y := by
  obtain ⟨hsign, hmag⟩ : signBit f x = signBit f y ∧ magBits f x = magBits f y := by
    revert h
    unfold orderKey
    cases signBit f x <;> cases signBit f y <;> simp <;> omega
  rw [← magBits_add_sign hx, ← magBits_add_sign hy, hsign, hmag]

/-! FMIN and FMAX. -/

/-- The bits that FMIN (`mx` false) or FMAX (`mx` true) gives for two patterns. -/
def minMaxBits (f : Fmt) (mx : Bool) (x y : Nat) : Nat := (fMinMax f mx (decodeVal f x) (decodeVal f y)).1

theorem fMinMax_of_nan {a b : Val} (mx : Bool) (h : (isNaN a || isNaN b) = true) :
    fMinMax f mx a b = (fmtNaN f, snanFlag [a, b]) := by
  rw [fMinMax, if_pos h]

theorem fMinMax_of_not_nan {a b : Val} (mx : Bool) (ha : isNaN a = false) (hb : isNaN b = false) :
    fMinMax f mx a b = (exactBits f (if below a b != mx then a else b), 0) := by
  simp [fMinMax, ha, hb, below]

/-- NV for a signalling NaN among the operands, and nothing else (R46). -/
theorem fMinMax_flags (f : Fmt) (mx : Bool) (a b : Val) :
    (fMinMax f mx a b).2 = if a = .nan true ∨ b = .nan true then flNV else 0 := by
  by_cases h : (isNaN a || isNaN b) = true
  · simp [fMinMax_of_nan mx h, snanFlag]
  · obtain ⟨ha, hb⟩ : isNaN a = false ∧ isNaN b = false := by simpa using h
    have hna : a ≠ .nan true := by rintro rfl; exact absurd ha (by simp [isNaN])
    have hnb : b ≠ .nan true := by rintro rfl; exact absurd hb (by simp [isNaN])
    simp [fMinMax_of_not_nan mx ha hb, hna, hnb]

theorem minMaxBits_of_nan (mx : Bool) (h : (isNaN (decodeVal f x) || isNaN (decodeVal f y)) = true) :
    minMaxBits f mx x y = fmtNaN f := by
  rw [minMaxBits, fMinMax_of_nan mx h]

theorem minMaxBits_of_not_nan (hf : IeeeShaped f) (mx : Bool) (hx : x < 2 ^ fmtWidth f) (hy : y < 2 ^ fmtWidth f)
    (hnx : isNaN (decodeVal f x) = false) (hny : isNaN (decodeVal f y) = false) :
    minMaxBits f mx x y = if below (decodeVal f x) (decodeVal f y) != mx then x else y := by
  rw [minMaxBits, fMinMax_of_not_nan mx hnx hny]
  split_ifs
  · exact exactBits_decodeVal hf hx hnx
  · exact exactBits_decodeVal hf hy hny

/-- Of two numbers FMIN gives the one below, FMAX the other. -/
theorem minMaxBits_of_below (hf : IeeeShaped f) (hx : x < 2 ^ fmtWidth f) (hy : y < 2 ^ fmtWidth f)
    (hnx : isNaN (decodeVal f x) = false) (hny : isNaN (decodeVal f y) = false)
    (h : below (decodeVal f x) (decodeVal f y) = true) : minMaxBits f false x y = x ∧ minMaxBits f true x y = y := by
  simp [minMaxBits_of_not_nan hf _ hx hy hnx hny, h]

/-- A pattern of the format that is no NaN: what FMIN and FMAX choose among. -/
structure IsNumber (f : Fmt) (x : Nat) : Prop where
  lt : x < 2 ^ fmtWidth f
  not_nan : isNaN (decodeVal f x) = false

/-- The lesser or the greater of two keys. -/
def chosenKey (mx : Bool) (a b : Int) : Int := if mx then max a b else min a b

theorem chosenKey_comm (mx : Bool) (a b : Int) : chosenKey mx a b = chosenKey mx b a := by
  cases mx
  · exact min_comm a b
  · exact max_comm a b

theorem chosenKey_assoc (mx : Bool) (a b c : Int) :
    chosenKey mx (chosenKey mx a b) c = chosenKey mx a (chosenKey mx b c) := by
  cases mx
  · exact min_assoc a b c
  · exact max_assoc a b c

/-- FMIN and FMAX of two numbers give one of them, and its key is the lesser or the greater of theirs. -/
theorem minMaxBits_number (hf : IeeeShaped f) (mx : Bool) (hx : IsNumber f x) (hy : IsNumber f y) :
    IsNumber f (minMaxBits f mx x y) ∧
      orderKey f (minMaxBits f mx x y) = chosenKey mx (orderKey f x) (orderKey f y) := by
  have hlt := below_decodeVal_iff hf hx.not_nan hy.not_nan
  rw [minMaxBits_of_not_nan hf mx hx.lt hy.lt hx.not_nan hy.not_nan]
  by_cases h : below (decodeVal f x) (decodeVal f y) = true
  · have hle := (hlt.1 h).le
    cases mx
    · simpa [h, chosenKey] using ⟨hx, hle⟩
    · simpa [h, chosenKey] using ⟨hy, hle⟩
  · have hle := not_lt.1 (mt hlt.2 h)
    cases mx
    · simpa [h, chosenKey] using ⟨hy, hle⟩
    · simpa [h, chosenKey] using ⟨hx, hle⟩

theorem minMaxBits_comm (hf : IeeeShaped f) (mx : Bool) (hx : x < 2 ^ fmtWidth f) (hy : y < 2 ^ fmtWidth f) :
    minMaxBits f mx x y = minMaxBits f mx y x := by
  by_cases h : (isNaN (decodeVal f x) || isNaN (decodeVal f y)) = true
  · rw [minMaxBits_of_nan mx h, minMaxBits_of_nan mx (by rwa [Bool.or_comm])]
  · obtain ⟨hnx, hny⟩ : isNaN (decodeVal f x) = false ∧ isNaN (decodeVal f y) = false := by simpa using h
    obtain ⟨hxy, kxy⟩ := minMaxBits_number hf mx ⟨hx, hnx⟩ ⟨hy, hny⟩
    obtain ⟨hyx, kyx⟩ := minMaxBits_number hf mx ⟨hy, hny⟩ ⟨hx, hnx⟩
    exact orderKey_inj hxy.lt hyx.lt (by rw [kxy, kyx, chosenKey_comm])

/-- A NaN anywhere ends in the canonical NaN, which is a NaN; among numbers the keys decide. -/
theorem minMaxBits_assoc (hf : IeeeShaped f) (hnan : isNaN (decodeVal f (fmtNaN f)) = true) (mx : Bool)
    (hx : x < 2 ^ fmtWidth f) (hy : y < 2 ^ fmtWidth f) (hz : z < 2 ^ fmtWidth f) :
    minMaxBits f mx (minMaxBits f mx x y) z = minMaxBits f mx x (minMaxBits f mx y z) := by
  by_cases hny : isNaN (decodeVal f y) = true
  · rw [minMaxBits_of_nan (x := x) (y := y) mx (by simp [hny]), minMaxBits_of_nan (x := y) mx (by simp [hny]),
      minMaxBits_of_nan mx (by simp [hnan]), minMaxBits_of_nan mx (by simp [hnan])]
  by_cases hnx : isNaN (decodeVal f x) = true
  · rw [minMaxBits_of_nan (x := x) (y := y) mx (by simp [hnx]), minMaxBits_of_nan mx (by simp [hnan]),
      minMaxBits_of_nan mx (by simp [hnx])]
  by_cases hnz : isNaN (decodeVal f z) = true
  · rw [minMaxBits_of_nan (x := y) (y := z) mx (by simp [hnz]), minMaxBits_of_nan mx (by simp [hnz]),
      minMaxBits_of_nan mx (by simp [hnan])]
  have nx : IsNumber f x := ⟨hx, by simpa using hnx⟩
  have ny : IsNumber f y := ⟨hy, by simpa using hny⟩
  have nz : IsNumber f z := ⟨hz, by simpa using hnz⟩
  obtain ⟨nxy, kxy⟩ := minMaxBits_number hf mx nx ny
  obtain ⟨nyz, kyz⟩ := minMaxBits_number hf mx ny nz
  obtain ⟨nl, kl⟩ := minMaxBits_number hf mx nxy nz
  obtain ⟨nr, kr⟩ := minMaxBits_number hf mx nx nyz
  exact orderKey_inj nl.lt nr.lt (by rw [kl, kr, kxy, kyz, chosenKey_assoc])

/-- The four types of R46's operations have IEEE shaped formats of their width, whose canonical NaN is a NaN. -/
theorem ieeeShaped_of_mem {t : Ty} (ht : t ∈ [Ty.f64, .f32, .bf16, .f16]) :
    IeeeShaped (fmtOrF32 t) ∧ tyWidth t = fmtWidth (fmtOrF32 t) ∧
      isNaN (decodeVal (fmtOrF32 t) (fmtNaN (fmtOrF32 t))) = true := by
  simp only [List.mem_cons, List.not_mem_nil, or_false] at ht
  rcases ht with rfl | rfl | rfl | rfl <;> exact ⟨⟨rfl, by decide⟩, rfl, by decide⟩

/-- Settles O10: FMIN and FMAX choose by an injective key of the patterns, so they inherit the laws of `min` and `max`. -/
theorem minimumAndMaximum : Obligations.MinimumAndMaximum := by
  unfold Obligations.MinimumAndMaximum
  intro t ht x y z hx hy hz
  obtain ⟨hf, hwidth, hnan⟩ := ieeeShaped_of_mem ht
  rw [hwidth] at hx hy hz
  refine ⟨fun mx => ⟨minMaxBits_of_nan mx, fMinMax_flags _ mx _ _, minMaxBits_comm hf mx hx hy,
    minMaxBits_assoc hf hnan mx hx hy hz⟩, fun hlt => ?_, fun hvx hvy => ?_⟩
  · obtain ⟨hnx, hny⟩ := not_nan_of_valLt hlt
    exact minMaxBits_of_below hf hx hy hnx hny (by rw [below, hlt, Bool.true_or])
  · beta_reduce at hvx hvy
    exact minMaxBits_of_below hf hx hy (by rw [hvx]; rfl) (by rw [hvy]; rfl) (by rw [hvx, hvy]; decide)

end Sys2Proof.NumberFormats
end

section
/-! SUPPORT. Corner turns (R195): the bytes of a panel by its elements, the transposition law, and what CORNER's own effect
comes to in each of its cases. -/

namespace Sys2Proof.CornerTurns

open Machine Safety Laws

variable {n sz w k i j : Nat} {bs : List Byte}

/-! A list cut into pieces of one size. -/

theorem pieces_eq_map (w k : Nat) (bs : List Byte) :
    pieces w k bs = (List.range k).map fun i => (bs.drop (i * w)).take w := by
  induction k generalizing bs with
  | zero => rfl
  | succ k ih =>
    simp only [pieces, ih, List.range_succ_eq_map, List.map_cons, List.map_map, Nat.zero_mul, List.drop_zero,
      Function.comp_def, List.drop_drop, Nat.succ_mul, Nat.add_comm w]

theorem getD_pieces (h : i < k) : (pieces w k bs).getD i [] = (bs.drop (i * w)).take w := by
  simp [pieces_eq_map, h]

theorem flatten_pieces (w k : Nat) (bs : List Byte) : (pieces w k bs).flatten = bs.take (k * w) := by
  induction k generalizing bs with
  | zero => simp [pieces]
  | succ k ih => rw [pieces, List.flatten_cons, ih, Nat.succ_mul, Nat.add_comm, List.take_add]

theorem length_flatMap_range {f : Nat → List Byte} (hf : ∀ i < k, (f i).length = w) :
    ((List.range k).flatMap f).length = k * w := by
  induction k with
  | zero => simp
  | succ k ih =>
    rw [List.range_succ, List.flatMap_append, List.length_append, ih fun i hi => hf i (by omega), List.flatMap_singleton,
      hf k (by omega), Nat.succ_mul]

/-- Piece `i` of joined pieces of one size. -/
theorem take_drop_flatMap_range {f : Nat → List Byte} (hf : ∀ i < k, (f i).length = w) (hi : i < k) :
    (((List.range k).flatMap f).drop (i * w)).take w = f i := by
  obtain ⟨m, rfl⟩ : ∃ m, k = i + (m + 1) := ⟨k - i - 1, by omega⟩
  have before : ((List.range i).flatMap f).length = i * w := length_flatMap_range fun a ha => hf a (by omega)
  rw [List.range_add, List.flatMap_append, ← before, List.drop_left, List.range_succ_eq_map, List.map_cons,
    List.flatMap_cons, Nat.add_zero, ← hf i hi, List.take_left]

/-! Elements of a panel. -/

/-- The bytes of element (i, j) of an n by n panel of elements of `sz` bytes, rows first. -/
def panelElem (n sz : Nat) (bs : List Byte) (i j : Nat) : List Byte := (bs.drop ((i * n + j) * sz)).take sz

/-- Row `i` of a panel. -/
def panelRow (n sz : Nat) (bs : List Byte) (i : Nat) : List Byte := (bs.drop (i * (n * sz))).take (n * sz)

/-- An element is a piece of its row. -/
theorem take_drop_panelRow (hj : j < n) : ((panelRow n sz bs i).drop (j * sz)).take sz = panelElem n sz bs i j := by
  have inRow : sz ≤ n * sz - j * sz := by
    rw [← Nat.sub_mul]; exact Nat.le_mul_of_pos_left _ (by omega)
  rw [panelRow, panelElem, List.drop_take, List.take_take, Nat.min_eq_left inRow, List.drop_drop]
  ring_nf

theorem length_panelElem (h : bs.length = n * n * sz) (hi : i < n) (hj : j < n) : (panelElem n sz bs i j).length = sz := by
  have inPanel : (i * n + j) * sz + sz ≤ n * n * sz := by
    rw [← Nat.succ_mul]; exact Nat.mul_le_mul_right _ (by nlinarith)
  rw [panelElem, List.length_take, List.length_drop, h]
  omega

/-- A panel is its elements, row after row. -/
theorem flatMap_panelElem (h : bs.length = n * n * sz) :
    ((List.range n).flatMap fun i => (List.range n).flatMap fun j => panelElem n sz bs i j) = bs := by
  have row : ∀ i < n, ((List.range n).flatMap fun j => panelElem n sz bs i j) = panelRow n sz bs i := fun i _ => by
    calc ((List.range n).flatMap fun j => panelElem n sz bs i j)
      _ = (pieces sz n (panelRow n sz bs i)).flatten := by
        rw [pieces_eq_map, ← List.flatMap_def]
        exact List.flatMap_congr fun j hj => (take_drop_panelRow (List.mem_range.1 hj)).symm
      _ = panelRow n sz bs i := by
        rw [flatten_pieces, panelRow, List.take_take, Nat.min_self]
  calc ((List.range n).flatMap fun i => (List.range n).flatMap fun j => panelElem n sz bs i j)
    _ = (pieces (n * sz) n bs).flatten := by
      rw [pieces_eq_map, ← List.flatMap_def]
      exact List.flatMap_congr fun i hi => row i (List.mem_range.1 hi)
    _ = bs := by
      rw [flatten_pieces, ← Nat.mul_assoc, ← h, List.take_length]

/-! The transposed panel. -/

/-- The transposed panel is the elements of the source, column after column. -/
theorem transposed_eq (n sz : Nat) (bs : List Byte) :
    transposed n sz bs = (List.range n).flatMap fun j => (List.range n).flatMap fun i => panelElem n sz bs i j := by
  simp only [transposed, upTo, pieces_eq_map (n * sz), List.map_map, List.flatMap_map]
  refine List.flatMap_congr fun j hj => List.flatMap_congr fun i _ => ?_
  exact (getD_pieces (List.mem_range.1 hj)).trans (take_drop_panelRow (List.mem_range.1 hj))

theorem length_column (h : bs.length = n * n * sz) (hj : j < n) :
    ((List.range n).flatMap fun i => panelElem n sz bs i j).length = n * sz :=
  length_flatMap_range fun _ hi => length_panelElem h hi hj

theorem length_transposed (h : bs.length = n * n * sz) : (transposed n sz bs).length = n * n * sz := by
  rw [transposed_eq, length_flatMap_range fun _ hj => length_column h hj, Nat.mul_assoc]

/-- Destination element (j, i) is source element (i, j) (R195). -/
theorem panelElem_transposed (h : bs.length = n * n * sz) (hi : i < n) (hj : j < n) :
    panelElem n sz (transposed n sz bs) j i = panelElem n sz bs i j := by
  have row : panelRow n sz (transposed n sz bs) j = (List.range n).flatMap fun i => panelElem n sz bs i j := by
    rw [panelRow, transposed_eq]
    exact take_drop_flatMap_range (fun _ hb => length_column h hb) hj
  rw [← take_drop_panelRow hi, row]
  exact take_drop_flatMap_range (fun _ ha => length_panelElem h ha hj) hi

theorem transposed_transposed (h : bs.length = n * n * sz) : transposed n sz (transposed n sz bs) = bs := by
  rw [transposed_eq]
  refine Eq.trans ?_ (flatMap_panelElem h)
  refine List.flatMap_congr fun i hi => List.flatMap_congr fun j hj => ?_
  exact panelElem_transposed h (List.mem_range.1 hi) (List.mem_range.1 hj)

/-! CORNER's own effect, by the checks it passes. -/

/-- The elements in a row of CORNER's panel. -/
def panelSide (c : Ctx) : Nat := if tyWidth c.r.type / 8 = 2 then 64 else 32

/-- The bytes of CORNER's panel. -/
def panelSize (c : Ctx) : Nat := panelSide c * panelSide c * (tyWidth c.r.type / 8)

/-- The offset of panel `k`: 0 the source, 1 the destination. -/
def panelOff (c : Ctx) (k : Nat) : Nat := (laneAt c.f.a.lanes k).toNat

/-- The tile with its source panel turned into the destination (R195). -/
def turnPanel (c : Ctx) (t : Tile) : Tile :=
  writeSram t (panelOff c 1)
    (transposed (panelSide c) (tyWidth c.r.type / 8) (readRun t.sram (panelOff c 0) (panelSize c)))

/-- The accesses of a turn: the source read, the destination written. -/
def turnAccesses (s : State) (c : Ctx) : List Access :=
  sramBy (newGroup s).1 c.f (newGroup s).2 0 .read (panelOff c 0) (panelSize c) 0 ++
    sramBy (newGroup s).1 c.f (newGroup s).2 0 .write (panelOff c 1) (panelSize c) 1

/-- The panel's size in bytes by the width of the type. -/
theorem panelSize_eq (c : Ctx) :
    panelSize c = if tyWidth c.r.type = 16 then 64 * 64 * 2 else 32 * 32 * (tyWidth c.r.type / 8) := by
  unfold panelSize panelSide
  cases c.r.type <;> rfl

/-- CORNER's own effect with its panels named, its checks in the order of `cornerBody`. -/
theorem cornerBody_eq (s : State) (c : Ctx) :
    cornerBody s c =
      if laneCount c = 1 then .trap (mkTrap 0x04 2)
      else if panelOff c 0 % 64 ≠ 0 then .trap ⟨0x0E, 0, 0⟩
      else if panelOff c 1 % 64 ≠ 0 then .trap ⟨0x0E, 0, 1⟩
      else if ¬panelOff c 0 + panelSize c ≤ sramLimit c.l.man then .trap ⟨0x08, 0, 0⟩
      else if ¬panelOff c 1 + panelSize c ≤ sramLimit c.l.man then .trap ⟨0x08, 0, 1⟩
      else if badRange (tileOf c.l (fTile c.f)) (panelOff c 0) (panelSize c) then .trap (mkTrap 0x06 0)
      else
        withAccesses (newGroup s).1 c.f.slot (turnAccesses s c) fun s1 =>
          doneWith (modFTile s1 c.f (turnPanel c)) (outBoth c c.f.a.lanes false false [(newGroup s).2]) 0 := by
  simp only [cornerBody, turnAccesses, panelOff, panelSize, panelSide, beq_iff_eq, bne_iff_ne, gt_iff_lt, Nat.not_le]
  rfl

theorem cornerBody_one_lane (s : State) {c : Ctx} (h : laneCount c = 1) : cornerBody s c = .trap (mkTrap 0x04 2) := by
  rw [cornerBody_eq, if_pos h]

/-- The first misaligned offset traps ALIGNMENT. -/
theorem cornerBody_misaligned (s : State) {c : Ctx} (h : laneCount c ≠ 1) (hk : k < 2) (hj : ∀ j < k, panelOff c j % 64 = 0)
    (ho : panelOff c k % 64 ≠ 0) : cornerBody s c = .trap ⟨0x0E, 0, k⟩ := by
  rw [cornerBody_eq, if_neg h]
  match k, hk with
  | 0, _ => rw [if_pos ho]
  | 1, _ => rw [if_neg (not_not.2 (hj 0 Nat.one_pos)), if_pos ho]

/-- With both offsets aligned, the first panel past the limit traps PERMISSION. -/
theorem cornerBody_past_limit (s : State) {c : Ctx} (h : laneCount c ≠ 1) (h0 : panelOff c 0 % 64 = 0)
    (h1 : panelOff c 1 % 64 = 0) (hk : k < 2) (hj : ∀ j < k, panelOff c j + panelSize c ≤ sramLimit c.l.man)
    (ho : ¬panelOff c k + panelSize c ≤ sramLimit c.l.man) : cornerBody s c = .trap ⟨0x08, 0, k⟩ := by
  rw [cornerBody_eq, if_neg h, if_neg (not_not.2 h0), if_neg (not_not.2 h1)]
  match k, hk with
  | 0, _ => rw [if_pos ho]
  | 1, _ => rw [if_neg (not_not.2 (hj 0 Nat.one_pos)), if_pos ho]

/-- With both panels aligned, in SRAM and free of bad words and races, the turn is made. -/
theorem cornerBody_done {s sx : State} {c : Ctx} {es : List Emission} (h : laneCount c ≠ 1) (h0 : panelOff c 0 % 64 = 0)
    (h1 : panelOff c 1 % 64 = 0) (i0 : panelOff c 0 + panelSize c ≤ sramLimit c.l.man)
    (i1 : panelOff c 1 + panelSize c ≤ sramLimit c.l.man)
    (hbad : badRange (tileOf c.l (fTile c.f)) (panelOff c 0) (panelSize c) = false)
    (hacc : checkAccesses (newGroup s).1 c.f.slot (turnAccesses s c) = .ok sx)
    (hout : outBoth c c.f.a.lanes false false [(newGroup s).2] = .ok es) :
    cornerBody s c = .done (modFTile sx c.f (turnPanel c)) es 0 := by
  rw [cornerBody_eq, if_neg h, if_neg (not_not.2 h0), if_neg (not_not.2 h1), if_neg (not_not.2 i0), if_neg (not_not.2 i1),
    hbad, if_neg Bool.false_ne_true, withAccesses, hacc, hout]
  rfl

theorem exec_corner (r : NodeRec) (s : State) : exec (.corner r) s = runPlain s r (specOf 0) cornerBody := rfl

/-- A trap of CORNER's own effect is the trap of its firing. -/
theorem exec_corner_trap {s : State} {c : Ctx} {t : Trap} (h : fires s c (specOf 0))
    (hb : cornerBody (started s c (specOf 0)) (own s c (specOf 0)) = .trap t) :
    exec (.corner c.r) s = .next (trapFiring (counted s c (specOf 0)) c.f t) := by
  rw [exec_corner, runPlain_trap h hb]

/-- Settles O25: the transposed panel is the source's elements column after column, and each clause on CORNER is one case of
its own effect. -/
theorem cornerTurnsTransposePanels : Obligations.CornerTurnsTransposePanels := by
  unfold Obligations.CornerTurnsTransposePanels
  intro sram off size inside
  have inside_iff : ∀ c k, inside c k ↔ panelOff c k + panelSize c ≤ sramLimit c.l.man := fun c k => by
    rw [panelSize_eq]; rfl
  refine ⟨fun n sz bs _ h => ⟨length_transposed h, fun i hi j hj => panelElem_transposed h hi hj, transposed_transposed h⟩,
    ?completes, ?oneLane, ?misaligned, ?pastLimit⟩
  case completes =>
    rintro s c s1 es fl hf ⟨rfl, sx, h, h0, h1, i0, i1, hbad, hacc, rfl, hout⟩ hr
    rw [exec_corner]
    exact runPlain_done hf (cornerBody_done h h0 h1 i0 i1 hbad hacc hout) hr
  case oneLane =>
    rintro s c t hf ⟨h, rfl⟩
    exact exec_corner_trap hf (cornerBody_one_lane _ h)
  case misaligned =>
    rintro k hk s c t hf ⟨h, -, -, hj, ho, rfl⟩
    exact exec_corner_trap hf (cornerBody_misaligned _ h hk hj ho)
  case pastLimit =>
    rintro k hk s c t hf ⟨h, h0, h1, hj, ho, rfl⟩
    exact exec_corner_trap hf (cornerBody_past_limit _ h h0 h1 hk (fun j h => (inside_iff _ j).1 (hj j h))
      (mt (inside_iff _ k).2 ho))

end Sys2Proof.CornerTurns
end

section
/-! SUPPORT. The three instruction words (R66 to R82): fields packed and taken back, the codes and opcodes and what they stand
for, what each decoder accepts, and the round trips both ways. -/

namespace Sys2Proof.Encoding

open Machine

/-! Fields of a word. -/

theorem takeFields_packFields (fs gs : List (Nat × Nat)) :
    takeFields (fs.map (·.1)) (packFields (fs ++ gs)) = fs.map fun p => p.2 % 2 ^ p.1 := by
  induction fs with
  | nil => rfl
  | cons p fs ih =>
    have hp : 0 < 2 ^ p.1 := Nat.two_pow_pos _
    simp only [List.map_cons, List.cons_append, packFields, takeFields, Nat.add_mul_mod_self_left, Nat.mod_mod,
      Nat.add_mul_div_left _ _ hp, Nat.div_eq_of_lt (Nat.mod_lt _ hp), Nat.zero_add, ih]

theorem packFields_lt (fs : List (Nat × Nat)) : packFields fs < 2 ^ (fs.map (·.1)).sum := by
  induction fs with
  | nil => simp [packFields]
  | cons p fs ih =>
    have hv : p.2 % 2 ^ p.1 < 2 ^ p.1 := Nat.mod_lt _ (Nat.two_pow_pos _)
    have : 2 ^ p.1 * (packFields fs + 1) ≤ 2 ^ p.1 * 2 ^ (fs.map (·.1)).sum := Nat.mul_le_mul_left _ ih
    simp only [List.map_cons, List.sum_cons, packFields, Nat.pow_add]
    rw [Nat.mul_add] at this
    omega

theorem packFields_takeFields (ws : List Nat) {x : Nat} (h : x < 2 ^ ws.sum) :
    packFields (ws.zip (takeFields ws x)) = x := by
  induction ws generalizing x with
  | nil => simp at h; simp [packFields, h]
  | cons w ws ih =>
    have : x / 2 ^ w < 2 ^ ws.sum := Nat.div_lt_of_lt_mul (by rwa [← Nat.pow_add, ← List.sum_cons])
    simp only [takeFields, List.zip_cons_cons, packFields, Nat.mod_mod, ih this, Nat.mod_add_div]

theorem leNat_leBytes (n x : Nat) (h : x < 256 ^ n) : leNat (leBytes n x) = x := by
  induction n generalizing x with
  | zero => simp at h; simp [leBytes, leNat, h]
  | succ n ih =>
    have : x / 256 < 256 ^ n := Nat.div_lt_of_lt_mul (by rwa [← Nat.pow_succ'])
    simp only [leBytes, leNat, ih _ this, BitVec.toNat_ofNat]
    omega

/-! Codes of the code fields, and what they stand for. -/

theorem arityOf_eq_some {c : Nat} {a : Arity} : arityOf c = some a ↔ arityCode a = c := by
  rcases c with _ | _ | _ | c <;> cases a <;> simp [arityOf, arityCode]

theorem tagopOf_eq_some {c : Nat} {t : TagOp} : tagopOf c = some t ↔ tagopCode t = c := by
  rcases c with _ | _ | _ | _ | _ | c <;> cases t <;> simp [tagopOf, tagopCode]

theorem bselOf_eq_some {c : Nat} {b : BSel} : bselOf c = some b ↔ bselCode b = c := by
  rcases c with _ | _ | _ | c <;> cases b <;> simp [bselOf, bselCode]

theorem scopeOf_eq_some {c : Nat} {s : Scope} : scopeOf c = some s ↔ scopeCode s = c := by
  rcases c with _ | _ | _ | _ | _ | c <;> cases s <;> simp [scopeOf, scopeCode]

theorem rndOf_eq_some {c : Nat} {r : Rnd} : rndOf c = some r ↔ rndCode r = c := by
  rcases c with _ | _ | _ | _ | _ | _ | _ | c <;> cases r <;> simp [rndOf, rndCode]

theorem tyOfCode_eq_some {c : Nat} {t : Ty} : tyOfCode c = some t ↔ tyCode t = c := by
  constructor
  · intro h
    obtain ⟨hc, rfl⟩ := List.getElem?_eq_some_iff.1 h
    simp only [List.length_cons, List.length_nil] at hc
    interval_cases c <;> rfl
  · rintro rfl
    cases t <;> rfl

/-! Opcodes. -/

theorem formOf_of_sharedOf {opc : Nat} {w : Shared} {i : Instr} (h : sharedOf opc w = some i) : formOf i = sharedForm opc w := by
  unfold sharedOf at h
  split at h <;> cases h <;> rfl

theorem formOf_of_nodeOf {opc : Nat} {r : NodeRec} {i : Instr} (h : nodeOf opc r = some i) : formOf i = .node opc r := by
  unfold nodeOf at h
  split at h
  case h_65 | h_66 => split at h <;> cases h <;> rfl
  case h_67 => split at h <;> cases h <;> rfl
  case h_68 => exact formOf_of_sharedOf h
  all_goals cases h; rfl

theorem formOf_of_blockOf {opc : Nat} {b : BlockRec} {i : Instr} (h : blockOf opc b = some i) : formOf i = .block opc b := by
  unfold blockOf at h
  split at h
  case h_9 => exact formOf_of_sharedOf h
  all_goals cases h; rfl

theorem blockOf_of_formOf {opc : Nat} {b : BlockRec} {i : Instr} (h : formOf i = .block opc b) : blockOf opc b = some i := by
  cases i
  all_goals first
    | (rename Shared => w; cases w <;> cases h; rfl)
    | (cases h <;> rfl)

/-- A shared function is defined by its opcode alone. -/
theorem isSome_sharedOf (opc : Nat) (w w' : Shared) : (sharedOf opc w).isSome = (sharedOf opc w').isSome := by
  unfold sharedOf
  split <;> rfl

theorem sharedOf_lt {opc : Nat} {w : Shared} {i : Instr} (h : sharedOf opc w = some i) : opc < 256 := by
  unfold sharedOf at h
  split at h <;> first | omega | cases h

theorem nodeOf_lt {opc : Nat} {r : NodeRec} {i : Instr} (h : nodeOf opc r = some i) : opc < 256 := by
  unfold nodeOf at h
  split at h
  case h_68 => exact sharedOf_lt h
  all_goals omega

theorem blockOf_lt {opc : Nat} {b : BlockRec} {i : Instr} (h : blockOf opc b = some i) : opc < 256 := by
  unfold blockOf at h
  split at h
  case h_9 => exact sharedOf_lt h
  all_goals omega

theorem nodeOpcode_of_nodeOf {opc : Nat} {r : NodeRec} {i : Instr} (h : nodeOf opc r = some i) : nodeOpcode opc = true := by
  unfold nodeOf at h
  split at h
  case h_68 h =>
    unfold nodeOpcode nodeOf
    split
    case h_68 => rw [isSome_sharedOf _ _ (.node r), h]; rfl
    all_goals rfl
  all_goals rfl

theorem blockOpcode_of_blockOf {opc : Nat} {b : BlockRec} {i : Instr} (h : blockOf opc b = some i) : blockOpcode opc = true := by
  unfold blockOf at h
  split at h
  case h_9 h =>
    unfold blockOpcode blockOf
    split
    case h_9 => rw [isSome_sharedOf _ _ (.block b), h]; rfl
    all_goals rfl
  all_goals rfl

/-! Reasons. -/

theorem leastReason_eq_none {l : List Nat} : leastReason l = none ↔ l = [] := by
  cases l <;> simp [leastReason, leastBy]

theorem wellFormed_iff {i : Instr} : wellFormed i = true ↔ reasonsOf i = [] := List.isEmpty_iff

theorem checked_eq_ok {i j : Instr} : checked i = .ok j ↔ wellFormed i = true ∧ i = j := by
  rw [wellFormed_iff, ← leastReason_eq_none]
  unfold checked
  cases leastReason (reasonsOf i) <;> simp

/-! The record of a word and the word of a record. -/

theorem b2n_mod_two (n : Nat) : b2n (n % 2 == 1) = n % 2 := by
  rcases Nat.mod_two_eq_zero_or_one n with h | h <;> rw [h] <;> rfl

theorem parseNode_eq_some {w opc : Nat} {r : NodeRec} :
    parseNode w = some (opc, r) ↔ takeFields nodeLayout w = nodeFields opc r := by
  unfold parseNode
  constructor
  · intro h
    split at h
    next lit dstb dsta modx ord ar tg rn ty opc' hw =>
      split at h
      next har htg hrn hty =>
        cases h
        rw [arityOf_eq_some] at har
        rw [tagopOf_eq_some] at htg
        rw [rndOf_eq_some] at hrn
        rw [tyOfCode_eq_some] at hty
        simp only [nodeLayout, takeFields, List.cons.injEq, and_true] at hw
        obtain ⟨rfl, rfl, rfl, rfl, rfl, rfl, rfl, rfl, rfl, rfl⟩ := hw
        simp [nodeLayout, takeFields, nodeFields, har, htg, hrn, hty, b2n_mod_two]
      next => cases h
    next => cases h
  · intro h
    obtain ⟨ty, rn, tg, ar, ord, modx, dsta, dstb, lit⟩ := r
    simp only [h, nodeFields, arityOf_eq_some.2 rfl, tagopOf_eq_some.2 rfl, rndOf_eq_some.2 rfl, tyOfCode_eq_some.2 rfl,
      BitVec.ofNat_toNat, BitVec.setWidth_eq]
    cases ord <;> rfl

theorem parseBlock_eq_some {w opc : Nat} {b : BlockRec} :
    parseBlock w = some (opc, b) ↔ takeFields blockLayout w = blockFields opc b := by
  unfold parseBlock
  constructor
  · intro h
    split at h
    next imm m bs rn ty c b a d opc' hw =>
      split at h
      next hbs hrn hty =>
        cases h
        rw [bselOf_eq_some] at hbs
        rw [rndOf_eq_some] at hrn
        rw [tyOfCode_eq_some] at hty
        simp only [blockLayout, takeFields, List.cons.injEq, and_true] at hw
        obtain ⟨rfl, rfl, rfl, rfl, rfl, rfl, rfl, rfl, rfl, rfl⟩ := hw
        simp [blockLayout, takeFields, blockFields, hbs, hrn, hty]
      next => cases h
    next => cases h
  · intro h
    obtain ⟨d, a, b, c, ty, rn, bs, m, imm⟩ := b
    simp only [h, blockFields, bselOf_eq_some.2 rfl, rndOf_eq_some.2 rfl, tyOfCode_eq_some.2 rfl, BitVec.ofNat_toNat,
      BitVec.setWidth_eq]

/-- The word of a node record, with its opcode. -/
def nodeRecWord (opc : Nat) (r : NodeRec) : Nat := packFields (nodeLayout.zip (nodeFields opc r))

/-- The word of a block instruction, with its opcode. -/
def blockRecWord (opc : Nat) (b : BlockRec) : Nat := packFields (blockLayout.zip (blockFields opc b))

theorem encode_of_node {i : Instr} {opc : Nat} {r : NodeRec} (h : formOf i = .node opc r) :
    encode i = some (96, nodeRecWord opc r) := by
  simp [encode, h, nodeRecWord]

theorem encode_of_block {i : Instr} {opc : Nat} {b : BlockRec} (h : formOf i = .block opc b) :
    encode i = some (64, blockRecWord opc b) := by
  simp [encode, h, blockRecWord]

theorem nodeRecWord_lt (opc : Nat) (r : NodeRec) : nodeRecWord opc r < 2 ^ 96 := packFields_lt _

theorem blockRecWord_lt (opc : Nat) (b : BlockRec) : blockRecWord opc b < 2 ^ 64 := packFields_lt _

/-- Each code and each field of a node record fits the bits its layout gives it. -/
theorem takeFields_nodeRecWord {opc : Nat} (r : NodeRec) (h : opc < 256) :
    takeFields nodeLayout (nodeRecWord opc r) = nodeFields opc r := by
  have hb : b2n r.ord < 2 := by cases r.ord <;> decide
  have har : arityCode r.arity < 4 := by cases r.arity <;> decide
  have htg : tagopCode r.tagop < 8 := by cases r.tagop <;> decide
  have hrn : rndCode r.rnd < 8 := by cases r.rnd <;> decide
  have hty : tyCode r.type < 16 := by cases r.type <;> decide
  have := takeFields_packFields (nodeLayout.zip (nodeFields opc r)) []
  rw [List.append_nil] at this
  refine this.trans ?_
  simp [nodeLayout, nodeFields, Nat.mod_eq_of_lt, h, hb, har, htg, hrn, hty]
  exact ⟨r.lit.isLt, r.dstb.isLt, r.dsta.isLt, r.modx.isLt⟩

theorem takeFields_blockRecWord {opc : Nat} (b : BlockRec) (h : opc < 256) :
    takeFields blockLayout (blockRecWord opc b) = blockFields opc b := by
  have hbs : bselCode b.bsel < 4 := by cases b.bsel <;> decide
  have hrn : rndCode b.rnd < 8 := by cases b.rnd <;> decide
  have hty : tyCode b.type < 16 := by cases b.type <;> decide
  have := takeFields_packFields (blockLayout.zip (blockFields opc b)) []
  rw [List.append_nil] at this
  refine this.trans ?_
  simp [blockLayout, blockFields, Nat.mod_eq_of_lt, h, hbs, hrn, hty]
  exact ⟨b.imm.isLt, b.m.isLt, b.c.isLt, b.b.isLt, b.a.isLt, b.d.isLt⟩

/-- The opcode of a node record is the last of its fields. -/
theorem opcodeOf_of_parseNode {w opc : Nat} {r : NodeRec} (h : parseNode w = some (opc, r)) : opcodeOf 96 w = opc := by
  have := congrArg (fun l => l[9]?) (parseNode_eq_some.1 h)
  simp [nodeLayout, takeFields, nodeFields, Nat.div_div_eq_div_mul] at this
  simp [opcodeOf, field, Nat.shiftRight_eq_div_pow, this]

theorem opcodeOf_of_parseBlock {w opc : Nat} {b : BlockRec} (h : parseBlock w = some (opc, b)) : opcodeOf 64 w = opc := by
  have := congrArg (fun l => l[9]?) (parseBlock_eq_some.1 h)
  simp [blockLayout, takeFields, blockFields, Nat.div_div_eq_div_mul] at this
  simp [opcodeOf, field, Nat.shiftRight_eq_div_pow, this]

/-- What the decoder of node words accepts: the well-formed instructions of the records that parse. -/
theorem decodeNode_eq_ok {w : Nat} {i : Instr} :
    decodeNode w = .ok i ↔ ∃ opc r, parseNode w = some (opc, r) ∧ nodeOf opc r = some i ∧ wellFormed i = true := by
  unfold decodeNode
  constructor
  · intro h
    split at h
    next => cases h
    split at h
    next => cases h
    next opc r hp =>
      split at h
      next => cases h
      next j hn =>
        obtain ⟨hw, rfl⟩ := checked_eq_ok.1 h
        exact ⟨opc, r, hp, hn, hw⟩
  · rintro ⟨opc, r, hp, hn, hw⟩
    simp [opcodeOf_of_parseNode hp, nodeOpcode_of_nodeOf hn, hp, hn, checked_eq_ok.2 ⟨hw, rfl⟩]

theorem decodeBlock_eq_ok {w : Nat} {i : Instr} :
    decodeBlock w = .ok i ↔ ∃ opc b, parseBlock w = some (opc, b) ∧ blockOf opc b = some i ∧ wellFormed i = true := by
  unfold decodeBlock
  constructor
  · intro h
    split at h
    next => cases h
    split at h
    next => cases h
    next opc b hp =>
      split at h
      next => cases h
      next j hn =>
        obtain ⟨hw, rfl⟩ := checked_eq_ok.1 h
        exact ⟨opc, b, hp, hn, hw⟩
  · rintro ⟨opc, b, hp, hn, hw⟩
    simp [opcodeOf_of_parseBlock hp, blockOpcode_of_blockOf hn, hp, hn, checked_eq_ok.2 ⟨hw, rfl⟩]

/-- A well-formed node instruction is the one its opcode and record name. -/
theorem nodeOf_of_wellFormed {i : Instr} {opc : Nat} {r : NodeRec} (hw : wellFormed i = true) (h : formOf i = .node opc r) :
    nodeOf opc r = some i := by
  rw [wellFormed_iff, reasonsOf, h] at hw
  by_contra hn
  simp [why, hn] at hw

theorem decodeNode_nodeRecWord {i : Instr} {opc : Nat} {r : NodeRec} (hw : wellFormed i = true) (h : formOf i = .node opc r) :
    decodeNode (nodeRecWord opc r) = .ok i := by
  have hn := nodeOf_of_wellFormed hw h
  exact decodeNode_eq_ok.2 ⟨opc, r, parseNode_eq_some.2 (takeFields_nodeRecWord r (nodeOf_lt hn)), hn, hw⟩

theorem decodeBlock_blockRecWord {i : Instr} {opc : Nat} {b : BlockRec} (hw : wellFormed i = true)
    (h : formOf i = .block opc b) : decodeBlock (blockRecWord opc b) = .ok i := by
  have hn := blockOf_of_formOf h
  exact decodeBlock_eq_ok.2 ⟨opc, b, parseBlock_eq_some.2 (takeFields_blockRecWord b (blockOf_lt hn)), hn, hw⟩

theorem low_of_lt {n x : Nat} (h : x < 2 ^ n) : low n x = x := by
  rw [low, Nat.shiftLeft_eq, Nat.one_mul, Nat.mod_eq_of_lt h]

/-- Settles O1: the fields of a record come back from its word, and its opcode names the instruction again. -/
theorem nodeWordsDecodeBack : Obligations.NodeWordsDecodeBack := by
  intro i opc r w hw hf he
  obtain rfl : nodeRecWord opc r = w := by simpa [encode_of_node hf] using he
  have hd := decodeNode_nodeRecWord hw hf
  have hb : decodeNodeBytes (leBytes 12 (nodeRecWord opc r)) = .ok i := by
    rw [decodeNodeBytes, leNat_leBytes _ _ (nodeRecWord_lt opc r), hd]
  refine ⟨hd, hb, ?_⟩
  simp [decodeTableWord, low_of_lt (nodeRecWord_lt opc r), hb, okInstr]

/-- Settles O2: the fields of a block instruction come back from its word, and its opcode names the instruction again. -/
theorem blockWordsDecodeBack : Obligations.BlockWordsDecodeBack := by
  intro i opc b w hw hf he
  obtain rfl : blockRecWord opc b = w := by simpa [encode_of_block hf] using he
  have hd := decodeBlock_blockRecWord hw hf
  have hb : decodeBlockBytes (leBytes 8 (blockRecWord opc b)) = .ok i := by
    rw [decodeBlockBytes, leNat_leBytes _ _ (blockRecWord_lt opc b), hd]
  refine ⟨hd, hb, ?_⟩
  simp [decodeTableWord, low_of_lt (blockRecWord_lt opc b), hb, okInstr]

/-! Round instructions. -/

theorem packFields_append (fs gs : List (Nat × Nat)) :
    packFields (fs ++ gs) = packFields fs + 2 ^ (fs.map (·.1)).sum * packFields gs := by
  induction fs with
  | nil => simp [packFields]
  | cons p fs ih => simp only [List.cons_append, packFields, ih, List.map_cons, List.sum_cons]; ring

theorem sum_roundLayout {opc : Nat} {l : List Nat} (h : roundLayout opc = some l) : l.sum = 58 := by
  unfold roundLayout at h
  split at h <;> cases h <;> rfl

theorem b2n_field (b : Bool) : (b2n b % 2 == 1) = b := by cases b <;> rfl

theorem scopeOf_field (s : Scope) : scopeOf (scopeCode s % 2 ^ 3) = some s := by cases s <;> rfl

/-- A round instruction's opcode has the layout of its fields, and their values name it again. -/
theorem roundOf_of_formOf {i : Instr} {opc : Nat} {fs : List (Nat × Nat)} (h : formOf i = .round opc fs) :
    opc < 64 ∧ roundLayout opc = some (fs.map (·.1)) ∧ roundOf opc (fs.map fun p => p.2 % 2 ^ p.1) = some i := by
  cases i
  all_goals first
    | (rename Shared => w; cases w <;> cases h)
    | (cases h; done)
    | (cases h
       simp [roundLayout, roundOf, b2n_field, scopeOf_field, -Nat.reducePow])

theorem field_eq (x lo n : Nat) : field x lo n = x / 2 ^ lo % 2 ^ n := by
  rw [field, Nat.shiftRight_eq_div_pow, Nat.shiftLeft_eq, Nat.one_mul]

/-- What the decoder of round words accepts: the well-formed instructions that its fields name and that encode to it. -/
theorem decodeRound_eq_ok {w : Nat} {i : Instr} :
    decodeRound w = .ok i ↔ ∃ l, roundLayout (field w 58 6) = some l ∧ roundOf (field w 58 6) (takeFields l w) = some i ∧
      wellFormed i = true ∧ encode i = some (64, low 64 w) := by
  have clean (j : Instr) : leastReason (reasonsOf j ++ why (!roundClean j (low 64 w)) 5) = none ↔
      wellFormed j = true ∧ encode j = some (64, low 64 w) := by
    rw [leastReason_eq_none, wellFormed_iff, List.append_eq_nil_iff]
    simp [why, roundClean]
  unfold decodeRound
  constructor
  · intro h
    dsimp only at h
    split at h
    next => cases h
    next l hl =>
      split at h
      next => cases h
      next j hj =>
        split at h
        next hr =>
          cases h
          exact ⟨l, hl, hj, (clean _).1 hr⟩
        next => cases h
  · rintro ⟨l, hl, hj, hr⟩
    simp only [hl, hj, (clean i).2 hr]

theorem roundWord_lt {i : Instr} {opc : Nat} {fs : List (Nat × Nat)} (h : formOf i = .round opc fs) :
    packFields (fs ++ [(6, opc)]) < 2 ^ 64 := by
  have hl := sum_roundLayout (roundOf_of_formOf h).2.1
  have := packFields_lt (fs ++ [(6, opc)])
  rwa [List.map_append, List.sum_append, hl] at this

theorem decodeRound_roundWord {i : Instr} {opc : Nat} {fs : List (Nat × Nat)} (hw : wellFormed i = true)
    (h : formOf i = .round opc fs) : decodeRound (packFields (fs ++ [(6, opc)])) = .ok i := by
  obtain ⟨ho, hl, hi⟩ := roundOf_of_formOf h
  have hs : (fs.map (·.1)).sum = 58 := sum_roundLayout hl
  have hfs : packFields fs < 2 ^ 58 := hs ▸ packFields_lt fs
  have hop : field (packFields (fs ++ [(6, opc)])) 58 6 = opc := by
    rw [field_eq, packFields_append, hs, Nat.add_mul_div_left _ _ (Nat.two_pow_pos _), Nat.div_eq_of_lt hfs]
    simp only [packFields]
    omega
  refine decodeRound_eq_ok.2 ⟨_, hop ▸ hl, ?_, hw, ?_⟩
  · rw [hop, takeFields_packFields, hi]
  · rw [low_of_lt (roundWord_lt h), encode, h]

/-- Settles O3: the fields of a round instruction come back from its word, and name it again with its opcode. -/
theorem roundWordsDecodeBack : Obligations.RoundWordsDecodeBack := by
  intro i opc fs w hw hf he
  obtain rfl : packFields (fs ++ [(6, opc)]) = w := by simpa [encode, hf] using he
  have hd := decodeRound_roundWord hw hf
  exact ⟨hd, by rw [decodeRoundBytes, leNat_leBytes _ _ (roundWord_lt hf), hd]⟩

theorem nodeRecWord_of_parseNode {w opc : Nat} {r : NodeRec} (hw : w < 2 ^ 96) (h : parseNode w = some (opc, r)) :
    nodeRecWord opc r = w := by
  rw [nodeRecWord, ← parseNode_eq_some.1 h]
  exact packFields_takeFields nodeLayout hw

theorem blockRecWord_of_parseBlock {w opc : Nat} {b : BlockRec} (hw : w < 2 ^ 64) (h : parseBlock w = some (opc, b)) :
    blockRecWord opc b = w := by
  rw [blockRecWord, ← parseBlock_eq_some.1 h]
  exact packFields_takeFields blockLayout hw

/-- Settles O4: the fields of an accepted word are those of the instruction it decodes to. -/
theorem decodedWordsEncodeBack : Obligations.DecodedWordsEncodeBack := by
  refine ⟨fun i w hw h => ?node, fun i w hw h => ?block, fun i w hw h => ?round⟩
  case node =>
    obtain ⟨opc, r, hp, hn, hwf⟩ := decodeNode_eq_ok.1 h
    exact ⟨hwf, by rw [encode_of_node (formOf_of_nodeOf hn), nodeRecWord_of_parseNode hw hp]⟩
  case block =>
    obtain ⟨opc, b, hp, hn, hwf⟩ := decodeBlock_eq_ok.1 h
    exact ⟨hwf, by rw [encode_of_block (formOf_of_blockOf hn), blockRecWord_of_parseBlock hw hp]⟩
  case round =>
    obtain ⟨l, hl, hi, hwf, he⟩ := decodeRound_eq_ok.1 h
    exact ⟨hwf, by rw [he, low_of_lt hw]⟩

/-! Reserved opcodes. -/

theorem mem_why {n m : Nat} {c : Bool} : n ∈ why c m ↔ c = true ∧ n = m := by
  unfold why
  split <;> simp [*]

theorem mem_of_leastReason {l : List Nat} {n : Nat} (h : leastReason l = some n) : n ∈ l := by
  have least (l : List Nat) (m : Nat) : l.foldl (fun m y => if decide (y < m) = true then y else m) m ∈ m :: l := by
    induction l generalizing m with
    | nil => simp
    | cons x xs ih =>
      rw [List.foldl_cons]
      split
      · exact List.mem_cons_of_mem _ (ih x)
      · rcases List.mem_cons.1 (ih m) with h | h
        · rw [h]; exact List.mem_cons_self ..
        · exact List.mem_cons_of_mem _ (List.mem_cons_of_mem _ h)
  cases l with
  | nil => cases h
  | cons x xs => cases h; exact least xs x

theorem three_notMem_specReasons (s : NodeSpec) (r : NodeRec) : 3 ∉ specReasons s r := by
  simp [specReasons, mem_why]

theorem three_notMem_sharedNodeReasons (opc : Nat) (r : NodeRec) : 3 ∉ sharedNodeReasons opc r := by
  unfold sharedNodeReasons modxReasons
  simp only [List.mem_append, mem_why, not_or]
  refine ⟨⟨?_, by simp⟩, ?_⟩
  · split <;> (try split) <;> simp [mem_why]
  · split <;> (try split) <;> simp [mem_why]

/-- No defined node opcode is rejected as a reserved one. -/
theorem three_notMem_reasonsOf {opc : Nat} {r : NodeRec} {i : Instr} (h : nodeOf opc r = some i) : 3 ∉ reasonsOf i := by
  rw [reasonsOf, formOf_of_nodeOf h]
  simp only [List.mem_append, mem_why, not_or]
  refine ⟨?_, by simp⟩
  unfold nodeReasons
  split
  next => exact three_notMem_sharedNodeReasons opc r
  next hs =>
    unfold nodeOnlyReasons
    dsimp only
    split
    case h_68 =>
      unfold nodeOf at h
      split at h <;> first | contradiction | simp [h] at hs
    all_goals simp [three_notMem_specReasons, mem_why, waveReasons, scopeReasons]

theorem checked_ne_error_three {opc : Nat} {r : NodeRec} {i : Instr} (h : nodeOf opc r = some i) : checked i ≠ .error 3 := by
  unfold checked
  split
  next => simp
  next n hn =>
    rintro ⟨⟩
    exact three_notMem_reasonsOf h (mem_of_leastReason hn)

theorem decodeNode_eq_error_three {w : Nat} : decodeNode w = .error 3 ↔ nodeOpcode (opcodeOf 96 w) = false := by
  unfold decodeNode
  cases nodeOpcode (opcodeOf 96 w)
  · simp
  · simp only [Bool.not_true, Bool.false_eq_true, if_false, Bool.true_eq_false, iff_false]
    split
    next => simp
    split
    next => simp
    next hn => exact checked_ne_error_three hn

theorem opcodeOf_lt (n w : Nat) : opcodeOf n w < 256 := Nat.mod_lt _ (by decide)

/-- Settles O6: the defined opcodes of each form, one by one, and no other reason 3. -/
theorem reservedOpcodesAreRefused : Obligations.ReservedOpcodesAreRefused := by
  unfold Obligations.ReservedOpcodesAreRefused
  intro shared nodes rounds
  have hnode : ∀ opc < 256, nodeOpcode opc = false ↔ opc ∉ shared ++ nodes := by decide +kernel
  have hblock : ∀ opc < 256, opc ∉ shared ++ (List.range 8).map (· + 0x80) → blockOpcode opc = false := by decide +kernel
  have hround : ∀ opc < 64, opc ∉ rounds → roundLayout opc = none := by decide +kernel
  refine ⟨fun w => ?node, fun w h => ?block, fun w h => ?round, rfl⟩
  case node => rw [decodeNode_eq_error_three, hnode _ (opcodeOf_lt 96 w)]
  case block => simp [decodeBlock, hblock _ (opcodeOf_lt 64 w) h]
  case round =>
    have : field w 58 6 < 64 := Nat.mod_lt _ (by decide)
    unfold decodeRound
    simp only [hround _ this h]

/-- Settles O5: each word, decoded. -/
theorem specWordsDecode : Obligations.SpecWordsDecode := by
  unfold Obligations.SpecWordsDecode
  decide +kernel

end Sys2Proof.Encoding
end

section
/-! SUPPORT. How node and block instructions run: each node as one `runNode` whose cases leave everything outside the launches
alone (R5, R17), the nodes with the standard treatment of last posts and dead letters with `lpOut` and `dlOut` (R30, R124), each
shared function as `runShared`. -/

namespace Sys2Proof.Programs

open Machine Safety Laws

/-- What a node does in one of its cases, leaving everything outside the launches alone. -/
def QuietRes (f : State → Ctx → Res) : Prop := ∀ s c, resOutside (outside s) (f s c)

/-- What a block instruction does, leaving everything outside the launches alone. -/
def QuietBRes (f : State → BCtx → BRes) : Prop := ∀ s c, bresOutside (outside s) (f s c)

/-- A node instruction that runs as a node whose every case is quiet. -/
def RunsQuietly (i : NodeRec → Instr) : Prop :=
  ∀ r, ∃ p msgs lp dl body, (∀ s, exec (i r) s = runNode s r p msgs lp dl body) ∧ QuietRes lp ∧ QuietRes dl ∧ QuietRes body

/-- The same for a node with the standard treatment of last posts and dead letters under policy `p` (R30, R124). -/
def RunsStandard (i : NodeRec → Instr) (p : Policy) : Prop :=
  ∀ r, ∃ msgs body, (∀ s, exec (i r) s = runNode s r p msgs lpOut dlOut body) ∧ QuietRes body

theorem RunsQuietly.intro {i : NodeRec → Instr} {p : NodeRec → Policy} {msgs : NodeRec → Ctx → Nat}
    {lp dl body : NodeRec → State → Ctx → Res}
    (run : ∀ r s, exec (i r) s = runNode s r (p r) (msgs r) (lp r) (dl r) (body r)) (hlp : ∀ r, QuietRes (lp r))
    (hdl : ∀ r, QuietRes (dl r)) (hb : ∀ r, QuietRes (body r)) : RunsQuietly i :=
  fun r => ⟨_, _, _, _, _, run r, hlp r, hdl r, hb r⟩

theorem RunsStandard.intro {i : NodeRec → Instr} {p : Policy} {msgs : NodeRec → Ctx → Nat} {body : NodeRec → State → Ctx → Res}
    (run : ∀ r s, exec (i r) s = runNode s r p (msgs r) lpOut dlOut (body r)) (hb : ∀ r, QuietRes (body r)) :
    RunsStandard i p :=
  fun r => ⟨_, _, run r, hb r⟩

theorem quiet_lpOut : QuietRes lpOut := fun _ _ => res_lpOut _ _ _ rfl

theorem quiet_dlOut : QuietRes dlOut := fun _ _ => res_dlOut _ _ _ rfl

theorem RunsStandard.quietly {i : NodeRec → Instr} {p : Policy} (h : RunsStandard i p) : RunsQuietly i := fun r => by
  obtain ⟨msgs, body, run, hb⟩ := h r
  exact ⟨p, msgs, lpOut, dlOut, body, run, quiet_lpOut, quiet_dlOut, hb⟩

/-! Shared functions. -/

/-- Each shared function runs with the code and the function of its row. -/
theorem exec_shared : ∀ row ∈ sharedRows, ∀ w s, exec (row.instr w) s = runShared row.code row.fn w s := by
  unfold sharedRows integerRows compareRows floatRows laneRows
  simp only [List.cons_append, List.nil_append]
  repeat' refine List.forall_mem_cons.2 ⟨fun _ _ => rfl, ?_⟩
  exact List.forall_mem_nil _

theorem runsStandard_shared {row : SharedRow} (h : row ∈ sharedRows) : RunsStandard (fun r => row.instr (.node r)) plain :=
  .intro (fun r s => exec_shared row h (.node r) s) fun _ _ _ => res_sharedNode _ _ _ _ _ rfl

/-! Nodes that treat last posts and dead letters in their own way. -/

theorem runsQuietly_tagNodes : ∀ i ∈ [Instr.pusht, .popt, .iter, .sett], RunsQuietly i := by
  have quiet (lanes : Ctx → List Lane) (lp : Bool) (tag : Ctx → Except Trap (Nat × Nat)) : QuietRes fun s c =>
      match tag c with
      | .error t => .trap t
      | .ok tf => .done s (outTag c (lanes c) tf (anyDl c.f) lp []) 0 := fun s c => by
    dsimp only
    split <;> simp
  repeat' refine List.forall_mem_cons.2 ⟨?_, ?_⟩
  case refine_2.refine_2.refine_2.refine_2 => exact List.forall_mem_nil _
  all_goals
    refine .intro (fun r s => by dsimp only [exec, execPusht, execPopt, execIter, execSett, runOwn]) ?_ ?_ ?_
    all_goals exact fun _ => quiet _ _ _

theorem runsQuietly_steeringNodes : ∀ i ∈ [Instr.frame, .spawn, .spawnt, .free, .sync, .steer, .merge, .gaterel, .copy, .sink,
    .lpost, .waitlp, .seq, .accrd], RunsQuietly i := by
  repeat' refine List.forall_mem_cons.2 ⟨?_, ?_⟩
  rotate_right
  exact List.forall_mem_nil _
  all_goals
    refine .intro (fun r s => by
      dsimp only [exec, execFrame, execSpawn, execSpawnt, execFree, execSync, execSteer, execMerge, execGaterel, execCopy,
        execSink, execLpost, execWaitlp, execSeq, execAccrd, runPlain]) ?_ ?_ ?_
    all_goals
      intro r s c
      beta_reduce
      (repeat' split) <;> simp

theorem runsQuietly_tileForm (op : ReqOp) {i : NodeRec → Instr}
    (run : ∀ r s, exec (i r) s = runMem r (some 0) s (tileBody op)) : RunsQuietly i :=
  .intro run (fun _ => quiet_lpOut) (fun _ _ _ => res_memDl _ _ _ rfl) fun _ _ _ => res_tileBody _ _ _ _ rfl

theorem runsQuietly_tileForms : ∀ i ∈ [Instr.ldt, .stt], RunsQuietly i := by
  refine List.forall_mem_cons.2 ⟨runsQuietly_tileForm .read fun _ _ => rfl, ?_⟩
  exact List.forall_mem_cons.2 ⟨runsQuietly_tileForm .write fun _ _ => rfl, List.forall_mem_nil _⟩

theorem runsQuietly_memoryNodes : ∀ i ∈ [Instr.arrive, .ldm, .stm, .done, .gather, .scatter], RunsQuietly i := by
  repeat' refine List.forall_mem_cons.2 ⟨?_, ?_⟩
  rotate_right
  exact List.forall_mem_nil _
  all_goals
    refine .intro (fun r s => by
      dsimp only [exec, execArrive, execLdm, execStm, execDone, execGather, execScatter, runMem]) ?_ ?_ ?_
    all_goals
      intro r s c
      beta_reduce
      (repeat' split) <;> simp

/-- An atomic runs as a device form where SPACE is set and as a tile form elsewhere (R213, R215). -/
theorem runsQuietly_atomics : ∀ i ∈ [Instr.atomp, .atomr, .casr], RunsQuietly i := by
  have atom (op : ReqOp) (r : NodeRec) : ∃ p msgs lp dl body, (∀ s, runAtom op r s = runNode s r p msgs lp dl body) ∧
      QuietRes lp ∧ QuietRes dl ∧ QuietRes body := by
    by_cases h : spaceBit r = true
    · exact ⟨_, _, lpOut, memDl, deviceAtom op, fun s => by rw [runAtom, if_pos h]; rfl, quiet_lpOut, fun s c => by simp,
        fun s c => by simp⟩
    · exact ⟨_, _, lpOut, memDl, tileBody op, fun s => by rw [runAtom, if_neg h]; rfl, quiet_lpOut, fun s c => by simp,
        fun s c => by simp⟩
  repeat' refine List.forall_mem_cons.2 ⟨fun r => atom _ r, ?_⟩
  exact List.forall_mem_nil _

/-! Nodes with the standard treatment. -/

theorem runsStandard_standardNodes : ∀ p ∈ standardNodes, RunsStandard p.1 p.2 := by
  unfold standardNodes
  rw [List.forall_mem_append]
  refine ⟨?_, fun p hp => ?shared⟩
  case shared =>
    obtain ⟨row, hrow, rfl⟩ := List.mem_map.1 hp
    exact runsStandard_shared hrow
  repeat' refine List.forall_mem_cons.2 ⟨?_, ?_⟩
  rotate_right
  exact List.forall_mem_nil _
  all_goals
    refine .intro (fun r s => by
      dsimp only [exec, execGett, execCtxw, execPack, execUnpack, execRecol, execRange, execLut, execNop, execRdsys, execTrap,
        execBrk, execResumeSubstitute, execResumeRetry, execResumePoison, execKillf, execGate, execMma, execMmaz, execXread,
        execAccz, execFskip, execReduce, execXsend, execXmerge, execXclr, execCorner, execLutLoad, execBarinit, execWaitcnt,
        execMode, execModeReconf, execSemsig, execSemwait, execDecodetab, execTaill, execRoundstop, execRound, execSend,
        execRecv, execFreeslot, runPlain, specOf, streamOf, sendPolicy]) ?_
    intro r s c
    beta_reduce
    (repeat' split) <;> simp

/-- Every node instruction but ARCOUT and ARCIN runs as a node whose every case is quiet. -/
theorem runsQuietly_nodeForms : ∀ i ∈ nodeForms, RunsQuietly i := by
  have own := List.forall_mem_append.2 ⟨runsQuietly_tagNodes, List.forall_mem_append.2 ⟨runsQuietly_steeringNodes,
    List.forall_mem_append.2 ⟨runsQuietly_tileForms, List.forall_mem_append.2 ⟨runsQuietly_atomics, runsQuietly_memoryNodes⟩⟩⟩⟩
  refine List.forall_mem_append.2 ⟨own, fun i hi => ?_⟩
  obtain ⟨p, hp, rfl⟩ := List.mem_map.1 hi
  exact (runsStandard_standardNodes p hp).quietly

theorem outside_exec_node {i : NodeRec → Instr} (h : RunsQuietly i) (r : NodeRec) (s : State) :
    outOutside (outside s) (exec (i r) s) := by
  obtain ⟨p, msgs, lp, dl, body, run, hlp, hdl, hb⟩ := h r
  rw [run]
  exact out_runNode _ _ _ _ _ _ _ (fun s1 c h => h ▸ hlp s1 c) (fun s1 c h => h ▸ hdl s1 c) fun s1 c h => h ▸ hb s1 c

/-! Block instructions. -/

/-- A block instruction that runs its body in its context, leaving everything outside the launches alone. -/
def RunsInBlock (i : BlockRec → Instr) : Prop :=
  ∀ b, ∃ body, (∀ s, exec (i b) s = runBlock s b body) ∧ QuietBRes body

theorem RunsInBlock.intro {i : BlockRec → Instr} {body : BlockRec → State → BCtx → BRes}
    (run : ∀ b s, exec (i b) s = runBlock s b (body b)) (hb : ∀ b, QuietBRes (body b)) : RunsInBlock i :=
  fun b => ⟨_, run b, hb b⟩

theorem quiet_sharedBlock (opc : Nat) (fn : ShArgs → ShOut) : QuietBRes (sharedBlock opc fn) := by
  intro s c
  unfold sharedBlock
  dsimp only
  (repeat' split) <;> trivial

theorem runsInBlock_blockForms : ∀ i ∈ blockForms, RunsInBlock i := by
  unfold blockForms
  rw [List.forall_mem_append]
  refine ⟨?_, fun i hi => ?shared⟩
  case shared =>
    obtain ⟨row, hrow, rfl⟩ := List.mem_map.1 hi
    exact .intro (fun b s => exec_shared row hrow (.block b) s) fun _ => quiet_sharedBlock _ _
  repeat' refine List.forall_mem_cons.2 ⟨?_, ?_⟩
  rotate_right
  exact List.forall_mem_nil _
  all_goals
    refine .intro (fun b s => by
      dsimp only [exec, execGet, execEmit, execEmitc, execLdtb, execSttb, execXadd, execRdsysb, execLmask]) ?_
    intro b s c
    beta_reduce
    (repeat' split) <;> first | trivial | rfl | exact outside_checked ‹_›

theorem outside_exec_block {i : BlockRec → Instr} (h : RunsInBlock i) (b : BlockRec) (s : State) :
    outOutside (outside s) (exec (i b) s) := by
  obtain ⟨body, run, hb⟩ := h b
  rw [run]
  exact out_runBlock _ _ _ fun c => hb s c

theorem outside_of_next {s t : State} {o : Out} (h : outOutside (outside s) o) (ho : o = .next t) : outside t = outside s := by
  subst ho
  exact h

/-- Settles O56: every case of every such node, and of every block instruction, is quiet. -/
theorem programsKeepTheMachineOutsideTheirLaunch : Obligations.ProgramsKeepTheMachineOutsideTheirLaunch :=
  ⟨fun i hi r s _ h => outside_of_next (outside_exec_node (runsQuietly_nodeForms i hi) r s) h,
    fun i hi b s _ h => outside_of_next (outside_exec_block (runsInBlock_blockForms i hi) b s) h⟩

end Sys2Proof.Programs
end

section
/-! SUPPORT. From how a node runs to the statements about its firings: each of `completes`, `traps`, `holds`, `answersNext`,
`passesLp` and `passesDl` of Safety.lean follows from what one case of its `runNode` comes to. -/

namespace Sys2Proof.Programs

open Machine Safety Laws

section
variable {i : NodeRec → Instr} {p : Policy} {msgs : NodeRec → Ctx → Nat} {lp dl body : NodeRec → State → Ctx → Res}
  (run : ∀ r s, exec (i r) s = runNode s r p (msgs r) (lp r) (dl r) (body r))
include run

theorem completesMsgs_of_run {ok : State → Ctx → State → List Emission → Flags → Prop} {m : Ctx → Nat}
    (hm : ∀ c, msgs c.r c = m c) (h : ∀ s c s1 es fl, ok s c s1 es fl → body c.r s c = .done s1 es fl) :
    completesMsgs i p m ok := by
  intro s c s1 es fl hf hok hr
  have hb : body c.r (started s c p) (own s c p) = _ := h _ _ _ _ _ hok
  rw [run, runNode_fires hf, hb, hm]
  simp only [settleFrom, settle, hr, if_true]

theorem answersNext_of_run {ok : State → Ctx → State → Prop} (h : ∀ s c t, ok s c t → body c.r s c = .later t) :
    answersNext i p ok := by
  intro s c t hf hok
  have hb : body c.r (started s c p) (own s c p) = _ := h _ _ _ hok
  rw [run, runNode_later hf hb]

theorem holds_of_run {ok : State → Ctx → Prop} (h : ∀ s c, ok s c → body c.r s c = .hold) : holds i p ok := by
  intro s c hf hok
  have hb : body c.r (started s c p) (own s c p) = _ := h _ _ hok
  rw [run, runNode_hold hf hb]

theorem traps_of_run {ok : State → Ctx → Trap → Prop} (h : ∀ s c t, ok s c t → body c.r s c = .trap t) : traps i p ok := by
  intro s c t hf hok
  have hb : body c.r (started s c p) (own s c p) = _ := h _ _ _ hok
  rw [run, runNode_trap hf hb]

theorem passesLp_of_run {ok : Ctx → List Emission → Prop} (h : ∀ s c es, ok c es → lp c.r s c = .done s es 0) :
    passesLp i p ok := by
  intro s c es hf hok
  have hb : lp c.r (started s c p) (own s c p) = _ := h _ _ _ hok
  rw [run, runNode_firesLp hf, hb]
  rfl

theorem passesDl_of_run {ok : Ctx → List Emission → Prop} (h : ∀ s c es, ok c es → dl c.r s c = .done s es 0) :
    passesDl i p ok := by
  intro s c es hf hok
  have hb : dl c.r (started s c p) (own s c p) = _ := h _ _ _ hok
  rw [run, runNode_firesDl hf, hb]
  rfl

end

theorem completes_of_run {i : NodeRec → Instr} {p : Policy} {lp dl body : NodeRec → State → Ctx → Res}
    {ok : State → Ctx → State → List Emission → Flags → Prop}
    (run : ∀ r s, exec (i r) s = runNode s r p (fun _ => 0) (lp r) (dl r) (body r))
    (h : ∀ s c s1 es fl, ok s c s1 es fl → body c.r s c = .done s1 es fl) : completes i p ok :=
  completesMsgs_of_run run (fun _ => rfl) h

theorem emits_of_run {i : NodeRec → Instr} {lp dl body : NodeRec → State → Ctx → Res} {ok : Ctx → List Emission → Prop}
    (run : ∀ r s, exec (i r) s = runNode s r plain (fun _ => 0) (lp r) (dl r) (body r))
    (h : ∀ s c es, ok c es → body c.r s c = .done s es 0) : emits i ok := by
  refine completes_of_run run ?_
  rintro s c s1 es fl ⟨rfl, rfl, hok⟩
  exact h _ _ _ hok

theorem lpOut_done {s : State} {c : Ctx} {es : List Emission} (h : outBoth c (lpLanes c) (anyDl c.f) true [] = .ok es) :
    lpOut s c = .done s es 0 := by
  rw [lpOut, show outLp c [0, 1] c.r.tagop [] = .ok es from h]
  rfl

theorem dlOut_done {s : State} {c : Ctx} {es : List Emission}
    (h : outBoth c (poisonLanes (laneCount c) (poisonOf c)) true false [] = .ok es) : dlOut s c = .done s es 0 := by
  rw [dlOut, h]
  rfl

/-- A firing of a draining frame is discarded (R23). -/
theorem runNode_draining {s : State} {c : Ctx} (hi : s.issue = .node c.f) (hc : ctxOf s c.f c.r = some c)
    (hd : c.fr.state = .draining) (p : Policy) (msgs : Ctx → Nat) (lp dl body : State → Ctx → Res) :
    runNode s c.r p msgs lp dl body = .next (consume s c.f.a.fh (operandCount c.f)) := by
  simp [runNode, hi, hc, hd]

/-- What the memory nodes do with a last post does not depend on the SPEC_ILLEGAL detail of their form (R124, R342). -/
theorem passesLp_memory : ∀ i ∈ [Instr.ldt, .stt, .ldm, .stm, .gather, .scatter, .done, .atomp, .atomr, .casr],
    passesLp i plain fun c es => outBoth c (lpLanes c) (anyDl c.f) true [] = .ok es := by
  have mem {i : NodeRec → Instr} {spec : NodeRec → Option Nat} {body : NodeRec → State → Ctx → Res}
      (run : ∀ r s, exec (i r) s = runMem r (spec r) s (body r)) :
      passesLp i plain fun c es => outBoth c (lpLanes c) (anyDl c.f) true [] = .ok es := by
    intro s c es hf hok
    have hf' : firesLp s c { plain with spec := spec c.r } := hf
    have hb : lpOut (started s c { plain with spec := spec c.r }) (own s c { plain with spec := spec c.r }) =
        .done (started s c plain) es 0 := lpOut_done hok
    rw [run, runMem, runNode_firesLp hf', hb]
    rfl
  have atom {i : NodeRec → Instr} {op : NodeRec → ReqOp} (run : ∀ r s, exec (i r) s = runAtom (op r) r s) :
      passesLp i plain fun c es => outBoth c (lpLanes c) (anyDl c.f) true [] = .ok es := by
    refine mem (spec := fun r => if spaceBit r then none else some 0)
      (body := fun r => if spaceBit r then deviceAtom (op r) else tileBody (op r)) fun r s => ?_
    rw [run, runAtom]
    split <;> rfl
  have atoms : ∀ i ∈ [Instr.atomp, .atomr, .casr],
      passesLp i plain fun c es => outBoth c (lpLanes c) (anyDl c.f) true [] = .ok es := by
    refine List.forall_mem_cons.2 ⟨atom fun _ _ => rfl, List.forall_mem_cons.2 ⟨atom fun _ _ => rfl, ?_⟩⟩
    exact List.forall_mem_cons.2 ⟨atom (op := fun _ => .cas) fun _ _ => rfl, List.forall_mem_nil _⟩
  refine (List.forall_mem_append (l₁ := [Instr.ldt, .stt, .ldm, .stm, .gather, .scatter, .done])).2 ⟨?_, atoms⟩
  repeat' refine List.forall_mem_cons.2 ⟨mem fun r s => by
    dsimp only [exec, execLdt, execStt, execLdm, execStm, execGather, execScatter, execDone], ?_⟩
  exact List.forall_mem_nil _

/-- Settles O55: the standard cases of `runNode`, and its first test for a draining frame. -/
theorem lastPostsDeadLettersAndDrainingPass : Obligations.LastPostsDeadLettersAndDrainingPass := by
  refine ⟨fun p hp => ?standard, fun i hi s c hiss hc hd => ?draining, passesLp_memory⟩
  case standard =>
    choose msgs body run _ using runsStandard_standardNodes p hp
    exact ⟨passesLp_of_run run fun _ _ _ => lpOut_done, passesDl_of_run run fun _ _ _ => dlOut_done⟩
  case draining =>
    obtain ⟨p, msgs, lp, dl, body, run, -⟩ := runsQuietly_nodeForms i hi c.r
    rw [run, runNode_draining hiss hc hd]

/-- Settles O13: the node form of a shared function runs it on the firing's operands. -/
theorem sharedFunctionNodesComplete : Obligations.SharedFunctionNodesComplete := by
  intro row hrow
  refine completes_of_run (fun r s => exec_shared row hrow (.node r) s) ?_
  rintro s c s1 es fl ⟨rfl, rfl, hout, hodd, htrap⟩
  simp only [sharedNode, hodd, htrap, hout, doneWith]
  rfl

theorem runsTo_of_run {i : BlockRec → Instr} {body : BlockRec → State → BCtx → BRes}
    {ok : State → BCtx → State → BlockCtx → Prop} (run : ∀ b s, exec (i b) s = runBlock s b (body b))
    (h : ∀ s c s1 k, ok s c s1 k → body c.b s c = .next s1 k) : runsTo i ok := by
  intro s c s1 k hr hok
  rw [run, runBlock_next hr (h _ _ _ _ hok)]

/-- Settles O14: the block form of a shared function writes its result into its register. -/
theorem sharedFunctionsCompleteInBlocks : Obligations.SharedFunctionsCompleteInBlocks := by
  intro row hrow
  refine runsTo_of_run (fun b s => exec_shared row hrow (.block b) s) ?_
  rintro s c s1 k ⟨rfl, rfl, hodd, htrap⟩
  simp [sharedBlock, hodd, htrap]

end Sys2Proof.Programs
end

section
/-! SUPPORT. What every instruction keeps of the host's view and of the canonical form of the memories (R256, R274, R280): the
events and round instructions one family after another, the nodes and blocks by what `outside` keeps of them. -/

namespace Sys2Proof.Events

open Machine Safety Laws Programs

/-- A next state with the host's view of `s`, and with canonical memories where those of `s` are. -/
def Keeps (s t : State) : Prop :=
  hostView (outside t) = hostView (outside s) ∧ (memoriesWf (outside s) = true → memoriesWf (outside t) = true)

/-- An outcome whose next state, if any, keeps them. -/
def KeepsOut (s : State) : Out → Prop
  | .next t => Keeps s t
  | .fault _ | .refused _ => True

/-- What a round instruction does, where it keeps them. -/
def KeepsRRes (s : State) : RRes → Prop
  | .next t _ | .done t => Keeps s t
  | .wait | .trap _ | .race _ _ => True

theorem Keeps.refl (s : State) : Keeps s s := ⟨rfl, id⟩

theorem Keeps.of_outside {s t : State} (h : outside t = outside s) : Keeps s t := ⟨by rw [h], fun hs => by rwa [h]⟩

theorem Keeps.trans {s t u : State} (h : Keeps s t) (h' : Keeps t u) : Keeps s u := ⟨h'.1.trans h.1, h'.2 ∘ h.2⟩

theorem KeepsOut.of_outOutside {s : State} {x : Out} (h : outOutside (outside s) x) : KeepsOut s x := by
  cases x with
  | next t => exact .of_outside h
  | fault _ | refused _ => trivial

theorem keeps_foldl {α : Type} {f : State → α → State} (h : ∀ s a, Keeps s (f s a)) (l : List α) (s : State) :
    Keeps s (l.foldl f s) := by
  induction l generalizing s with
  | nil => exact .refl s
  | cons a l ih => exact (h s a).trans (ih (f s a))

/-! Events of two numbers, of one and of other items. -/

theorem keeps_itemEvents : ∀ f ∈ [Instr.tensorQueueStart, .waveIssue, .memoryPerform, .performedNotice, .walkComplete,
    .semwaitHostPoll, .arcCredit, .spillProbeReturn, .latchBlocked, .haltComplete, .frontierReport, .frontierBroadcast,
    .mailbagEntry, .taskRespawn, .taskFrontEntry, .taskCommit, .sealWave], ∀ a b s, KeepsOut s (exec (f a b) s) := by
  repeat' refine List.forall_mem_cons.2 ⟨fun a b s => ?_, ?_⟩
  rotate_right
  exact List.forall_mem_nil _
  all_goals
    dsimp only [exec, execTensorQueueStart, execWaveIssue, execMemoryPerform, execPerformedNotice, execWalkComplete,
      execSemwaitHostPoll, execArcCredit, execSpillProbeReturn, execLatchBlocked, execHaltComplete, execFrontierReport,
      execFrontierBroadcast, execMailbagEntry, execTaskRespawn, execTaskFrontEntry, execTaskCommit, execSealWave]
    (repeat' split) <;> exact ⟨by simp, fun h => by simp [h]⟩

theorem keeps_slotEvents : ∀ f ∈ [Instr.quiescenceDetected, .invalidationComplete, .handleReturn, .haltRequest, .foldExchange,
    .epochClose, .fence, .inval, .commitWave, .launchEnd, .slotRelease, .regionShrink, .foldRestore, .deadlockIdle,
    .linkAckTimeout, .linkTrainingFail], ∀ a s, KeepsOut s (exec (f a) s) := by
  repeat' refine List.forall_mem_cons.2 ⟨fun a s => ?_, ?_⟩
  rotate_right
  exact List.forall_mem_nil _
  all_goals
    dsimp only [exec, execQuiescenceDetected, execInvalidationComplete, execHandleReturn, execHaltRequest, execFoldExchange,
      execEpochClose, execFence, execInval, execCommitWave, execLaunchEnd, execSlotRelease, execRegionShrink,
      execFoldRestore, execDeadlockIdle, execLinkAckTimeout, execLinkTrainingFail]
    (repeat' split) <;> exact ⟨by simp, fun h => by simp [h]⟩

theorem keeps_blockCommit (slot vtile ctx : Nat) (s : State) : KeepsOut s (exec (.blockCommit slot vtile ctx) s) := by
  dsimp only [exec, execBlockCommit]
  (repeat' split) <;> exact .of_outside (by simp)

theorem keeps_parkNotice (slot vdesk fh : Nat) (s : State) : KeepsOut s (exec (.parkNotice slot vdesk fh) s) := by
  dsimp only [exec, execParkNotice]
  (repeat' split) <;> exact .of_outside (by simp)

theorem keeps_firingAged (slot vdesk index : Nat) (s : State) : KeepsOut s (exec (.firingAged slot vdesk index) s) := by
  dsimp only [exec, execFiringAged]
  exact .of_outside (by simp)

theorem keeps_priResponse (space : HostSpace) (vpn : Nat) (success : Bool) (s : State) :
    KeepsOut s (exec (.priResponse space vpn success) s) := by
  dsimp only [exec, execPriResponse]
  (repeat' split) <;> exact ⟨by simp, fun h => by simp [h]⟩

theorem keeps_doorbell (page : BarPage) (value : BitVec 64) (s : State) : KeepsOut s (exec (.doorbell page value) s) := by
  dsimp only [exec, execDoorbell]
  (repeat' split) <;> exact ⟨by simp, fun h => by simp [h]⟩

theorem keeps_queueWaitPoll (s : State) : KeepsOut s (exec .queueWaitPoll s) := by
  dsimp only [exec, execQueueWaitPoll]
  exact ⟨by simp, fun h => by simp [h]⟩

theorem keeps_meterRefill (s : State) : KeepsOut s (execMeterRefill s) := Keeps.of_outside (by simp)

theorem keeps_failureNotice (plane pkg : Nat) (s : State) : KeepsOut s (exec (.failureNotice plane pkg) s) := by
  dsimp only [exec, execFailureNotice]
  exact ⟨by simp, fun h => by simp [h]⟩

theorem keeps_communicatorRebuild (comm : Nat) (entries : List CommEntry) (s : State) :
    KeepsOut s (exec (.communicatorRebuild comm entries) s) := by
  dsimp only [exec, execCommunicatorRebuild]
  exact ⟨by simp, fun h => by simp [h]⟩

theorem keeps_queuePrioWeightChange (queue part prio weight : Nat) (s : State) :
    KeepsOut s (exec (.queuePrioWeightChange queue part prio weight) s) := by
  dsimp only [exec, execQueuePrioWeightChange]
  exact ⟨by simp, fun h => by simp [h]⟩

/-! Round instructions. -/

theorem keeps_runRound (s : State) (body : State → RCtx → RRes) (hb : ∀ r, KeepsRRes s (body s r)) :
    KeepsOut s (runRound s body) := by
  unfold runRound
  split
  next slot node _ =>
    split
    next => exact .refl s
    next l _ =>
      split
      next => exact .refl s
      next q _ =>
        split
        next => exact .refl s
        next f _ =>
          split
          next => exact .refl s
          next rec _ =>
            split
            next => exact .refl s
            next c _ =>
              have h := hb { l, q := { q with state := .running }, f, c }
              split
              next he => rw [he] at h; exact h.trans (.of_outside (by simp))
              next => exact .of_outside (by simp)
              next => exact .of_outside (by simp)
              next => exact .of_outside (by simp)
              next he => rw [he] at h; exact h
  all_goals trivial

@[simp] theorem host_courierPages (s : State) (r : RCtx) (host : Bool) (as : List Nat) :
    hostView (outside (courierPages s r host as)) = hostView (outside s) := by
  unfold courierPages
  split <;> simp

@[simp] theorem wf_courierPages (s : State) (r : RCtx) (host : Bool) (as : List Nat) (h : memoriesWf (outside s) = true) :
    memoriesWf (outside (courierPages s r host as)) = true := by
  unfold courierPages
  split <;> simp [h]

theorem keeps_askRecovery (s : State) (slot line : Nat) : Keeps s (askRecovery s slot line) :=
  ⟨by simp, fun h => by simp [h]⟩

theorem keepsRRes_unplaced (s : State) (r : RCtx) (e : UnitCheck) : KeepsRRes s (unplaced s r e) := by
  cases e with
  | lost n => exact keeps_askRecovery _ _ _
  | trap _ | miss _ _ | ok _ => trivial

theorem keeps_setg (gd : BitVec 3) (imm : BitVec 48) (s : State) : KeepsOut s (execSetg gd imm s) :=
  keeps_runRound s _ fun _ => Keeps.refl s

theorem keeps_addg (gd ga : BitVec 3) (imm : BitVec 48) (s : State) : KeepsOut s (execAddg gd ga imm s) :=
  keeps_runRound s _ fun _ => Keeps.refl s

theorem keeps_addgg (gd ga gb : BitVec 3) (sh : BitVec 6) (s : State) : KeepsOut s (execAddgg gd ga gb sh s) :=
  keeps_runRound s _ fun _ => Keeps.refl s

theorem keeps_loop (gd : BitVec 3) (skip : BitVec 10) (count : BitVec 32) (s : State) :
    KeepsOut s (execLoop gd skip count s) :=
  keeps_runRound s _ fun _ => Keeps.refl s

theorem keeps_endl (gd : BitVec 3) (back : BitVec 10) (s : State) : KeepsOut s (execEndl gd back s) :=
  keeps_runRound s _ fun _ => Keeps.refl s

theorem keeps_waitslot (gt : BitVec 3) (tgt : BitVec 7) (n : BitVec 8) (s : State) : KeepsOut s (execWaitslot gt tgt n s) := by
  refine keeps_runRound s _ fun r => ?_
  (repeat' split) <;> first | trivial | exact Keeps.refl s

theorem keeps_fetch (ga gs : BitVec 3) (buf : BitVec 2) (host : Bool) (rows : BitVec 8) (rowb : BitVec 11) (s : State) :
    KeepsOut s (execFetch ga gs buf host rows rowb s) := by
  refine keeps_runRound s _ fun r => ?_
  split
  · exact keepsRRes_unplaced _ _ _
  · dsimp only
    split
    · trivial
    next hc =>
      split
      · exact keeps_askRecovery _ _ _
      · exact ⟨by simp [outside_newChecked hc], fun h => by simp [outside_newChecked hc, h]⟩

theorem keeps_deliver (gt : BitVec 3) (buf : BitVec 2) (tgt : BitVec 7) (s : State) :
    KeepsOut s (execDeliver gt buf tgt s) := by
  refine keeps_runRound s _ fun r => ?_
  dsimp only
  (repeat' split) <;> first | trivial | exact Keeps.of_outside (by simp)

theorem keeps_courierSink (ga gs gt : BitVec 3) (host : Bool) (tgt : BitVec 7) (rows : BitVec 8) (rowb : BitVec 11) (s : State) :
    KeepsOut s (execCourierSink ga gs gt host tgt rows rowb s) := by
  refine keeps_runRound s _ fun r => ?_
  dsimp only
  split
  · trivial
  · split
    · trivial
    split
    · trivial
    split
    · trivial
    split
    · exact keepsRRes_unplaced _ _ _
    split
    · trivial
    split
    · trivial
    next hc =>
      have ho := (outside_newChecked hc).trans (by simp : outside (newGroup s).1 = outside s)
      split
      · trivial
      · refine ⟨by simp [ho, host_writePieces], fun h => ?_⟩
        rw [outside_freeMessages, outside_modLaunch]
        exact wf_clearPieces _ _ _ (wf_writePieces _ _ _ _ _ (wf_courierPages _ _ _ _ (by rwa [ho])))

theorem keeps_decode (bi bo tab : BitVec 2) (s : State) : KeepsOut s (execDecode bi bo tab s) := by
  refine keeps_runRound s _ fun r => ?_
  dsimp only
  split
  · trivial
  · trivial
  · split
    · trivial
    next hc =>
      split
      · trivial
      · exact Keeps.of_outside (outside_newChecked hc)

theorem keeps_courierArrive (gt : BitVec 3) (bidx : BitVec 16) (bytes : BitVec 24) (s : State) :
    KeepsOut s (execCourierArrive gt bidx bytes s) := by
  refine keeps_runRound s _ fun r => ?_
  dsimp only
  split
  · trivial
  split
  · trivial
  split
  · trivial
  split
  · trivial
  split
  · trivial
  next hc => exact Keeps.of_outside (by simp [outside_newChecked hc])

theorem keeps_token (dest : BitVec 19) (ga : BitVec 3) (fill : BitVec 7) (s : State) :
    KeepsOut s (execToken dest ga fill s) := by
  refine keeps_runRound s _ fun r => ?_
  dsimp only
  split
  · trivial
  · exact Keeps.of_outside (by simp)

theorem keeps_courierSemwait (ga gv : BitVec 3) (s : State) : KeepsOut s (execCourierSemwait ga gv s) := by
  refine keeps_runRound s _ fun r => ?_
  dsimp only
  split
  · exact keepsRRes_unplaced _ _ _
  split
  · exact keeps_askRecovery _ _ _
  split
  · trivial
  split
  · trivial
  next hc => exact ⟨by simp [outside_newChecked hc], fun h => by simp [outside_newChecked hc, h]⟩

theorem keeps_courierSemsig (ga gv : BitVec 3) (add : Bool) (scope : Scope) (s : State) :
    KeepsOut s (execCourierSemsig ga gv add scope s) := by
  refine keeps_runRound s _ fun r => ?_
  dsimp only
  split
  · trivial
  split
  · exact keepsRRes_unplaced _ _ _
  split
  · trivial
  next hc =>
    split
    · exact keeps_askRecovery _ _ _
    · refine ⟨by simp [outside_newChecked hc], fun h => wf_addSignal _ _ (wf_writeSpace _ _ _ _ _ _ (wf_courierPages _ _ _ _ ?_))⟩
      rwa [outside_newChecked hc]

theorem keeps_endRound (s : State) : KeepsOut s (execEndRound s) := by
  refine keeps_runRound s _ fun r => ?_
  dsimp only
  split
  · trivial
  split
  · trivial
  split
  · trivial
  · exact Keeps.of_outside (by simp)

theorem keeps_finishRecord (s : State) (q : Nat) (r : Rec) (c : Completion) (hb : List Nat) :
    Keeps s (finishRecord s q r c hb) := ⟨by simp, fun h => by simp [h]⟩

theorem keeps_modQueue (s : State) (q : Nat) (f : Queue → Queue) : Keeps s (modQueue s q f) := ⟨by simp, fun h => by simp [h]⟩

theorem keeps_modPort (s : State) (p : Nat) (f : LinkPort → LinkPort) : Keeps s (modPort s p f) :=
  ⟨by simp, fun h => by simp [h]⟩

theorem keeps_sendFlit (s : State) (p pkg : Nat) (k : LinkKind) : Keeps s (sendFlit s p pkg k) :=
  ⟨by simp, fun h => by simp [h]⟩

theorem keeps_takeFlit (s : State) (p : Nat) (k : LinkKind) : Keeps s (takeFlit s p k) := ⟨by simp, fun h => by simp [h]⟩

theorem keeps_portDown (s : State) (p : Nat) : Keeps s (portDown s p) := ⟨by simp, fun h => by simp [h]⟩

theorem keeps_releaseLaunch (s : State) (l : Launch) : Keeps s (releaseLaunch s l) := ⟨by simp, fun h => by simp [h]⟩

theorem keeps_copyWrite (s : State) (host : Bool) (ps : List (Nat × Nat × Nat)) (bs : List Byte) :
    Keeps s (copyWrite s host ps bs) := ⟨host_copyWrite _ _ _ _, wf_copyWrite _ _ _ _⟩

theorem keeps_clearPieces (s : State) (host : Bool) (ps : List (Nat × Nat × Nat)) : Keeps s (clearPieces s host ps) :=
  ⟨by simp, fun h => by simp [h]⟩

theorem keeps_beginInval (s : State) (id : Nat) (sc : InvalScope) (queue : Option Nat) : Keeps s (beginInval s id sc queue) :=
  ⟨by simp, fun h => by simp [h]⟩

/-! Messages, notices and deliveries that arrive. -/

@[simp] theorem host_discardFlit (s : State) (l : Launch) (src dst : Nat) :
    hostView (outside (discardFlit s l src dst)) = hostView (outside s) := by
  simp [discardFlit, logEntry]

@[simp] theorem wf_discardFlit (s : State) (l : Launch) (src dst : Nat) (h : memoriesWf (outside s) = true) :
    memoriesWf (outside (discardFlit s l src dst)) = true := by
  simp [discardFlit, logEntry, h]

theorem keeps_discardMessage (s : State) (l : Launch) (f : Firing) (x : Arc) : Keeps s (discardMessage s l f x) :=
  ⟨by simp [discardMessage], fun h => by simp [discardMessage, h]⟩

theorem keeps_discardNotice (s : State) (l : Launch) (ps arc : Nat) : Keeps s (discardNotice s l ps arc) := by
  unfold discardNotice
  split
  · exact ⟨by simp, fun h => by simp [h]⟩
  · exact Keeps.refl s

theorem outside_failSend (s : State) (f : Firing) (held : Bool) (e : Trap ⊕ (Access × Access)) :
    outside (failSend s f held e) = outside s := by
  unfold failSend
  split <;> simp

theorem keeps_messageWrite (slot id : Nat) (s : State) : KeepsOut s (execMessageWrite slot id s) := by
  unfold execMessageWrite
  split
  next ht =>
    have ho := outside_takeCargo ht
    split
    next =>
      split
      · exact Keeps.of_outside ho
      next =>
        split
        · exact (Keeps.of_outside ho).trans (keeps_discardMessage _ _ _ _)
        · split
          next =>
            split
            next hw =>
              have h2 := (outside_writeMessage hw).trans ho
              split
              · exact Keeps.of_outside h2
              · refine Keeps.of_outside ((outside_settle _ _ _ _ _ ?_).trans h2)
                exact resOutside_doneWith _ _ _ _ rfl
            · exact Keeps.of_outside (by simp [outside_failSend, ho])
          · exact (Keeps.of_outside ho).trans (keeps_discardMessage _ _ _ _)
          · exact Keeps.of_outside ho
    · exact Keeps.of_outside ho
  · exact Keeps.refl s

theorem keeps_freedSlotNotice (slot id : Nat) (s : State) : KeepsOut s (execFreedSlotNotice slot id s) := by
  unfold execFreedSlotNotice
  split
  next ht =>
    have ho := outside_takeCargo ht
    split
    · exact Keeps.of_outside (by simp [ho])
    · exact (Keeps.of_outside ho).trans (keeps_discardNotice _ _ _ _)
  next ht => exact Keeps.of_outside (by simp [outside_takeCargo ht])
  · exact Keeps.refl s

theorem keeps_xsendArrival (slot id : Nat) (s : State) : KeepsOut s (execXsendArrival slot id s) := by
  unfold execXsendArrival
  split
  · exact Keeps.refl s
  next ht =>
    have ho := outside_takeCargo ht
    split
    · exact Keeps.of_outside ho
    split
    · exact Keeps.of_outside ho
    refine Keeps.of_outside ((outside_settle _ _ _ _ _ ?_).trans ho)
    exact resOutside_withAccesses _ _ _ _ _ rfl fun s1 h => resOutside_doneWith _ _ _ _ (by simp [h])
  · exact Keeps.refl s

theorem keeps_arcMessageArrival (slot id : Nat) (s : State) : KeepsOut s (execArcMessageArrival slot id s) := by
  unfold execArcMessageArrival
  split
  next ht =>
    have ho := outside_takeCargo ht
    split
    · split
      · exact Keeps.of_outside ho
      split
      · exact Keeps.of_outside (by simp)
      · exact ⟨by simp [ho], fun h => wf_arcWrite _ _ _ _ _ _ (by simp [ho, h])⟩
    · exact Keeps.of_outside ho
  · exact Keeps.refl s

theorem keeps_deliveryArrival (slot id : Nat) (s : State) : KeepsOut s (execDeliveryArrival slot id s) := by
  unfold execDeliveryArrival
  split
  next ht =>
    have ho := outside_takeCargo ht
    split
    · split
      · exact Keeps.of_outside (by simp [ho])
      dsimp only
      split
      next hw =>
        have h2 := (outside_deliverWrite hw).trans ho
        split
        · exact Keeps.of_outside (by simp [h2])
        · exact Keeps.of_outside (by simp [h2])
      · split
        · exact Keeps.of_outside (by simp [ho])
        · split <;> exact Keeps.of_outside (by simp [ho])
    · exact Keeps.of_outside ho
  · exact Keeps.refl s

/-! Translations. -/

theorem keeps_grantOthers (s : State) (pg : HostPage) (answer : AtsAnswer) (t : State) : Keeps t (grantOthers s pg answer t) := by
  unfold grantOthers
  split
  · exact keeps_foldl (fun t p => ⟨by simp, fun h => by simp [h]⟩) _ _
  · exact Keeps.refl t
  · exact Keeps.refl t

theorem keeps_atsAnswer (space : HostSpace) (vpn : Nat) (answer : AtsAnswer) (s : State) :
    KeepsOut s (execAtsAnswer space vpn answer s) := by
  unfold execAtsAnswer
  have h1 : Keeps s (atsRequests s (space.part, space.pasid, vpn) answer) := ⟨by simp, fun h => by simp [h]⟩
  have h2 := h1.trans (keeps_grantOthers s (space.part, space.pasid, vpn) answer _)
  dsimp only
  split
  · exact h2
  · exact h2
  · exact h2.trans ⟨by simp, fun h => by simp [h]⟩

theorem keeps_writeTables (s : State) (sc : InvalScope) (ptes : List (Nat × Dword)) : Keeps s (writeTables s sc ptes) := by
  unfold writeTables
  split
  · exact Keeps.refl s
  · split
    · exact Keeps.refl s
    · exact keeps_foldl (fun t p => ⟨by simp, fun h => by simp [h]⟩) _ _

theorem keeps_invalidation (id : Nat) (remap : Remap) (s : State) : KeepsOut s (execInvalidation id remap s) :=
  (keeps_writeTables s _ _).trans (keeps_beginInval _ _ _ _)

/-! Desks. -/

theorem keeps_getD {s : State} {x : Option State} (h : ∀ t, x = some t → Keeps s t) : Keeps s (x.getD s) := by
  cases x with
  | none => exact Keeps.refl s
  | some t => exact h t rfl

theorem keeps_tokenArrival (slot id : Nat) (s : State) : KeepsOut s (execTokenArrival slot id s) := by
  unfold execTokenArrival
  split
  · exact Keeps.refl s
  split
  next l _ _ v t _ =>
    exact keeps_getD fun t hd => Keeps.of_outside (by simp [outside_deliver hd])
  · split
    · exact Keeps.refl s
    dsimp only
    split
    · exact Keeps.of_outside (by simp)
    split
    next hd => exact Keeps.of_outside (by simp [outside_deliver hd])
    · exact Keeps.of_outside (by simp)

theorem keeps_spillWriteDone (slot vdesk : Nat) (s : State) : KeepsOut s (execSpillWriteDone slot vdesk s) := by
  unfold execSpillWriteDone
  split
  · exact Keeps.refl s
  split
  · unfold spillWrite
    dsimp only
    (repeat' split) <;> first | exact Keeps.of_outside (by simp) | exact Keeps.of_outside (by simp [outside_parityFault ‹_›])
  · exact Keeps.refl s

/-! Queues, launches and arcs. -/

theorem keeps_dispatch (s : State) : KeepsOut s (execDispatch s) := by
  unfold execDispatch
  split
  · exact Keeps.refl s
  dsimp only
  split
  · exact Keeps.refl s
  split
  · exact ⟨by simp, fun h => by simp [h]⟩
  split
  · exact Keeps.trans ⟨by simp, fun h => by simp [h]⟩ (keeps_finishRecord _ _ _ _ _)
  · exact ⟨by simp, fun h => by simp [h]⟩

theorem keeps_loadLaunch {s t : State} {part : Nat} {r : Rec} {m : Manifest} (h : loadLaunch s part r = .ok (t, m)) :
    Keeps s t := by
  unfold loadLaunch at h
  dsimp only at h
  (repeat' split at h) <;> cases h
  all_goals exact ⟨by simp, fun h => by simp [h]⟩

theorem keeps_routedState {s t : State} (h : routedState s = some t) : Keeps s t := by
  unfold routedState at h
  (repeat' split at h) <;> cases h
  · exact Keeps.refl s
  · exact ⟨by simp [writeRoutes], fun h => by simp [writeRoutes, h]⟩

theorem keeps_launch (queue : Nat) (s : State) : KeepsOut s (execLaunch queue s) := by
  unfold execLaunch
  split
  · exact Keeps.refl s
  dsimp only
  split
  · exact Keeps.refl s
  split
  · exact ⟨by simp, fun h => by simp [h]⟩
  next hl =>
    have h1 := keeps_loadLaunch hl
    split
    · exact h1.trans ⟨by simp, fun h => by simp [h]⟩
    split
    · exact h1.trans ⟨by simp, fun h => by simp [h]⟩
    split
    · exact h1.trans ⟨by simp, fun h => by simp [h]⟩
    next hr =>
      have h2 := h1.trans (keeps_routedState hr)
      split <;> exact h2.trans ⟨by simp, fun h => by simp [h]⟩

theorem keeps_copyRecord (queue : Nat) (s : State) : KeepsOut s (execCopyRecord queue s) := by
  have hf (q : Nat) (r : Rec) (c : Completion) : Keeps s (finishRecord s q r c []) := ⟨by simp, fun h => by simp [h]⟩
  have hu (r : Rec) (u : UnitCheck) : KeepsOut s (match (generalizing := false) u with
      | .trap t => .next (finishRecord s queue r (plainDone t.code t.detail) [])
      | .lost _ => .next (finishRecord s queue r (plainDone 0x16 0) [])
      | .miss _ _ | .ok _ => .next s) := by
    cases u with
    | trap _ | lost _ => exact hf _ _ _
    | miss _ _ | ok _ => exact Keeps.refl s
  unfold execCopyRecord
  split
  · exact Keeps.refl s
  dsimp only
  split
  · exact hu _ _
  split
  · exact hu _ _
  split
  · exact hf _ _ _
  · exact ((keeps_copyWrite _ _ _ _).trans (keeps_clearPieces _ _ _)).trans (keeps_finishRecord _ _ _ _ _)

theorem keeps_arcBind (slot arc : Nat) (peer : Option ArcPeer) (s : State) : KeepsOut s (execArcBind slot arc peer s) := by
  unfold execArcBind bindPair bindOver
  (repeat' split) <;> exact ⟨by simp, fun h => by simp [h]⟩

theorem keeps_deadlockSample (s : State) : KeepsOut s (execDeadlockSample s) := by
  unfold execDeadlockSample
  refine Keeps.trans (t := { s with detector := _ }) ⟨by simp, fun h => by simp [h]⟩ (keeps_foldl (fun t e => ?_) _ _)
  unfold trapDeadlock
  split
  · exact Keeps.refl _
  · exact Keeps.of_outside (by simp)

theorem keeps_linkFlitReceive (port seq ack : Nat) (kind : LinkKind) (crcOk : Bool) (s : State) :
    KeepsOut s (execLinkFlitReceive port seq ack kind crcOk s) := by
  unfold execLinkFlitReceive
  split
  · exact Keeps.refl s
  split
  · exact Keeps.refl s
  split
  · dsimp only
    split
    · exact (keeps_modPort _ _ _).trans (keeps_portDown _ _)
    · exact (keeps_modPort _ _ _).trans (keeps_sendFlit _ _ _ _)
  · dsimp only
    split
    · exact keeps_modPort _ _ _
    · exact ((keeps_modPort _ _ _).trans (keeps_modPort _ _ _)).trans (keeps_takeFlit _ _ _)

theorem keeps_vfFlr (part : Nat) (s : State) : KeepsOut s (execVfFlr part s) := by
  unfold execVfFlr
  split
  · exact Keeps.of_outside (by simp)
  · obtain ⟨hv, hw⟩ := keeps_foldl keeps_releaseLaunch (s.launches.filter fun l => l.part == part && l.phase != .closed) s
    exact ⟨hv, hw⟩

/-! ARCOUT and ARCIN. -/

/-- What a node's operation does, where it keeps the view and the canonical form. -/
def KeepsRes (s : State) : Res → Prop
  | .done t _ _ | .later t => Keeps s t
  | .trap _ | .race _ _ | .hold => True

theorem KeepsRes.of_resOutside {s : State} {res : Res} (h : resOutside (outside s) res) : KeepsRes s res := by
  cases res with
  | done t _ _ | later t => exact Keeps.of_outside h
  | trap _ | race _ _ | hold => trivial

theorem keepsRes_doneWith {s t : State} (h : Keeps s t) (es : Except Trap (List Emission)) (fl : Flags) :
    KeepsRes s (doneWith t es fl) := by
  cases es with
  | error _ => trivial
  | ok _ => exact h

theorem keepsRes_withAccesses (s s0 : State) (slot : Nat) (xs : List Access) (k : State → Res) (h : Keeps s s0)
    (hk : ∀ s1, Keeps s s1 → KeepsRes s (k s1)) : KeepsRes s (withAccesses s0 slot xs k) := by
  unfold withAccesses
  split
  · trivial
  next hc => exact hk _ (h.trans (.of_outside (outside_checked hc)))

theorem keeps_settle (s s0 : State) (c : Ctx) (m : Nat) (d : Bool) (res : Res) (h0 : Keeps s s0) (h : KeepsRes s res) :
    Keeps s (settle s0 c m d res) := by
  unfold settle
  split
  · exact h0.trans (.of_outside (by simp))
  · exact h0.trans (.of_outside (by simp))
  · exact h0.trans (.of_outside (by simp))
  · exact h
  · split
    · split
      · exact h0.trans (.of_outside (by simp))
      · exact Keeps.trans h (.of_outside (by simp))
    · exact Keeps.trans h (.of_outside (by simp))

theorem keeps_settleFrom (s : State) (c : Ctx) (p : Policy) (m : Nat) (d : Bool) (res : Res) (h : KeepsRes s res) :
    Keeps s (settleFrom s c p m d res) := by
  unfold settleFrom
  split
  · exact Keeps.of_outside (by simp)
  all_goals exact keeps_settle _ _ _ _ _ _ (.of_outside (by simp)) h

theorem keeps_runNode (s : State) (r : NodeRec) (p : Policy) (msgs : Ctx → Nat) (lp dl body : State → Ctx → Res)
    (hlp : ∀ s1 c, Keeps s s1 → KeepsRes s (lp s1 c)) (hdl : ∀ s1 c, Keeps s s1 → KeepsRes s (dl s1 c))
    (hb : ∀ s1 c, Keeps s s1 → KeepsRes s (body s1 c)) : KeepsOut s (runNode s r p msgs lp dl body) := by
  unfold runNode
  dsimp only
  split
  · split
    · exact Keeps.refl s
    split
    · exact Keeps.of_outside (by simp)
    split
    next h => exact Keeps.of_outside (outside_firingFault h)
    split
    next h => exact keeps_settle _ _ _ _ _ _ (.refl s) (.of_resOutside (resOutside_ordRes h _))
    have hs (c : Ctx) : Keeps s (started s c p) := .of_outside (by simp)
    split
    · split
      · exact Keeps.of_outside (by simp)
      · refine keeps_settleFrom _ _ _ _ _ _ ?_
        split
        · exact hlp _ _ (hs _)
        · exact hdl _ _ (hs _)
    · split
      · exact Keeps.of_outside (by simp)
      · exact keeps_settleFrom _ _ _ _ _ _ (hb _ _ (hs _))
  all_goals trivial

theorem keepsRes_arcSend (s s1 : State) (c : Ctx) (dl lp : Bool) (lanes : List Lane) (out : Except Trap (List Emission))
    (h : Keeps s s1) : KeepsRes s (arcSend s1 c dl lp lanes out) := by
  unfold arcSend
  split
  · trivial
  split
  · trivial
  split
  · trivial
  split
  · trivial
  · exact keepsRes_doneWith (h.trans ((keeps_sendFlit _ _ _ _).trans (.of_outside (outside_modLaunch _ _ _)))) _ _

theorem keepsRes_arcSpec (s : State) (go : State → Ctx → Res) (hgo : ∀ s1 c, Keeps s s1 → KeepsRes s (go s1 c)) (s1 : State)
    (c : Ctx) (h : Keeps s s1) : KeepsRes s (arcSpec go s1 c) := by
  unfold arcSpec
  split
  · trivial
  · exact hgo _ _ h

theorem keepsRes_arcLp (s : State) (go : State → Ctx → Res) (hgo : ∀ s1 c, Keeps s s1 → KeepsRes s (go s1 c)) (s1 : State)
    (c : Ctx) (h : Keeps s s1) : KeepsRes s (arcLp go s1 c) := by
  unfold arcLp
  split
  · exact hgo _ _ h
  · trivial

theorem keepsRes_arcPass (s : State) (go : State → Ctx → Res) (hgo : ∀ s1 c, Keeps s s1 → KeepsRes s (go s1 c)) (s1 : State)
    (c : Ctx) (h : Keeps s s1) : KeepsRes s (arcPass go s1 c) := by
  unfold arcPass
  split
  · split
    · trivial
    · exact hgo _ _ h
  · exact hgo _ _ h

theorem keeps_arcout (r : NodeRec) (s : State) : KeepsOut s (execArcout r s) := by
  refine keeps_runNode _ _ _ _ _ _ _ ?_ ?_ fun s1 c h => ?_
  · exact keepsRes_arcLp _ _ (keepsRes_arcSpec _ _ fun s1 c h => keepsRes_arcSend _ _ _ _ _ _ _ h)
  · exact keepsRes_arcSpec _ _ fun s1 c h => keepsRes_arcSend _ _ _ _ _ _ _ h
  · split
    · trivial
    · exact keepsRes_arcSend _ _ _ _ _ _ _ h

theorem keeps_takeArc (s : State) (c : Ctx) (x : Arc) (lb m : Nat) (hb : List Nat) : Keeps s (takeArc s c x lb m hb) :=
  ⟨by simp, fun h => by simp [h]⟩

theorem keepsRes_arcTake (s s1 : State) (c : Ctx) (x : Arc) (lb m : Nat) (h : Keeps s s1) :
    KeepsRes s (arcTake s1 c x lb m) := by
  unfold arcTake
  refine keepsRes_withAccesses _ _ _ _ _ (h.trans (.of_outside rfl)) fun s2 h2 => ?_
  dsimp only
  split
  · exact keepsRes_doneWith (h2.trans (Keeps.trans (.of_outside (by simp)) (keeps_takeArc _ _ _ _ _ _))) _ _
  split
  · exact keepsRes_doneWith (h2.trans (Keeps.trans (.of_outside (by simp)) (keeps_takeArc _ _ _ _ _ _))) _ _
  split
  · exact keepsRes_doneWith (h2.trans (keeps_takeArc _ _ _ _ _ _)) _ _
  · exact keepsRes_doneWith (h2.trans (keeps_takeArc _ _ _ _ _ _)) _ _

theorem keepsRes_arcinBody (s s1 : State) (c : Ctx) (h : Keeps s s1) : KeepsRes s (arcinBody s1 c) := by
  unfold arcinBody
  split
  · dsimp only
    split
    · split
      · trivial
      split
      · trivial
      · trivial
      · exact h.trans (.of_outside (by simp))
    · split
      · trivial
      split
      · exact keepsRes_arcTake _ _ _ _ _ _ h
      split
      · trivial
      · trivial
  · trivial

theorem keepsRes_lpOut (s s1 : State) (c : Ctx) (h : Keeps s s1) : KeepsRes s (lpOut s1 c) := keepsRes_doneWith h _ _

theorem keepsRes_dlOut (s s1 : State) (c : Ctx) (h : Keeps s s1) : KeepsRes s (dlOut s1 c) := keepsRes_doneWith h _ _

theorem keeps_arcin (r : NodeRec) (s : State) : KeepsOut s (execArcin r s) :=
  keeps_runNode _ _ _ _ _ _ _ (keepsRes_arcLp _ _ (keepsRes_arcSpec _ _ (keepsRes_arcPass _ _ (keepsRes_lpOut s))))
    (keepsRes_arcSpec _ _ (keepsRes_arcPass _ _ (keepsRes_dlOut s))) (keepsRes_arcinBody s)

/-! Every instruction but the host's events keeps the view and the canonical form. -/

theorem quiet_sharedNode (opc : Nat) (fn : ShArgs → ShOut) (s : State) (c : Ctx) :
    resOutside (outside s) (sharedNode opc fn s c) := res_sharedNode _ _ _ _ _ rfl

theorem keeps_runShared (opc : Nat) (fn : ShArgs → ShOut) (w : Shared) (s : State) : KeepsOut s (runShared opc fn w s) := by
  cases w with
  | node r =>
    exact .of_outOutside (out_runNode _ _ _ _ _ _ _ (fun _ _ h => res_lpOut _ _ _ h) (fun _ _ h => res_dlOut _ _ _ h)
      fun _ _ h => res_sharedNode _ _ _ _ _ h)
  | block b => exact .of_outOutside (out_runBlock _ _ _ fun c => quiet_sharedBlock opc fn s c)

theorem keeps_node {i : NodeRec → Instr} (hi : i ∈ nodeForms) (r : NodeRec) (s : State) : KeepsOut s (exec (i r) s) :=
  .of_outOutside (outside_exec_node (runsQuietly_nodeForms i hi) r s)

theorem keeps_block {i : BlockRec → Instr} (hi : i ∈ blockForms) (b : BlockRec) (s : State) : KeepsOut s (exec (i b) s) :=
  .of_outOutside (outside_exec_block (runsInBlock_blockForms i hi) b s)

theorem keeps_exec (i : Instr) (s : State) (hi : hostEvent i = false) : KeepsOut s (exec i s) := by
  cases i with
  | add w | sub w | adds w | subs w | mul w | mulh w | div w | rem w | min w | max w | abs w | neg w | and w | or w | xor w
  | andn w | not w | shl w | shr w | sar w | rol w | clz w | ctz w | popc w | brev w | bfx w | bfi w | mad w | idx w
  | sel w | mov w | const w | ceq w | cne w | clt w | cle w | cgt w | cge w | cun w | classify w | test w | fadd w | fsub w
  | fmul w | fma w | fms w | fnma w | fdiv w | fsqrt w | fmin w | fmax w | fabs w | fneg w | fcpys w | frint w | fscale w
  | fexpo w | fmant w | frac w | cvt w | cvts w | pkbf w | bcast w | lget w | lset w | shuf w | rot w | lsum w | lmin w
  | lmax w | scan w | compact w => exact keeps_runShared _ _ w s
  | pusht r | popt r | iter r | sett r | gett r | frame r | spawn r | spawnt r | free r | ctxw r | pack r | unpack r
  | recol r | steer r | merge r | gate r | gaterel r | copy r | sink r | lpost r | waitlp r | sync r | seq r | mma r
  | mmaz r | accrd r | accz r | fskip r | corner r | range r | lut r | lutLoad r | reduce r | xread r | xsend r | xmerge r
  | xclr r | decodetab r | ldt r | stt r | atomp r | atomr r | casr r | send r | recv r | freeslot r | barinit r | arrive r
  | waitcnt r | mode r | modeReconf r | ldm r | stm r | done r | gather r | scatter r | semsig r | semwait r | nop r
  | rdsys r | taill r | trap r | brk r | resumeSubstitute r | resumeRetry r | resumePoison r | killf r | round r
  | roundstop r =>
    exact keeps_node (by simp [nodeForms, standardNodes]) r s
  | get b | emit b | emitc b | ldtb b | sttb b | xadd b | rdsysb b | lmask b => exact keeps_block (by simp [blockForms]) b s
  | tensorQueueStart a b | waveIssue a b | memoryPerform a b | performedNotice a b | walkComplete a b | semwaitHostPoll a b
  | arcCredit a b | spillProbeReturn a b | latchBlocked a b | haltComplete a b | frontierReport a b | frontierBroadcast a b
  | mailbagEntry a b | taskRespawn a b | taskFrontEntry a b | taskCommit a b | sealWave a b =>
    exact keeps_itemEvents _ (by simp) a b s
  | quiescenceDetected a | invalidationComplete a | handleReturn a | haltRequest a | foldExchange a | epochClose a
  | fence a | inval a | commitWave a | launchEnd a | slotRelease a | regionShrink a | foldRestore a | deadlockIdle a
  | linkAckTimeout a | linkTrainingFail a =>
    exact keeps_slotEvents _ (by simp) a s
  | flitReceive _ _ _ _ _ _ _ _ | hoplogClear _ _ | registerWrite _ _ _ | clockStep _ _ | thermalTrip _ | thermalClear _
  | bootgo _ | bootImageChecked _ | bootReady _ | attestGo _ | attestReportDone | telemetrySample | recovery _ | pfReset
  | powerUp => cases hi
  | blockCommit slot vtile ctx => exact keeps_blockCommit slot vtile ctx s
  | xsendArrival slot id => exact keeps_xsendArrival slot id s
  | messageWrite slot id => exact keeps_messageWrite slot id s
  | freedSlotNotice slot id => exact keeps_freedSlotNotice slot id s
  | atsAnswer space vpn answer => exact keeps_atsAnswer space vpn answer s
  | priResponse space vpn success => exact keeps_priResponse space vpn success s
  | invalidation id remap => exact keeps_invalidation id remap s
  | parkNotice slot vdesk fh => exact keeps_parkNotice slot vdesk fh s
  | arcout r => exact keeps_arcout r s
  | arcin r => exact keeps_arcin r s
  | arcMessageArrival slot id => exact keeps_arcMessageArrival slot id s
  | setg gd imm => exact keeps_setg gd imm s
  | addg gd ga imm => exact keeps_addg gd ga imm s
  | addgg gd ga gb sh => exact keeps_addgg gd ga gb sh s
  | loop gd skip count => exact keeps_loop gd skip count s
  | endl gd back => exact keeps_endl gd back s
  | fetch ga gs buf host rows rowb => exact keeps_fetch ga gs buf host rows rowb s
  | waitslot gt tgt n => exact keeps_waitslot gt tgt n s
  | decode bi bo tab => exact keeps_decode bi bo tab s
  | deliver gt buf tgt => exact keeps_deliver gt buf tgt s
  | deliveryArrival slot id => exact keeps_deliveryArrival slot id s
  | courierArrive gt bidx bytes => exact keeps_courierArrive gt bidx bytes s
  | token dest ga fill => exact keeps_token dest ga fill s
  | courierSemwait ga gv => exact keeps_courierSemwait ga gv s
  | courierSemsig ga gv add scope => exact keeps_courierSemsig ga gv add scope s
  | courierSink ga gs gt host tgt rows rowb => exact keeps_courierSink ga gs gt host tgt rows rowb s
  | endRound => exact keeps_endRound s
  | tokenArrival slot id => exact keeps_tokenArrival slot id s
  | spillWriteDone slot vdesk => exact keeps_spillWriteDone slot vdesk s
  | firingAged slot vdesk index => exact keeps_firingAged slot vdesk index s
  | doorbell page value => exact keeps_doorbell page value s
  | dispatch => exact keeps_dispatch s
  | queueWaitPoll => exact keeps_queueWaitPoll s
  | launch queue => exact keeps_launch queue s
  | copyRecord queue => exact keeps_copyRecord queue s
  | arcBind slot arc peer => exact keeps_arcBind slot arc peer s
  | meterRefill => exact keeps_meterRefill s
  | deadlockSample => exact keeps_deadlockSample s
  | vfFlr part => exact keeps_vfFlr part s
  | linkFlitReceive port seq ack kind crcOk => exact keeps_linkFlitReceive port seq ack kind crcOk s
  | failureNotice plane pkg => exact keeps_failureNotice plane pkg s
  | communicatorRebuild comm entries => exact keeps_communicatorRebuild comm entries s
  | queuePrioWeightChange queue part prio weight => exact keeps_queuePrioWeightChange queue part prio weight s

/-! The host's events. -/

/-- A next state with every bad-node bit of `s`, and with canonical memories where those of `s` are. -/
def KeepsBad (s t : State) : Prop :=
  badnodeKept s t ∧ (memoriesWf (outside s) = true → memoriesWf (outside t) = true)

/-- An outcome whose next state, if any, keeps them. -/
def KeepsBadOut (s : State) : Out → Prop
  | .next t => KeepsBad s t
  | .fault _ | .refused _ => True

theorem KeepsBad.of_badnode {s t : State} (h : t.badnode = s.badnode)
    (hw : memoriesWf (outside s) = true → memoriesWf (outside t) = true) : KeepsBad s t :=
  ⟨fun d k hb => by rwa [h], hw⟩

theorem KeepsBadOut.of_badnode {s t : State} (h : t.badnode = s.badnode)
    (hw : memoriesWf (outside s) = true → memoriesWf (outside t) = true) : KeepsBadOut s (.next t) := KeepsBad.of_badnode h hw

theorem KeepsBad.refl (s : State) : KeepsBad s s := .of_badnode rfl id

theorem KeepsBad.trans {s t u : State} (h : KeepsBad s t) (h' : KeepsBad t u) : KeepsBad s u :=
  ⟨fun d k hb => h'.1 d k (h.1 d k hb), h'.2 ∘ h.2⟩

theorem badnode_eq_of_hostView {s t : State} (h : hostView (outside t) = hostView (outside s)) : t.badnode = s.badnode :=
  show (hostView (outside t)).badnode = (hostView (outside s)).badnode from congrArg State.badnode h

theorem Keeps.keepsBad {s t : State} (h : Keeps s t) : KeepsBad s t := .of_badnode (badnode_eq_of_hostView h.1) h.2

theorem KeepsOut.keepsBadOut {s : State} {x : Out} (h : KeepsOut s x) : KeepsBadOut s x := by
  cases x with
  | next t => exact h.keepsBad
  | fault _ | refused _ => trivial

theorem bit_eq_testBit (x i : Nat) : bit x i = x.testBit i := by
  simp [bit, Nat.testBit_eq_decide_div_mod_eq, Nat.shiftRight_eq_div_pow, beq_eq_decide]

/-- The words of a list, each perhaps with more bits. -/
theorem getD_mapIdx_or {ws : List (BitVec 64)} {f : Nat → BitVec 64 → BitVec 64} (hf : ∀ i w, ∃ x, f i w = w ||| x) (d : Nat) :
    ∃ x, (ws.mapIdx f).getD d 0 = ws.getD d 0 ||| x := by
  simp only [List.getD_eq_getElem?_getD, List.getElem?_mapIdx]
  cases ws[d]? with
  | none => exact ⟨0, rfl⟩
  | some w => exact hf d w

/-- Bits set in the words of a list stay set where each word only gains bits. -/
theorem badnodeKept_of_or {s t : State}
    (h : ∀ d, ∃ x, t.badnode.getD d 0 = s.badnode.getD d 0 ||| x) : badnodeKept s t := by
  intro d k hb
  obtain ⟨x, hx⟩ := h d
  rw [bit_eq_testBit] at *
  rw [hx, BitVec.toNat_or, Nat.testBit_or, hb, Bool.true_or]

theorem keepsBad_pushAlone (s : State) (i : Instr) : KeepsBad s (pushAlone s i) := .of_badnode rfl id

theorem keepsBad_writeAttest (s : State) (value : BitVec 64) : KeepsBad s (writeAttest s value) := by
  unfold writeAttest
  split
  · exact .of_badnode rfl id
  · exact .refl s

theorem keepsBad_writeBootgo (s : State) (value : BitVec 64) : KeepsBad s (writeBootgo s value) := by
  unfold writeBootgo
  split
  · exact .of_badnode rfl id
  · exact .refl s

theorem keepsBad_writeHoplog (s : State) (depot : Nat) (value : BitVec 64) : KeepsBad s (writeHoplog s depot value) := by
  unfold writeHoplog
  split
  · exact .of_badnode rfl id
  · exact .refl s

theorem keepsBad_failHop (s : State) (depot port cls word : Nat) : KeepsBad s (failHop s depot port cls word) := by
  refine ⟨badnodeKept_of_or (getD_mapIdx_or fun i w => ?_), id⟩
  dsimp only
  split
  · exact ⟨BitVec.ofNat 64 (portBit port), by rw [BitVec.ofNat_or, BitVec.ofNat_toNat, BitVec.setWidth_eq]⟩
  · exact ⟨0, (BitVec.or_zero).symm⟩

theorem keepsBad_beginRecovery (s : State) (slot : Nat) (line : Option Nat) : KeepsBad s (beginRecovery s slot line) := by
  unfold beginRecovery
  split
  · exact .refl s
  split
  · exact .refl s
  · exact .of_badnode rfl id

theorem keepsBad_endRecovery (s : State) (slot : Nat) (line : Option Nat) : KeepsBad s (endRecovery s slot line) :=
  .of_badnode (badnode_eq_of_hostView (t := recoverLaunch s slot line) (host_recoverLaunch s slot line))
    fun h => wf_recoverLaunch s slot line h

theorem keepsBad_loseLine (s : State) (n : Nat) : KeepsBad s (loseLine s n) :=
  .of_badnode (badnode_eq_of_hostView (host_loseLine s n)) (wf_loseLine s n)

theorem keepsBad_foldl {α : Type} {f : State → α → State} (h : ∀ s a, KeepsBad s (f s a)) (l : List α) (s : State) :
    KeepsBad s (l.foldl f s) := by
  induction l generalizing s with
  | nil => exact .refl s
  | cons a l ih => exact (h s a).trans (ih (f s a))

theorem keepsBad_recovery (err : MemError) (s : State) : KeepsBadOut s (execRecovery err s) := by
  cases err with
  | read slot n => exact (keepsBad_loseLine s n).trans (keepsBad_beginRecovery _ _ _)
  | owned slot =>
    dsimp only [execRecovery]
    split
    · exact keepsBad_beginRecovery _ _ _
    · dsimp only [KeepsBadOut]
      split
      · exact keepsBad_endRecovery _ _ _
      split
      · exact keepsBad_pushAlone _ _
      · exact keepsBad_beginRecovery _ _ _
  | die d => exact keepsBad_foldl (fun s k => keepsBad_beginRecovery s k none) _ s
  | sram slot vtile word => exact (Keeps.of_outside (by simp)).keepsBad
  | line n => exact keepsBad_loseLine s n

theorem keepsBad_flitReceive (slot : Nat) (of : FlitOf) (depot port flit word : Nat) (corrupt retryCorrupt : Bool) (s : State) :
    KeepsBadOut s (execFlitReceive slot of depot port flit word corrupt retryCorrupt s) := by
  have hf (cls : Nat) {t : State} (h : outside t = outside (failHop s depot port cls word)) : KeepsBad s t :=
    (keepsBad_failHop s depot port cls word).trans (Keeps.of_outside h).keepsBad
  unfold execFlitReceive
  split
  · exact KeepsBad.refl s
  split
  · exact KeepsBad.refl s
  split
  · exact KeepsBad.of_badnode rfl id
  split
  · exact hf _ (outside_modLaunch _ _ _)
  all_goals exact hf _ (outside_endFault _ _ _ _ _)

theorem keepsBad_registerWrite (fn : Nat) (span : BarSpan) (value : BitVec 64) (s : State) :
    KeepsBadOut s (execRegisterWrite fn span value s) := by
  unfold execRegisterWrite
  dsimp only
  split
  · exact KeepsBad.refl s
  split
  · split
    · exact (keeps_modQueue _ _ _).keepsBad
    · exact KeepsBad.refl s
  split
  · exact KeepsBad.refl s
  split
  · exact keepsBad_writeHoplog _ _ _
  split
  · exact KeepsBadOut.of_badnode rfl fun h => by simp [h]
  split
  · exact KeepsBadOut.of_badnode rfl id
  · exact KeepsBadOut.of_badnode rfl id
  · exact keepsBad_writeBootgo _ _
  · exact KeepsBadOut.of_badnode rfl id
  · exact KeepsBadOut.of_badnode rfl id
  · exact keepsBad_writeAttest _ _
  · exact KeepsBad.refl s

theorem keepsBad_attestReportDone (s : State) : KeepsBadOut s (execAttestReportDone s) := by
  unfold execAttestReportDone
  split
  · exact KeepsBad.refl s
  · exact KeepsBad.of_badnode rfl id

theorem keepsBad_bootImageChecked (fetched : Bool) (s : State) : KeepsBadOut s (execBootImageChecked fetched s) := by
  unfold execBootImageChecked
  split
  · exact KeepsBad.refl s
  split
  · exact KeepsBad.of_badnode rfl id
  dsimp only
  split
  · exact KeepsBad.of_badnode rfl id
  · exact KeepsBad.of_badnode rfl id

theorem keepsBad_bootReady (cfg : BootConfig) (s : State) : KeepsBadOut s (execBootReady cfg s) := by
  unfold execBootReady
  split
  · exact KeepsBad.refl s
  split
  · exact KeepsBad.of_badnode rfl id
  · exact ⟨badnodeKept_of_or (getD_mapIdx_or fun i w => ⟨_, rfl⟩), id⟩

theorem keepsBad_clockStep (die mhz : Nat) (s : State) : KeepsBadOut s (execClockStep die mhz s) := by
  refine KeepsBad.of_badnode ?_ ?_
  · split <;> rfl
  · split <;> exact id

theorem keepsBad_pfReset (s : State) : KeepsBadOut s (execPfReset s) :=
  KeepsBad.of_badnode rfl fun h => by
    simp only [memoriesWf, outside, Bool.and_eq_true] at *
    exact ⟨rfl, h.2⟩

theorem keepsBad_exec (i : Instr) (s : State) (hp : i ≠ .powerUp) : KeepsBadOut s (exec i s) := by
  cases hi : hostEvent i with
  | false => exact (keeps_exec i s hi).keepsBadOut
  | true =>
    cases i with
    | attestGo value => exact keepsBad_writeAttest _ _
    | attestReportDone => exact keepsBad_attestReportDone _
    | bootImageChecked fetched => exact keepsBad_bootImageChecked _ _
    | bootReady cfg => exact keepsBad_bootReady _ _
    | bootgo value => exact keepsBad_writeBootgo _ _
    | clockStep die mhz => exact keepsBad_clockStep _ _ _
    | flitReceive slot of depot port flit word corrupt retryCorrupt => exact keepsBad_flitReceive _ _ _ _ _ _ _ _ _
    | hoplogClear depot value => exact keepsBad_writeHoplog _ _ _
    | pfReset => exact keepsBad_pfReset _
    | powerUp => exact absurd rfl hp
    | recovery err => exact keepsBad_recovery _ _
    | registerWrite fn span value => exact keepsBad_registerWrite _ _ _ _
    | telemetrySample | thermalTrip _ | thermalClear _ => exact KeepsBadOut.of_badnode rfl id
    | _ => cases hi

theorem wf_exec {i : Instr} {s t : State} (hs : memoriesWf s = true) (h : exec i s = .next t) : memoriesWf t = true := by
  by_cases hp : i = .powerUp
  · subst hp
    cases h
    simp only [memoriesWf, Bool.and_eq_true] at *
    exact ⟨rfl, hs.2⟩
  · have hk := keepsBad_exec i s hp
    rw [h] at hk
    exact hk.2 hs

/-- Settles O57: every instruction but the 15 events keeps the view, and those but POWER_UP every bad-node bit. -/
theorem onlyTheHostAndItsEventsChangeTheHostsView : Obligations.OnlyTheHostAndItsEventsChangeTheHostsView := by
  intro i s t h
  refine ⟨fun hi => ?_, fun hp => ?_⟩
  · have hk := keeps_exec i s hi
    rw [h] at hk
    exact hk.1
  · have hk := keepsBad_exec i s hp
    rw [h] at hk
    exact hk.1

/-! Steps. -/

theorem wf_runWord {dec : Except Nat Instr} {w : Nat} {s t : State} (hs : memoriesWf s = true)
    (h : runWord exec dec w s = .next t) : memoriesWf t = true := by
  cases dec with
  | ok i => exact wf_exec hs h
  | error _ => cases h

theorem wf_runFiring {f : Firing} {s t : State} (hs : memoriesWf s = true) (h : runFiring exec s f = .next t) :
    memoriesWf t = true := wf_runWord (s := { s with issue := .node f }) hs h

theorem wf_of_outside {s t : State} (h : outside t = outside s) (hs : memoriesWf s = true) : memoriesWf t = true :=
  (Keeps.of_outside h).2 hs

theorem wf_runAct {s t : State} {a : Act} (hs : memoriesWf s = true) (h : runAct exec s a = .next t) : memoriesWf t = true := by
  cases a with
  | event k =>
    dsimp only [runAct] at h
    split at h
    · cases h; exact hs
    · exact wf_exec (s := { s with agenda := s.agenda.eraseIdx k }) hs h
  | make i => exact wf_exec hs h
  | fire slot vdesk r => exact wf_runFiring (wf_of_outside (s := s) (outside_modLaunch _ _ _) hs) h
  | copy slot vdesk =>
    dsimp only [runAct] at h
    split at h
    · cases h; exact hs
    · exact wf_runFiring (wf_of_outside (s := s) (outside_modLaunch _ _ _) hs) h
  | wake slot vdesk node fh =>
    dsimp only [runAct] at h
    split at h
    · cases h; exact hs
    · cases h; exact wf_of_outside (by simp) hs
  | sync slot fh => cases h; exact wf_of_outside (by simp) hs
  | aside slot vdesk x =>
    cases h
    exact (keeps_getD fun t ht => Keeps.of_outside (outside_asidePlaced ht)).2 hs
  | block slot vtile ctx => exact wf_runWord (s := { s with issue := .block slot vtile ctx }) hs h
  | round slot node => exact wf_runWord (s := { s with issue := .round slot node }) hs h
  | link port vc => cases h; exact (keeps_modPort s port fun q => portSend q vc).2 hs

theorem wf_performWaits {s : State} (hs : memoriesWf s = true) : memoriesWf (performWaits s) = true :=
  (keeps_foldl (fun s (p : Nat × Req) => ⟨host_performReq s p.1 p.2 false, wf_performReq s p.1 p.2 false⟩) _ _).2 hs

theorem wf_settleAct (s : State) (a : Act) {t : State} (ht : memoriesWf t = true) : memoriesWf (settleAct s a t) = true := by
  have hp := wf_performWaits (s := dropStale { t with issue := .none, tick := s.tick + 1 }) ht
  unfold settleAct
  dsimp only
  split
  · exact hp
  · exact hp

/-- Settles O58: what a step runs keeps both memories canonical, and so does what settles it. -/
theorem stepsKeepMemoriesCanonical : Obligations.StepsKeepMemoriesCanonical := by
  refine ⟨fun s t hs h => ?_, fun i s t hs h => wf_exec hs h⟩
  unfold step stepWith at h
  split at h
  · cases h; exact hs
  · split at h
    next h1 => cases h; exact wf_settleAct _ _ (wf_runAct hs h1)
    · cases h
    · cases h

end Sys2Proof.Events
end

section
/-! SUPPORT. What a step runs, and the state after reset (R80, R143, R311, R392). -/

namespace Sys2Proof.Steps

open Machine

/-- The outcome of a step whose action `a` comes to `o`. -/
def settledOut (s : State) (a : Act) (o : Out) : Out :=
  match o with
  | .next t => .next (settleAct s a t)
  | .fault f => .fault f
  | .refused f => .refused f

theorem step_of_picked {s : State} {a : Act} (h : picked s = some a) : step s = settledOut s a (runAct exec s a) := by
  unfold step stepWith
  rw [h]
  dsimp only
  cases runAct exec s a <;> rfl

theorem runFiring_of_decode {s : State} {f : Firing} {l : Launch} {w : Nat} {i : Instr} (hl : findLaunch s f.slot = some l)
    (hw : nodeWord l (fNode f) = some w) (hi : decodeNode w = .ok i) : runFiring exec s f = exec i { s with issue := .node f } := by
  simp only [runFiring, hl, hw, Option.getD_some, hi, runWord]

theorem runBlockNext_of_decode {s : State} {slot v x w : Nat} {l : Launch} {k : BlockCtx} {i : Instr}
    (hl : findLaunch s slot = some l) (hk : findCtx l v x = some k) (hw : (blockWords l k.firing)[k.pc]? = some w)
    (hi : decodeBlock w = .ok i) : runBlockNext exec s slot v x = exec i { s with issue := .block slot v x } := by
  simp only [runBlockNext, hl, hk, List.getD_eq_getElem?_getD, hw, Option.getD_some, hi, runWord]

theorem runRoundNext_of_decode {s : State} {slot n w : Nat} {l : Launch} {q : Courier} {i : Instr}
    (hl : findLaunch s slot = some l) (hq : courierOf l n = some q) (hw : (roundWords l q.round)[q.pc]? = some w)
    (hi : decodeRound w = .ok i) : runRoundNext exec s slot n = exec i { s with issue := .round slot n } := by
  simp only [runRoundNext, hl, hq, List.getD_eq_getElem?_getD, hw, Option.getD_some, hi, runWord]

/-- Settles O59: the picked action is run, and it runs the word it finds. -/
theorem stepsRunTheDecodedInstruction : Obligations.StepsRunTheDecodedInstruction := by
  intro s settled
  have hs (a : Act) (o : Out) : settled a o = settledOut s a o := by cases o <;> rfl
  simp only [hs]
  refine ⟨fun slot v r l w i hp hl hw hi => ?_, fun slot v x l k w i hp hl hk hw hi => ?_,
    fun slot n l q w i hp hl hq hw hi => ?_, fun k e hp he => ?_, fun i hp => step_of_picked hp, fun hp => ?_⟩
  · rw [step_of_picked hp, runAct, runFiring_of_decode hl hw hi]
  · rw [step_of_picked hp, runAct, runBlockNext_of_decode hl hk hw hi]
  · rw [step_of_picked hp, runAct, runRoundNext_of_decode hl hq hw hi]
  · rw [step_of_picked hp, runAct, he]
  · rw [step, stepWith, hp]

/-- Settles O60: the reset state lists nothing, and a queue that is not listed is the empty one. -/
theorem resetLeavesTheMachineEmpty : Obligations.ResetLeavesTheMachineEmpty :=
  ⟨rfl, rfl, rfl, rfl, rfl, rfl, rfl, rfl, rfl, rfl, rfl, rfl, rfl, rfl, rfl, rfl, fun _ => ⟨rfl, rfl, rfl, rfl, rfl, rfl⟩⟩

end Sys2Proof.Steps
end

section
/-! SUPPORT. Elements in lanes (R13, R155, R156): reading an element, packing elements, and what a function of elements leaves
in its included elements, in its excluded lanes and among its flags. -/

namespace Sys2Proof.Elements

open Machine

variable {t : Ty} {ls new : List Lane} {xs : List Nat} {x : ShArgs} {e k : Nat}

/-- Element `e` of a payload; 0 where there is none. -/
def elemAt (t : Ty) (ls : List Lane) (e : Nat) : Nat := (elems t ls).getD e 0

/-- What a lane-wise function of a block leaves: every lane of the result, and the previous lane where it is excluded. -/
def KeepsExcluded (x : ShArgs) (o : ShOut) : Prop :=
  o.lanes.length = x.n ∧
    ∀ k < x.n, x.incl.getD (if wide x.type then k - k % 2 else k) true = false → laneAt o.lanes k = laneAt x.prev k

/-- Whether element `e` is one of the result's included elements. -/
def Within (x : ShArgs) (e : Nat) : Prop := e < elemCount x.type x.n ∧ x.incl.getD (laneOf x.type e) true = true

/-! Reading. -/

theorem perLane_pos (t : Ty) : 0 < perLane t := by cases t <;> decide

theorem low_eq_mod (n x : Nat) : low n x = x % 2 ^ n := by rw [low, Nat.one_shiftLeft]

theorem getD_elemsOfLane (h : wide t = false) (l : Lane) {j : Nat} (hj : j < perLane t) :
    (elemsOfLane t l).getD j 0 = l.toNat >>> (tyWidth t * j) % 2 ^ tyWidth t := by
  have hl := l.isLt
  cases t with
  | i64 | u64 | f64 => cases h
  | i32 | u32 | f32 =>
    obtain rfl : j = 0 := by simpa [perLane, tyWidth] using hj
    simpa [elemsOfLane, tyWidth] using (Nat.mod_eq_of_lt hl).symm
  | i16 | u16 | f16 | bf16 =>
    have hj : j < 2 := hj
    have hs : l.toNat >>> 16 < 2 ^ 16 := by rw [Nat.shiftRight_eq_div_pow]; omega
    interval_cases j
    · simp [elemsOfLane, tyWidth, low_eq_mod]
    · simpa [elemsOfLane, tyWidth] using (Nat.mod_eq_of_lt hs).symm
  | i8 | u8 | e4m3 | e5m2 =>
    have hj : j < 4 := hj
    have hs : l.toNat >>> 24 < 2 ^ 8 := by rw [Nat.shiftRight_eq_div_pow]; omega
    interval_cases j
    · simp [elemsOfLane, tyWidth, low_eq_mod]
    · simp [elemsOfLane, tyWidth, field, low_eq_mod]
    · simp [elemsOfLane, tyWidth, field, low_eq_mod]
    · simpa [elemsOfLane, tyWidth] using (Nat.mod_eq_of_lt hs).symm
  | pred =>
    obtain rfl : j = 0 := by simpa [perLane, tyWidth] using hj
    simp [elemsOfLane, tyWidth]

theorem length_elemsOfLane (h : wide t = false) (l : Lane) : (elemsOfLane t l).length = perLane t := by
  cases t with
  | i64 | u64 | f64 => cases h
  | _ => rfl

theorem elemAt_narrow (h : wide t = false) (ls : List Lane) (e : Nat) :
    elemAt t ls e = (laneAt ls (e / perLane t)).toNat >>> (tyWidth t * (e % perLane t)) % 2 ^ tyWidth t := by
  have hp := perLane_pos t
  simp only [elemAt, elems, h, Bool.false_eq_true, if_false]
  induction ls generalizing e with
  | nil => simp [laneAt]
  | cons l ls ih =>
    rw [List.flatMap_cons]
    by_cases he : e < perLane t
    · rw [List.getD_append _ _ _ _ (by rwa [length_elemsOfLane h]), getD_elemsOfLane h l he, Nat.div_eq_of_lt he,
        Nat.mod_eq_of_lt he]
      rfl
    · obtain ⟨d, rfl⟩ := Nat.exists_eq_add_of_le (Nat.le_of_not_lt he)
      rw [List.getD_append_right _ _ _ _ (by rw [length_elemsOfLane h]; omega), length_elemsOfLane h, Nat.add_sub_cancel_left, ih,
        Nat.add_div_left _ hp, Nat.add_mod_left]
      rfl

theorem elemAt_wide (h : wide t = true) (ls : List Lane) (e : Nat) :
    elemAt t ls e = if 2 * e + 1 < ls.length then (laneAt ls (2 * e)).toNat + (laneAt ls (2 * e + 1)).toNat <<< 32 else 0 := by
  simp only [elemAt, elems, h, if_true]
  induction ls using pairs64.induct generalizing e with
  | case1 a b rest ih =>
    cases e with
    | zero => simp [pairs64, laneAt]
    | succ e =>
      have hl : (2 * (e + 1) + 1 < (a :: b :: rest).length) = (2 * e + 1 < rest.length) := by
        simp only [List.length_cons, eq_iff_iff]
        omega
      simp only [hl]
      exact ih e
  | case2 ls hls =>
    match ls, hls with
    | [], _ => simp [pairs64]
    | [_], _ => simp [pairs64]
    | a :: b :: rest, hls => exact absurd rfl (hls a b rest)

theorem elemAt_lt (t : Ty) (ls : List Lane) (e : Nat) : elemAt t ls e < 2 ^ tyWidth t := by
  cases h : wide t with
  | false => rw [elemAt_narrow h]; exact Nat.mod_lt _ (Nat.two_pow_pos _)
  | true =>
    have hw : tyWidth t = 64 := by simpa [wide] using h
    have h0 := (laneAt ls (2 * e)).isLt
    have h1 := (laneAt ls (2 * e + 1)).isLt
    rw [elemAt_wide h, hw, Nat.shiftLeft_eq]
    split <;> omega

/-- An element is that of its lane, or of its pair of lanes. -/
theorem elemAt_congr (h0 : laneAt new (laneOf t e) = laneAt ls (laneOf t e))
    (h1 : wide t = true → laneAt new (laneOf t e + 1) = laneAt ls (laneOf t e + 1) ∧ 2 * e + 1 < new.length ∧ 2 * e + 1 < ls.length) :
    elemAt t new e = elemAt t ls e := by
  cases h : wide t with
  | false =>
    simp only [laneOf, h, Bool.false_eq_true, if_false] at h0
    rw [elemAt_narrow h, elemAt_narrow h, h0]
  | true =>
    obtain ⟨h1, hn, hl⟩ := h1 h
    simp only [laneOf, h, if_true] at h0 h1
    rw [elemAt_wide h, elemAt_wide h, h0, h1, if_pos hn, if_pos hl]

/-! Packing. -/

theorem laneAt_pack16 (xs : List Nat) (k : Nat) :
    laneAt (pack16 xs) k = BitVec.ofNat 32 (low 16 (xs.getD (2 * k) 0) + low 16 (xs.getD (2 * k + 1) 0) <<< 16) := by
  induction xs using pack16.induct generalizing k with
  | case1 a b rest ih =>
    cases k with
    | zero => rfl
    | succ k => simpa [laneAt, pack16, Nat.mul_add] using ih k
  | case2 a => cases k <;> simp [laneAt, pack16, low, Nat.mul_add]
  | case3 => simp [laneAt, pack16, low]

theorem laneAt_pack8 (xs : List Nat) (k : Nat) :
    laneAt (pack8 xs) k = BitVec.ofNat 32 (low 8 (xs.getD (4 * k) 0) + low 8 (xs.getD (4 * k + 1) 0) <<< 8 +
      low 8 (xs.getD (4 * k + 2) 0) <<< 16 + low 8 (xs.getD (4 * k + 3) 0) <<< 24) := by
  induction xs using pack8.induct generalizing k with
  | case1 a b c d rest ih =>
    cases k with
    | zero => rfl
    | succ k => simpa [laneAt, pack8, Nat.mul_add] using ih k
  | case2 a b c => cases k <;> simp [laneAt, pack8, low, Nat.mul_add]
  | case3 a b => cases k <;> simp [laneAt, pack8, low, Nat.mul_add]
  | case4 a => cases k <;> simp [laneAt, pack8, low, Nat.mul_add]
  | case5 => simp [laneAt, pack8, low]

theorem laneAt_map_ofNat (f : Nat → Nat) (hf : f 0 = 0) (xs : List Nat) (k : Nat) :
    laneAt (xs.map fun x => BitVec.ofNat 32 (f x)) k = BitVec.ofNat 32 (f (xs.getD k 0)) := by
  simp only [laneAt, List.getD_eq_getElem?_getD, List.getElem?_map]
  cases xs[k]? <;> simp [hf]

/-- The bits of element `j` of lane `k` of packed elements. -/
theorem laneAt_packElems (h : wide t = false) (xs : List Nat) (k : Nat) {j : Nat} (hj : j < perLane t) :
    (laneAt (packElems t xs) k).toNat >>> (tyWidth t * j) % 2 ^ tyWidth t = xs.getD (k * perLane t + j) 0 % 2 ^ tyWidth t := by
  cases t with
  | i64 | u64 | f64 => cases h
  | i32 | u32 | f32 =>
    obtain rfl : j = 0 := by simpa [perLane, tyWidth] using hj
    have hl := laneAt_map_ofNat id rfl xs k
    simp only [id] at hl
    simp [packElems, tyWidth, hl, perLane]
  | i16 | u16 | f16 | bf16 =>
    have hj : j < 2 := hj
    simp only [packElems, tyWidth, laneAt_pack16, perLane, low_eq_mod, BitVec.toNat_ofNat, Nat.shiftRight_eq_div_pow,
      Nat.shiftLeft_eq, Nat.mul_comm k]
    interval_cases j <;> simp only [Nat.mul_zero, Nat.add_zero, Nat.reduceMul, Nat.reducePow] <;> omega
  | i8 | u8 | e4m3 | e5m2 =>
    have hj : j < 4 := hj
    simp only [packElems, tyWidth, laneAt_pack8, perLane, low_eq_mod, BitVec.toNat_ofNat, Nat.shiftRight_eq_div_pow,
      Nat.shiftLeft_eq, Nat.mul_comm k]
    interval_cases j <;> simp only [Nat.mul_zero, Nat.add_zero, Nat.reduceMul, Nat.reducePow] <;> omega
  | pred =>
    obtain rfl : j = 0 := by simpa [perLane, tyWidth] using hj
    have hl := laneAt_map_ofNat (· % 2) rfl xs k
    simp only [packElems, tyWidth, hl, perLane, BitVec.toNat_ofNat, Nat.shiftRight_zero, Nat.mul_zero, Nat.mul_one, Nat.add_zero,
      Nat.reducePow]
    omega

theorem packElems_wide (h : wide t = true) (xs : List Nat) : packElems t xs = xs.flatMap lanesOf64 := by
  cases t with
  | i64 | u64 | f64 => rfl
  | _ => cases h

theorem length_packElems_wide (h : wide t = true) (xs : List Nat) : (packElems t xs).length = 2 * xs.length := by
  rw [packElems_wide h, List.length_flatMap]
  simp [lanesOf64, Nat.mul_comm]

theorem laneAt_packElems_wide (h : wide t = true) (xs : List Nat) (e : Nat) :
    laneAt (packElems t xs) (2 * e) = BitVec.ofNat 32 (xs.getD e 0) ∧
      laneAt (packElems t xs) (2 * e + 1) = BitVec.ofNat 32 (xs.getD e 0 >>> 32) := by
  rw [packElems_wide h]
  induction xs generalizing e with
  | nil => simp [laneAt]
  | cons y ys ih =>
    cases e with
    | zero => exact ⟨rfl, rfl⟩
    | succ e => exact ih e

theorem elemAt_packElems (he : e < xs.length) : elemAt t (packElems t xs) e = xs.getD e 0 % 2 ^ tyWidth t := by
  cases h : wide t with
  | false =>
    rw [elemAt_narrow h, laneAt_packElems h _ _ (Nat.mod_lt _ (perLane_pos t)), Nat.div_add_mod']
  | true =>
    have hw : tyWidth t = 64 := by simpa [wide] using h
    obtain ⟨h0, h1⟩ := laneAt_packElems_wide h xs e
    rw [elemAt_wide h, length_packElems_wide h, if_pos (by omega), h0, h1, hw, Nat.shiftLeft_eq, Nat.shiftRight_eq_div_pow,
      BitVec.toNat_ofNat, BitVec.toNat_ofNat]
    omega

/-! Results merged with the previous lanes. -/

@[simp] theorem length_mergeLanes (x : ShArgs) (new : List Lane) : (mergeLanes x new).length = x.n := by simp [mergeLanes, upTo]

theorem laneAt_mergeLanes (hk : k < x.n) :
    laneAt (mergeLanes x new) k =
      if included x (if wide x.type then k - k % 2 else k) then laneAt new k else laneAt x.prev k := by
  simp [laneAt, mergeLanes, upTo, List.getD_eq_getElem?_getD, hk]

theorem laneOf_lt (he : e < elemCount x.type x.n) : laneOf x.type e < x.n := by
  unfold elemCount at he
  unfold laneOf
  split
  next h => rw [if_pos h] at he; omega
  next h => rw [if_neg h] at he; exact (Nat.div_lt_iff_lt_mul (perLane_pos _)).2 he

theorem laneAt_mergeLanes_included (h : Within x e) : laneAt (mergeLanes x new) (laneOf x.type e) = laneAt new (laneOf x.type e) := by
  obtain ⟨he, hi⟩ := h
  rw [laneAt_mergeLanes (laneOf_lt he)]
  refine if_pos ?_
  unfold laneOf at *
  split
  next hw => rw [if_pos hw] at hi; rw [Nat.mul_mod_right]; exact hi
  next hw => rw [if_neg hw] at hi; exact hi

theorem laneAt_mergeLanes_upper (hw : wide x.type = true) (h : Within x e) :
    laneAt (mergeLanes x new) (2 * e + 1) = laneAt new (2 * e + 1) := by
  obtain ⟨he, hi⟩ := h
  simp only [elemCount, laneOf, hw, if_true] at he hi
  rw [laneAt_mergeLanes (by omega), if_pos hw, show 2 * e + 1 - (2 * e + 1) % 2 = 2 * e by omega]
  exact if_pos hi

theorem elemAt_mergeLanes (h : Within x e) (hn : wide x.type = true → 2 * e + 1 < new.length) :
    elemAt x.type (mergeLanes x new) e = elemAt x.type new e := by
  refine elemAt_congr (laneAt_mergeLanes_included h) fun hw => ⟨?_, ?_, hn hw⟩
  · simpa only [laneOf, hw, if_true] using laneAt_mergeLanes_upper hw h
  · obtain ⟨he, -⟩ := h
    simp only [elemCount, hw, if_true] at he
    rw [length_mergeLanes]
    omega

theorem keepsExcluded_mergeLanes (x : ShArgs) (new : List Lane) (r : Raised) : KeepsExcluded x ⟨mergeLanes x new, r⟩ :=
  ⟨length_mergeLanes x new, fun k hk h => by rw [laneAt_mergeLanes hk]; exact if_neg (by rw [included, h]; exact Bool.false_ne_true)⟩

/-! Functions of elements. -/

variable {f : Nat → Nat × Flags}

theorem keepsExcluded_mapElems (x : ShArgs) (f : Nat → Nat × Flags) : KeepsExcluded x (mapElems x f) :=
  keepsExcluded_mergeLanes _ _ _

theorem elemAt_mapElems (h : Within x e) : elemAt x.type (mapElems x f).lanes e = (f e).1 % 2 ^ tyWidth x.type := by
  obtain ⟨he, hi⟩ := id h
  have hi : included x (laneOf x.type e) = true := hi
  rw [mapElems, elemAt_mergeLanes h, elemAt_packElems (by simpa [upTo] using he)]
  · simp [upTo, List.getD_eq_getElem?_getD, he, hi]
  · intro hw
    rw [length_packElems_wide hw]
    simp only [List.length_map, upTo, List.length_range]
    omega

theorem foldl_or_eq_zero {r : Raised} {a : Flags} (ha : a = 0) (h : ∀ p ∈ r, p.2 = 0) : r.foldl (fun a p => a ||| p.2) a = 0 := by
  induction r generalizing a with
  | nil => exact ha
  | cons p r ih =>
    refine ih ?_ fun q hq => h q (List.mem_cons_of_mem p hq)
    dsimp only
    rw [ha, h p List.mem_cons_self]
    rfl

/-- The flags raised, element by element, by a function of elements. -/
theorem mem_raised_mapElems {p : Nat × Flags} (h : p ∈ (mapElems x f).raised) :
    p.2 = 0 ∨ Within x p.1 ∧ p.2 = (f p.1).2 := by
  unfold mapElems at h
  dsimp only at h
  obtain ⟨n, hn, rfl⟩ := List.mem_iff_getElem.1 h
  simp only [List.length_zip, List.length_map, upTo, List.length_range, Nat.min_self] at hn
  simp only [List.getElem_zip, List.getElem_map, upTo, List.getElem_range]
  by_cases hi : included x (laneOf x.type n) = true
  · rw [if_pos hi]; exact .inr ⟨⟨hn, hi⟩, rfl⟩
  · rw [if_neg hi]; exact .inl rfl

theorem allFlags_mapElems_eq_zero (h : ∀ e, Within x e → (f e).2 = 0) : allFlags (mapElems x f).raised = 0 :=
  foldl_or_eq_zero rfl fun p hp => (mem_raised_mapElems hp).elim id fun ⟨hw, he⟩ => he.trans (h _ hw)

end Sys2Proof.Elements
end

section
/-! SUPPORT. Integer and bit functions of elements (R160): the value of each, as bits of the element's width. -/

namespace Sys2Proof.Integers

open Machine Elements

variable {t : Ty} {x : ShArgs} {w : Nat}

/-- Element `e` of a payload, as bits of the width of its type. -/
def elemBits (t : Ty) (ls : List Lane) (e : Nat) : BitVec (tyWidth t) := BitVec.ofNat (tyWidth t) (elemAt t ls e)

/-- A result without a flag: `f e` in each included element, and the previous lane in each excluded one. -/
def Gives (x : ShArgs) (o : ShOut) (f : Nat → BitVec (tyWidth x.type)) : Prop :=
  o.lanes.length = x.n ∧ allFlags o.raised = 0 ∧
  (∀ e < elemCount x.type x.n, x.incl.getD (laneOf x.type e) true = true → elemBits x.type o.lanes e = f e) ∧
  ∀ k < x.n, x.incl.getD (if wide x.type then k - k % 2 else k) true = false → laneAt o.lanes k = laneAt x.prev k

theorem gives_mapElems {g : Nat → Nat × Flags} {f : Nat → BitVec (tyWidth x.type)} (hz : ∀ e, (g e).2 = 0)
    (hv : ∀ e, BitVec.ofNat (tyWidth x.type) (g e).1 = f e) : Gives x (mapElems x g) f := by
  obtain ⟨hlen, hex⟩ := keepsExcluded_mapElems x g
  refine ⟨hlen, allFlags_mapElems_eq_zero fun e _ => hz e, fun e he hi => ?_, hex⟩
  rw [elemBits, elemAt_mapElems ⟨he, hi⟩, ← hv e]
  exact BitVec.eq_of_toNat_eq (by simp)

/-! Numbers and bits. -/

theorem toNat_elemBits (t : Ty) (ls : List Lane) (e : Nat) : (elemBits t ls e).toNat = elemAt t ls e := by
  rw [elemBits, BitVec.toNat_ofNat, Nat.mod_eq_of_lt (elemAt_lt t ls e)]

theorem tyWidth_pos (t : Ty) : 0 < tyWidth t := by cases t <;> decide

theorem ofNat_ofInt (w : Nat) (i : Int) : BitVec.ofNat w (ofInt w i) = BitVec.ofInt w i := by
  refine BitVec.eq_of_toNat_eq ?_
  have h0 : 0 ≤ i % (2 ^ w : Nat) := Int.emod_nonneg _ (by exact_mod_cast (Nat.two_pow_pos w).ne')
  have h1 : i % (2 ^ w : Nat) < (2 ^ w : Nat) := Int.emod_lt_of_pos _ (by exact_mod_cast Nat.two_pow_pos w)
  rw [BitVec.toNat_ofNat, BitVec.toNat_ofInt, ofInt, Nat.one_shiftLeft, Nat.mod_eq_of_lt (by omega)]

theorem ofNat_low (w n : Nat) : BitVec.ofNat w (low w n) = BitVec.ofNat w n := by
  rw [low_eq_mod]
  exact BitVec.eq_of_toNat_eq (by simp)

theorem bit_eq_testBit (x i : Nat) : bit x i = x.testBit i := Events.bit_eq_testBit x i

/-- The top bit of a number of `w` bits says whether it is at least half. -/
theorem bit_top (hw : 0 < w) {n : Nat} (hn : n < 2 ^ w) : bit n (w - 1) = decide (2 ^ (w - 1) ≤ n) := by
  have h := BitVec.msb_eq_decide (BitVec.ofNat w n)
  rw [BitVec.toNat_ofNat, Nat.mod_eq_of_lt hn] at h
  rw [bit_eq_testBit, ← h, BitVec.msb_eq_getLsbD_last, BitVec.getLsbD_ofNat]
  simp [hw]

theorem toSigned_eq_toInt (hw : 0 < w) {n : Nat} (hn : n < 2 ^ w) : toSigned w n = (BitVec.ofNat w n).toInt := by
  have h2 : 2 ^ w = 2 * 2 ^ (w - 1) := by rw [← Nat.pow_succ', Nat.succ_eq_add_one, Nat.sub_add_cancel hw]
  rw [toSigned, bit_top hw hn, BitVec.toInt_eq_toNat_cond, BitVec.toNat_ofNat, Nat.mod_eq_of_lt hn, Nat.one_shiftLeft]
  by_cases h : 2 ^ (w - 1) ≤ n
  · rw [if_pos (by simp [h, hw.ne']), if_neg (by omega)]
  · rw [if_neg (by simp [h]), if_pos (by omega)]

/-- An element as its type reads it. -/
theorem intOf_elemAt (t : Ty) (ls : List Lane) (e : Nat) :
    intOf t (elemAt t ls e) = if signedTy t then (elemBits t ls e).toInt else ((elemBits t ls e).toNat : Int) := by
  rw [intOf, toSigned_eq_toInt (tyWidth_pos t) (elemAt_lt t ls e), toNat_elemBits, elemBits]

/-- Signed or not, an element read as an integer stands for the same bits. -/
@[simp] theorem ofInt_intOf (t : Ty) (ls : List Lane) (e : Nat) :
    BitVec.ofInt (tyWidth t) (intOf t (elemAt t ls e)) = elemBits t ls e := by
  rw [intOf_elemAt]
  split
  · exact BitVec.ofInt_toInt
  · rw [BitVec.ofInt_natCast, BitVec.ofNat_toNat, BitVec.setWidth_eq]

/-! Arithmetic. -/

theorem gives_intBinary {g : Ty → Int → Int → Int} {f : Nat → BitVec (tyWidth x.type)}
    (h : ∀ e, BitVec.ofInt (tyWidth x.type) (g x.type (intOf x.type (elemAt x.type x.a e)) (intOf x.type (elemAt x.type x.b e))) = f e) :
    Gives x (intBinary g x) f :=
  gives_mapElems (fun _ => rfl) fun e => (ofNat_ofInt _ _).trans (h e)

theorem gives_fnAdd (x : ShArgs) : Gives x (fnAdd x) fun e => elemBits x.type x.a e + elemBits x.type x.b e :=
  gives_intBinary fun e => by rw [BitVec.ofInt_add, ofInt_intOf, ofInt_intOf]

theorem gives_fnSub (x : ShArgs) : Gives x (fnSub x) fun e => elemBits x.type x.a e - elemBits x.type x.b e :=
  gives_intBinary fun e => by
    rw [Int.sub_eq_add_neg, BitVec.ofInt_add, BitVec.ofInt_neg, ofInt_intOf, ofInt_intOf, BitVec.sub_eq_add_neg]

theorem gives_fnMul (x : ShArgs) : Gives x (fnMul x) fun e => elemBits x.type x.a e * elemBits x.type x.b e :=
  gives_intBinary fun e => by rw [BitVec.ofInt_mul, ofInt_intOf, ofInt_intOf]

theorem gives_fnMad (x : ShArgs) : Gives x (fnMad x) fun e =>
    elemBits x.type x.a e * elemBits x.type x.b e + elemBits x.type x.c e :=
  gives_mapElems (fun _ => rfl) fun e => by
    rw [ofNat_low, BitVec.ofNat_add, BitVec.ofNat_mul]
    rfl

theorem gives_fnNeg (x : ShArgs) : Gives x (fnNeg x) fun e => -elemBits x.type x.a e :=
  gives_mapElems (fun _ => rfl) fun e => by
    rw [ofNat_ofInt, BitVec.ofInt_neg, BitVec.ofInt_natCast]
    rfl

theorem gives_fnIdx (x : ShArgs) : Gives x (fnIdx x) fun e => elemBits x.type x.a e + elemBits x.type x.b e <<< x.sh := by
  refine gives_mapElems (fun _ => rfl) fun e => ?_
  dsimp only
  split
  next h => rw [BitVec.shiftLeft_eq_zero h, BitVec.add_zero]; rfl
  next h =>
    rw [ofNat_low, BitVec.ofNat_add]
    refine congrArg (elemBits x.type x.a e + ·) (BitVec.eq_of_toNat_eq ?_)
    rw [BitVec.toNat_shiftLeft, toNat_elemBits, BitVec.toNat_ofNat]
    rfl

/-- Clamping to a signed type's range. -/
theorem clampInt_signed (h : signedTy t = true) (v : Int) :
    clampInt t v = max (-2 ^ (tyWidth t - 1)) (min (2 ^ (tyWidth t - 1) - 1) v) := by
  simp [clampInt, intMin, intMax, h, Nat.one_shiftLeft]

theorem clampInt_unsigned (h : signedTy t = false) (v : Int) : clampInt t v = max 0 (min (2 ^ tyWidth t - 1) v) := by
  simp [clampInt, intMin, intMax, h, Nat.one_shiftLeft]

theorem gives_fnAdds (x : ShArgs) : Gives x (fnAdds x) fun e =>
    if signedTy x.type then BitVec.ofInt (tyWidth x.type) (max (-2 ^ (tyWidth x.type - 1)) (min (2 ^ (tyWidth x.type - 1) - 1)
      ((elemBits x.type x.a e).toInt + (elemBits x.type x.b e).toInt)))
    else BitVec.ofNat (tyWidth x.type) (min (2 ^ tyWidth x.type - 1) ((elemBits x.type x.a e).toNat + (elemBits x.type x.b e).toNat)) := by
  refine gives_intBinary fun e => ?_
  rw [intOf_elemAt, intOf_elemAt]
  split
  next h => rw [clampInt_signed h]
  next h =>
    rw [clampInt_unsigned (Bool.not_eq_true _ ▸ h), ← BitVec.ofInt_natCast]
    have hp : (0 : Int) < 2 ^ tyWidth x.type := by positivity
    rw [Nat.cast_min, Nat.cast_pred (Nat.two_pow_pos _), Nat.cast_pow, Nat.cast_ofNat, Nat.cast_add]
    congr 1
    omega

theorem gives_fnSubs (x : ShArgs) : Gives x (fnSubs x) fun e =>
    if signedTy x.type then BitVec.ofInt (tyWidth x.type) (max (-2 ^ (tyWidth x.type - 1)) (min (2 ^ (tyWidth x.type - 1) - 1)
      ((elemBits x.type x.a e).toInt - (elemBits x.type x.b e).toInt)))
    else BitVec.ofNat (tyWidth x.type) ((elemBits x.type x.a e).toNat - (elemBits x.type x.b e).toNat) := by
  refine gives_intBinary fun e => ?_
  rw [intOf_elemAt, intOf_elemAt]
  split
  next h => rw [clampInt_signed h]
  next h =>
    rw [clampInt_unsigned (Bool.not_eq_true _ ▸ h), ← BitVec.ofInt_natCast]
    have ha : ((elemBits x.type x.a e).toNat : Int) < 2 ^ tyWidth x.type := by exact_mod_cast (elemBits x.type x.a e).isLt
    congr 1
    omega

theorem gives_fnMin (x : ShArgs) : Gives x (fnMin x) fun e =>
    if (if signedTy x.type then (elemBits x.type x.b e).slt (elemBits x.type x.a e)
      else (elemBits x.type x.b e).ult (elemBits x.type x.a e)) then elemBits x.type x.b e else elemBits x.type x.a e := by
  refine gives_intBinary fun e => ?_
  rw [apply_ite (BitVec.ofInt _), ofInt_intOf, ofInt_intOf, intOf_elemAt, intOf_elemAt]
  congr 1
  split <;> simp [BitVec.slt, BitVec.ult]

theorem gives_fnMax (x : ShArgs) : Gives x (fnMax x) fun e =>
    if (if signedTy x.type then (elemBits x.type x.a e).slt (elemBits x.type x.b e)
      else (elemBits x.type x.a e).ult (elemBits x.type x.b e)) then elemBits x.type x.b e else elemBits x.type x.a e := by
  refine gives_intBinary fun e => ?_
  rw [apply_ite (BitVec.ofInt _), ofInt_intOf, ofInt_intOf, intOf_elemAt, intOf_elemAt]
  congr 1
  split <;> simp [BitVec.slt, BitVec.ult]

theorem gives_fnAbs (x : ShArgs) : Gives x (fnAbs x) fun e =>
    if signedTy x.type && (elemBits x.type x.a e).msb then -elemBits x.type x.a e else elemBits x.type x.a e := by
  refine gives_mapElems (fun _ => rfl) fun e => ?_
  have hi := ofInt_intOf x.type x.a e
  show BitVec.ofNat _ (ofInt _ (Int.natAbs (intOf x.type (elemAt x.type x.a e)))) = _
  rw [ofNat_ofInt]
  have hneg : (signedTy x.type && (elemBits x.type x.a e).msb) = decide (intOf x.type (elemAt x.type x.a e) < 0) := by
    rw [intOf_elemAt]
    cases signedTy x.type with
    | true => simp [BitVec.msb_eq_toInt]
    | false => simp
  rw [hneg]
  by_cases h : intOf x.type (elemAt x.type x.a e) < 0
  · rw [if_pos (decide_eq_true h), Int.ofNat_natAbs_of_nonpos h.le, BitVec.ofInt_neg, hi]
  · rw [if_neg (by simpa using h), Int.natAbs_of_nonneg (not_lt.1 h), hi]

/-- The upper half of a product, from the product itself. -/
theorem extractLsb'_ofInt (w : Nat) (p : Int) :
    (BitVec.ofInt (2 * w) p).extractLsb' w w = BitVec.ofInt w (p.fdiv ((1 <<< w : Nat) : Int)) := by
  have hw : (0 : Int) < 2 ^ w := by positivity
  have hn (n : Nat) : 0 ≤ p % 2 ^ n := Int.emod_nonneg _ (by positivity)
  refine BitVec.eq_of_toNat_eq ?_
  rw [BitVec.extractLsb'_toNat, BitVec.toNat_ofInt, BitVec.toNat_ofInt, Nat.one_shiftLeft, Nat.shiftRight_eq_div_pow,
    Int.fdiv_eq_ediv_of_nonneg _ (by positivity)]
  refine Int.ofNat_inj.1 ?_
  push_cast
  rw [Int.toNat_of_nonneg (hn _), Int.toNat_of_nonneg (Int.emod_nonneg _ hw.ne'), Nat.two_mul, pow_add,
    Int.emod_def p, mul_assoc, sub_eq_add_neg, ← mul_neg, Int.add_mul_ediv_left _ _ hw.ne', ← mul_neg, Int.add_mul_emod_self_left]

theorem gives_fnMulh (x : ShArgs) : Gives x (fnMulh x) fun e =>
    if signedTy x.type then ((elemBits x.type x.a e).signExtend (2 * tyWidth x.type) *
      (elemBits x.type x.b e).signExtend (2 * tyWidth x.type)).extractLsb' (tyWidth x.type) (tyWidth x.type)
    else ((elemBits x.type x.a e).setWidth (2 * tyWidth x.type) *
      (elemBits x.type x.b e).setWidth (2 * tyWidth x.type)).extractLsb' (tyWidth x.type) (tyWidth x.type) := by
  refine gives_intBinary fun e => ?_
  rw [intOf_elemAt, intOf_elemAt, ← extractLsb'_ofInt, BitVec.ofInt_mul]
  split
  · rfl
  · rw [BitVec.ofInt_natCast, BitVec.ofInt_natCast, BitVec.ofNat_toNat, BitVec.ofNat_toNat]

/-! Bits. -/

theorem gives_bitBinary {g : Nat → Nat → Nat} {f : Nat → BitVec (tyWidth x.type)}
    (h : ∀ e, BitVec.ofNat (tyWidth x.type) (g (elemAt x.type x.a e) (elemAt x.type x.b e)) = f e) : Gives x (bitBinary g x) f :=
  gives_mapElems (fun _ => rfl) fun e => (ofNat_low _ _).trans (h e)

theorem gives_fnAnd (x : ShArgs) : Gives x (fnAnd x) fun e => elemBits x.type x.a e &&& elemBits x.type x.b e :=
  gives_bitBinary fun _ => BitVec.ofNat_and

theorem gives_fnOr (x : ShArgs) : Gives x (fnOr x) fun e => elemBits x.type x.a e ||| elemBits x.type x.b e :=
  gives_bitBinary fun _ => BitVec.ofNat_or

theorem gives_fnXor (x : ShArgs) : Gives x (fnXor x) fun e => elemBits x.type x.a e ^^^ elemBits x.type x.b e :=
  gives_bitBinary fun _ => BitVec.ofNat_xor

theorem gives_fnAndn (x : ShArgs) : Gives x (fnAndn x) fun e => elemBits x.type x.a e &&& ~~~elemBits x.type x.b e :=
  gives_bitBinary fun e => by
    rw [BitVec.ofNat_xor, BitVec.ofNat_and]
    show elemBits x.type x.a e ^^^ (elemBits x.type x.a e &&& elemBits x.type x.b e) = _
    ext i hi
    simp only [BitVec.getElem_xor, BitVec.getElem_and, BitVec.getElem_not]
    cases (elemBits x.type x.a e)[i] <;> cases (elemBits x.type x.b e)[i] <;> rfl

theorem gives_fnNot (x : ShArgs) : Gives x (fnNot x) fun e => ~~~elemBits x.type x.a e :=
  gives_mapElems (fun _ => rfl) fun e => by
    refine BitVec.eq_of_toNat_eq ?_
    have ha := elemAt_lt x.type x.a e
    rw [BitVec.toNat_not, toNat_elemBits]
    show (low _ (ones _ - elemAt x.type x.a e)) % _ = _
    rw [low_eq_mod, ones, Nat.one_shiftLeft, Nat.mod_mod, Nat.mod_eq_of_lt (by omega)]

theorem gives_fnMov (x : ShArgs) : Gives x (fnMov x) (elemBits x.type x.a) := gives_mapElems (fun _ => rfl) fun _ => rfl

theorem gives_fnConst (x : ShArgs) : Gives x (fnConst x) (elemBits x.type x.b) := gives_mapElems (fun _ => rfl) fun _ => rfl

theorem gives_fnSel (x : ShArgs) : Gives x (fnSel x) fun e =>
    if predOf x.type x.a e then elemBits x.type x.b e else elemBits x.type x.c e :=
  gives_mapElems (fun _ => rfl) fun _ => apply_ite (BitVec.ofNat _) _ _ _

/-- Settles O7: each function of elements gives its value in every included element. -/
theorem integerElements : Obligations.IntegerElements := fun x _ _ =>
  ⟨gives_fnAdd x, gives_fnSub x, gives_fnMul x, gives_fnMad x, gives_fnNeg x, gives_fnIdx x, gives_fnAdds x, gives_fnSubs x,
    gives_fnMulh x, gives_fnMin x, gives_fnMax x, gives_fnAbs x, gives_fnAnd x, gives_fnOr x, gives_fnXor x, gives_fnAndn x,
    gives_fnNot x, gives_fnMov x, gives_fnConst x, gives_fnSel x⟩

end Sys2Proof.Integers
end

section
/-! SUPPORT. DIV and REM (R55), and the shifts, rotates and bit fields of R161, as bits of the element's width. -/

namespace Sys2Proof.Shifts

open Machine Elements Integers

variable {x : ShArgs} {w : Nat}

/-- A result of `f e` in each included element, with the previous lane in each excluded one, whatever it raises. -/
def Makes (x : ShArgs) (o : ShOut) (f : Nat → BitVec (tyWidth x.type)) : Prop :=
  o.lanes.length = x.n ∧ (∀ e, Within x e → elemBits x.type o.lanes e = f e) ∧
    ∀ k < x.n, x.incl.getD (if wide x.type then k - k % 2 else k) true = false → laneAt o.lanes k = laneAt x.prev k

theorem makes_mapElems {g : Nat → Nat × Flags} {f : Nat → BitVec (tyWidth x.type)}
    (hv : ∀ e, BitVec.ofNat (tyWidth x.type) (g e).1 = f e) : Makes x (mapElems x g) f := by
  obtain ⟨hlen, hex⟩ := keepsExcluded_mapElems x g
  refine ⟨hlen, fun e he => ?_, hex⟩
  rw [elemBits, elemAt_mapElems he, ← hv e]
  exact BitVec.eq_of_toNat_eq (by simp)

/-- The same of a function that raises nothing. -/
theorem makes_quiet_mapElems {g : Nat → Nat} {f : Nat → BitVec (tyWidth x.type)}
    (hv : ∀ e, BitVec.ofNat (tyWidth x.type) (g e) = f e) :
    Makes x (mapElems x fun e => (g e, 0)) f ∧ allFlags (mapElems x fun e => (g e, 0)).raised = 0 :=
  ⟨makes_mapElems hv, allFlags_mapElems_eq_zero fun _ _ => rfl⟩

/-! Flags. -/

theorem foldl_or_eq {r : Raised} {a fl : Flags} (ha : a = 0 ∨ a = fl) (h : ∀ p ∈ r, p.2 = 0 ∨ p.2 = fl)
    (hx : a = fl ∨ ∃ p ∈ r, p.2 = fl) : r.foldl (fun a p => a ||| p.2) a = fl := by
  induction r generalizing a with
  | nil => exact hx.elim id fun ⟨p, hp, _⟩ => absurd hp List.not_mem_nil
  | cons p r ih =>
    have hr : ∀ q ∈ r, q.2 = 0 ∨ q.2 = fl := fun q hq => h q (List.mem_cons_of_mem p hq)
    have hor : (0 : Flags) ||| fl = fl ∧ fl ||| 0 = fl ∧ fl ||| fl = fl := ⟨BitVec.zero_or, BitVec.or_zero, BitVec.or_self⟩
    obtain ⟨h0, h1, h2⟩ := hor
    rw [List.foldl_cons]
    rcases h p List.mem_cons_self with hp | hp
    · rw [hp]
      refine ih ?_ hr ?_
      · rcases ha with rfl | rfl
        · exact .inl rfl
        · exact .inr h1
      · rcases hx with rfl | ⟨q, hq, hf⟩
        · exact .inl h1
        · rcases List.mem_cons.1 hq with rfl | hq
          · rcases ha with rfl | rfl
            · exact .inl (by rw [← hf, hp]; rfl)
            · exact .inl h1
          · exact .inr ⟨q, hq, hf⟩
    · rw [hp]
      rcases ha with rfl | rfl
      · exact ih (.inr h0) hr (.inl h0)
      · exact ih (.inr h2) hr (.inl h2)

theorem mem_raised_of_within {e : Nat} {f : Nat → Nat × Flags} (h : Within x e) : (e, (f e).2) ∈ (mapElems x f).raised := by
  obtain ⟨he, hi⟩ := h
  have hi : included x (laneOf x.type e) = true := hi
  refine List.mem_iff_getElem.2 ⟨e, by simpa [mapElems, upTo] using he, ?_⟩
  simp [mapElems, upTo, hi]

/-- A flag raised by some included elements is the flag raised. -/
theorem allFlags_mapElems_eq {f : Nat → Nat × Flags} {fl : Flags} (h : ∀ e, (f e).2 = 0 ∨ (f e).2 = fl)
    (hx : ∃ e, Within x e ∧ (f e).2 = fl) : allFlags (mapElems x f).raised = fl := by
  obtain ⟨e, he, hf⟩ := hx
  refine foldl_or_eq (.inl rfl) (fun p hp => ?_) (.inr ⟨_, mem_raised_of_within he, hf⟩)
  rcases mem_raised_mapElems hp with h0 | ⟨-, h1⟩
  · exact .inl h0
  · rw [h1]; exact h p.1

/-! Division. -/

theorem elemBits_eq_zero {t : Ty} {ls : List Lane} {e : Nat} : elemBits t ls e = 0 ↔ elemAt t ls e = 0 := by
  rw [← toNat_elemBits, ← BitVec.toNat_inj]
  rfl

/-- DIV's element and flags. -/
def divElem (x : ShArgs) (e : Nat) : Nat × Flags :=
  if elemAt x.type x.b e == 0 then (ones (tyWidth x.type), flDZ)
  else (ofInt (tyWidth x.type) ((intOf x.type (elemAt x.type x.a e)).tdiv (intOf x.type (elemAt x.type x.b e))), 0)

/-- REM's element and flags. -/
def remElem (x : ShArgs) (e : Nat) : Nat × Flags :=
  if elemAt x.type x.b e == 0 then (elemAt x.type x.a e, flDZ)
  else (ofInt (tyWidth x.type) ((intOf x.type (elemAt x.type x.a e)).tmod (intOf x.type (elemAt x.type x.b e))), 0)

theorem fnDiv_eq (x : ShArgs) : fnDiv x = mapElems x (divElem x) := rfl

theorem fnRem_eq (x : ShArgs) : fnRem x = mapElems x (remElem x) := rfl

theorem ofNat_ones (w : Nat) : BitVec.ofNat w (ones w) = BitVec.allOnes w := by
  rw [ones, Nat.one_shiftLeft, ← BitVec.toNat_allOnes, BitVec.ofNat_toNat, BitVec.setWidth_eq]

theorem ofNat_divElem (x : ShArgs) (e : Nat) : BitVec.ofNat (tyWidth x.type) (divElem x e).1 =
    if elemBits x.type x.b e = 0 then BitVec.allOnes (tyWidth x.type)
    else BitVec.ofInt (tyWidth x.type) ((intOf x.type (elemAt x.type x.a e)).tdiv (intOf x.type (elemAt x.type x.b e))) := by
  simp only [divElem, beq_iff_eq, elemBits_eq_zero]
  split
  · exact ofNat_ones _
  · exact ofNat_ofInt _ _

theorem ofNat_remElem (x : ShArgs) (e : Nat) : BitVec.ofNat (tyWidth x.type) (remElem x e).1 =
    if elemBits x.type x.b e = 0 then elemBits x.type x.a e
    else BitVec.ofInt (tyWidth x.type) ((intOf x.type (elemAt x.type x.a e)).tmod (intOf x.type (elemAt x.type x.b e))) := by
  simp only [remElem, beq_iff_eq, elemBits_eq_zero]
  split
  · rfl
  · exact ofNat_ofInt _ _

theorem ofInt_tdiv_toInt (a b : BitVec w) : BitVec.ofInt w (a.toInt.tdiv b.toInt) = a.sdiv b :=
  BitVec.eq_of_toInt_eq (by rw [BitVec.toInt_ofInt, BitVec.toInt_sdiv])

theorem ofInt_tmod_toInt (a b : BitVec w) : BitVec.ofInt w (a.toInt.tmod b.toInt) = a.srem b := by
  rw [← BitVec.toInt_srem, BitVec.ofInt_toInt]

theorem ofInt_tdiv_toNat (a b : BitVec w) : BitVec.ofInt w ((a.toNat : Int).tdiv b.toNat) = a / b := by
  rw [← Int.ofNat_tdiv, BitVec.ofInt_natCast, ← BitVec.toNat_udiv, BitVec.ofNat_toNat, BitVec.setWidth_eq]

theorem ofInt_tmod_toNat (a b : BitVec w) : BitVec.ofInt w ((a.toNat : Int).tmod b.toNat) = a % b := by
  rw [← Int.ofNat_tmod, BitVec.ofInt_natCast, ← BitVec.toNat_umod, BitVec.ofNat_toNat, BitVec.setWidth_eq]

theorem makes_fnDiv (x : ShArgs) : Makes x (fnDiv x) fun e =>
    if elemBits x.type x.b e = 0 then BitVec.allOnes (tyWidth x.type)
    else if signedTy x.type then (elemBits x.type x.a e).sdiv (elemBits x.type x.b e)
    else elemBits x.type x.a e / elemBits x.type x.b e := by
  refine makes_mapElems fun e => (ofNat_divElem x e).trans ?_
  rw [intOf_elemAt, intOf_elemAt]
  split
  · rfl
  · split
    · exact ofInt_tdiv_toInt _ _
    · exact ofInt_tdiv_toNat _ _

theorem makes_fnRem (x : ShArgs) : Makes x (fnRem x) fun e =>
    if signedTy x.type then (elemBits x.type x.a e).srem (elemBits x.type x.b e)
    else elemBits x.type x.a e % elemBits x.type x.b e := by
  refine makes_mapElems fun e => (ofNat_remElem x e).trans ?_
  rw [intOf_elemAt, intOf_elemAt]
  split
  next h =>
    rw [h]
    split
    · exact BitVec.srem_zero.symm
    · exact BitVec.umod_zero.symm
  · split
    · exact ofInt_tmod_toInt _ _
    · exact ofInt_tmod_toNat _ _

/-- The quotient times the divisor, plus the remainder. -/
theorem divElem_mul_add_remElem (x : ShArgs) {e : Nat} (h : Within x e) :
    elemBits x.type (fnDiv x).lanes e * elemBits x.type x.b e + elemBits x.type (fnRem x).lanes e = elemBits x.type x.a e := by
  obtain ⟨-, hd, -⟩ := makes_mapElems (x := x) (g := divElem x) (ofNat_divElem x)
  obtain ⟨-, hr, -⟩ := makes_mapElems (x := x) (g := remElem x) (ofNat_remElem x)
  rw [fnDiv_eq, fnRem_eq, hd e h, hr e h]
  dsimp only
  split
  next h0 => rw [h0, BitVec.ofNat_eq_ofNat, BitVec.mul_zero, BitVec.zero_add]
  next =>
    rw [← ofInt_intOf x.type x.b, ← BitVec.ofInt_mul, ← BitVec.ofInt_add, Int.tdiv_mul_add_tmod, ofInt_intOf]

theorem flags_fnDiv_fnRem (h : ∃ e, Within x e ∧ elemBits x.type x.b e = 0) :
    allFlags (fnDiv x).raised = flDZ ∧ allFlags (fnRem x).raised = flDZ := by
  obtain ⟨e, he, hb⟩ := h
  have hb := beq_iff_eq.2 (elemBits_eq_zero.1 hb)
  constructor
  · refine allFlags_mapElems_eq (f := divElem x) (fun e => ?_) ⟨e, he, by rw [divElem, if_pos hb]⟩
    unfold divElem
    split
    · exact .inr rfl
    · exact .inl rfl
  · refine allFlags_mapElems_eq (f := remElem x) (fun e => ?_) ⟨e, he, by rw [remElem, if_pos hb]⟩
    unfold remElem
    split
    · exact .inr rfl
    · exact .inl rfl

theorem quiet_fnDiv_fnRem (h : ∀ e, Within x e → elemBits x.type x.b e ≠ 0) :
    allFlags (fnDiv x).raised = 0 ∧ allFlags (fnRem x).raised = 0 := by
  have hb (e : Nat) (he : Within x e) : ¬(elemAt x.type x.b e == 0) = true := fun h0 =>
    h e he (elemBits_eq_zero.2 (beq_iff_eq.1 h0))
  exact ⟨allFlags_mapElems_eq_zero (f := divElem x) fun e he => by rw [divElem, if_neg (hb e he)],
    allFlags_mapElems_eq_zero (f := remElem x) fun e he => by rw [remElem, if_neg (hb e he)]⟩

/-! Shifts and rotates. -/

theorem ofNat_shlBits (n c : Nat) : BitVec.ofNat w (shlBits w n c) = BitVec.ofNat w n <<< c := by
  unfold shlBits
  split
  next h => rw [BitVec.shiftLeft_eq_zero h]
  next h =>
    rw [ofNat_low]
    refine BitVec.eq_of_toNat_eq ?_
    rw [BitVec.toNat_shiftLeft, BitVec.toNat_ofNat, BitVec.toNat_ofNat, Nat.shiftLeft_eq, Nat.shiftLeft_eq, Nat.mod_mul_mod]

theorem toNat_ofNat_of_lt {n : Nat} (h : n < 2 ^ w) : (BitVec.ofNat w n).toNat = n := by
  rw [BitVec.toNat_ofNat, Nat.mod_eq_of_lt h]

theorem shiftRight_eq_zero_of_le {n c : Nat} (h : n < 2 ^ w) (hc : w ≤ c) : n >>> c = 0 := by
  rw [Nat.shiftRight_eq_div_pow]
  exact Nat.div_eq_of_lt (h.trans_le (Nat.pow_le_pow_right Nat.two_pos hc))

theorem ofNat_shrBits {n : Nat} (hn : n < 2 ^ w) (c : Nat) : BitVec.ofNat w (shrBits w n c) = BitVec.ofNat w n >>> c := by
  have hs : shrBits w n c = n >>> c := by
    unfold shrBits
    split
    next h => exact (shiftRight_eq_zero_of_le hn h).symm
    next => rfl
  refine BitVec.eq_of_toNat_eq ?_
  rw [BitVec.toNat_ushiftRight, toNat_ofNat_of_lt hn, hs, toNat_ofNat_of_lt ((Nat.shiftRight_le n c).trans_lt hn)]

theorem msb_ofNat (hw : 0 < w) {n : Nat} (hn : n < 2 ^ w) : (BitVec.ofNat w n).msb = bit n (w - 1) := by
  rw [bit_top hw hn, BitVec.msb_eq_decide, toNat_ofNat_of_lt hn]

theorem ofNat_sarBits (hw : 0 < w) {n : Nat} (hn : n < 2 ^ w) (c : Nat) :
    BitVec.ofNat w (sarBits w n c) = (BitVec.ofNat w n).sshiftRight c := by
  have hm := msb_ofNat hw hn
  cases hb : bit n (w - 1) with
  | false =>
    rw [BitVec.sshiftRight_eq_of_msb_false (hm.trans hb), ← ofNat_shrBits hn]
    simp only [sarBits, shrBits, hb, Bool.false_eq_true, if_false, Nat.add_zero]
  | true =>
    refine BitVec.eq_of_toNat_eq ?_
    rw [BitVec.toNat_sshiftRight_of_msb_true (hm.trans hb), toNat_ofNat_of_lt hn]
    simp only [sarBits, hb, if_true, ones, Nat.one_shiftLeft]
    have hs : 2 ^ w - 1 - n < 2 ^ w := by have := Nat.two_pow_pos w; omega
    split
    next h => rw [shiftRight_eq_zero_of_le hs h, toNat_ofNat_of_lt (Nat.sub_one_lt (Nat.two_pow_pos w).ne'), Nat.sub_zero]
    next h =>
      have h2 : 2 ^ w = 2 ^ c * 2 ^ (w - c) := by rw [← Nat.pow_add, Nat.add_sub_cancel' (Nat.le_of_not_le h)]
      have hq : n / 2 ^ c < 2 ^ (w - c) := Nat.div_lt_of_lt_mul (h2 ▸ hn)
      have hle : 2 ^ (w - c) ≤ 2 ^ w := Nat.pow_le_pow_right Nat.two_pos (Nat.sub_le w c)
      have hd : (2 ^ w - 1 - n) / 2 ^ c = 2 ^ (w - c) - (n / 2 ^ c + 1) := by
        rw [Nat.sub_sub, Nat.add_comm 1 n, h2]
        exact Nat.mul_sub_div _ _ _ (h2 ▸ hn)
      rw [Nat.shiftRight_eq_div_pow, Nat.shiftRight_eq_div_pow, hd]
      clear hd h2 hs hn
      generalize n / 2 ^ c = q at *
      generalize 2 ^ (w - c) = p at *
      rw [toNat_ofNat_of_lt (by omega)]
      omega

theorem ofNat_shiftLeft (n c : Nat) : BitVec.ofNat w (n <<< c) = BitVec.ofNat w n <<< c := by
  refine BitVec.eq_of_toNat_eq ?_
  rw [BitVec.toNat_shiftLeft, BitVec.toNat_ofNat, BitVec.toNat_ofNat, Nat.shiftLeft_eq, Nat.shiftLeft_eq, Nat.mod_mul_mod]

theorem ofNat_shiftRight {n : Nat} (hn : n < 2 ^ w) (c : Nat) : BitVec.ofNat w (n >>> c) = BitVec.ofNat w n >>> c := by
  refine BitVec.eq_of_toNat_eq ?_
  rw [BitVec.toNat_ushiftRight, toNat_ofNat_of_lt hn, toNat_ofNat_of_lt ((Nat.shiftRight_le n c).trans_lt hn)]

theorem ofNat_rolBits {n : Nat} (hn : n < 2 ^ w) (c : Nat) : BitVec.ofNat w (rolBits w n c) = (BitVec.ofNat w n).rotateLeft c := by
  rw [rolBits, ofNat_low, BitVec.ofNat_or, ofNat_shiftLeft, ofNat_shiftRight hn, BitVec.rotateLeft_def]

/-! Bit fields. -/

theorem field_eq_mod (x lo n : Nat) : field x lo n = x / 2 ^ lo % 2 ^ n := by
  rw [field, Nat.one_shiftLeft, Nat.shiftRight_eq_div_pow]

/-- The bits of a field, sign-extended or not. -/
theorem ofNat_bfxBits (sg : Bool) {n : Nat} (hn : n < 2 ^ w) (m : Nat) :
    BitVec.ofNat w (bfxBits sg w n m) =
      if sg then ((BitVec.ofNat w n >>> (m % 2 ^ 6)).setWidth (min (m / 2 ^ 8 % 2 ^ 7) w)).signExtend w
      else ((BitVec.ofNat w n >>> (m % 2 ^ 6)).setWidth (min (m / 2 ^ 8 % 2 ^ 7) w)).setWidth w := by
  have hp : field m 0 6 = m % 2 ^ 6 := by rw [field_eq_mod, Nat.pow_zero, Nat.div_one]
  have hlen : min (m / 2 ^ 8 % 2 ^ 7) w ≤ w := min_le_right _ _
  have hf : (if m % 2 ^ 6 ≥ w then 0 else low (min (m / 2 ^ 8 % 2 ^ 7) w) (n >>> (m % 2 ^ 6))) =
      ((BitVec.ofNat w n >>> (m % 2 ^ 6)).setWidth (min (m / 2 ^ 8 % 2 ^ 7) w)).toNat := by
    rw [BitVec.toNat_setWidth, BitVec.toNat_ushiftRight, toNat_ofNat_of_lt hn, low_eq_mod]
    split
    next h => rw [shiftRight_eq_zero_of_le hn h, Nat.zero_mod]
    next => rfl
  unfold bfxBits
  dsimp only
  rw [hp, field_eq_mod, hf]
  generalize (BitVec.ofNat w n >>> (m % 2 ^ 6)).setWidth (min (m / 2 ^ 8 % 2 ^ 7) w) = bits at *
  generalize min (m / 2 ^ 8 % 2 ^ 7) w = len at *
  have hpow : 2 ^ len ≤ 2 ^ w := Nat.pow_le_pow_right Nat.two_pos hlen
  have hbits := bits.isLt
  have hsw : (bits.setWidth w).toNat = bits.toNat := by rw [BitVec.toNat_setWidth, Nat.mod_eq_of_lt (hbits.trans_le hpow)]
  refine BitVec.eq_of_toNat_eq ?_
  cases sg with
  | false =>
    simp only [Bool.false_and, Bool.false_eq_true, if_false]
    rw [hsw, toNat_ofNat_of_lt (hbits.trans_le hpow)]
  | true =>
    simp only [Bool.true_and, if_true]
    rw [BitVec.toNat_signExtend, hsw]
    have hm : (decide (len > 0) && bit bits.toNat (len - 1)) = bits.msb := by
      by_cases h0 : 0 < len
      · rw [decide_eq_true h0, Bool.true_and, ← msb_ofNat h0 hbits, BitVec.ofNat_toNat, BitVec.setWidth_eq]
      · obtain rfl : len = 0 := by omega
        rw [BitVec.eq_nil bits]
        rfl
    rw [hm]
    split
    · rw [ones, ones, Nat.one_shiftLeft, Nat.one_shiftLeft, toNat_ofNat_of_lt (by omega)]
      omega
    · rw [toNat_ofNat_of_lt (hbits.trans_le hpow), Nat.add_zero]

theorem xor_and_self (a m : BitVec w) : a ^^^ (a &&& m) = a &&& ~~~m := by
  ext i hi
  simp only [BitVec.getElem_xor, BitVec.getElem_and, BitVec.getElem_not]
  cases a[i] <;> cases m[i] <;> rfl

theorem ofNat_bfiBits (a b m : Nat) :
    BitVec.ofNat w (bfiBits w a b m) =
      (BitVec.ofNat w a &&& ~~~((BitVec.allOnes (min (m / 2 ^ 8 % 2 ^ 7) w)).setWidth w <<< (m % 2 ^ 6))) |||
        (BitVec.ofNat w b <<< (m % 2 ^ 6) &&& ((BitVec.allOnes (min (m / 2 ^ 8 % 2 ^ 7) w)).setWidth w <<< (m % 2 ^ 6))) := by
  have hp : field m 0 6 = m % 2 ^ 6 := by rw [field_eq_mod, Nat.pow_zero, Nat.div_one]
  have hm (len at_ : Nat) : BitVec.ofNat w (low w (ones len <<< at_)) = (BitVec.allOnes len).setWidth w <<< at_ := by
    rw [ofNat_low, ofNat_shiftLeft, ones, Nat.one_shiftLeft, ← BitVec.toNat_allOnes, BitVec.ofNat_toNat]
  simp only [bfiBits, hp, field_eq_mod, BitVec.ofNat_or, BitVec.ofNat_and, BitVec.ofNat_xor, hm, xor_and_self, ofNat_shiftLeft]

/-- Settles O8: each function of an element and its control value, and DIV and REM with their flags. -/
theorem divisionsShiftsAndBitFields : Obligations.DivisionsShiftsAndBitFields := by
  intro x _ _
  have hlt (e : Nat) := elemAt_lt x.type x.a e
  have hw := tyWidth_pos x.type
  refine ⟨makes_fnDiv x, makes_fnRem x, fun e h => divElem_mul_add_remElem x h, fun ⟨e, h, hb⟩ => flags_fnDiv_fnRem ⟨e, h, hb⟩,
    quiet_fnDiv_fnRem, ?_⟩
  obtain ⟨h1, q1⟩ := makes_quiet_mapElems (x := x) fun e => ofNat_shlBits (elemAt x.type x.a e) (controlOf x.type x.b e)
  obtain ⟨h2, q2⟩ := makes_quiet_mapElems (x := x) fun e => ofNat_shrBits (hlt e) (controlOf x.type x.b e)
  obtain ⟨h3, q3⟩ := makes_quiet_mapElems (x := x) fun e => ofNat_sarBits hw (hlt e) (controlOf x.type x.b e)
  obtain ⟨h4, q4⟩ := makes_quiet_mapElems (x := x) fun e => ofNat_rolBits (hlt e) (controlOf x.type x.b e)
  obtain ⟨h5, q5⟩ := makes_quiet_mapElems (x := x) fun e => ofNat_bfxBits (signedTy x.type) (hlt e) (controlOf x.type x.b e)
  obtain ⟨h6, q6⟩ := makes_quiet_mapElems (x := x) fun e =>
    ofNat_bfiBits (elemAt x.type x.a e) (elemAt x.type x.b e) (controlOf x.type x.c e)
  exact ⟨h1, q1, h2, q2, h3, q3, h4, q4, h5, q5, h6, q6⟩

end Sys2Proof.Shifts
end

section
/-! SUPPORT. Predicates of compares (R155, R162), SCAN (R61), and the functions that move units (R168). -/

namespace Sys2Proof.Moves

open Machine Elements Integers

variable {t : Ty} {x : ShArgs} {e k n : Nat}

/-! Predicate words. -/

/-- The predicate of each included element; nothing above it in its lane, both lanes of a pair alike, excluded lanes kept. -/
def Tells (x : ShArgs) (o : ShOut) (f : Nat → Bool) : Prop :=
  o.lanes.length = x.n ∧ allFlags o.raised = 0 ∧
  (∀ e < elemCount x.type x.n, x.incl.getD (laneOf x.type e) true = true → predOf x.type o.lanes e = f e ∧
    (laneAt o.lanes (laneOf x.type e)).toNat < 2 ^ perLane x.type ∧
    (wide x.type = true → laneAt o.lanes (2 * e + 1) = laneAt o.lanes (2 * e))) ∧
  ∀ k < x.n, x.incl.getD (if wide x.type then k - k % 2 else k) true = false → laneAt o.lanes k = laneAt x.prev k

theorem perLane_wide (h : wide t = true) : perLane t = 1 := by
  cases t with
  | i64 | u64 | f64 => rfl
  | _ => cases h

theorem perLane_cases (t : Ty) : perLane t = 1 ∨ perLane t = 2 ∨ perLane t = 4 := by cases t <;> decide

theorem laneAt_predWord_wide (h : wide t = true) (n : Nat) (bs : List Nat) (e : Nat) :
    laneAt (predWord t n bs) (2 * e) = BitVec.ofNat 32 (bs.getD e 0 % 2) ∧
      laneAt (predWord t n bs) (2 * e + 1) = BitVec.ofNat 32 (bs.getD e 0 % 2) := by
  simp only [predWord, h, if_true]
  induction bs generalizing e with
  | nil => exact ⟨rfl, rfl⟩
  | cons b bs ih =>
    cases e with
    | zero => exact ⟨rfl, rfl⟩
    | succ e => exact ih e

/-- Lane `k` of a predicate word holds the truth values of its elements, and nothing above them. -/
theorem laneAt_predWord (h : wide t = false) (bs : List Nat) (hk : k < n) :
    (laneAt (predWord t n bs) k).toNat < 2 ^ perLane t ∧
      ∀ j < perLane t, (laneAt (predWord t n bs) k).toNat / 2 ^ j % 2 = bs.getD (k * perLane t + j) 0 % 2 := by
  rcases perLane_cases t with hp | hp | hp
  · have hl : laneAt (predWord t n bs) k = BitVec.ofNat 32 (bs.getD (k * 1 + 0) 0 % 2) := by
      simp [laneAt, predWord, h, hp, upTo, List.getD_eq_getElem?_getD, hk]
    rw [hl, hp]
    refine ⟨by simp only [BitVec.toNat_ofNat]; omega, fun j hj => ?_⟩
    interval_cases j
    simp only [BitVec.toNat_ofNat, Nat.reducePow]
    omega
  · have hl : laneAt (predWord t n bs) k = BitVec.ofNat 32 (bs.getD (k * 2 + 0) 0 % 2 + 2 * (bs.getD (k * 2 + 1) 0 % 2)) := by
      simp [laneAt, predWord, h, hp, upTo, List.getD_eq_getElem?_getD, hk]
    rw [hl, hp]
    refine ⟨by simp only [BitVec.toNat_ofNat]; omega, fun j hj => ?_⟩
    interval_cases j <;> simp only [BitVec.toNat_ofNat, Nat.reducePow] <;> omega
  · have hl : laneAt (predWord t n bs) k = BitVec.ofNat 32 (bs.getD (k * 4 + 0) 0 % 2 + 2 * (bs.getD (k * 4 + 1) 0 % 2) +
        4 * (bs.getD (k * 4 + 2) 0 % 2) + 8 * (bs.getD (k * 4 + 3) 0 % 2)) := by
      simp [laneAt, predWord, h, hp, upTo, List.getD_eq_getElem?_getD, hk]
    rw [hl, hp]
    refine ⟨by simp only [BitVec.toNat_ofNat]; omega, fun j hj => ?_⟩
    interval_cases j <;> simp only [BitVec.toNat_ofNat, Nat.reducePow] <;> omega

theorem bit_eq_decide (x i : Nat) : bit x i = decide (x / 2 ^ i % 2 = 1) := by
  rw [bit, Nat.shiftRight_eq_div_pow, beq_eq_decide]

theorem b2n_mod_two (b : Bool) : decide (b2n b % 2 = 1) = b := by cases b <;> rfl

theorem tells_predResult {f : Nat → Bool} {g : Nat → Nat × Flags} (hg : ∀ e, g e = (b2n (f e), 0)) : Tells x (predResult x g) f := by
  obtain ⟨hlen, hex⟩ := keepsExcluded_mergeLanes x (predWord x.type x.n (((upTo (elemCount x.type x.n)).map fun e =>
    if included x (laneOf x.type e) then g e else (0, 0)).map (·.1))) (predResult x g).raised
  refine ⟨hlen, ?_, fun e he hi => ?_, hex⟩
  · have hq := allFlags_mapElems_eq_zero (x := x) (f := g) fun e _ => by rw [hg]
    exact hq
  · have hw : Within x e := ⟨he, hi⟩
    have hi : included x (laneOf x.type e) = true := hi
    have hval : ((((upTo (elemCount x.type x.n)).map fun e => if included x (laneOf x.type e) then g e else (0, 0)).map (·.1)).getD e 0) =
        b2n (f e) := by simp [upTo, List.getD_eq_getElem?_getD, he, hi, hg]
    simp only [predOf, predResult, laneAt_mergeLanes_included hw]
    cases hwide : wide x.type with
    | true =>
      have h0 : laneOf x.type e = 2 * e := if_pos hwide
      have hm := fun new => laneAt_mergeLanes_included (new := new) hw
      rw [h0] at hm ⊢
      obtain ⟨hp0, hp1⟩ := laneAt_predWord_wide hwide x.n (((upTo (elemCount x.type x.n)).map fun e =>
        if included x (laneOf x.type e) then g e else (0, 0)).map (·.1)) e
      rw [laneAt_mergeLanes_upper hwide hw, hm, hp0, hp1, hval, posOf, if_pos hwide, perLane_wide hwide]
      cases f e <;> exact ⟨rfl, by decide, fun _ => rfl⟩
    | false =>
      obtain ⟨hlt, hbit⟩ := laneAt_predWord hwide (((upTo (elemCount x.type x.n)).map fun e =>
        if included x (laneOf x.type e) then g e else (0, 0)).map (·.1)) (laneOf_lt he)
      have hj := hbit (e % perLane x.type) (Nat.mod_lt _ (perLane_pos _))
      have h0 : laneOf x.type e = e / perLane x.type := if_neg (by simp [hwide])
      refine ⟨?_, hlt, fun h => Bool.noConfusion h⟩
      rw [h0, Nat.div_add_mod', hval] at hj
      rw [bit_eq_decide, posOf, if_neg (by simp [hwide]), h0, hj, b2n_mod_two]

theorem fmtOf_int (h : intTy t = true) : fmtOf t = none := by
  cases t with
  | f64 | f32 | bf16 | f16 | e4m3 | e5m2 | pred => cases h
  | _ => rfl

/-- A compare of integers (R162). -/
theorem tells_compare (h : intTy x.type = true) (fi : Int → Int → Bool) (fl : Val → Val → Bool) (quiet : Bool) :
    Tells x (compare fi fl quiet x) fun e => fi (intOf x.type (elemAt x.type x.a e)) (intOf x.type (elemAt x.type x.b e)) := by
  refine tells_predResult fun e => ?_
  dsimp only
  rw [fmtOf_int h]
  rfl

theorem intOf_inj (t : Ty) {as bs : List Lane} {i j : Nat} :
    intOf t (elemAt t as i) = intOf t (elemAt t bs j) ↔ elemBits t as i = elemBits t bs j := by
  refine ⟨fun h => ?_, fun h => ?_⟩
  · rw [← ofInt_intOf, h, ofInt_intOf]
  · rw [intOf_elemAt, intOf_elemAt, h]

theorem intOf_lt (t : Ty) {as bs : List Lane} {i j : Nat} :
    decide (intOf t (elemAt t as i) < intOf t (elemAt t bs j)) =
      if signedTy t then (elemBits t as i).slt (elemBits t bs j) else (elemBits t as i).ult (elemBits t bs j) := by
  rw [intOf_elemAt, intOf_elemAt]
  split <;> simp [BitVec.slt, BitVec.ult]

theorem intOf_le (t : Ty) {as bs : List Lane} {i j : Nat} :
    decide (intOf t (elemAt t as i) ≤ intOf t (elemAt t bs j)) =
      !if signedTy t then (elemBits t bs j).slt (elemBits t as i) else (elemBits t bs j).ult (elemBits t as i) := by
  rw [← intOf_lt, ← decide_not]
  exact decide_eq_decide.2 not_lt.symm

theorem beq_intOf (t : Ty) {as bs : List Lane} {i j : Nat} :
    (intOf t (elemAt t as i) == intOf t (elemAt t bs j)) = (elemBits t as i == elemBits t bs j) := by
  rw [beq_eq_decide, beq_eq_decide]
  exact decide_eq_decide.2 (intOf_inj t)

/-- One element below another, as its type reads them. -/
def less (sg : Bool) {w : Nat} (p q : BitVec w) : Bool := if sg then p.slt q else p.ult q

theorem tells_fnCeq (h : intTy x.type = true) : Tells x (fnCeq x) fun e => elemBits x.type x.a e == elemBits x.type x.b e := by
  have hc := tells_compare h (fun a b => a == b) valEq true
  simp only [beq_intOf] at hc
  exact hc

theorem tells_fnCne (h : intTy x.type = true) : Tells x (fnCne x) fun e => elemBits x.type x.a e != elemBits x.type x.b e := by
  have hc := tells_compare h (fun a b => a != b) (fun a b => !valEq a b) true
  simp only [bne, beq_intOf] at hc
  exact hc

theorem tells_fnClt (h : intTy x.type = true) : Tells x (fnClt x) fun e => less (signedTy x.type) (elemBits x.type x.a e) (elemBits x.type x.b e) := by
  have hc := tells_compare h (fun a b => decide (a < b)) valLt false
  simp only [intOf_lt] at hc
  exact hc

theorem tells_fnCle (h : intTy x.type = true) : Tells x (fnCle x) fun e => !less (signedTy x.type) (elemBits x.type x.b e) (elemBits x.type x.a e) := by
  have hc := tells_compare h (fun a b => decide (a ≤ b)) (fun a b => valLt a b || valEq a b) false
  simp only [intOf_le] at hc
  exact hc

theorem tells_fnCgt (h : intTy x.type = true) : Tells x (fnCgt x) fun e => less (signedTy x.type) (elemBits x.type x.b e) (elemBits x.type x.a e) := by
  have hc := tells_compare h (fun a b => decide (b < a)) (fun a b => valLt b a) false
  simp only [intOf_lt] at hc
  exact hc

theorem tells_fnCge (h : intTy x.type = true) : Tells x (fnCge x) fun e => !less (signedTy x.type) (elemBits x.type x.a e) (elemBits x.type x.b e) := by
  have hc := tells_compare h (fun a b => decide (b ≤ a)) (fun a b => valLt b a || valEq a b) false
  simp only [intOf_le] at hc
  exact hc

theorem tells_fnTest (x : ShArgs) : Tells x (fnTest x) fun e => elemBits x.type x.a e &&& elemBits x.type x.b e != 0 := by
  refine tells_predResult fun e => ?_
  have h : (elemBits x.type x.a e &&& elemBits x.type x.b e != 0) = (elemAt x.type x.a e &&& elemAt x.type x.b e != 0) := by
    rw [bne, bne, beq_eq_decide, beq_eq_decide, ← toNat_elemBits, ← toNat_elemBits, ← BitVec.toNat_and]
    exact congrArg _ (decide_eq_decide.2 BitVec.toNat_inj.symm)
  exact congrArg (fun b => (b2n b, (0 : Flags))) h.symm

/-! SCAN. -/

theorem length_pack16 (xs : List Nat) : (pack16 xs).length = (xs.length + 1) / 2 := by
  induction xs using pack16.induct with
  | case1 a b rest ih => simp only [pack16, List.length_cons, ih]; omega
  | case2 a => simp [pack16]
  | case3 => rfl

theorem length_pack8 (xs : List Nat) : (pack8 xs).length = (xs.length + 3) / 4 := by
  induction xs using pack8.induct with
  | case1 a b c d rest ih => simp only [pack8, List.length_cons, ih]; omega
  | case2 a b c => simp [pack8]
  | case3 a b => simp [pack8]
  | case4 a => simp [pack8]
  | case5 => rfl

theorem length_packElems {xs : List Nat} (hn : wide t = true → n % 2 = 0) (h : xs.length = elemCount t n) :
    (packElems t xs).length = n := by
  cases hw : wide t with
  | true =>
    rw [length_packElems_wide hw, h, elemCount, if_pos hw]
    have := hn hw
    omega
  | false =>
    rw [elemCount, if_neg (by simp [hw])] at h
    cases t with
    | i64 | u64 | f64 => cases hw
    | i16 | u16 | f16 | bf16 =>
      have h : xs.length = n * 2 := h
      exact (length_pack16 xs).trans (by omega)
    | i8 | u8 | e4m3 | e5m2 =>
      have h : xs.length = n * 4 := h
      exact (length_pack8 xs).trans (by omega)
    | i32 | u32 | f32 | pred => simpa [packElems, tyWidth, perLane] using h

theorem length_elems (t : Ty) (ls : List Lane) : (elems t ls).length = elemCount t ls.length := by
  cases hw : wide t with
  | true =>
    simp only [elems, elemCount, hw, if_true]
    induction ls using pairs64.induct with
    | case1 a b rest ih => simp only [pairs64, List.length_cons, ih]; omega
    | case2 ls hls =>
      match ls, hls with
      | [], _ => rfl
      | [_], _ => simp [pairs64]
      | a :: b :: rest, hls => exact absurd rfl (hls a b rest)
  | false =>
    simp only [elems, elemCount, hw, Bool.false_eq_true, if_false]
    induction ls with
    | nil => simp
    | cons l ls ih => rw [List.flatMap_cons, List.length_append, ih, length_elemsOfLane hw, List.length_cons]; ring

theorem scanFrom_cons (h : intTy x.type = true) (b : Nat) (rest : List Nat) (i s : Nat) :
    scanFrom x (b :: rest) i s = (low (tyWidth x.type) (s + b) :: (scanFrom x rest (i + 1) (low (tyWidth x.type) (s + b))).1,
      (i, 0) :: (scanFrom x rest (i + 1) (low (tyWidth x.type) (s + b))).2) := by
  simp only [scanFrom, addElem, fmtOf_int h]

theorem length_scanFrom (rest : List Nat) (i s : Nat) : (scanFrom x rest i s).1.length = rest.length := by
  induction rest generalizing i s with
  | nil => rfl
  | cons b rest ih => simp only [scanFrom, List.length_cons, ih]

theorem quiet_scanFrom (h : intTy x.type = true) (rest : List Nat) (i s : Nat) : ∀ p ∈ (scanFrom x rest i s).2, p.2 = 0 := by
  induction rest generalizing i s with
  | nil => exact fun p hp => absurd hp List.not_mem_nil
  | cons b rest ih =>
    intro p hp
    rw [scanFrom_cons h] at hp
    rcases List.mem_cons.1 hp with rfl | hp
    · rfl
    · exact ih _ _ p hp

/-- Each running sum is the one before it with the next element added. -/
theorem getD_scanFrom_succ (h : intTy x.type = true) (rest : List Nat) (i s k : Nat) (hk : k < rest.length) :
    (s :: (scanFrom x rest i s).1).getD (k + 1) 0 =
      low (tyWidth x.type) ((s :: (scanFrom x rest i s).1).getD k 0 + rest.getD k 0) := by
  induction rest generalizing i s k with
  | nil => exact absurd hk (Nat.not_lt_zero k)
  | cons b rest ih =>
    rw [scanFrom_cons h]
    cases k with
    | zero => rfl
    | succ k => exact ih _ _ k (Nat.lt_of_succ_lt_succ hk)

/-- The elements of SCAN's sums: those excluded count as 0. -/
theorem ofNat_orZero (x : ShArgs) (e : Nat) : BitVec.ofNat (tyWidth x.type) (orZero x (elems x.type x.a) e) =
    if x.incl.getD (laneOf x.type e) true then elemBits x.type x.a e else 0 := by
  unfold orZero included
  split <;> rfl

theorem foldl_filter_add {w : Nat} (p : Nat → Bool) (a : Nat → BitVec w) (e : Nat) :
    ((List.range (e + 1)).filter p).foldl (fun s i => s + a i) 0 =
      ((List.range e).filter p).foldl (fun s i => s + a i) 0 + if p e then a e else 0 := by
  rw [List.range_succ, List.filter_append, List.foldl_append]
  cases h : p e with
  | true => simp [h]
  | false => simp [h]

theorem scan_spec (h : intTy x.type = true) (hn : wide x.type = true → x.n % 2 = 0) (hl : x.a.length = x.n) :
    (fnScan x).lanes.length = x.n ∧ allFlags (fnScan x).raised = 0 ∧
      ∀ e < elemCount x.type x.n, elemBits x.type (fnScan x).lanes e =
        ((List.range (e + 1)).filter fun e => x.incl.getD (laneOf x.type e) true).foldl (fun s i => s + elemBits x.type x.a i) 0 := by
  have hlen : (elems x.type x.a).length = elemCount x.type x.n := by rw [length_elems, hl]
  unfold fnScan
  dsimp only
  rw [hlen]
  split
  next hv =>
    have h0 : elemCount x.type x.n = 0 := by simpa [upTo] using congrArg List.length hv
    refine ⟨?_, rfl, fun e he => absurd he (by omega)⟩
    exact length_packElems (t := x.type) (xs := []) hn h0.symm ▸ by cases x.type <;> rfl
  next s rest hv =>
    have hc : canonElem x.type s = s := by rw [canonElem, fmtOf_int h]
    have hvlen : rest.length + 1 = elemCount x.type x.n := by simpa [upTo] using (congrArg List.length hv).symm
    have hget (k : Nat) (hk : k < elemCount x.type x.n) : (s :: rest).getD k 0 = orZero x (elems x.type x.a) k := by
      rw [← hv]; simp [upTo, List.getD_eq_getElem?_getD, hk]
    rw [hc]
    refine ⟨length_packElems hn (by rw [List.length_cons, length_scanFrom, hvlen]), foldl_or_eq_zero rfl (quiet_scanFrom h _ _ _),
      fun e he => ?_⟩
    rw [elemBits, elemAt_packElems (by rwa [List.length_cons, length_scanFrom, hvlen]), ← low_eq_mod, ofNat_low]
    induction e with
    | zero =>
      rw [foldl_filter_add, ← ofNat_orZero, ← hget 0 he]
      exact (BitVec.zero_add _).symm
    | succ e ih =>
      rw [foldl_filter_add, ← ih (by omega), ← ofNat_orZero, ← hget (e + 1) he, getD_scanFrom_succ h _ _ _ _ (by omega), ofNat_low,
        BitVec.ofNat_add]
      rfl

/-! Units. -/

/-- Lanes in a unit (R168). -/
def unitLanes (x : ShArgs) : Nat := if wide x.type then 2 else 1

theorem unitCount_eq (x : ShArgs) : unitCount x = x.n / unitLanes x := by
  unfold unitCount unitLanes
  split
  · rfl
  · rw [Nat.div_one]

theorem unitCount_mul_le (x : ShArgs) : unitCount x * unitLanes x ≤ x.n := by
  rw [unitCount_eq]
  exact Nat.div_mul_le_self _ _

@[simp] theorem length_unitAt (x : ShArgs) (ls : List Lane) (k : Nat) : (unitAt x ls k).length = unitLanes x := by
  unfold unitAt unitLanes
  split <;> rfl

theorem laneAt_unitAt (x : ShArgs) (ls : List Lane) (k : Nat) {j : Nat} (hj : j < unitLanes x) :
    laneAt (unitAt x ls k) j = laneAt ls (k * unitLanes x + j) := by
  unfold unitAt unitLanes at *
  split at hj
  next h =>
    rw [if_pos h, if_pos h, Nat.mul_comm]
    interval_cases j <;> rfl
  next h =>
    obtain rfl : j = 0 := by omega
    rw [if_neg h, if_neg h, Nat.mul_one]
    rfl

theorem laneAt_flatMap {l : List Nat} {f : Nat → List Lane} {u : Nat} (hf : ∀ k, (f k).length = u) {i j : Nat}
    (hi : i < l.length) (hj : j < u) : laneAt (l.flatMap f) (i * u + j) = laneAt (f l[i]) j := by
  induction l generalizing i with
  | nil => exact absurd hi (Nat.not_lt_zero i)
  | cons a l ih =>
    rw [List.flatMap_cons]
    cases i with
    | zero =>
      rw [Nat.zero_mul, Nat.zero_add, laneAt, List.getD_append _ _ _ _ (by rwa [hf])]
      rfl
    | succ i =>
      have hs : (i + 1) * u + j - u = i * u + j := by rw [Nat.succ_mul]; omega
      rw [laneAt, List.getD_append_right _ _ _ _ (by rw [hf, Nat.succ_mul]; omega), hf, hs]
      exact ih (Nat.lt_of_succ_lt_succ hi)

/-- An included unit of a result that moves units. -/
theorem laneAt_moveUnits {f : Nat → List Lane} (hf : ∀ k, (f k).length = unitLanes x) {j : Nat} (hk : k < unitCount x)
    (hj : j < unitLanes x) (hi : x.incl.getD (k * unitLanes x) true = true) :
    laneAt (moveUnits x f).lanes (k * unitLanes x + j) = laneAt (f k) j := by
  have hlt : k * unitLanes x + j < x.n := by
    have := unitCount_mul_le x
    have := Nat.mul_le_mul_right (unitLanes x) hk
    rw [Nat.succ_mul] at this
    omega
  have hlow : (if wide x.type then k * unitLanes x + j - (k * unitLanes x + j) % 2 else k * unitLanes x + j) = k * unitLanes x := by
    unfold unitLanes at *
    split
    next h => rw [if_pos h] at hj; omega
    next h => rw [if_neg h] at hj; omega
  rw [moveUnits, laneAt_mergeLanes hlt, hlow, if_pos (by exact hi), laneAt_flatMap hf (by simpa [upTo] using hk) hj]
  simp [upTo]

@[simp] theorem length_zeroUnit (x : ShArgs) : (zeroUnit x).length = unitLanes x := by
  unfold zeroUnit unitLanes
  split <;> rfl

theorem laneAt_zeroUnit (x : ShArgs) (j : Nat) : laneAt (zeroUnit x) j = 0 := by
  unfold zeroUnit
  split
  · match j with
    | 0 | 1 => rfl
    | _ + 2 => rfl
  · match j with
    | 0 => rfl
    | _ + 1 => rfl

theorem lowLane_eq (x : ShArgs) (k : Nat) : (if wide x.type then 2 * k else k) = k * unitLanes x := by
  unfold unitLanes
  split
  · exact Nat.mul_comm _ _
  · rw [Nat.mul_one]

theorem laneAt_fnShuf {j : Nat} (hk : k < unitCount x) (hj : j < unitLanes x) (hi : x.incl.getD (k * unitLanes x) true = true) :
    laneAt (fnShuf x).lanes (k * unitLanes x + j) =
      if (laneAt x.b (k * unitLanes x)).toNat < unitCount x
      then laneAt x.a ((laneAt x.b (k * unitLanes x)).toNat * unitLanes x + j) else 0 := by
  have hlen (i : Nat) : (pickUnit x i).length = unitLanes x := by unfold pickUnit; split <;> simp
  rw [fnShuf, laneAt_moveUnits (fun _ => hlen _) hk hj hi, lowLane_eq, pickUnit]
  split
  · exact laneAt_unitAt _ _ _ hj
  · exact laneAt_zeroUnit _ _

theorem rot_index {m i r : Nat} (hi : i < m) : ((i + r) % m + m - r % m) % m = i := by
  have hs := Nat.mod_lt r (Nat.zero_lt_of_lt hi)
  rw [Nat.add_mod, Nat.mod_eq_of_lt hi]
  generalize r % m = s at *
  by_cases h : i + s < m
  · rw [Nat.mod_eq_of_lt h, show i + s + m - s = i + m by omega, Nat.add_mod_right, Nat.mod_eq_of_lt hi]
  · rw [Nat.mod_eq_sub_mod (not_lt.1 h), Nat.mod_eq_of_lt (by omega : i + s - m < m), show i + s - m + m - s = i by omega,
      Nat.mod_eq_of_lt hi]

theorem laneAt_fnRot {i j : Nat} (hi : i < unitCount x) (hj : j < unitLanes x)
    (hin : x.incl.getD ((i + (laneAt x.b 0).toNat) % unitCount x * unitLanes x) true = true) :
    laneAt (fnRot x).lanes ((i + (laneAt x.b 0).toNat) % unitCount x * unitLanes x + j) = laneAt x.a (i * unitLanes x + j) := by
  rw [fnRot, laneAt_moveUnits (fun _ => length_unitAt _ _ _) (Nat.mod_lt _ (Nat.zero_lt_of_lt hi)) hj hin, rot_index hi]
  exact laneAt_unitAt _ _ _ hj

theorem laneAt_fitLanes (ls : List Lane) (n k : Nat) : laneAt (fitLanes n ls) k = if k < n then laneAt ls k else 0 := by
  rw [laneAt, fitLanes, upTo, List.getD_eq_getElem?_getD, List.getElem?_map]
  split
  next h => rw [List.getElem?_range h]; rfl
  next h => rw [List.getElem?_eq_none (by simpa using h)]; rfl

/-- The units that COMPACT keeps. -/
def keptUnits (x : ShArgs) : List Nat :=
  (List.range (unitCount x)).filter fun k => x.incl.getD (k * unitLanes x) true && (laneAt x.b (k * unitLanes x)).getLsbD 0

theorem fnCompact_eq (x : ShArgs) : fnCompact x = ⟨fitLanes x.n ((keptUnits x).flatMap (unitAt x x.a)), []⟩ := by
  have hb (l : Lane) : bit l.toNat 0 = l.getLsbD 0 := by rw [bit_eq_testBit]; rfl
  simp only [fnCompact, lowLane_eq, hb]
  rfl

theorem length_keptUnits_mul_le (x : ShArgs) : (keptUnits x).length * unitLanes x ≤ x.n := by
  have h : (keptUnits x).length ≤ unitCount x := by simpa [keptUnits] using List.length_filter_le _ (List.range (unitCount x))
  exact (Nat.mul_le_mul_right _ h).trans (unitCount_mul_le x)

theorem laneAt_fnCompact {i j : Nat} (hi : i < (keptUnits x).length) (hj : j < unitLanes x) :
    laneAt (fnCompact x).lanes (i * unitLanes x + j) = laneAt x.a ((keptUnits x)[i] * unitLanes x + j) := by
  have hlt : i * unitLanes x + j < x.n := by
    have := length_keptUnits_mul_le x
    have := Nat.mul_le_mul_right (unitLanes x) hi
    rw [Nat.succ_mul] at this
    omega
  rw [fnCompact_eq, laneAt_fitLanes, if_pos hlt, laneAt_flatMap (fun _ => length_unitAt _ _ _) hi hj]
  exact laneAt_unitAt _ _ _ hj

theorem laneAt_fnCompact_past (h : (keptUnits x).length * unitLanes x ≤ k) : laneAt (fnCompact x).lanes k = 0 := by
  rw [fnCompact_eq, laneAt_fitLanes]
  split
  · refine List.getD_eq_default _ _ ?_
    rw [List.length_flatMap]
    simpa [Function.comp_def] using h
  · rfl

/-- Settles O9: the compares by the predicates they write, SCAN by its sums, the moves by where each unit goes. -/
theorem integerComparesAndLaneMoves : Obligations.IntegerComparesAndLaneMoves := by
  refine ⟨fun x h hn => ?_, fun x => ?_⟩
  · exact ⟨tells_fnCeq h, tells_fnCne h, tells_fnClt h, tells_fnCle h, tells_fnCgt h, tells_fnCge h, tells_fnTest x, scan_spec h hn⟩
  · intro u m in_
    have hm : m = unitCount x := (unitCount_eq x).symm
    rw [hm]
    refine ⟨fun k hk j hj hi => laneAt_fnShuf hk hj hi, fun i hi j hj hin => laneAt_fnRot hi hj hin, ?_⟩
    refine ⟨?_, fun i hi j hj => laneAt_fnCompact hi hj, fun k hk => laneAt_fnCompact_past hk⟩
    rw [fnCompact_eq]
    simp [fitLanes, upTo]

end Sys2Proof.Moves
end

section
/-! SUPPORT. Sums that do not depend on order (R45, R62 to R64): FADD and FMUL with their operands exchanged, registers of exact
sums, and what a register reads. -/

namespace Sys2Proof.Sums

open Machine Elements

variable {f : Fmt} {a b : Val}

/-! FADD and FMUL. -/

theorem snanFlag_comm (a b : Val) : snanFlag [a, b] = snanFlag [b, a] := by
  simp only [snanFlag, List.any_cons, List.any_nil, Bool.or_false]
  rw [Bool.or_comm]

/-- The exact sum is symmetric but for the exponent of a zero, which rounding does not read. -/
theorem roundDyadic_dyAdd_comm (f : Fmt) (a b : Machine.Dyadic) (rnd : Rnd) (sat : Bool) (r : Nat) :
    roundDyadic f (dyAdd a b).n (dyAdd a b).e rnd sat r = roundDyadic f (dyAdd b a).n (dyAdd b a).e rnd sat r := by
  have hz (x : Machine.Dyadic) (h : x.n = 0) : roundDyadic f x.n x.e rnd sat r = zeroOut f (rnd == .rdn) := by
    rw [roundDyadic, if_pos (by rw [h]; rfl)]
  by_cases ha : a.n = 0
  · by_cases hb : b.n = 0
    · have h1 : dyAdd a b = b := by rw [dyAdd, if_pos (by rw [ha]; rfl)]
      have h2 : dyAdd b a = a := by rw [dyAdd, if_pos (by rw [hb]; rfl)]
      rw [h1, h2, hz a ha, hz b hb]
    · have h1 : dyAdd a b = b := by rw [dyAdd, if_pos (by rw [ha]; rfl)]
      have h2 : dyAdd b a = b := by rw [dyAdd, if_neg (by simpa using hb), if_pos (by rw [ha]; rfl)]
      rw [h1, h2]
  · by_cases hb : b.n = 0
    · have h1 : dyAdd a b = a := by rw [dyAdd, if_neg (by simpa using ha), if_pos (by rw [hb]; rfl)]
      have h2 : dyAdd b a = a := by rw [dyAdd, if_pos (by rw [hb]; rfl)]
      rw [h1, h2]
    · have h : dyAdd a b = dyAdd b a := by
        simp only [dyAdd, beq_iff_eq, ha, hb, if_false]
        rcases lt_trichotomy a.e b.e with h | h | h
        · rw [if_pos h.le, if_neg (not_le.2 h), add_comm]
        · rw [if_pos h.le, if_pos h.ge, h, Int.sub_self, Int.toNat_zero]
          simp [shlInt, add_comm]
        · rw [if_neg (not_le.2 h), if_pos h.le, add_comm]
      rw [h]

theorem addRound_comm (f : Fmt) (a b : Val) (rnd : Rnd) (r : Nat) : addRound f a b rnd r = addRound f b a rnd r := by
  cases a with
  | nan s => cases b <;> rfl
  | inf s =>
    cases b with
    | inf u =>
      cases s <;> cases u <;> rfl
    | nan _ | zero _ | fin _ _ _ => rfl
  | zero s =>
    cases b with
    | zero u =>
      cases s <;> cases u <;> rfl
    | nan _ | inf _ => rfl
    | fin u m e => exact roundDyadic_dyAdd_comm _ _ _ _ _ _
  | fin s m e =>
    cases b with
    | nan _ | inf _ => rfl
    | zero _ | fin _ _ _ => exact roundDyadic_dyAdd_comm _ _ _ _ _ _

theorem fAdd_comm (f : Fmt) (a b : Val) (rnd : Rnd) (r : Nat) : fAdd f a b rnd r = fAdd f b a rnd r := by
  rw [fAdd, fAdd, addRound_comm, snanFlag_comm]

theorem mulVal_comm (a b : Val) : mulVal a b = mulVal b a := by
  have hx (s u : Bool) : (s != u) = (u != s) := bne_comm
  cases a <;> cases b <;> simp [mulVal, isNaN, isInf, isZero, signOf, hx, Nat.mul_comm, Int.add_comm]

theorem zeroTimesInf_comm (a b : Val) : zeroTimesInf a b = zeroTimesInf b a := by
  rw [zeroTimesInf, zeroTimesInf, Bool.or_comm, Bool.and_comm, Bool.and_comm (isInf a)]

theorem fMul_comm (f : Fmt) (a b : Val) (rnd : Rnd) (r : Nat) : fMul f a b rnd r = fMul f b a rnd r := by
  rw [fMul, fMul, mulVal_comm, snanFlag_comm, zeroTimesInf_comm]

/-! Registers of exact sums. -/

theorem xaccAdd_comm (a b : Xacc) : xaccAdd a b = xaccAdd b a := by
  rw [xaccAdd, xaccAdd, BitVec.add_comm, Bool.or_comm, Bool.or_comm a.pinf, Bool.or_comm a.ninf]

theorem xaccAdd_assoc (a b c : Xacc) : xaccAdd (xaccAdd a b) c = xaccAdd a (xaccAdd b c) := by
  simp only [xaccAdd, BitVec.add_assoc, Bool.or_assoc]

theorem xaccAdd_zero (a : Xacc) : xaccAdd a xaccZero = a := by simp [xaccAdd, xaccZero]

theorem addToXacc_eq (t : Tile) (k : Nat) (x : Xacc) : addToXacc t k x = xaccAdd (xaccOf t k) x := rfl

theorem xaccOf_setXacc {t : Tile} {k : Nat} (h : k < t.xacc.length) (x : Xacc) : xaccOf (setXacc t k x) k = x := by
  simp [xaccOf, setXacc, List.getD_eq_getElem?_getD, h]

/-- The terms of a list of elements added to an empty register. -/
theorem xaccTerms_fst (t : Ty) (ls : List Lane) :
    (xaccTerms t ls [] false fun _ => true).1 =
      (elems t ls).foldl (fun acc x => xaccAdd acc (xaccTerm (decodeVal (fmtOrF32 t) x)).1) xaccZero := by
  have hm (xs : List Nat) : xs.map (fun x => xaccTerm (decodeVal (fmtOrF32 t) x)) =
      (upTo xs.length).map fun e => xaccTerm (decodeVal (fmtOrF32 t) (xs.getD e 0)) := by
    refine List.ext_getElem (by simp [upTo]) fun n h _ => ?_
    rw [List.length_map] at h
    simp [upTo, List.getD_eq_getElem?_getD, h]
  simp only [xaccTerms, Bool.false_eq_true, if_false, List.filter_true, ← hm, List.foldl_map]

theorem elems_perm_reverse {t : Ty} (h : wide t = false) (ls : List Lane) : (elems t ls.reverse).Perm (elems t ls) := by
  simp only [elems, h, Bool.false_eq_true, if_false]
  exact (List.reverse_perm ls).flatMap_right _

theorem xaccTerms_reverse {t : Ty} (h : wide t = false) (ls : List Lane) :
    (xaccTerms t ls [] false fun _ => true).1 = (xaccTerms t ls.reverse [] false fun _ => true).1 := by
  rw [xaccTerms_fst, xaccTerms_fst]
  refine ((elems_perm_reverse h ls).foldl_eq' (fun x _ y _ acc => ?_) _).symm
  rw [xaccAdd_assoc, xaccAdd_assoc, xaccAdd_comm (xaccTerm _).1]

theorem infOut_of_ieee (h : f.ieee = true) (s : Bool) : infOut f s = (fmtInf f + b2n s * fmtSign f, 0) := if_pos h

theorem xaccRead_eq {t : Ty} (h : (fmtOrF32 t).ieee = true) (x : Xacc) (rnd : Rnd) (r : Nat) :
    xaccRead x t rnd r =
      if x.nan then (fmtNaN (fmtOrF32 t), 0)
      else if x.pinf ∧ x.ninf then (fmtNaN (fmtOrF32 t), flNV)
      else if x.pinf then (fmtInf (fmtOrF32 t), 0)
      else if x.ninf then (fmtSign (fmtOrF32 t) + fmtInf (fmtOrF32 t), 0)
      else if x.v = 0 then (0, 0)
      else roundDyadic (fmtOrF32 t) x.v.toInt (-2176) rnd false r := by
  have hpos : infOut (fmtOrF32 t) false = (fmtInf (fmtOrF32 t), 0) := by rw [infOut_of_ieee h]; simp [b2n]
  have hneg : infOut (fmtOrF32 t) true = (fmtSign (fmtOrF32 t) + fmtInf (fmtOrF32 t), 0) := by
    rw [infOut_of_ieee h]; simp [b2n, Nat.add_comm]
  have hzero : zeroOut (fmtOrF32 t) false = (0, 0) := by simp [zeroOut, b2n]
  simp only [xaccRead, hpos, hneg, hzero, nanOut, Bool.and_eq_true, beq_iff_eq]

/-- Settles O11: the sums are symmetric, the register is a commutative monoid, and a read takes its cases in turn. -/
theorem additionsCommuteAndExactSumsRead : Obligations.AdditionsCommuteAndExactSumsRead := by
  refine ⟨fun f a b rnd r => ⟨fAdd_comm f a b rnd r, fMul_comm f a b rnd r⟩,
    ⟨fun a b c => ⟨xaccAdd_comm a b, xaccAdd_assoc a b c, xaccAdd_zero a⟩, fun t k x y hk => ?_, fun ls t ht => ?_⟩,
    fun x rnd r t ht => ?_⟩
  · rw [addToXacc_eq, addToXacc_eq, addToXacc_eq, addToXacc_eq, xaccOf_setXacc hk, xaccOf_setXacc hk, xaccAdd_assoc,
      xaccAdd_comm x, ← xaccAdd_assoc]
  · exact xaccTerms_reverse (by fin_cases ht <;> rfl) ls
  · exact xaccRead_eq (by fin_cases ht <;> rfl) x rnd r

end Sys2Proof.Sums
end

section
/-! SUPPORT. What a completion leaves in its launch and in its frame (R30, R36, R58): the tokens sent one by one, the flags, TOKENS. -/

namespace Sys2Proof.Completion

open Machine Safety Laws

variable {s : State} {l : Launch} {fr : Frame} {slot fh : Nat}

@[simp] theorem modDesk_slot (l : Launch) (v : Nat) (f : Desk → Desk) : (modDesk l v f).slot = l.slot := by
  unfold modDesk
  split <;> rfl

@[simp] theorem modTile_slot (l : Launch) (v : Nat) (f : Tile → Tile) : (modTile l v f).slot = l.slot := by
  unfold modTile
  split <;> rfl

@[simp] theorem modDesk_flights (l : Launch) (v : Nat) (f : Desk → Desk) : (modDesk l v f).flights = l.flights := by
  unfold modDesk
  split <;> rfl

@[simp] theorem modTile_flights (l : Launch) (v : Nat) (f : Tile → Tile) : (modTile l v f).flights = l.flights := by
  unfold modTile
  split <;> rfl

/-- The task of a frame is not changed by an update that keeps handles, kinds and parents. -/
theorem taskOf_modFrame (s : State) (k : Nat) (f : Frame → Frame)
    (hf : ∀ x, (f x).fh = x.fh ∧ (f x).kind = x.kind ∧ (f x).parent = x.parent) (fh : Nat) :
    taskOf (modFrame s k f) fh = taskOf s fh := by
  have hfind (j : Nat) : (findFrame (modFrame s k f) j).map (fun x => (x.kind, x.parent)) =
      (findFrame s j).map fun x => (x.kind, x.parent) := by
    by_cases h : j = k
    · subst h
      rw [findFrame_modFrame s j f fun x => (hf x).1, Option.map_map]
      refine congrArg (Option.map · _) (funext fun x => ?_)
      simp only [Function.comp_apply, (hf x).2.1, (hf x).2.2]
    · rw [findFrame_modFrame_ne s h f fun x => (hf x).1]
  have hfuel (n : Nat) (j : Nat) : taskFrom (modFrame s k f) n j = taskFrom s n j := by
    induction n generalizing j with
    | zero => rfl
    | succ n ih =>
      have h := hfind j
      simp only [taskFrom]
      cases h1 : findFrame (modFrame s k f) j with
      | none =>
        cases h2 : findFrame s j with
        | none => rfl
        | some y => rw [h1, h2] at h; cases h
      | some x =>
        cases h2 : findFrame s j with
        | none => rw [h1, h2] at h; cases h
        | some y =>
          rw [h1, h2] at h
          simp only [Option.map_some, Option.some.injEq, Prod.mk.injEq] at h
          simp only [h.1, h.2, ih]
  have hlen : (modFrame s k f).frames.length = s.frames.length := by simp [modFrame]
  rw [taskOf, taskOf, hlen, hfuel]

/-- The task of a frame depends on the frame table only. -/
theorem taskOf_congr {s t : State} (h : t.frames = s.frames) (fh : Nat) : taskOf t fh = taskOf s fh := by
  have hfind (j : Nat) : findFrame t j = findFrame s j := by rw [findFrame, findFrame, h]
  have hfuel (n : Nat) (j : Nat) : taskFrom t n j = taskFrom s n j := by
    induction n generalizing j with
    | zero => rfl
    | succ n ih => simp only [taskFrom, hfind, ih]
  rw [taskOf, taskOf, h, hfuel]

/-- A frame of no task with its launch, as both stand in a state. -/
structure Stands (s : State) (slot fh : Nat) (l : Launch) (fr : Frame) : Prop where
  launch : findLaunch s slot = some l
  frame : findFrame s fh = some fr
  taskless : taskOf s fh = none

theorem Stands.of_frames {t : State} (h : Stands s slot fh l fr) (hl : t.launches = s.launches) (hf : t.frames = s.frames) :
    Stands t slot fh l fr :=
  ⟨by rw [findLaunch, hl]; exact h.launch, by rw [findFrame, hf]; exact h.frame, (taskOf_congr hf fh).trans h.taskless⟩

theorem Stands.speculative (h : Stands s slot fh l fr) : speculative s fh = false := by
  rw [Machine.speculative, h.taskless]

theorem Stands.modFrame (h : Stands s slot fh l fr) (f : Frame → Frame)
    (hf : ∀ x, (f x).fh = x.fh ∧ (f x).kind = x.kind ∧ (f x).parent = x.parent) : Stands (modFrame s fh f) slot fh l (f fr) :=
  ⟨h.launch, by rw [findFrame_modFrame s fh f fun x => (hf x).1, h.frame, Option.map_some],
    (taskOf_modFrame s fh f hf fh).trans h.taskless⟩

theorem Stands.modLaunch (h : Stands s slot fh l fr) (f : Launch → Launch) (hf : ∀ l, (f l).slot = l.slot) :
    Stands (modLaunch s slot f) slot fh (f l) fr :=
  ⟨by rw [findLaunch_modLaunch s slot f hf, h.launch, Option.map_some], h.frame, (taskOf_congr (s := s) (t := Machine.modLaunch s slot f) rfl fh).trans h.taskless⟩

/-- A token sent is under way, its arrival on the agenda, and its frame's TOKENS one higher. -/
theorem Stands.emitToken (h : Stands s slot fh l fr) {t : Token} (ht : t.fh = fh) (hd : (t.dest == 0x7FFFF) = false) :
    Stands (emitToken s slot t) slot fh
        { l with flights := l.flights ++ [(s.nextId, makeToken t.dest t.fh t.tag t.fill t.dl t.lp false t.lanes t.src t.hb)] }
        { fr with tokens := fr.tokens + 1 } ∧
      (Machine.emitToken s slot t).agenda.length = s.agenda.length + 1 := by
  subst ht
  rw [Machine.emitToken, hd, h.speculative, if_neg Bool.false_ne_true]
  refine ⟨?_, by simp [sendToken, push]⟩
  have h1 := h.modFrame (fun f => { f with tokens := f.tokens + 1 }) fun _ => ⟨rfl, rfl, rfl⟩
  have h2 := h1.of_frames (t := { Machine.modFrame s t.fh fun f => { f with tokens := f.tokens + 1 } with nextId := s.nextId + 1 })
    rfl rfl
  have h3 := h2.modLaunch (fun l => { l with
    flights := l.flights ++ [(s.nextId, makeToken t.dest t.fh t.tag t.fill t.dl t.lp false t.lanes t.src t.hb)] }) fun _ => rfl
  exact h3.of_frames rfl rfl

theorem Stands.emitTokens (h : Stands s slot fh l fr) {ts : List Token} (hts : ∀ t ∈ ts, t.fh = fh) :
    (∃ l', Stands (emitTokens s slot ts) slot fh l'
        { fr with tokens := fr.tokens + (ts.filter fun t => t.dest != 0x7FFFF).length } ∧
      l'.flights.map (·.2) = l.flights.map (·.2) ++ (ts.filter fun t => t.dest != 0x7FFFF).map fun t =>
        makeToken t.dest t.fh t.tag t.fill t.dl t.lp false t.lanes t.src t.hb) ∧
      (Machine.emitTokens s slot ts).agenda.length = s.agenda.length + (ts.filter fun t => t.dest != 0x7FFFF).length := by
  induction ts generalizing s l fr with
  | nil => exact ⟨⟨l, h, (List.append_nil _).symm⟩, rfl⟩
  | cons t ts ih =>
    have hts' : ∀ t ∈ ts, t.fh = fh := fun u hu => hts u (List.mem_cons_of_mem t hu)
    cases hd : t.dest == 0x7FFFF with
    | true =>
      have he : Machine.emitTokens s slot (t :: ts) = Machine.emitTokens s slot ts :=
        congrArg (ts.foldl fun s t => Machine.emitToken s slot t) (if_pos hd)
      have hf : (t :: ts).filter (fun t => t.dest != 0x7FFFF) = ts.filter fun t => t.dest != 0x7FFFF :=
        List.filter_cons_of_neg (by rw [bne, hd]; decide)
      rw [he, hf]
      exact ih h hts'
    | false =>
      obtain ⟨h1, ha⟩ := h.emitToken (hts t List.mem_cons_self) hd
      have he : Machine.emitTokens s slot (t :: ts) = Machine.emitTokens (Machine.emitToken s slot t) slot ts := rfl
      have hf : (t :: ts).filter (fun t => t.dest != 0x7FFFF) = t :: ts.filter fun t => t.dest != 0x7FFFF :=
        List.filter_cons_of_pos (by rw [bne, hd]; rfl)
      obtain ⟨⟨l', hs, hl'⟩, hag⟩ := ih h1 hts'
      rw [he, hf]
      refine ⟨⟨l', ?_, ?_⟩, ?_⟩
      · rw [List.length_cons, Nat.add_comm _ 1, ← Nat.add_assoc]
        exact hs
      · rw [hl']
        simp
      · rw [hag, ha, List.length_cons]
        omega

/-- The tokens of a completion's emissions, before their parity. -/
def tokensOf (c : Ctx) (es : List Emission) : List Token :=
  es.map fun e =>
    { dest := portDest c e.port, fh := e.fh, tag := BitVec.ofNat 64 e.tag, fill := e.fill, dl := e.dl, lp := e.lp,
      sp := false, lanes := e.lanes, lpar := 0, hp := 0, src := fNode c.f, hb := e.hb }

/-- The order counter of an ORD node moved on by a firing that is no last post. -/
def ordAdvanced (s : State) (c : Ctx) : State :=
  if c.r.ord && !c.f.a.lp then modLaunch s c.f.slot fun l => modDesk l c.f.vdesk fun d => ordAdvance d c.f.node c.f.a.fh else s

theorem complete_eq (s : State) (c : Ctx) (es : List Emission) (fl : Flags) :
    complete s c es fl = consume (ordAdvanced (emitTokens (modFrame s c.f.a.fh fun f => { f with flags := f.flags ||| fl })
      c.f.slot (tokensOf c es)) c) c.f.a.fh (operandCount c.f) := rfl

theorem tokensOf_fh {c : Ctx} {es : List Emission} (h : ∀ e ∈ es, e.fh = fh) : ∀ t ∈ tokensOf c es, t.fh = fh := by
  intro t ht
  obtain ⟨e, he, rfl⟩ := List.mem_map.1 ht
  exact h e he

theorem filter_tokensOf (c : Ctx) (es : List Emission) :
    (tokensOf c es).filter (fun t => t.dest != 0x7FFFF) = tokensOf c (es.filter fun e => portDest c e.port != 0x7FFFF) := by
  rw [tokensOf, List.filter_map]
  rfl

theorem Stands.rateAdvance (h : Stands s slot fh l fr) {c : Ctx} (hs : c.f.slot = slot) (es : List Emission) (n : Nat) :
    ∃ l', Stands (rateAdvance s c es n) slot fh l' fr ∧ l'.flights = l.flights := by
  subst hs
  exact ⟨_, h.modLaunch _ fun _ => modTile_slot _ _ _, modTile_flights _ _ _⟩

theorem Stands.ordAdvanced (h : Stands s slot fh l fr) {c : Ctx} (hs : c.f.slot = slot) :
    ∃ l', Stands (ordAdvanced s c) slot fh l' fr ∧ l'.flights = l.flights := by
  subst hs
  unfold Completion.ordAdvanced
  split
  · exact ⟨_, h.modLaunch _ fun _ => modDesk_slot _ _ _, modDesk_flights _ _ _⟩
  · exact ⟨l, h, rfl⟩

@[simp] theorem ordAdvanced_agenda (s : State) (c : Ctx) : (ordAdvanced s c).agenda = s.agenda := by
  unfold ordAdvanced
  split <;> rfl

/-- Operands consumed in a frame of no task. -/
theorem consume_of_taskless (s : State) (fh n : Nat) (h : taskOf s fh = none) :
    consume s fh n = modFrame s fh fun f => { f with tokens := f.tokens - n } := by
  rw [consume, h]

/-- Settles O15: the rates are counted, the flags merged, the tokens sent, the operands consumed. -/
theorem completionMergesSendsAndConsumes : Obligations.CompletionMergesSendsAndConsumes := by
  intro s c es fl l fr hl hfr htask hes sent t
  have h0 : Stands s c.f.slot c.f.a.fh l fr := ⟨hl, hfr, htask⟩
  obtain ⟨l1, h1, hl1⟩ := h0.rateAdvance rfl es 0
  have h2 := h1.modFrame (fun f => { f with flags := f.flags ||| fl }) fun _ => ⟨rfl, rfl, rfl⟩
  obtain ⟨⟨l3, h3, hl3⟩, ha⟩ := h2.emitTokens (tokensOf_fh hes)
  rw [filter_tokensOf] at h3 hl3 ha
  obtain ⟨l4, h4, hl4⟩ := h3.ordAdvanced rfl
  have h5 := h4.modFrame (fun f => { f with tokens := f.tokens - operandCount c.f }) fun _ => ⟨rfl, rfl, rfl⟩
  have ht : t = _ := (complete_eq _ _ _ _).trans (consume_of_taskless _ _ _ h4.taskless)
  have hn : (tokensOf c sent).length = sent.length := List.length_map _
  rw [ht]
  refine ⟨?_, ⟨l4, h5.launch, ?_⟩, ?_, ?_⟩
  · rw [h5.frame, hn]
  · rw [hl4, hl3, hl1, tokensOf, List.map_map]
    rfl
  · rw [← hn]
    exact (congrArg List.length (ordAdvanced_agenda _ c)).trans ha
  · rw [← ht]
    exact (outside_complete _ _ _ _).trans (outside_rateAdvance _ _ _ _)

end Sys2Proof.Completion
end

section
/-! SUPPORT. Numbers in memories (R66), and the units that a tile form reads and writes (R204, R205, R213). -/

namespace Sys2Proof.Memories

open Machine Laws

variable {m : Memory} {a b n : Nat}

theorem leNat_leBytes_mod (n x : Nat) : leNat (leBytes n x) = x % 2 ^ (8 * n) := by
  have h256 : 2 ^ (8 * n) = 256 ^ n := by rw [Nat.pow_mul]
  rw [h256]
  clear h256
  induction n generalizing x with
  | zero => simp [leBytes, leNat, Nat.mod_one]
  | succ n ih =>
    rw [leBytes, leNat, ih, Nat.pow_succ', Nat.mod_mul, BitVec.toNat_ofNat]

theorem readBytes_congr {m' : Memory} (h : ∀ i < n, readByte m' (a + i) = readByte m (a + i)) : readBytes m' a n = readBytes m a n :=
  List.map_congr_left fun i hi => h i (List.mem_range.1 hi)

theorem readNat_congr {m' : Memory} (h : ∀ i < n, readByte m' (a + i) = readByte m (a + i)) : readNat m' a n = readNat m a n := by
  rw [readNat, readNat, readBytes_congr h]

@[simp] theorem length_leBytes (n x : Nat) : (leBytes n x).length = n := by
  induction n generalizing x with
  | zero => rfl
  | succ n ih => simp [leBytes, ih]

theorem readBytes_writeBytes (m : Memory) (a : Nat) (bs : List Byte) : readBytes (writeBytes m a bs) a bs.length = bs := by
  refine List.ext_getElem (by simp [readBytes, upTo]) fun i h1 h2 => ?_
  simp only [readBytes, upTo, List.getElem_map, List.getElem_range]
  exact readByte_writeBytes_in a bs i h2

/-- A number read where it was written. -/
theorem readNat_writeBytes (m : Memory) (a n x : Nat) : readNat (writeBytes m a (leBytes n x)) a n = x % 2 ^ (8 * n) := by
  have h := readBytes_writeBytes m a (leBytes n x)
  rw [length_leBytes] at h
  rw [readNat, h, leNat_leBytes_mod]

/-- A number read beside what was written. -/
theorem readNat_writeBytes_out (bs : List Byte) (h : b + n ≤ a ∨ a + bs.length ≤ b) :
    readNat (writeBytes m a bs) b n = readNat m b n :=
  readNat_congr fun i hi => readByte_writeBytes_out bs (by omega)

/-! Units of a tile form. -/

variable {ty : Ty} {q : Req} {t : Tile}

/-- What one unit at offset `o` leaves of its tile. -/
def unitDone (ty : Ty) (q : Req) (t : Tile) (u o : Nat) : Tile :=
  match reqNew ty q u (readNat t.sram o q.unit) with
  | some v => writeSram t o (leBytes q.unit v)
  | none => t

theorem tileUnits_cons (ty : Ty) (q : Req) (t : Tile) (u o : Nat) (os : List Nat) :
    tileUnits ty q t u (o :: os) = ((tileUnits ty q (unitDone ty q t u o) (u + 1) os).1,
      readNat t.sram o q.unit :: (tileUnits ty q (unitDone ty q t u o) (u + 1) os).2) := rfl

/-- One unit changes bytes of its own only. -/
theorem readByte_unitDone (u : Nat) {o a : Nat} (h : a < o ∨ o + q.unit ≤ a) :
    readByte (unitDone ty q t u o).sram a = readByte t.sram a := by
  unfold unitDone
  split
  · exact readByte_writeBytes_out _ (by rwa [length_leBytes])
  · rfl

theorem readNat_unitDone (u : Nat) {o a : Nat} (h : a + q.unit ≤ o ∨ o + q.unit ≤ a) :
    readNat (unitDone ty q t u o).sram a q.unit = readNat t.sram a q.unit :=
  readNat_congr fun i hi => readByte_unitDone u (by omega)

theorem unitDone_rest (ty : Ty) (q : Req) (t t0 : Tile) (u o : Nat) :
    { unitDone ty q t u o with sram := t0.sram, bad := t0.bad } = { t with sram := t0.sram, bad := t0.bad } := by
  unfold unitDone
  split <;> rfl

theorem tileUnits_read (h : q.op = .read) (u : Nat) (os : List Nat) :
    tileUnits ty q t u os = (t, os.map fun o => readNat t.sram o q.unit) := by
  induction os generalizing u with
  | nil => rfl
  | cons o os ih =>
    have hd : unitDone ty q t u o = t := by simp [unitDone, reqNew, h]
    rw [tileUnits_cons, hd, ih]
    rfl

theorem readByte_tileUnits {a : Nat} (u : Nat) {os : List Nat} (h : ∀ o ∈ os, a < o ∨ o + q.unit ≤ a) :
    readByte (tileUnits ty q t u os).1.sram a = readByte t.sram a := by
  induction os generalizing t u with
  | nil => rfl
  | cons o os ih =>
    rw [tileUnits_cons]
    exact (ih _ fun p hp => h p (List.mem_cons_of_mem o hp)).trans (readByte_unitDone u (h o List.mem_cons_self))

theorem tileUnits_rest (t0 : Tile) (u : Nat) (os : List Nat) :
    { (tileUnits ty q t u os).1 with sram := t0.sram, bad := t0.bad } = { t with sram := t0.sram, bad := t0.bad } := by
  induction os generalizing t u with
  | nil => rfl
  | cons o os ih =>
    rw [tileUnits_cons]
    exact (ih _).trans (unitDone_rest ty q t t0 u o)

/-- Units that share no byte. -/
def Apart (n : Nat) (os : List Nat) : Prop := os.Pairwise fun a b => a + n ≤ b ∨ b + n ≤ a

/-- Units apart are exchanged each with the value that stood there before. -/
theorem tileUnits_snd (u : Nat) {os : List Nat} (h : Apart q.unit os) :
    (tileUnits ty q t u os).2 = os.map fun o => readNat t.sram o q.unit := by
  induction os generalizing t u with
  | nil => rfl
  | cons o os ih =>
    obtain ⟨ho, hos⟩ := List.pairwise_cons.1 h
    rw [tileUnits_cons, ih _ hos, List.map_cons]
    exact congrArg _ (List.map_congr_left fun p hp => readNat_unitDone u (ho p hp).symm)

/-- A store leaves the operand's value at each of its units. -/
theorem readNat_tileUnits_write (hw : q.op = .write) (u : Nat) {os : List Nat} (h : Apart q.unit os) (k : Nat) (hk : k < os.length) :
    readNat (tileUnits ty q t u os).1.sram os[k] q.unit = unitVal ty q.data (u + k) % 2 ^ (8 * q.unit) := by
  induction os generalizing t u k with
  | nil => exact absurd hk (Nat.not_lt_zero k)
  | cons o os ih =>
    obtain ⟨ho, hos⟩ := List.pairwise_cons.1 h
    rw [tileUnits_cons]
    cases k with
    | zero =>
      have hd : unitDone ty q t u o = writeSram t o (leBytes q.unit (unitVal ty q.data u)) := by simp [unitDone, reqNew, hw]
      have hkeep : readNat (tileUnits ty q (unitDone ty q t u o) (u + 1) os).1.sram o q.unit =
          readNat (unitDone ty q t u o).sram o q.unit :=
        readNat_congr fun i hi => readByte_tileUnits _ fun p hp => by have := ho p hp; omega
      refine hkeep.trans ?_
      rw [hd]
      exact readNat_writeBytes _ _ _ _
    | succ k =>
      have hu : u + (k + 1) = u + 1 + k := by omega
      rw [hu]
      exact ih (u + 1) hos k (Nat.lt_of_succ_lt_succ hk)

/-- Settles O29: a unit after the other, each on bytes of its own. -/
theorem tileUnitsReadAndWrite : Obligations.TileUnitsReadAndWrite := by
  intro ty q t r
  refine ⟨fun h => tileUnits_read h 0 _, fun hw h u hu => ?_, tileUnits_snd 0, fun a => readByte_tileUnits 0, tileUnits_rest t 0 _⟩
  have hv := readNat_tileUnits_write (ty := ty) (t := t) hw 0 h u hu
  rwa [Nat.zero_add] at hv

end Sys2Proof.Memories
end

section
/-! SUPPORT. What a firing leaves in the SRAM of its launch's tiles: everything that a node does around its own operation keeps it. -/

namespace Sys2Proof.Sram

open Machine Safety Laws Completion Memories Programs

/-- The SRAM of each tile of each launch. -/
def srams (s : State) (k : Nat) : Option (Nat → Memory) := (findLaunch s k).map fun l v => (tileOf l v).sram

/-- An update of a launch that keeps its slot and the SRAM of its tiles. -/
def KeepsSram (f : Launch → Launch) : Prop := ∀ l, (f l).slot = l.slot ∧ ∀ v, (tileOf (f l) v).sram = (tileOf l v).sram

theorem srams_congr {s t : State} (h : t.launches = s.launches) : srams t = srams s := by
  funext k
  rw [srams, srams, findLaunch, findLaunch, h]

@[simp] theorem srams_update (s : State) (fr : List Frame) (sp : List SpawnRec) (ag : List Pend) (n : Nat) :
    srams { s with frames := fr, spawns := sp, agenda := ag, nextId := n } = srams s := srams_congr rfl

@[simp] theorem srams_modFrame (s : State) (fh : Nat) (f : Frame → Frame) : srams (modFrame s fh f) = srams s := srams_congr rfl

@[simp] theorem srams_push (s : State) (c : Chan) (i : Instr) : srams (push s c i) = srams s := srams_congr rfl

@[simp] theorem srams_pushAlone (s : State) (i : Instr) : srams (pushAlone s i) = srams s := srams_congr rfl

@[simp] theorem srams_newGroup (s : State) : srams (newGroup s).1 = srams s := srams_congr rfl

theorem srams_modLaunch {f : Launch → Launch} (hf : KeepsSram f) (s : State) (k : Nat) : srams (modLaunch s k f) = srams s := by
  funext j
  unfold srams
  by_cases h : j = k
  · subst h
    rw [findLaunch_modLaunch s j f fun l => (hf l).1, Option.map_map]
    exact congrArg (Option.map · _) (funext fun l => funext fun v => (hf l).2 v)
  · rw [findLaunch_modLaunch_ne s h f fun l => (hf l).1]

theorem srams_accounts {s : State} {k : Nat} {f : Launch → Launch} (hf : KeepsSram f) : srams (modLaunch s k f) = srams s :=
  srams_modLaunch hf s k

theorem srams_setLaunch {s : State} {l m : Launch} (h : findLaunch s l.slot = some m)
    (hv : ∀ v, (tileOf l v).sram = (tileOf m v).sram) : srams (setLaunch s l) = srams s := by
  funext j
  unfold srams
  by_cases hj : j = l.slot
  · subst hj
    rw [findLaunch_setLaunch h, h]
    exact congrArg some (funext hv)
  · rw [findLaunch_setLaunch_ne hj]

@[simp] theorem tileOf_modDesk (l : Launch) (v : Nat) (f : Desk → Desk) (u : Nat) : tileOf (modDesk l v f) u = tileOf l u := by
  unfold modDesk
  split <;> rfl

theorem keepsSram_modDesk (v : Nat) (f : Desk → Desk) : KeepsSram fun l => modDesk l v f := fun l =>
  ⟨modDesk_slot l v f, fun u => by rw [tileOf_modDesk]⟩

theorem sram_modTile {f : Tile → Tile} (hf : ∀ t, (f t).vtile = t.vtile ∧ (f t).sram = t.sram) (l : Launch) (v u : Nat) :
    (tileOf (modTile l v f) u).sram = (tileOf l u).sram := by
  by_cases h : u = v
  · subst h
    rw [tileOf_modTile l u f fun t => (hf t).1, (hf _).2]
  · rw [tileOf_modTile_ne l h f fun t => (hf t).1]

theorem keepsSram_modTile (v : Launch → Nat) {f : Launch → Tile → Tile}
    (hf : ∀ l t, (f l t).vtile = t.vtile ∧ (f l t).sram = t.sram) : KeepsSram fun l => modTile l (v l) (f l) := fun l =>
  ⟨modTile_slot l _ _, sram_modTile (hf l) l _⟩

theorem srams_foldl {α : Type} {f : State → α → State} (h : ∀ s a, srams (f s a) = srams s) (xs : List α) (s : State) :
    srams (xs.foldl f s) = srams s := by
  induction xs generalizing s with
  | nil => rfl
  | cons a xs ih => rw [List.foldl_cons, ih, h]

/-! Tokens, records and traps. -/

@[simp] theorem srams_emitToken (s : State) (slot : Nat) (t : Token) : srams (emitToken s slot t) = srams s := by
  unfold emitToken sendToken
  split
  · rfl
  · rw [srams_push, srams_modLaunch]
    · exact srams_congr rfl
    · exact fun l => ⟨rfl, fun _ => rfl⟩

@[simp] theorem srams_emitTokens (s : State) (slot : Nat) (ts : List Token) : srams (emitTokens s slot ts) = srams s :=
  srams_foldl (fun s t => srams_emitToken s slot t) ts s

@[simp] theorem srams_endFault (s : State) (slot code detail : Nat) (r : Option FaultRec) :
    srams (endFault s slot code detail r) = srams s := by
  unfold endFault
  split
  · rfl
  next l h =>
    split
    · rfl
    · have hl : l.slot = slot := by simpa using List.find?_some h
      subst hl
      rw [srams_pushAlone]
      exact srams_setLaunch h fun _ => rfl

@[simp] theorem srams_postRecord (s : State) (slot : Nat) (r : FaultRec) : srams (postRecord s slot r) = srams s := by
  unfold postRecord
  split
  · rfl
  next l h =>
    have hl : l.slot = slot := by simpa using List.find?_some h
    subst hl
    split
    · exact srams_endFault _ _ _ _ _
    · have hs := srams_setLaunch (l := { l with
        tickets := l.tickets + 1, faulted := true, faults := l.faults ++ [{ r with ticket := l.tickets }] }) h fun _ => rfl
      dsimp only
      split
      · split
        · rw [srams_endFault, hs]
        · rw [srams_emitTokens, hs]
      · rw [srams_emitTokens, hs]

@[simp] theorem srams_postEnd (s : State) (slot : Nat) (cs : List FaultRec) (r : FaultRec) : srams (postEnd s slot cs r) = srams s := by
  have hf := srams_foldl (fun s c => srams_postRecord s slot c) cs s
  unfold postEnd
  dsimp only
  split
  · exact hf
  · rw [srams_endFault, srams_postRecord, hf]

@[simp] theorem srams_parkFault (s : State) (slot fh code : Nat) : srams (parkFault s slot fh code) = srams s := by
  unfold parkFault parkNotices
  split
  · exact srams_modFrame _ _ _
  · rw [srams_foldl (fun s v => srams_push _ _ _), srams_modFrame]

@[simp] theorem srams_deferFault (s : State) (slot task : Nat) (rs : List FaultRec) (r : FaultRec) :
    srams (deferFault s slot task rs r) = srams s := by
  unfold deferFault
  dsimp only
  rw [srams_parkFault, srams_modFrame, srams_modLaunch]
  intro l
  split
  · exact ⟨rfl, fun _ => rfl⟩
  · refine ⟨modTile_slot _ _ _, fun v => (sram_modTile ?_ _ _ v).trans rfl⟩
    exact fun _ => ⟨rfl, rfl⟩

@[simp] theorem srams_takeTrap (s : State) (slot : Nat) (cs : List FaultRec) (r : FaultRec) : srams (takeTrap s slot cs r) = srams s := by
  have hf := srams_foldl (fun s c => srams_postRecord s slot c) cs s
  unfold takeTrap
  dsimp only
  split
  · exact srams_deferFault _ _ _ _ _
  · split
    · exact hf
    · split
      · rw [srams_parkFault, srams_modFrame, srams_postRecord, hf]
      · rw [srams_postRecord, hf]

@[simp] theorem srams_trapFiring (s : State) (f : Firing) (t : Trap) : srams (trapFiring s f t) = srams s := srams_takeTrap _ _ _ _

@[simp] theorem srams_raceFiring (s : State) (f : Firing) (p : Access × Access) : srams (raceFiring s f p) = srams s :=
  srams_takeTrap _ _ _ _

@[simp] theorem srams_holdFiring (s : State) (f : Firing) : srams (holdFiring s f) = srams s :=
  srams_modLaunch (keepsSram_modDesk _ _) s _

theorem srams_firingFault {s t : State} {f : Firing} (h : firingFault s f = some t) : srams t = srams s := by
  unfold firingFault headerFault at h
  split at h
  · cases h; exact srams_postEnd _ _ _ _
  · split at h
    · cases h
    · cases h; exact srams_trapFiring _ _ _

/-! Completion. -/

@[simp] theorem srams_settleTask (s : State) (t : Nat) : srams (settleTask s t) = srams s := by
  unfold settleTask
  split
  · rfl
  · split
    · rw [srams_modLaunch, srams_modFrame]
      refine keepsSram_modTile _ ?_
      exact fun _ _ => ⟨rfl, rfl⟩
    · rfl

@[simp] theorem srams_consume (s : State) (fh n : Nat) : srams (consume s fh n) = srams s := by
  unfold consume
  split
  · exact srams_modFrame _ _ _
  · rw [srams_settleTask, srams_modFrame]

@[simp] theorem srams_complete (s : State) (c : Ctx) (es : List Emission) (fl : Flags) : srams (complete s c es fl) = srams s := by
  rw [complete_eq, srams_consume, ordAdvanced]
  split
  · rw [srams_modLaunch (keepsSram_modDesk _ _), srams_emitTokens, srams_modFrame]
  · rw [srams_emitTokens, srams_modFrame]

@[simp] theorem srams_rateAdvance (s : State) (c : Ctx) (es : List Emission) (n : Nat) : srams (rateAdvance s c es n) = srams s := by
  refine srams_modLaunch (keepsSram_modTile _ ?_) s _
  exact fun _ _ => ⟨rfl, rfl⟩

@[simp] theorem srams_counted (s : State) (c : Ctx) (p : Policy) : srams (counted s c p) = srams s := by
  unfold counted
  split
  · exact srams_modLaunch (keepsSram_modDesk _ _) s _
  · rfl

@[simp] theorem srams_started (s : State) (c : Ctx) (p : Policy) : srams (started s c p) = srams s := by
  unfold started
  dsimp only
  split
  · rw [srams_modLaunch, srams_counted]
    intro l
    unfold bindNode
    split
    · exact ⟨rfl, fun _ => rfl⟩
    · refine ⟨modTile_slot _ _ _, sram_modTile ?_ _ _⟩
      exact fun _ => ⟨rfl, rfl⟩
  · exact srams_counted s c p

theorem srams_checked {s t : State} {slot : Nat} {xs : List Access} (h : checkAccesses s slot xs = .ok t) : srams t = srams s := by
  unfold checkAccesses at h
  split at h
  · cases h; rfl
  · dsimp only at h
    split at h
    · cases h
    · cases h; exact srams_accounts fun _ => ⟨rfl, fun _ => rfl⟩

@[simp] theorem srams_acceptReq (s : State) (slot : Nat) (q : Req) : srams (acceptReq s slot q) = srams s := by
  rw [acceptReq, srams_modLaunch]
  · exact srams_congr rfl
  · exact fun l => ⟨rfl, fun _ => rfl⟩

@[simp] theorem srams_markPerformed (s : State) (slot : Nat) (q : Req) (hb : List Nat) : srams (markPerformed s slot q hb) = srams s := by
  unfold markPerformed dropReq setReq
  split
  · exact srams_accounts fun _ => ⟨rfl, fun _ => rfl⟩
  · rw [srams_pushAlone]
    exact srams_accounts fun _ => ⟨rfl, fun _ => rfl⟩

/-! What a node leaves. -/

/-- Every byte of SRAM that `p` names reads as `m` says. -/
def Reads (m : Nat → Memory) (p : Nat → Nat → Prop) (slot : Nat) (t : State) : Prop :=
  ∀ m', srams t slot = some m' → ∀ v a, p v a → readByte (m' v) a = readByte (m v) a

/-- The same of the state in what a node's operation answers. -/
def ReadsRes (m : Nat → Memory) (p : Nat → Nat → Prop) (slot : Nat) : Res → Prop
  | .done t _ _ | .later t => Reads m p slot t
  | .trap _ | .race _ _ | .hold => True

variable {m : Nat → Memory} {p : Nat → Nat → Prop} {slot : Nat} {s t : State}

theorem Reads.of_srams (h : Reads m p slot s) (ht : srams t = srams s) : Reads m p slot t := fun m' hm => h m' (ht ▸ hm)

theorem readsRes_doneWith (h : Reads m p slot t) (es : Except Trap (List Emission)) (fl : Flags) :
    ReadsRes m p slot (doneWith t es fl) := by
  cases es with
  | error _ => trivial
  | ok _ => exact h

theorem reads_settle (h : Reads m p slot s) {res : Res} (hr : ReadsRes m p slot res) (c : Ctx) (n : Nat) (d : Bool) :
    Reads m p slot (settle s c n d res) := by
  unfold settle
  split
  · exact h.of_srams (srams_trapFiring _ _ _)
  · exact h.of_srams (srams_raceFiring _ _ _)
  · exact h.of_srams (srams_holdFiring _ _)
  · exact hr
  · split
    · split
      · exact h.of_srams (srams_trapFiring _ _ _)
      · exact Reads.of_srams (s := _) hr ((srams_complete _ _ _ _).trans (srams_rateAdvance _ _ _ _))
    · exact Reads.of_srams hr (srams_complete _ _ _ _)

theorem reads_settleFrom (h : Reads m p slot s) {res : Res} (hr : ReadsRes m p slot res) (c : Ctx) (q : Policy) (n : Nat) (d : Bool) :
    Reads m p slot (settleFrom s c q n d res) := by
  unfold settleFrom
  split
  · exact h.of_srams (srams_holdFiring _ _)
  all_goals exact reads_settle (h.of_srams (srams_counted _ _ _)) hr _ _ _

/-- A node keeps what its three operations keep. -/
theorem reads_runNode {r : NodeRec} {q : Policy} {msgs : Ctx → Nat} {lp dl body : State → Ctx → Res} {c : Ctx}
    (hi : s.issue = .node c.f) (hc : ctxOf s c.f r = some c) (h : Reads m p slot s)
    (hlp : ∀ s1 c1, srams s1 = srams s → ReadsRes m p slot (lp s1 c1)) (hdl : ∀ s1 c1, srams s1 = srams s → ReadsRes m p slot (dl s1 c1))
    (hb : ReadsRes m p slot (body (started s c q) (startedCtx (started s c q) c))) (hn : runNode s r q msgs lp dl body = .next t) :
    Reads m p slot t := by
  unfold runNode at hn
  rw [hi] at hn
  dsimp only at hn
  rw [hc] at hn
  dsimp only at hn
  split at hn
  · cases hn; exact h.of_srams (srams_consume _ _ _)
  split at hn
  next hf => cases hn; exact h.of_srams (srams_firingFault hf)
  split at hn
  next res ho =>
    cases hn
    refine reads_settle h ?_ _ _ _
    unfold ordRes at ho
    dsimp only at ho
    (repeat' split at ho) <;> cases ho <;> trivial
  split at hn
  · split at hn
    · cases hn; exact h.of_srams ((srams_trapFiring _ _ _).trans (srams_counted _ _ _))
    · cases hn
      refine reads_settleFrom h ?_ _ _ _ _
      split
      · exact hlp _ _ (srams_started _ _ _)
      · exact hdl _ _ (srams_started _ _ _)
  · split at hn
    · cases hn; exact h.of_srams ((srams_trapFiring _ _ _).trans (srams_counted _ _ _))
    · cases hn
      exact reads_settleFrom h hb _ _ _ _

/-! The operations of LDT and STT. -/

theorem tileOf_vtile (l : Launch) (v : Nat) : (tileOf l v).vtile = v := by
  unfold tileOf
  cases h : l.tiles.find? fun t => t.vtile == v with
  | none => rfl
  | some t => simpa using List.find?_some h

/-- A tile put in the place of a launch's tile. -/
theorem tileOf_setTile (l : Launch) {v : Nat} {t1 : Tile} (h : t1.vtile = v) (u : Nat) :
    tileOf (modTile l v fun _ => t1) u = if u = v then t1 else tileOf l u := by
  unfold tileOf modTile
  split
  next hv =>
    split
    next hu =>
      subst hu
      obtain ⟨t, ht⟩ : ∃ t, (l.tiles.find? fun t => t.vtile == u) = some t := by
        rw [← Option.isSome_iff_exists, List.find?_isSome]
        simpa using hv
      simp only [find_map_key Tile.vtile u (fun _ => t1) fun _ _ => h, ht, Option.map_some, Option.getD_some]
    next hu => simp only [find_map_other Tile.vtile hu (fun _ => t1) fun _ _ => h]
  next hv =>
    have hn : (l.tiles.find? fun t => t.vtile == v) = none := by simpa using hv
    split
    next hu => subst hu; simp [List.find?_append, hn, h]
    next hu =>
      have h1 : (t1.vtile == u) = false := by simp; omega
      simp [List.find?_append, h1]

theorem srams_passChain (s : State) (f : Firing) (r : NodeRec) : srams (passChain s f r) = srams s := srams_acceptReq _ _ _

theorem srams_postDlout (s : State) (f : Firing) (lane : Nat) : srams (postDlout s f lane).1 = srams s := srams_postRecord _ _ _

/-- The launch that a started firing works on has the SRAM it had before. -/
theorem startedCtx_sram {s t : State} {c : Ctx} (hl : findLaunch s c.f.slot = some c.l) (ht : srams t = srams s) (v : Nat) :
    (tileOf (startedCtx t c).l v).sram = (tileOf c.l v).sram := by
  have h := congrFun ht c.f.slot
  unfold srams at h
  rw [hl] at h
  cases hf : findLaunch t c.f.slot with
  | none => rw [hf] at h; cases h
  | some l =>
    rw [hf] at h
    simp only [startedCtx, hf, Option.getD_some]
    exact congrFun (Option.some.inj h) v

/-- The units of a request leave the bytes of its tile that `p` names. -/
def UnitsKeep (p : Nat → Nat → Prop) (c : Ctx) (q : Req) : Prop :=
  ∀ a, p (fTile c.f) a →
    readByte (tileUnits c.r.type q (tileOf c.l (fTile c.f)) 0 q.addrs).1.sram a = readByte (tileOf c.l (fTile c.f)).sram a

theorem reads_units {s t : State} {c : Ctx} {q : Req} {m : Nat → Memory} {p : Nat → Nat → Prop} (h : Reads m p c.f.slot s)
    (ht : srams t = srams s) (hm : ∀ v, (tileOf c.l v).sram = m v)
    (hp : UnitsKeep p c q) :
    Reads m p c.f.slot (modFTile t c.f fun _ => (tileUnits c.r.type q (tileOf c.l (fTile c.f)) 0 q.addrs).1) := by
  have hv : (tileUnits c.r.type q (tileOf c.l (fTile c.f)) 0 q.addrs).1.vtile = fTile c.f :=
    (congrArg Tile.vtile (tileUnits_rest (tileOf c.l (fTile c.f)) 0 q.addrs)).trans (tileOf_vtile _ _)
  intro m' hm' v a hpa
  rw [modFTile, srams, findLaunch_modLaunch t c.f.slot _ fun l => modTile_slot l _ _] at hm'
  cases hl : findLaunch t c.f.slot with
  | none => rw [hl] at hm'; cases hm'
  | some l =>
    rw [hl] at hm'
    cases hm'
    dsimp only
    rw [tileOf_setTile l hv]
    split
    next hu =>
      subst hu
      rw [hp a hpa, hm]
    next => exact h.of_srams ht _ (by rw [srams, hl]; rfl) v a hpa

theorem readsRes_tilePerform {s : State} {c : Ctx} {q : Req} {m : Nat → Memory} {p : Nat → Nat → Prop} (h : Reads m p c.f.slot s)
    (hm : ∀ v, (tileOf c.l v).sram = m v) (hp : UnitsKeep p c q) : ReadsRes m p c.f.slot (tilePerform s c q) := by
  unfold tilePerform withAccesses
  dsimp only
  split
  · trivial
  next t ht =>
    have hs : srams t = srams s := (srams_checked ht).trans (srams_newGroup s)
    split
    · exact readsRes_doneWith (h.of_srams ((srams_markPerformed _ _ _ _).trans ((srams_postDlout _ _ _).trans hs))) _ _
    · trivial
    · exact readsRes_doneWith ((reads_units h hs hm hp).of_srams (srams_markPerformed _ _ _ _)) _ _

theorem readsRes_tileBody {op : ReqOp} {s : State} {c : Ctx} {m : Nat → Memory} {p : Nat → Nat → Prop} (hop : (op == .cas) = false)
    (h : Reads m p c.f.slot s) (hm : ∀ v, (tileOf c.l v).sram = m v)
    (hp : ∀ q : Req, q.op = op → q.unit = unitSize c.r.type → q.addrs = tileOffsets op c → UnitsKeep p c q) :
    ReadsRes m p c.f.slot (tileBody op s c) := by
  unfold tileBody
  simp only [hop, Bool.false_eq_true, if_false]
  split
  · trivial
  split
  · trivial
  split
  · exact readsRes_tilePerform h hm (hp _ rfl rfl rfl)
  split
  · trivial
  · exact h.of_srams (srams_acceptReq _ _ _)

/-- What LDT or STT leaves of the SRAM, from what the units of its requests keep. -/
theorem reads_exec {s t : State} {c : Ctx} {op : ReqOp} {p : Nat → Nat → Prop} (hi : s.issue = .node c.f) (hc : ctxOf s c.f c.r = some c)
    (hop : (op == .cas) = false)
    (hp : ∀ (l : Launch) (q : Req), q.op = op → q.unit = unitSize c.r.type → q.addrs = tileOffsets op c → UnitsKeep p { c with l := l } q)
    (hn : runMem c.r (some 0) s (tileBody op) = .next t) : Reads (fun v => (tileOf c.l v).sram) p c.f.slot t := by
  have hl : findLaunch s c.f.slot = some c.l := by
    unfold ctxOf at hc
    split at hc
    next l _ hl _ => exact hl.trans (congrArg some (congrArg Ctx.l (Option.some.inj hc)))
    · cases hc
  have h : Reads (fun v => (tileOf c.l v).sram) p c.f.slot s := fun m' hm v a _ => by
    rw [srams, hl] at hm
    cases hm
    rfl
  refine reads_runNode hi hc h (fun s1 c1 hs => ?_) (fun s1 c1 hs => ?_) ?_ hn
  · exact readsRes_doneWith (h.of_srams hs) _ _
  · refine readsRes_doneWith (h.of_srams ?_) _ _
    split
    · exact (srams_passChain _ _ _).trans hs
    · exact hs
  · exact readsRes_tileBody hop (h.of_srams (srams_started _ _ _)) (startedCtx_sram hl (srams_started _ _ _)) (hp _)

/-- Settles O30: the frame of a node's own operation is that of `tileUnits`, and everything around it keeps the SRAM. -/
theorem tileStoreFrame : Obligations.TileStoreFrame := by
  intro s c t hi hc
  refine ⟨fun h => ⟨outside_of_next (outside_exec_node (i := .ldt) (runsQuietly_nodeForms _ (by simp [nodeForms])) c.r s) h, ?_⟩,
    fun h => ⟨outside_of_next (outside_exec_node (i := .stt) (runsQuietly_nodeForms _ (by simp [nodeForms])) c.r s) h, ?_⟩⟩
  · have hr := reads_exec (op := .read) (p := fun _ _ => True) hi hc rfl (fun l q hq _ _ a _ => by rw [tileUnits_read hq]) h
    exact fun l' hl' v a => hr _ (by rw [srams, hl']; rfl) v a trivial
  · have hr := reads_exec (op := .write) (p := fun v a => v ≠ fTile c.f ∨ ∀ o ∈ tileOffsets .write c, a < o ∨ o + unitSize c.r.type ≤ a)
      hi hc rfl (fun l q _ hu ha a hpa => ?_) h
    · exact fun l' hl' v a hva => hr _ (by rw [srams, hl']; rfl) v a hva
    · refine readByte_tileUnits 0 fun o ho => ?_
      rw [hu]
      exact (hpa.resolve_left fun hne => hne rfl) o (ha ▸ ho)

end Sys2Proof.Sram
end

section
/-! SUPPORT. What an arrival leaves in its barrier object (R225, R227), word by word. -/

namespace Sys2Proof.Arrivals

open Machine Memories Laws

variable {t : Tile} {b : Nat}

theorem leNat_lt (bs : List Byte) : leNat bs < 2 ^ (8 * bs.length) := by
  induction bs with
  | nil => exact Nat.one_pos
  | cons x bs ih =>
    have hx := x.isLt
    rw [List.length_cons, Nat.mul_succ, Nat.pow_add, leNat]
    omega

theorem barWord_lt (t : Tile) (b k : Nat) : barWord t b k < 2 ^ 32 := by
  have h := leNat_lt (readBytes t.sram (64 * b + 4 * k) 4)
  rwa [readBytes, List.length_map, upTo, List.length_range] at h

theorem barWord_setBarWord (t : Tile) (b k v : Nat) : barWord (setBarWord t b k v) b k = v % 2 ^ 32 :=
  readNat_writeBytes t.sram (64 * b + 4 * k) 4 v

theorem barWord_setBarWord_ne {j k : Nat} (h : j ≠ k) (v : Nat) : barWord (setBarWord t b k v) b j = barWord t b j :=
  readNat_writeBytes_out _ (by rw [length_leBytes]; omega)

theorem readByte_setBarWord {k v a : Nat} (hk : 1 ≤ k ∧ k ≤ 4) (h : a < 64 * b + 4 ∨ 64 * b + 20 ≤ a) :
    readByte (setBarWord t b k v).sram a = readByte t.sram a :=
  readByte_writeBytes_out _ (by rw [length_leBytes]; omega)

/-! The poison record. -/

/-- An arrival's poison, recorded. -/
def poisoned (l : Launch) (t : Tile) (b : Nat) : Option Nat → Tile
  | some i => recordPoison l t b (barWord t b 2 + 1) i
  | none => t

theorem barWord_poisoned {k : Nat} (h : k < 3) (l : Launch) (p : Option Nat) : barWord (poisoned l t b p) b k = barWord t b k := by
  cases p with
  | none => rfl
  | some i =>
    rw [poisoned, recordPoison]
    split
    · rw [barWord_setBarWord_ne (by omega), barWord_setBarWord_ne (by omega)]
    · rfl

theorem readByte_poisoned {a : Nat} (h : a < 64 * b + 4 ∨ 64 * b + 20 ≤ a) (l : Launch) (p : Option Nat) :
    readByte (poisoned l t b p).sram a = readByte t.sram a := by
  cases p with
  | none => rfl
  | some i =>
    rw [poisoned, recordPoison]
    split
    · rw [readByte_setBarWord (by omega) h, readByte_setBarWord (by omega) h]
    · rfl

/-- Where no record of the phase or an earlier one stands, the poison is recorded. -/
theorem barWord_poisoned_some {i : Nat} (hi : i < 2 ^ 32) (hp : barWord t b 2 ≠ 0xFFFFFFFF)
    (h : barWord t b 3 = 0 ∨ barWord t b 2 + 1 < barWord t b 3) (l : Launch) :
    barWord (poisoned l t b (some i)) b 3 = barWord t b 2 + 1 ∧ barWord (poisoned l t b (some i)) b 4 = i := by
  have hlt := barWord_lt t b 2
  have hc : (barWord t b 3 == 0 || decide (barWord t b 2 + 1 < barWord t b 3)) = true := by simpa using h
  rw [poisoned, recordPoison]
  rw [hc, Bool.true_or, if_pos rfl, barWord_setBarWord_ne (by omega), barWord_setBarWord, barWord_setBarWord]
  exact ⟨Nat.mod_eq_of_lt (by omega), Nat.mod_eq_of_lt hi⟩

/-! The count. -/

/-- The count after `n` bytes of `t0`'s object, put into `t`. -/
def counted (t t0 : Tile) (b n : Nat) : Tile :=
  if n == 0 then t
  else if barWord t0 b 1 + n == barWord t0 b 0 then setBarWord (setBarWord t b 2 (barWord t0 b 2 + 1)) b 1 0
  else setBarWord t b 1 (barWord t0 b 1 + n)

theorem arrivalMade_eq (l : Launch) (t : Tile) (b n : Nat) (p : Option Nat) (hb : List Nat) :
    ∃ bars, arrivalMade l t b n p hb = { counted (poisoned l t b p) t b n with barriers := bars } := by
  cases p <;> exact ⟨_, rfl⟩

theorem barWord_counted_rest {t0 : Tile} {k : Nat} (h1 : k ≠ 1) (h2 : k ≠ 2) (n : Nat) :
    barWord (counted t t0 b n) b k = barWord t b k := by
  unfold counted
  split
  · rfl
  split
  · rw [barWord_setBarWord_ne h1, barWord_setBarWord_ne h2]
  · rw [barWord_setBarWord_ne h1]

theorem readByte_counted {t0 : Tile} {a : Nat} (h : a < 64 * b + 4 ∨ 64 * b + 20 ≤ a) (n : Nat) :
    readByte (counted t t0 b n).sram a = readByte t.sram a := by
  unfold counted
  split
  · rfl
  split
  · rw [readByte_setBarWord (by omega) h, readByte_setBarWord (by omega) h]
  · rw [readByte_setBarWord (by omega) h]

theorem barWord_counted_below {t0 : Tile} {n : Nat} (h : barWord t0 b 1 + n < barWord t0 b 0) (h1 : barWord t b 1 = barWord t0 b 1)
    (h2 : barWord t b 2 = barWord t0 b 2) :
    barWord (counted t t0 b n) b 1 = barWord t0 b 1 + n ∧ barWord (counted t t0 b n) b 2 = barWord t0 b 2 := by
  have hlt := barWord_lt t0 b 0
  unfold counted
  split
  next hn => exact ⟨by rw [h1, eq_of_beq hn]; rfl, h2⟩
  · rw [if_neg (by simpa using h.ne), barWord_setBarWord, barWord_setBarWord_ne (by decide)]
    exact ⟨Nat.mod_eq_of_lt (by omega), h2⟩

theorem barWord_counted_full {t0 : Tile} {n : Nat} (h : barWord t0 b 1 + n = barWord t0 b 0) (hn : n ≠ 0)
    (hp : barWord t0 b 2 ≠ 0xFFFFFFFF) :
    barWord (counted t t0 b n) b 1 = 0 ∧ barWord (counted t t0 b n) b 2 = barWord t0 b 2 + 1 := by
  have hlt := barWord_lt t0 b 2
  rw [counted, if_neg (by simpa using hn), if_pos (by simpa using h), barWord_setBarWord, barWord_setBarWord_ne (by decide), barWord_setBarWord]
  exact ⟨rfl, Nat.mod_eq_of_lt (by omega)⟩

/-- Settles O38: the checks of `arrivalTrap` in their order, then `counted` on `poisoned`. -/
theorem arrivalsCountTheirBytes : Obligations.ArrivalsCountTheirBytes := by
  intro l t b n poison hb hbad
  simp only [arrival, arrivalTrap, hbad, Bool.false_eq_true, if_false, beq_iff_eq, Bool.and_eq_true, mkTrap]
  refine ⟨fun h => by rw [if_pos h], fun h hlt => by rw [if_neg h, if_pos hlt],
    fun h heq hph => by rw [if_neg h, if_neg (by omega), if_pos ⟨heq, hph⟩], fun he hcase => ?_⟩
  rw [if_neg he, if_neg (by omega), if_neg (by omega)]
  refine ⟨_, rfl, ?_⟩
  obtain ⟨bars, hm⟩ := arrivalMade_eq l t b n poison hb
  rw [hm]
  have h (k : Nat) (hk : k < 3) := barWord_poisoned (t := t) (b := b) hk l poison
  refine ⟨(barWord_counted_rest (by decide) (by decide) n).trans (h 0 (by decide)),
    fun hlt => barWord_counted_below hlt (h 1 (by decide)) (h 2 (by decide)),
    fun heq => barWord_counted_full heq (by omega) (by omega), ?_, ?_, ?_⟩
  · rintro rfl
    exact ⟨barWord_counted_rest (by decide) (by decide) n, barWord_counted_rest (by decide) (by decide) n⟩
  · rintro i rfl hi hph hold
    obtain ⟨h3, h4⟩ := barWord_poisoned_some hi hph hold l
    exact ⟨(barWord_counted_rest (by decide) (by decide) n).trans h3, (barWord_counted_rest (by decide) (by decide) n).trans h4⟩
  · exact fun a ha => (readByte_counted ha n).trans (readByte_poisoned ha l poison)

end Sys2Proof.Arrivals
end

section
/-! SUPPORT. What a message written leaves in its letterbox (R218). -/

namespace Sys2Proof.Messages

open Machine Memories Laws Sram

theorem tileOf_congr {l m : Launch} (h : m.tiles = l.tiles) (v : Nat) : tileOf m v = tileOf l v := by rw [tileOf, h, tileOf]

/-- Accesses recorded change no tile. -/
theorem tiles_checked {s t : State} {k : Nat} {xs : List Access} {l : Launch} (hl : findLaunch s k = some l)
    (h : checkAccesses s k xs = .ok t) : ∃ m, findLaunch t k = some m ∧ m.tiles = l.tiles := by
  unfold checkAccesses at h
  rw [hl] at h
  dsimp only at h
  split at h
  · cases h
  · cases h
    refine ⟨_, (findLaunch_modLaunch s k _ ?_).trans (congrArg _ hl), rfl⟩
    exact fun _ => rfl

theorem lbOf_modLb {t : Tile} {k : Nat} (hk : k < t.lbs.length) (f : Letterbox → Letterbox) : lbOf (modLb t k f) k = f (lbOf t k) := by
  simp [lbOf, modLb, modAt, List.getD_eq_getElem?_getD, hk]

theorem lbOf_modLb_ne {t : Tile} {j k : Nat} (h : j ≠ k) (f : Letterbox → Letterbox) : lbOf (modLb t k f) j = lbOf t j := by
  simp [lbOf, modLb, modAt, List.getD_eq_getElem?_getD, List.getElem?_mapIdx, h]

/-- The tile that a message without BAR leaves. -/
def slotWritten (t : Tile) (lb : Nat) (bytes : List Byte) (rel : List Nat) : Tile :=
  modLb (writeSram t (slotOffset (lbOf t lb) (lbOf t lb).wseq.toNat) bytes) lb fun b =>
    { b with wseq := b.wseq + 1, wrote := b.wrote ++ [((lbOf t lb).wseq.toNat, rel)] }

theorem writeMessage_ok {s s1 : State} {f : Firing} {ty : Ty} {tl : Launch} {vt lb g : Nat} {bytes : List Byte} {hb : List Nat}
    (h : writeMessage s f ty tl vt lb bytes none hb = .ok (s1, g)) (hl : findLaunch s tl.slot = some tl) :
    ∃ m rel, findLaunch s1 tl.slot = some (modTile m vt fun _ => slotWritten (tileOf tl vt) lb bytes rel) ∧ m.tiles = tl.tiles := by
  unfold writeMessage at h
  dsimp only at h
  split at h
  · cases h
  split at h
  · cases h
  next t ht =>
    obtain ⟨m, hm, htl⟩ := tiles_checked (s := (newGroup s).1) (l := tl) hl ht
    split at h
    · cases h
    · cases h
      exact ⟨m, _, (findLaunch_modLaunch t tl.slot _ fun l => Completion.modTile_slot l _ _).trans (congrArg _ hm), htl⟩

/-- Settles O40: the launch's tile becomes `slotWritten`. -/
theorem messagesFillTheirSlots : Obligations.MessagesFillTheirSlots := by
  intro s f ty tl vt lb bytes hb s1 g hl hlb h
  obtain ⟨m, rel, hm, htl⟩ := writeMessage_ok h hl
  have hv : (slotWritten (tileOf tl vt) lb bytes rel).vtile = vt := tileOf_vtile tl vt
  have hat : tileOf (modTile m vt fun _ => slotWritten (tileOf tl vt) lb bytes rel) vt = slotWritten (tileOf tl vt) lb bytes rel :=
    (tileOf_setTile m hv vt).trans (if_pos rfl)
  refine ⟨_, hm, ?_⟩
  rw [hat]
  have hbox (k : Nat) : lbOf (slotWritten (tileOf tl vt) lb bytes rel) k =
      if k = lb then { lbOf (tileOf tl vt) lb with
        wseq := (lbOf (tileOf tl vt) lb).wseq + 1, wrote := (lbOf (tileOf tl vt) lb).wrote ++ [((lbOf (tileOf tl vt) lb).wseq.toNat, rel)] }
      else lbOf (tileOf tl vt) k := by
    split
    next hk => subst hk; exact lbOf_modLb hlb _
    next hk => exact lbOf_modLb_ne hk _
  rw [hbox lb, if_pos rfl]
  refine ⟨rfl, rfl, rfl, fun k hk => (hbox k).trans (if_neg hk),
    readBytes_writeBytes _ _ _, fun a ha => readByte_writeBytes_out _ ha, fun v hne => ?_⟩
  rw [tileOf_setTile m hv, if_neg hne, tileOf_congr htl]

end Sys2Proof.Messages
end

section
/-! SUPPORT. What the lines of a committed task write, and what freeing them leaves (R343, R400). -/

namespace Sys2Proof.Lines

open Machine Memories Laws Sram

/-- One byte written to device memory. -/
theorem mem_writeDevice (s : State) (slot a : Nat) (bs : List Byte) : (writeDevice s slot a bs).mem = writeBytes s.mem a bs := rfl

theorem bus_writeDevice (s : State) (slot a : Nat) (bs : List Byte) : (writeDevice s slot a bs).bus = s.bus := rfl

/-- The bytes of a line at places `is`, written one by one. -/
def writeEach (slot a : Nat) (v : Nat → Byte) (is : List Nat) (s : State) : State :=
  is.foldl (fun s i => writeDevice s slot (a + i) [v i]) s

theorem bus_writeEach (slot a : Nat) (v : Nat → Byte) (is : List Nat) (s : State) : (writeEach slot a v is s).bus = s.bus := by
  induction is generalizing s with
  | nil => rfl
  | cons i is ih => exact ih _

theorem readByte_writeEach (slot a : Nat) (v : Nat → Byte) (is : List Nat) (s : State) (b : Nat) :
    readByte (writeEach slot a v is s).mem b = if a ≤ b ∧ b - a ∈ is then v (b - a) else readByte s.mem b := by
  induction is generalizing s with
  | nil => simp [writeEach]
  | cons i is ih =>
    refine (ih _).trans ?_
    rw [mem_writeDevice]
    by_cases hb : b = a + i
    · subst hb
      have hw : readByte (writeBytes s.mem (a + i) [v i]) (a + i) = v i := readByte_writeByte_self (a + i) (v i)
      simp [hw]
    · rw [readByte_writeBytes_out _ (by simp; omega)]
      have hi : a ≤ b → b - a ≠ i := by omega
      by_cases hab : a ≤ b
      · simp [hab, hi hab]
      · simp [hab]

theorem mem_maskBytes (m : BitVec 64) (i : Nat) : i ∈ maskBytes m ↔ i < 64 ∧ bit m.toNat i = true := by
  simp [maskBytes, upTo]

/-- A store line puts its own byte at each byte of its mask. -/
theorem getD_applyLine {x : Line} (hk : x.kind = 1) {bs : List Byte} (hbs : bs.length = 64) {i : Nat} (hi : i ∈ maskBytes x.bmask) :
    (applyLine bs x).getD i 0 = x.data.getD i 0 := by
  obtain ⟨hlt, hbit⟩ := (mem_maskBytes _ _).1 hi
  simp [applyLine, hk, List.getD_eq_getElem?_getD, hbs, hlt, hbit]

/-- Performing one store line, but for the lines that it repairs. -/
theorem performLines_one (s : State) (slot : Nat) (x : Line) :
    ∃ lost, performLines s slot [x] =
      { writeEach slot (64 * x.addr) (fun i => (applyLine (readBytes s.mem (64 * x.addr) 64) x).getD i 0) (maskBytes x.bmask) s with
        lost := lost } := by
  rw [performLines, List.foldl_cons, List.foldl_nil]
  dsimp only
  split <;> exact ⟨_, rfl⟩

theorem lines_freeLines (s : State) (f : Frame) (l : Launch) (h : findLaunch s f.slot = some l) :
    ∃ l1, findLaunch (freeLines s f) f.slot = some l1 ∧ (tileOf l1 f.vtile).lines = (tileOf l f.vtile).lines.filter fun x =>
      x.ctx != f.tcidx || (x.kind != 1 && x.kind != 2) := by
  refine ⟨_, (findLaunch_modLaunch s f.slot _ fun l => Completion.modTile_slot l _ _).trans (congrArg _ h), ?_⟩
  rw [tileOf_modTile l f.vtile]
  · refine List.filter_congr fun x _ => ?_
    simp only [bne, Bool.not_and, Bool.not_or]
  · exact fun _ => rfl

/-- Settles O49: the line's bytes are written one by one, each to a place of its own. -/
theorem committedLinesReachMemory : Obligations.CommittedLinesReachMemory := by
  refine ⟨fun s slot x hk _ => ?_, lines_freeLines⟩
  obtain ⟨lost, h⟩ := performLines_one s slot x
  dsimp only
  rw [h]
  refine ⟨bus_writeEach _ _ _ _ _, fun i hi hbit => ?_, fun a ha => ?_⟩
  · have hm := (mem_maskBytes x.bmask i).2 ⟨hi, hbit⟩
    refine (readByte_writeEach _ _ _ _ _ _).trans ?_
    rw [Nat.add_sub_cancel_left, if_pos ⟨Nat.le_add_right _ _, hm⟩, getD_applyLine hk (by simp [readBytes, upTo]) hm]
  · refine (readByte_writeEach _ _ _ _ _ _).trans (if_neg ?_)
    rintro ⟨hle, hm⟩
    obtain ⟨hlt, hbit⟩ := (mem_maskBytes _ _).1 hm
    rcases ha with ha | ha | ha
    · omega
    · omega
    · rw [hbit] at ha
      cases ha

end Sys2Proof.Lines
end

section
/-! SUPPORT. Tickets resolved and closed (R241, R246). -/

namespace Sys2Proof.Tickets

open Machine Laws Completion

theorem findFrame_congr {s t : State} (h : t.frames = s.frames) (fh : Nat) : findFrame t fh = findFrame s fh := by
  rw [findFrame, h, findFrame]

theorem frames_foldl {α : Type} {f : State → α → State} (h : ∀ s a, (f s a).frames = s.frames) (xs : List α) (s : State) :
    (xs.foldl f s).frames = s.frames := by
  induction xs generalizing s with
  | nil => rfl
  | cons a xs ih => rw [List.foldl_cons, ih, h]

theorem frames_modLaunch (s : State) (k : Nat) (f : Launch → Launch) : (modLaunch s k f).frames = s.frames := rfl

theorem frames_sendAgain (s : State) (slot v : Nat) (t : Token) : (sendAgain s slot v t).frames = s.frames := rfl

theorem frames_redeliver (s : State) (slot fh : Nat) : (redeliver s slot fh).frames = s.frames := by
  unfold redeliver
  split
  · rfl
  · exact (frames_foldl (fun s (p : Nat × Token) => frames_sendAgain s slot p.1 p.2) _ _).trans (frames_modLaunch _ _ _)

section
variable {s : State} {slot fh ticket : Nat} {f : Frame}

/-- The state of a closed ticket before its frame's release. -/
def closed (s : State) (slot fh ticket : Nat) : State :=
  modFrame (modLaunch s slot fun l =>
    { l with faults := l.faults.map fun r => if r.ticket == ticket then { r with opens := false } else r })
    fh fun f => { f with opens := f.opens.filter fun t => t != ticket }

theorem findFrame_closed (h : findFrame s fh = some f) (slot ticket : Nat) :
    findFrame (closed s slot fh ticket) fh = some { f with opens := f.opens.filter fun t => t != ticket } := by
  refine (findFrame_modFrame _ fh _ ?_).trans (congrArg _ ((findFrame_congr (frames_modLaunch _ _ _) fh).trans h))
  exact fun _ => rfl

theorem taskOf_closed (s : State) (slot fh ticket : Nat) : taskOf (closed s slot fh ticket) fh = taskOf s fh := by
  refine (taskOf_modFrame _ fh _ ?_ fh).trans (taskOf_congr (frames_modLaunch _ _ _) fh)
  exact fun _ => ⟨rfl, rfl, rfl⟩

/-- A parked frame with nothing open that still waits. -/
theorem releaseFrame_waits (h : findFrame s fh = some f) (hp : f.state = .parkedFault) (ho : f.opens = []) (hd : f.defers = 0)
    (hw : f.waits ≠ 0) : releaseFrame s slot fh = modFrame s fh fun g => { g with state := .parkedWait, fcode := 0 } := by
  unfold releaseFrame
  rw [h]
  simp [parked, hp, ho, hd, hw]

/-- A parked frame with nothing open and no wait. -/
theorem releaseFrame_free (h : findFrame s fh = some f) (hp : f.state = .parkedFault) (ho : f.opens = []) (hd : f.defers = 0)
    (hw : f.waits = 0) (ht : taskOf s fh = none) :
    releaseFrame s slot fh = redeliver (modFrame s fh fun g => { g with state := g.home, fcode := 0 }) slot fh := by
  have hn : taskOf (redeliver (modFrame s fh fun g => { g with state := g.home, fcode := 0 }) slot fh) fh = none := by
    rw [taskOf_congr (frames_redeliver _ slot fh), taskOf_modFrame, ht]
    exact fun _ => ⟨rfl, rfl, rfl⟩
  unfold releaseFrame
  rw [h]
  simp [parked, hp, ho, hd, hw, hn]

/-- A frame with another fault open is not released. -/
theorem releaseFrame_open (h : findFrame s fh = some f) (ho : f.opens ≠ []) : releaseFrame s slot fh = s := by
  unfold releaseFrame
  rw [h]
  simp [ho]

end

/-- An activation that no substitute can stand for refuses one. -/
theorem resolveTicket_refused {s : State} {slot : Nat} {rec : FaultRec} {sub : List Lane} {hb : List Nat} {f : Firing} {l : Launch}
    {opc : Nat} {r : NodeRec} {c : Ctx} (hd : rec.deadlock = false) (hf : rec.firing = some f) (hl : findLaunch s slot = some l)
    (ho : opRecOf l f = some (opc, r)) (hc : reqCtx s f r = some c) (hn : noSubstitute opc = true) :
    resolveTicket s slot rec 0 sub hb = (s, 2) := by
  unfold resolveTicket
  have h01 : ((0 : Nat) == 1) = false := rfl
  have h00 : ((0 : Nat) == 0) = true := rfl
  simp only [hd, hf, hl, ho, hc, hn, h01, h00, Bool.true_or, if_true, Bool.false_eq_true, if_false]
  cases resolveTags opc c <;> rfl

/-- Settles O43: each way `releaseFrame` can go, on the frame that `closed` leaves. -/
theorem resolutionsReleaseTheirFrame : Obligations.ResolutionsReleaseTheirFrame := by
  refine ⟨fun s slot rec sub hb a hq hr hd hc => ?_, fun s slot rec sub hb h => ?_,
    fun s slot rec sub hb f l opc r c hd hf hl ho hc hop => resolveTicket_refused hd hf hl ho hc ?_,
    fun s slot fh ticket f hf => ⟨fun hp ho hd hw => ?_, fun hp ho hd hw ht => ?_, fun other hne ho => ?_⟩⟩
  · have hcode : (rec.code == 0x13) = false := by simpa using hc
    refine ⟨fun b hf => ?_, fun hf => ?_⟩ <;> simp [resolveTicket, retryTicket, hq, hr, hd, hf, hcode, deliverAgain]
  · rcases h with h | h <;> simp [resolveTicket, h]
  · fin_cases hop <;> rfl
  · have h := findFrame_closed hf slot ticket
    have hr : closeTicket s slot fh ticket = _ := releaseFrame_waits (slot := slot) h hp (by simp [ho]) hd hw
    refine ⟨_, (congrArg (findFrame · fh) hr).trans ((findFrame_modFrame _ fh _ ?_).trans (congrArg _ h)), rfl, rfl, by simp [ho]⟩
    exact fun _ => rfl
  · have h := findFrame_closed hf slot ticket
    have hr : closeTicket s slot fh ticket = _ :=
      releaseFrame_free (slot := slot) h hp (by simp [ho]) hd hw ((taskOf_closed _ _ _ _).trans ht)
    refine ⟨_, (congrArg (findFrame · fh) hr).trans ((findFrame_congr (frames_redeliver _ _ _) fh).trans
      ((findFrame_modFrame _ fh _ ?_).trans (congrArg _ h))), rfl, rfl, by simp [ho]⟩
    exact fun _ => rfl
  · have h := findFrame_closed hf slot ticket
    have hr : closeTicket s slot fh ticket = _ := releaseFrame_open (slot := slot) h (by simp [ho, hne])
    exact ⟨_, (congrArg (findFrame · fh) hr).trans h, rfl, by simp [ho, hne]⟩

end Sys2Proof.Tickets
end

section
/-! SUPPORT. What taking a firing's trap leaves (R237 to R242). -/

namespace Sys2Proof.Traps

open Machine Laws Safety Completion Tickets

theorem findLaunch_congr {s t : State} (h : t.launches = s.launches) (k : Nat) : findLaunch t k = findLaunch s k := by
  rw [findLaunch, h, findLaunch]

theorem launches_foldl {α : Type} {f : State → α → State} (h : ∀ s a, (f s a).launches = s.launches) (xs : List α) (s : State) :
    (xs.foldl f s).launches = s.launches := by
  induction xs generalizing s with
  | nil => rfl
  | cons a xs ih => rw [List.foldl_cons, ih, h]

theorem frames_push (s : State) (c : Chan) (i : Instr) : (push s c i).frames = s.frames := rfl

theorem launches_push (s : State) (c : Chan) (i : Instr) : (push s c i).launches = s.launches := rfl

theorem speculative_congr {s t : State} (h : t.frames = s.frames) (fh : Nat) : speculative t fh = speculative s fh := by
  unfold speculative
  rw [taskOf_congr h]
  simp only [findFrame_congr h]

/-! Parking. -/

/-- A frame parked by a fault. -/
def parkedBy (code : Nat) (f : Frame) : Frame :=
  if f.state == .draining then f else { f with home := standing f, state := .parkedFault, fcode := code }

theorem parkedBy_fh (code : Nat) (f : Frame) : (parkedBy code f).fh = f.fh := by
  unfold parkedBy
  split <;> rfl

theorem frames_parkFault (s : State) (slot fh code : Nat) :
    (parkFault s slot fh code).frames = (modFrame s fh (parkedBy code)).frames := by
  unfold parkFault parkNotices
  split
  · rfl
  · exact frames_foldl (fun s v => frames_push s _ _) _ _

theorem launches_parkFault (s : State) (slot fh code : Nat) : (parkFault s slot fh code).launches = s.launches := by
  unfold parkFault parkNotices
  split
  · rfl
  · exact launches_foldl (fun s v => launches_push s _ _) _ _

/-! The record posted. -/

theorem findFrame_emitToken {s : State} {slot fh : Nat} {t : Token} (h : fh ≠ t.fh) :
    findFrame (emitToken s slot t) fh = findFrame s fh := by
  unfold emitToken
  split
  · rfl
  · refine (findFrame_congr rfl fh).trans (findFrame_modFrame_ne s h _ ?_)
    exact fun _ => rfl

theorem findFrame_emitTokens {s : State} {slot fh : Nat} {ts : List Token} (h : ∀ t ∈ ts, fh ≠ t.fh) :
    findFrame (emitTokens s slot ts) fh = findFrame s fh := by
  induction ts generalizing s with
  | nil => rfl
  | cons t ts ih =>
    exact (ih fun x hx => h x (List.mem_cons_of_mem t hx)).trans (findFrame_emitToken (h t List.mem_cons_self))

theorem frames_endFault (s : State) (slot code detail : Nat) (r : Option FaultRec) : (endFault s slot code detail r).frames = s.frames := by
  unfold endFault
  split
  · rfl
  · split <;> rfl

/-- The launch with one more record in its poison table. -/
def noted (l : Launch) (r : FaultRec) : Launch := { l with tickets := l.tickets + 1, faulted := true, faults := l.faults ++ [r] }

section
variable {s : State} {f : Firing} {t : Trap} {l : Launch}

/-- The record of a firing's trap under the launch's next ticket. -/
def ticketed (s : State) (f : Firing) (t : Trap) (l : Launch) : FaultRec := { recordOf s f t with ticket := l.tickets }

theorem findLaunch_slot {k : Nat} (h : findLaunch s k = some l) : l.slot = k := by simpa using List.find?_some h

/-- A record that opens a ticket is posted to the handler, or ends a launch that has none. -/
theorem postRecord_opening (hl : findLaunch s f.slot = some l) (ht : l.tickets < 65536) (ho : f.a.fh ≠ l.office) :
    postRecord s f.slot (recordOf s f t) =
      if l.man.handler.isNone then
        endFault (setLaunch s (noted l (ticketed s f t l))) f.slot t.code t.detail (some (ticketed s f t l))
      else emitTokens (setLaunch s (noted l (ticketed s f t l))) f.slot (officeTokens l (ticketed s f t l)) := by
  have hoff : ((recordOf s f t).fh == l.office) = false := by simpa [recordOf] using ho
  have hopens : (recordOf s f t).opens = true := rfl
  unfold postRecord
  rw [hl]
  dsimp only
  rw [if_neg (by omega), hopens, hoff, Bool.true_or, Bool.and_false, Bool.or_false, if_pos rfl]
  rfl

theorem officeTokens_fh {r : FaultRec} {u : Token} (h : u ∈ officeTokens l r) : u.fh = l.office := by
  unfold officeTokens at h
  split at h
  · cases h
  · rcases List.mem_cons.1 h with rfl | h
    · rfl
    · obtain ⟨k, -, hk⟩ := List.mem_filterMap.1 h
      obtain ⟨v, -, rfl⟩ := Option.map_eq_some_iff.1 hk
      rfl

theorem findFrame_postRecord (hl : findLaunch s f.slot = some l) (ht : l.tickets < 65536) (ho : f.a.fh ≠ l.office) {fh : Nat}
    (hfh : fh ≠ l.office) : findFrame (postRecord s f.slot (recordOf s f t)) fh = findFrame s fh := by
  rw [postRecord_opening hl ht ho]
  split
  · exact findFrame_congr (frames_endFault _ _ _ _ _) fh
  · exact findFrame_emitTokens fun u hu => by rwa [officeTokens_fh hu]

/-- A trap that no task defers: the record, the ticket opened, the frame parked. -/
theorem trapFiring_eq (hl : findLaunch s f.slot = some l) (hsp : speculative s f.a.fh = false) :
    trapFiring s f t = parkFault (modFrame (postRecord s f.slot (recordOf s f t)) f.a.fh fun x => { x with opens := x.opens ++ [l.tickets] })
      f.slot f.a.fh t.code := by
  have hfh : (recordOf s f t).fh = f.a.fh := rfl
  unfold trapFiring takeTrap
  rw [hfh, hsp, Bool.false_and]
  dsimp only [List.foldl_nil]
  rw [hl]
  rfl

theorem findFrame_trapFiring (hl : findLaunch s f.slot = some l) (hsp : speculative s f.a.fh = false) (fh : Nat) :
    findFrame (trapFiring s f t) fh = if fh = f.a.fh then
      (findFrame (postRecord s f.slot (recordOf s f t)) fh).map fun x => parkedBy t.code { x with opens := x.opens ++ [l.tickets] }
    else findFrame (postRecord s f.slot (recordOf s f t)) fh := by
  rw [trapFiring_eq hl hsp, findFrame_congr (frames_parkFault _ _ _ _)]
  have hfh : ∀ x : Frame, ({ x with opens := x.opens ++ [l.tickets] } : Frame).fh = x.fh := fun _ => rfl
  split
  next h =>
    subst h
    rw [findFrame_modFrame _ _ _ (parkedBy_fh t.code), findFrame_modFrame _ _ _ hfh, Option.map_map]
    rfl
  next h => rw [findFrame_modFrame_ne _ h _ (parkedBy_fh t.code), findFrame_modFrame_ne _ h _ hfh]

theorem findLaunch_trapFiring (hl : findLaunch s f.slot = some l) (hsp : speculative s f.a.fh = false) (k : Nat) :
    findLaunch (trapFiring s f t) k = findLaunch (postRecord s f.slot (recordOf s f t)) k := by
  rw [trapFiring_eq hl hsp, findLaunch_congr (launches_parkFault _ _ _ _)]
  exact findLaunch_congr rfl k

/-- The token that posts a record to the handler. -/
def posted (l : Launch) (h : Nat) (r : FaultRec) : Token :=
  makeToken (placeDest (BitVec.ofNat 19 (h * 2))) l.office (BitVec.ofNat 64 (4 * l.tickets)) 34 false false false (recordLanes r) (2 ^ 20) []

theorem officeTokens_ticketed {h : Nat} (hh : l.man.handler = some h) :
    officeTokens l (ticketed s f t l) = [posted l h (ticketed s f t l)] := by
  have hk : l.tickets <<< 2 + 0 = 4 * l.tickets := by rw [Nat.shiftLeft_eq]; omega
  unfold officeTokens
  rw [hh]
  show _ :: _ = _
  dsimp only
  rw [show (ticketed s f t l).carry = 0 from rfl, show (ticketed s f t l).ticket = l.tickets from rfl, hk]
  rfl

theorem findLaunch_noted {k : Nat} (hl : findLaunch s k = some l) (r : FaultRec) :
    findLaunch (setLaunch s (noted l r)) k = some (noted l r) := by
  have hk := findLaunch_slot hl
  subst hk
  exact findLaunch_setLaunch (l := noted l r) hl

/-- A launch after its frame `fh` emitted `u`. -/
def flown (s : State) (l : Launch) (u : Token) : Launch :=
  if u.dest == 0x7FFFF then l
  else { l with flights := l.flights ++
    [(s.nextId, makeToken u.dest u.fh u.tag u.fill u.dl u.lp (speculative s u.fh) u.lanes u.src u.hb)] }

theorem findLaunch_emitToken {k : Nat} (hl : findLaunch s k = some l) (u : Token) :
    findLaunch (emitToken s k u) k = some (flown s l u) := by
  unfold emitToken flown
  split
  · exact hl
  · refine (findLaunch_congr rfl k).trans ((findLaunch_modLaunch _ k _ ?_).trans (congrArg (Option.map _) ((findLaunch_congr rfl k).trans hl)))
    exact fun _ => rfl

/-- A launch after a fault that ends it. -/
def faultEnded (l : Launch) (code detail : Nat) (r : Option FaultRec) : Launch :=
  if l.phase == .ended then l else { l with phase := .ended, code := code, detail := detail, fault := r }

theorem findLaunch_endFault {k : Nat} (hl : findLaunch s k = some l) (code detail : Nat) (r : Option FaultRec) :
    findLaunch (endFault s k code detail r) k = some (faultEnded l code detail r) := by
  have hk := findLaunch_slot hl
  unfold endFault faultEnded
  rw [hl]
  dsimp only
  split
  · exact hl
  · rw [← hk] at hl ⊢
    exact (findLaunch_congr rfl l.slot).trans (findLaunch_setLaunch (l := { l with phase := .ended, code, detail, fault := r }) hl)

end

/-- Settles O54: the frame from `findFrame_trapFiring`, the launch from the record's posting. -/
theorem trapsAreTakenPrecisely : Obligations.TrapsAreTakenPrecisely := by
  intro s f t l fr hl hfr ht ho hsp hst
  refine ⟨?_, fun fh hne hof => ?_, outside_trapFiring s f t, ?_⟩
  · rw [findFrame_trapFiring hl hsp, if_pos rfl, findFrame_postRecord hl ht ho ho, hfr, Option.map_some, parkedBy, if_neg (by simpa using hst)]
    rfl
  · rw [findFrame_trapFiring hl hsp, if_neg hne, findFrame_postRecord hl ht ho hof]
  · rw [findLaunch_trapFiring hl hsp, postRecord_opening hl ht ho]
    have hn := findLaunch_noted hl (ticketed s f t l)
    cases hh : l.man.handler with
    | none =>
      refine ⟨_, findLaunch_endFault hn _ _ _, fun h hsome => (by cases hsome), fun _ he => ?_⟩
      have hne : ((noted l (ticketed s f t l)).phase == .ended) = false := by simpa [noted] using he
      rw [faultEnded, hne]
      rfl
    | some h =>
      rw [officeTokens_ticketed hh]
      refine ⟨_, findLaunch_emitToken hn _, fun g hg hoff hd => ?_, fun hnone => (by cases hnone)⟩
      cases hg
      have hsp1 : speculative (setLaunch s (noted l (ticketed s f t l))) l.office = false :=
        (speculative_congr (t := setLaunch s (noted l (ticketed s f t l))) (s := s) rfl l.office).trans hoff
      rw [flown, if_neg (by simpa [posted, makeToken] using hd)]
      refine ⟨rfl, ?_⟩
      rw [List.map_append, show (posted l h (ticketed s f t l)).fh = l.office from rfl, hsp1]
      rfl

end Sys2Proof.Traps
end

section
/-! SUPPORT. Which bytes of device and host memory performing a request can change (R267, R274). -/

namespace Sys2Proof.Perform

open Machine Safety Laws Memories

/-- What performing `q` may do to the memories: its own space only, none for a read, and no byte that `p` names. -/
def Touches (q : Req) (p : Nat → Prop) (s t : State) : Prop :=
  (q.space = .host → t.mem = s.mem) ∧ (q.space ≠ .host → t.bus = s.bus) ∧
    ((needOf q.op).w = false → t.mem = s.mem ∧ t.bus = s.bus) ∧
    ∀ a, p a → readByte t.mem a = readByte s.mem a ∧ readByte t.bus a = readByte s.bus a

/-- The bytes beside the units at the places. -/
def Beside (q : Req) (places : List Nat) (a : Nat) : Prop := ∀ p ∈ places, a < p ∨ p + q.unit ≤ a

variable {q : Req} {p : Nat → Prop} {s t u : State}

theorem touches_of_mems (hm : t.mem = s.mem) (hb : t.bus = s.bus) : Touches q p s t :=
  ⟨fun _ => hm, fun _ => hb, fun _ => ⟨hm, hb⟩, fun a _ => by rw [hm, hb]; exact ⟨rfl, rfl⟩⟩

theorem touches_of_outside (h : outside t = outside s) : Touches q p s t :=
  touches_of_mems (show (outside t).mem = (outside s).mem by rw [h]) (show (outside t).bus = (outside s).bus by rw [h])

theorem Touches.trans (h1 : Touches q p s t) (h2 : Touches q p t u) : Touches q p s u := by
  obtain ⟨m1, b1, w1, r1⟩ := h1
  obtain ⟨m2, b2, w2, r2⟩ := h2
  exact ⟨fun h => (m2 h).trans (m1 h), fun h => (b2 h).trans (b1 h),
    fun h => ⟨(w2 h).1.trans (w1 h).1, (w2 h).2.trans (w1 h).2⟩, fun a ha => ⟨(r2 a ha).1.trans (r1 a ha).1, (r2 a ha).2.trans (r1 a ha).2⟩⟩

theorem touches_ite {b : Prop} [Decidable b] (ht : Touches q p s t) (hu : Touches q p s u) : Touches q p s (if b then t else u) := by
  split
  · exact ht
  · exact hu

theorem Touches.mono {p' : Nat → Prop} (h : Touches q p s t) (hp : ∀ a, p' a → p a) : Touches q p' s t := by
  obtain ⟨m, b, w, r⟩ := h
  exact ⟨m, b, w, fun a ha => r a (hp a ha)⟩

theorem outside_askRecovery (s : State) (slot line : Nat) : outside (askRecovery s slot line) = outside s := by
  unfold askRecovery
  split
  · rfl
  · exact outside_pushAlone _ _

theorem reqNew_of_read (h : (needOf q.op).w = false) (ty : Ty) (k m : Nat) : reqNew ty q k m = none := by
  unfold reqNew
  cases hop : q.op <;> rw [hop] at h <;> first | rfl | cases h

/-- One unit written. -/
theorem touches_writeSpace (hw : (needOf q.op).w = true) (slot a x : Nat) (hp : ∀ b, p b → b < a ∨ a + q.unit ≤ b) :
    Touches q p s (writeSpace s slot (q.space == .host) a q.unit x) := by
  have hw' : ¬ (needOf q.op).w = false := by simp [hw]
  have hout (m : Memory) (b : Nat) (hb : p b) : readByte (writeBytes m a (leBytes q.unit x)) b = readByte m b :=
    readByte_writeBytes_out _ (by rw [length_leBytes]; exact hp b hb)
  unfold writeSpace
  by_cases h : q.space = .host
  · rw [if_pos (by simp [h])]
    exact ⟨fun _ => rfl, fun hn => absurd h hn, fun hr => absurd hr hw', fun b hb => ⟨rfl, hout s.bus b hb⟩⟩
  · rw [if_neg (by simp [h])]
    exact ⟨fun hh => absurd hh h, fun _ => rfl, fun hr => absurd hr hw', fun b hb => ⟨hout s.mem b hb, rfl⟩⟩

theorem touches_performUnits (slot : Nat) (ty : Ty) (task : Option Nat) (places : List Nat) (k : Nat) (s : State) :
    Touches q (Beside q places) s (performUnits s slot ty task q k places).1 := by
  induction places generalizing k s with
  | nil => exact touches_of_mems rfl rfl
  | cons a as ih =>
    have htail (s1 : State) : Touches q (Beside q (a :: as)) s1 (performUnits s1 slot ty task q (k + 1) as).1 :=
      (ih (k + 1) s1).mono fun b hb x hx => hb x (List.mem_cons_of_mem a hx)
    simp only [performUnits]
    refine Touches.trans ?_ (htail _)
    split
    next v hv =>
      cases hw : (needOf q.op).w with
      | false => rw [reqNew_of_read hw] at hv; cases hv
      | true => exact touches_writeSpace hw slot a v fun b hb => hb a List.mem_cons_self
    · exact touches_of_mems rfl rfl

/-- What follows the units leaves the memories alone. -/
theorem mems_afterPerform (s : State) (c : Ctx) (q : Req) (places : List Nat) (g : Nat) :
    (afterPerform (clearWritten s q places) c q (places.headD 0) g).mem = s.mem ∧
      (afterPerform (clearWritten s q places) c q (places.headD 0) g).bus = s.bus := by
  have h : (clearWritten s q places).mem = s.mem ∧ (clearWritten s q places).bus = s.bus := by
    unfold clearWritten
    split <;> exact ⟨rfl, rfl⟩
  unfold afterPerform
  split <;> exact h

theorem touches_performNow (s : State) (c : Ctx) (task : Option Nat) (places : List Nat) (g : Nat) :
    Touches q (Beside q places) s (performNow s c task q places g) := by
  have h := touches_performUnits (q := q) c.f.slot c.r.type task places 0 s
  have ha := h.trans (touches_of_mems (mems_afterPerform _ c q places g).1 (mems_afterPerform _ c q places g).2)
  unfold performNow
  dsimp only
  split
  · exact ha.trans (touches_of_outside (outside_markPerformed _ _ _ _))
  split
  · exact touches_of_outside (outside_trapReq _ _ _ _)
  · exact ha.trans (touches_of_outside (by simp only [outside_complete, outside_rateAdvance, outside_markPerformed]))

theorem touches_acquiring {c : Ctx} {places : List Nat} (h : Touches (acquiring u c q places) p s t) : Touches q p s t := by
  unfold acquiring at h
  split at h
  · exact h
  · exact h

theorem beside_acquiring {c : Ctx} {places : List Nat} {a : Nat} (h : Beside q places a) : Beside (acquiring u c q places) places a := by
  unfold acquiring
  split
  · exact h
  · exact h

/-- A checked request: its units after the race check and the speculation table, or no access at all. -/
theorem touches_performChecked (s : State) (l : Launch) (c : Ctx) (places : List Nat) :
    Touches q (Beside q places) s (performChecked s l c q places) := by
  have hnow (s1 s2 : State) (task : Option Nat) (g : Nat) (h1 : outside s2 = outside s) :
      Touches q (Beside q places) s (performNow s2 c task (acquiring s c q places) places g) :=
    (touches_of_outside h1).trans (touches_acquiring (c := c) (u := s) (places := places)
      ((touches_performNow (q := acquiring s c q places) s2 c task places g).mono fun a ha => beside_acquiring ha))
  unfold performChecked
  dsimp only
  split
  · exact touches_of_outside (outside_askRecovery _ _ _)
  split
  · exact touches_of_outside (outside_setReq _ _ _)
  split
  · exact touches_of_outside (outside_parkReq _ _ _ _)
  split
  · exact touches_of_outside (outside_raceReq _ _ _ _)
  next s1 h1 =>
    have hs := outside_newChecked h1
    split
    · exact touches_of_outside (outside_askRecovery _ _ _)
    split
    · exact hnow s s1 none _ hs
    next t ht =>
      split
      · exact hnow s s1 none _ hs
      refine touches_ite (touches_of_outside (outside_waitOlder _ _ _ _)) (hnow s _ (some t.fh) _ ?_)
      split
      · rw [outside_specAccess, outside_specAccess, hs]
      · rw [outside_specAccess, hs]

theorem mems_fillTile (s : State) (l : Launch) (at_ : Port) (host : Bool) (as : List Nat) :
    (fillTile s l at_ host as).mem = s.mem ∧ (fillTile s l at_ host as).bus = s.bus := by
  refine List.foldlRecOn (motive := fun t : State => t.mem = s.mem ∧ t.bus = s.bus) as _ ⟨rfl, rfl⟩ fun t ht a _ => ?_
  split
  · exact ht
  · exact ht

/-- The places at which a request is performed: those kept by a wait, or those its check answers. -/
def PlacesOf (s : State) (l : Launch) (q : Req) (r : NodeRec) (places : List Nat) : Prop :=
  (q.places ≠ [] ∧ places = q.places) ∨ (q.places = [] ∧
    checkUnits s l (portOf l q.firing) (q.space == .host) false (needOf q.op) q.unit (unitLane r.type) 0 q.addrs = .ok places)

theorem touches_checkReq (s : State) (l : Launch) (c : Ctx) :
    Touches q (fun a => ∀ places, PlacesOf s l q c.r places → Beside q places a) s (checkReq s l c q false) := by
  unfold checkReq
  dsimp only
  split
  next h => exact (touches_performChecked s l c q.places).mono fun a ha => ha _ (Or.inl ⟨by simpa using h, rfl⟩)
  next h =>
    have hq : q.places = [] := by simpa using h
    split
    · exact touches_of_outside (outside_trapReq _ _ _ _)
    · exact touches_of_outside (outside_askRecovery _ _ _)
    next places hp =>
      obtain ⟨hm, hb⟩ := mems_fillTile s l (portOf l q.firing) (q.space == .host) q.addrs
      exact (touches_of_mems hm hb).trans ((touches_performChecked _ l c places).mono fun a ha => ha places (Or.inr ⟨hq, hp⟩))
    · refine touches_of_outside ?_
      split
      · exact outside_parkReq _ _ _ _
      · exact (outside_pushAlone _ _).trans (outside_parkReq _ _ _ _)

theorem reqCtx_record {f : Firing} {r : NodeRec} {c : Ctx} (h : reqCtx s f r = some c) : c.r = r := by
  unfold reqCtx ctxOf at h
  (repeat' split at h) <;> grind

/-- Settles O36: `performReq` is `checkReq` under the request's own record. -/
theorem deviceMemoryFrame : Obligations.DeviceMemoryFrame := by
  intro s slot id l q t hl hq h
  have hT : Touches q (fun a => ∃ r, recOf l q.firing = some r ∧ ∀ places, PlacesOf s l q r places → Beside q places a) s t := by
    simp only [exec, execMemoryPerform, hl, hq] at h
    split at h
    · cases h
      unfold performReq
      rw [hl]
      dsimp only
      cases hr : recOf l q.firing with
      | none => exact touches_of_mems rfl rfl
      | some r =>
        dsimp only
        cases hc : reqCtx s q.firing r with
        | none => exact touches_of_outside (outside_dropReq _ _ _)
        | some c =>
          have hcr : c.r = r := reqCtx_record hc
          refine (touches_checkReq s l c).mono ?_
          rintro a ⟨r', hr', ha⟩
          cases hr'
          rwa [hcr]
    · cases h
      exact touches_of_mems rfl rfl
  obtain ⟨m, b, w, r⟩ := hT
  exact ⟨m, b, w, fun rec a hrec ha => r a ⟨rec, hrec, fun places hp => ha places hp⟩⟩

end Sys2Proof.Perform
end

section
/-! SUPPORT. The nodes that form their own tags, and those that change widths (R108 to R112, R116 to R119). -/

namespace Sys2Proof.Programs

open Machine Safety Laws

theorem ones_lt (w v : Nat) : ones w < v ↔ 2 ^ w ≤ v := by
  have := Nat.two_pow_pos w
  rw [ones]
  omega

/-- The effect of a firing of data, whose operands are healthy. -/
theorem emits_of_healthy {i : NodeRec → Instr} {lp dl body : NodeRec → State → Ctx → Res} {ok : Ctx → List Emission → Prop}
    (run : ∀ r s, exec (i r) s = runNode s r plain (fun _ => 0) (lp r) (dl r) (body r))
    (h : ∀ s c es, anyDl c.f = false → ok c es → body c.r s c = .done s es 0) : emits i ok := by
  rintro s c s1 es fl ⟨hi, hlp, hdl, hpre⟩ ⟨rfl, rfl, hok⟩ hr
  have hb : body c.r (started s c plain) (own s c plain) = _ := h _ (own s c plain) es hdl hok
  rw [run, runNode_fires ⟨hi, hlp, hdl, hpre⟩, hb]
  simp only [settleFrom, settle, hr, if_true]
  rfl

/-! Nodes that form their own output tag (R103). -/

/-- What such a node does with its operand, passed on as `lanes`. -/
def ownPass (tag : Ctx → Except Trap (Nat × Nat)) (lp : Bool) (lanes : Ctx → List Lane) (s : State) (c : Ctx) : Res :=
  match tag c with
  | .error t => .trap t
  | .ok tf => .done s (outTag c (lanes c) tf (anyDl c.f) lp []) 0

theorem runOwn_eq (s : State) (r : NodeRec) (tag : Ctx → Except Trap (Nat × Nat)) :
    runOwn s r tag = runNode s r plain (fun _ => 0) (ownPass tag true lpLanes) (ownPass tag false passLanes)
      (ownPass tag false passLanes) := rfl

section
variable {i : NodeRec → Instr} {tag : NodeRec → Ctx → Except Trap (Nat × Nat)} (run : ∀ r s, exec (i r) s = runOwn s r (tag r))
include run

/-- Data, last posts and dead letters leave under the tag that the node forms. -/
theorem own_passes {ok : (Ctx → List Lane) → Bool → Ctx → List Emission → Prop}
    (h : ∀ lanes lp c es, ok lanes lp c es → ∃ tf, tag c.r c = .ok tf ∧ es = outTag c (lanes c) tf (anyDl c.f) lp []) :
    emits i (ok (fun c => c.f.a.lanes) false) ∧ passesLp i plain (ok lpLanes true) ∧ passesDl i plain (ok passLanes false) := by
  have hrun := fun r s => (run r s).trans (runOwn_eq s r (tag r))
  refine ⟨emits_of_healthy hrun fun s c es hdl hok => ?_, passesLp_of_run hrun fun s c es hok => ?_,
    passesDl_of_run hrun fun s c es hok => ?_⟩
  all_goals
    obtain ⟨tf, ht, rfl⟩ := h _ _ _ _ hok
    simp only [ownPass, ht]
  simp only [passLanes, hdl, Bool.false_eq_true, if_false]

theorem own_traps {ok : State → Ctx → Trap → Prop} (h : ∀ s c t, ok s c t → tag c.r c = .error t) : traps i plain ok := by
  refine traps_of_run (fun r s => (run r s).trans (runOwn_eq s r (tag r))) fun s c t hok => ?_
  rw [ownPass, h s c t hok]

end

theorem pushTag_ok {t f w v : Nat} (hv : v < 2 ^ w) (hf : f + w ≤ 64) : pushTag t f w v = .ok (t <<< w ||| v, f + w) := by
  rw [pushTag, if_neg (by rw [gt_iff_lt, ones_lt]; omega), if_neg (by omega)]

theorem tagBump_ok {shape : List Nat} {t f d : Nat} (hf : tagOff shape d + shape.getD d 0 ≤ f)
    (hv : field t (tagOff shape d) (shape.getD d 0) ≠ ones (shape.getD d 0)) :
    tagBump shape t f d = .ok (t >>> (tagOff shape d + shape.getD d 0) <<< (tagOff shape d + shape.getD d 0) +
      (field t (tagOff shape d) (shape.getD d 0) + 1) <<< tagOff shape d, f) := by
  rw [tagBump]
  simp only [if_neg (Nat.not_lt.2 hf), beq_eq_false_iff_ne.2 hv, Bool.false_eq_true, if_false]

theorem exec_pusht (r : NodeRec) (s : State) :
    exec (.pusht r) s = runOwn s r fun c => pushTag (ctxTag c) c.f.a.fill (c.r.modx.toNat + 1) (fieldValue c) := rfl

theorem exec_popt (r : NodeRec) (s : State) : exec (.popt r) s = runOwn s r fun c => tagRule c.shape (ctxTag c) c.f.a.fill .pop := rfl

theorem exec_iter (r : NodeRec) (s : State) :
    exec (.iter r) s = runOwn s r fun c => tagBump c.shape (ctxTag c) c.f.a.fill c.r.modx.toNat := rfl

/-- Settles O16: the tag that each node forms, and its traps. -/
theorem tagInstructionsComplete : Obligations.TagInstructionsComplete := by
  unfold Obligations.TagInstructionsComplete
  intro value push pop bump
  have hvalue (c : Ctx) : fieldValue c = value c := by
    unfold fieldValue controlVal
    dsimp only [value]
    cases c.r.arity <;> cases c.f.b <;> rfl
  refine ⟨?_, ?_, ?_, ?_, ?_, ?_⟩
  · refine List.forall_mem_cons.2 ⟨?_, List.forall_mem_cons.2 ⟨?_, List.forall_mem_singleton.2 ?_⟩⟩
    · refine own_passes (ok := push) exec_pusht fun lanes lp c es ⟨hv, hf, he⟩ => ⟨_, ?_, he⟩
      rw [hvalue]
      exact pushTag_ok hv hf
    · exact own_passes (ok := pop) exec_popt fun lanes lp c es ⟨hw, he⟩ => ⟨_, if_neg (Nat.not_lt.2 hw), he⟩
    · exact own_passes (ok := bump) exec_iter fun lanes lp c es ⟨hf, hv, he⟩ => ⟨_, tagBump_ok hf hv, he⟩
  · refine own_traps exec_pusht ?_
    rintro s c t ⟨hv, rfl⟩
    exact if_pos (by rwa [hvalue])
  · refine own_traps exec_pusht ?_
    rintro s c t ⟨hv, hf, rfl⟩
    exact (if_neg (by rw [hvalue]; omega)).trans (if_pos hf)
  · refine own_traps exec_popt ?_
    rintro s c t ⟨hf, rfl⟩
    exact if_pos hf
  · refine own_traps exec_iter ?_
    rintro s c t ⟨hf, rfl⟩
    exact if_pos hf
  · refine own_traps exec_iter ?_
    rintro s c t ⟨hf, hv, rfl⟩
    exact (if_neg (Nat.not_lt.2 hf)).trans (if_pos (by simpa using hv))

theorem exec_sett (r : NodeRec) (s : State) :
    exec (.sett r) s = runOwn s r fun c => setField c.shape (ctxTag c) c.f.a.fill c.r.modx.toNat (fieldValue c) := rfl

theorem getField_ok {shape : List Nat} {t f d : Nat} (hd : d < shape.length) (hf : tagOff shape d + shape.getD d 0 ≤ f) :
    getField shape t f d = .ok (field t (tagOff shape d) (shape.getD d 0)) := by
  rw [getField]
  exact if_neg (by simpa using ⟨hd, hf⟩)

/-- Settles O17. -/
theorem tagFieldsSetAndRead : Obligations.TagFieldsSetAndRead := by
  unfold Obligations.TagFieldsSetAndRead
  intro sets
  obtain ⟨hdata, hlp, hdl⟩ := own_passes (ok := sets) exec_sett fun lanes lp c es ⟨hd, hf, hv, he⟩ => ⟨_, by
    rw [setField, if_neg (by simpa using ⟨hd, hf⟩), if_neg (Nat.not_lt.2 hv)], he⟩
  refine ⟨hdata, hlp, hdl, own_traps exec_sett ?_, emits_of_run (fun _ _ => rfl) ?_, emits_of_run (fun _ _ => rfl) ?_,
    traps_of_run (fun _ _ => rfl) ?_⟩
  · rintro s c t ⟨hd, hf, hv, rfl⟩
    rw [setField, if_neg (by simpa using ⟨hd, hf⟩), if_pos hv]
    rfl
  · rintro s c es ⟨ht, hd, hf, hout⟩
    simp only [gettBody, ht, getField_ok hd hf, hout]
    rfl
  · rintro s c es ⟨ht, he, hout⟩
    simp only [gettBody, ht, he, hout]
    rfl
  · rintro s c t ⟨ht, ho, rfl⟩
    simp only [gettBody, ht, ho]
    rfl

/-! Widths. -/

theorem doneWith_ok {s : State} {out : Except Trap (List Emission)} {es : List Emission} (h : out = .ok es) (fl : Flags) :
    doneWith s out fl = .done s es fl := by rw [h]; rfl

section
variable {c : Ctx} (res : Res)

theorem evenA_even (h : ¬(wide c.r.type = true ∧ laneCount c % 2 = 1)) : evenA c res = res := if_neg (by simpa using h)

theorem evenA_odd (h : wide c.r.type = true ∧ laneCount c % 2 = 1) : evenA c res = .trap ⟨0x04, 1, 0⟩ := if_pos (by simpa using h)

end

theorem widthGrant_eq (m : Manifest) (t : Ty) (q : Nat) : widthGrant m t q =
    if wide t = true ∧ min q (if m.fold4 then 8 else if m.fold2 then 16 else 32) % 2 = 1 then
      min q (if m.fold4 then 8 else if m.fold2 then 16 else 32) + 1
    else min q (if m.fold4 then 8 else if m.fold2 then 16 else 32) := by
  have hcap : widthCap m = if m.fold4 then 8 else if m.fold2 then 16 else 32 := by
    unfold widthCap declFold
    split
    · rfl
    · split <;> rfl
  simp only [widthGrant, hcap, Bool.and_eq_true, beq_iff_eq]

/-- Settles O19. -/
theorem widthInstructionsComplete : Obligations.WidthInstructionsComplete := by
  refine ⟨emits_of_run (fun r s => by dsimp only [exec, execCtxw, runPlain]) ?_, emits_of_run (fun r s => by dsimp only [exec, execPack, runPlain]) ?_,
    traps_of_run (fun r s => by dsimp only [exec, execPack, runPlain]) ?_, emits_of_run (fun r s => by dsimp only [exec, execUnpack, runPlain]) ?_,
    traps_of_run (fun r s => by dsimp only [exec, execUnpack, runPlain]) ?_, emits_of_run (fun r s => by dsimp only [exec, execRecol, runPlain]) ?_, ?_⟩
  · rintro s c es ⟨he, hout⟩
    rw [evenA_even _ he, widthGrant_eq]
    simp only [beq_iff_eq]
    exact doneWith_ok hout 0
  · rintro s c es ⟨he, hn, hout⟩
    rw [evenA_even _ he, if_neg (by omega), hout]
    rfl
  · rintro s c t ⟨he, hn, rfl⟩
    rw [evenA_even _ he, if_pos (by omega)]
    rfl
  · rintro s c es ⟨he, hn, hw, x, y, hx, hy, rfl⟩
    rw [evenA_even _ he, if_neg (by simpa [hn] using hw), hx, hy]
    rfl
  · rintro s c t ⟨he, hn, rfl⟩
    rw [evenA_even _ he, if_pos (by simpa using hn)]
    rfl
  · rintro s c es ⟨he, hout⟩
    rw [evenA_even _ he, hout]
    rfl
  · change ∀ i ∈ [Instr.ctxw, .pack, .unpack, .recol], traps i plain fun _ c t => ¬¬(wide c.r.type = true ∧ laneCount c % 2 = 1) ∧ t = ⟨0x04, 1, 0⟩
    have odd {i : NodeRec → Instr} {res : NodeRec → State → Ctx → Res}
        (run : ∀ r s, exec (i r) s = runPlain s r plain fun s c => evenA c (res r s c)) :
        traps i plain fun _ c t => ¬¬(wide c.r.type = true ∧ laneCount c % 2 = 1) ∧ t = ⟨0x04, 1, 0⟩ := by
      refine traps_of_run (body := fun r s c => evenA c (res r s c)) run ?_
      rintro s c t ⟨h, rfl⟩
      exact evenA_odd _ (not_not.1 h)
    refine List.forall_mem_cons.2 ⟨odd fun r s => by dsimp only [exec, execCtxw], List.forall_mem_cons.2
      ⟨odd fun r s => by dsimp only [exec, execPack], List.forall_mem_cons.2 ⟨odd fun r s => by dsimp only [exec, execUnpack],
      List.forall_mem_singleton.2 (odd fun r s => by dsimp only [exec, execRecol])⟩⟩⟩

end Sys2Proof.Programs
end

section
/-! SUPPORT. A MERGE whose firing names a port past 1, which its statement does not rule out. -/

namespace Sys2Proof.Programs

open Machine Safety Laws Tests

/-- What a site's firing sees, as a fact. -/
theorem of_sees {x : Site} {g : Ctx → Bool} (h : sees x g = true) : ∃ c, ctxOf x.s x.f x.r = some c ∧ g c = true := by
  unfold sees at h
  split at h
  · cases h
  next c hc => exact ⟨c, hc, h⟩

/-- An outcome that is not the next state `t`. -/
theorem ne_next_of_nextIs {o : Out} {t : State} (h : nextIs o t = false) : o ≠ .next t := by
  rintro rfl
  simp [nextIs] at h

/-- A MERGE with PORTBIT set, fired at port 2: its firing is no desk's, but nothing in `fires` refuses it. -/
def mergeAtPortTwo : Site :=
  let x := site 0x91 (nr .i32 .mono 1 0 2 5) (tok 0 [9])
  let f := { x.f with port := 2 }
  { x with f, s := { x.s with issue := .node f } }

/-- The tokens that the statement says it emits. -/
def portTwoTokens (c : Ctx) : List Emission := outTag c (passLanes c) (ctxTag c * 2 + c.f.port, c.f.a.fill + 1) false false []

theorem mergeAtPortTwo_traps : sees mergeAtPortTwo (fun c =>
    decide (fires mergeAtPortTwo.s c plain) && !wide c.r.type && bit c.r.modx.toNat 0 && decide (c.r.dsta ≠ 0x7FFFF) &&
      decide (c.r.tagop = .same) && decide (c.f.a.fill < 64) &&
      (rateTrap c (portTwoTokens (own mergeAtPortTwo.s c plain)) 0).isNone &&
      !nextIs (exec (.merge c.r) mergeAtPortTwo.s)
        (completed (started mergeAtPortTwo.s c plain) c (portTwoTokens (own mergeAtPortTwo.s c plain)) 0)) = true := by
  decide +kernel

/-- Refutes O20: with PORTBIT set, a MERGE fired at a port above 1 cannot push the port as a 1-bit field; it traps TAG_OVERFLOW
detail 0, where the statement, which does not bound the port, has it emit. -/
theorem not_steeringInstructionsComplete : ¬ Obligations.SteeringInstructionsComplete := by
  rintro ⟨-, -, -, -, -, -, hmerge, -⟩
  obtain ⟨c, -, h⟩ := of_sees mergeAtPortTwo_traps
  simp only [Bool.and_eq_true, decide_eq_true_eq, Bool.not_eq_true', Option.isNone_iff_eq_none] at h
  obtain ⟨⟨⟨⟨⟨⟨⟨hf, hw⟩, hbit⟩, hd⟩, htag⟩, hfill⟩, hrate⟩, hne⟩ := h
  refine ne_next_of_nextIs hne (hmerge _ c _ _ _ hf ⟨rfl, rfl, ?_, hbit, fun hboth => hd hboth.1, (ctxTag c, c.f.a.fill), ?_, hfill, rfl⟩ hrate)
  · rintro ⟨hwide, -⟩
    exact Bool.false_ne_true (hw.symm.trans hwide)
  · exact (congrArg (tagRule _ _ _) htag).trans rfl

end Sys2Proof.Programs
end

section
/-! SUPPORT. The ends of streams and the start of blocks (R123, R125, R129, R142). -/

namespace Sys2Proof.Programs

open Machine Safety Laws

theorem outAppend_ok {x y : Except Trap (List Emission)} {a b : List Emission} (hx : x = .ok a) (hy : y = .ok b) :
    outAppend x y = .ok (a ++ b) := by
  rw [hx, hy]
  rfl

/-- The lowest free context of a tile. -/
theorem freeCtx_eq_some {t : Tile} {i : Nat} :
    freeCtx t = some i ↔ i < 8 ∧ (∀ k ∈ t.ctxs, k.idx ≠ i) ∧ ∀ j < i, ∃ k ∈ t.ctxs, k.idx = j := by
  rw [freeCtx, upTo, List.find?_range_eq_some]
  simp only [Bool.not_eq_true', Bool.not_not, List.any_eq_true, List.any_eq_false, beq_iff_eq, List.mem_range, ne_eq]
  tauto

theorem freeCtx_eq_none {t : Tile} : freeCtx t = none ↔ ∀ i < 8, ∃ k ∈ t.ctxs, k.idx = i := by
  simp [freeCtx, upTo]

/-- A last post at SINK in the root frame with fill 0. -/
theorem exec_sink_posted {s : State} {c : Ctx} (h : firesLp s c plain) (hk : c.fr.kind = .root) (hf : c.f.a.fill = 0) :
    exec (.sink c.r) s = .next (complete (modLaunch (started s c plain) c.f.slot fun l =>
      { l with posted := unionNat l.posted [fNode c.f] }) c [] 0) := by
  have hroot : ((own s c plain).fr.kind == .root && (own s c plain).f.a.fill == 0) = true := by
    change (c.fr.kind == .root && c.f.a.fill == 0) = true
    rw [hk, hf]
    rfl
  simp only [exec, execSink, runNode_firesLp h, hroot, if_true]
  rfl

/-- Settles O21. -/
theorem streamsEndAndBlocksStart : Obligations.StreamsEndAndBlocksStart := by
  refine ⟨emits_of_run (fun r s => by dsimp only [exec, execSink]) ?_, fun s c => exec_sink_posted,
    passesLp_of_run (fun r s => by dsimp only [exec, execSink]) ?_,
    emits_of_run (fun r s => by dsimp only [exec, execLpost]) ?_,
    passesLp_of_run (fun r s => by dsimp only [exec, execLpost]) fun _ _ _ => lpOut_done,
    emits_of_run (fun r s => by dsimp only [exec, execWaitlp]) ?_,
    passesLp_of_run (fun r s => by dsimp only [exec, execWaitlp]) ?_, passesLp_of_run (fun r s => by dsimp only [exec, execWaitlp]) ?_,
    answersNext_of_run (body := fun _ => seqBody) (fun r s => rfl) ?_, holds_of_run (body := fun _ => seqBody) (fun r s => rfl) ?_⟩
  · rintro s c es rfl
    rfl
  · rintro s c es ⟨hn, rfl⟩
    exact if_neg (by simpa using hn)
  · rintro s c es ⟨he, rest, hout, rfl⟩
    rw [evenA_even _ he]
    exact doneWith_ok (outAppend_ok rfl hout) 0
  · rintro s c es ⟨he, hout⟩
    rw [evenA_even _ he]
    exact doneWith_ok hout 0
  · rintro s c es ⟨hb, hout⟩
    rw [hb]
    exact doneWith_ok hout 0
  · rintro s c es ⟨hb, x, y, hx, hy, rfl⟩
    rw [hb]
    exact doneWith_ok (outAppend_ok hx hy) 0
  · rintro s c t ⟨i, hi, hfree, hlow, rfl⟩
    rw [seqBody, freeCtx_eq_some.2 ⟨hi, hfree, hlow⟩]
    rfl
  · intro s c h
    rw [seqBody, freeCtx_eq_none.2 h]

end Sys2Proof.Programs
end

section
/-! SUPPORT. The instructions of blocks only (R170 to R176). -/

namespace Sys2Proof.Programs

open Machine Safety Laws

/-- An included word of LDTB: the latest held lane, else the bytes of SRAM. -/
theorem getD_heldLane (k : BlockCtx) (o : Nat) (v : Lane) :
    (match heldLane k o with
      | some x => x
      | none => v) = (heldLane k o).getD v := by
  cases heldLane k o <;> rfl

/-- Settles O22. -/
theorem blockOnlyInstructionsComplete : Obligations.BlockOnlyInstructionsComplete := by
  refine ⟨runsTo_of_run (fun b s => by dsimp only [exec, execGet]) ?_, runsTo_of_run (fun b s => by dsimp only [exec, execEmit]) ?_,
    runsTo_of_run (fun b s => by dsimp only [exec, execEmitc]) ?_, runsTo_of_run (fun b s => by dsimp only [exec, execEmitc]) ?_,
    runsTo_of_run (fun b s => by dsimp only [exec, execLdtb]) ?_, runsTo_of_run (fun b s => by dsimp only [exec, execSttb]) ?_,
    runsTo_of_run (fun b s => by dsimp only [exec, execXadd]) ?_, runsTo_of_run (fun b s => by dsimp only [exec, execRdsysb]) ?_,
    runsTo_of_run (fun b s => by dsimp only [exec, execLmask]) ?_⟩
  · rintro s c s1 k ⟨rfl, w, hw, rfl⟩
    simp only [hw]
    rfl
  · rintro s c s1 k ⟨rfl, rfl⟩
    rfl
  · rintro s c s1 k ⟨rfl, hb, rfl⟩
    simp only [hb, if_true]
    rfl
  · rintro s c s1 k ⟨rfl, hb, rfl⟩
    simp only [hb, Bool.false_eq_true, if_false]
  · rintro s c s1 k ⟨o, ho, hbad, hrace, rfl⟩
    have hfind : (((upTo c.n).filter fun k => wordIncluded c k).find? fun j =>
        (heldLane c.k (o + 4 * j)).isNone && badRange (tileOf c.l c.vtile) (o + 4 * j) 4) = none :=
      List.find?_eq_none.2 fun j hj => by
        cases hh : heldLane c.k (o + 4 * j) with
        | some v => simp
        | none => simp [hbad j hj hh]
    have hrace' : checkAccesses s c.slot (((upTo c.n).filter fun k => wordIncluded c k).flatMap fun k =>
        sramBy s c.k.firing c.k.group c.k.pc .read (o + 4 * k) 4 k) = .ok s1 := hrace
    simp only [ho, hfind, hrace']
    refine congrArg (fun ls => BRes.next s1 (setReg c.k c.b.d ls)) (List.map_congr_left fun j _ => ?_)
    split
    · exact getD_heldLane c.k (o + 4 * j) _
    · rfl
  · rintro s c s1 k ⟨rfl, o, ho, rfl⟩
    simp only [ho]
    rfl
  · rintro s c s1 k ⟨rfl, hs, he, htrap, rfl⟩
    have he' : (wide c.b.type && c.n % 2 == 1) = false := by simpa using he
    simp only [hs, he', htrap, Bool.false_eq_true, if_false]
    rfl
  · rintro s c s1 k ⟨rfl, rfl⟩
    rfl
  · rintro s c s1 k ⟨rfl, rfl⟩
    refine congrArg (fun ls => BRes.next s1 (setReg c.k c.b.d ls)) (List.map_congr_left fun j _ => ?_)
    simp only [Bool.and_eq_true, decide_eq_true_eq]
    rfl

/-- The commit of a context found at the end of its block. -/
theorem exec_blockCommit {s : State} {slot vtile ctx : Nat} {l : Launch} {k : BlockCtx} {r : NodeRec} {c : Ctx}
    (hl : findLaunch s slot = some l) (hk : findCtx l vtile ctx = some k) (hr : recOf l k.firing = some r)
    (hc : ctxOf s k.firing r = some c) (hpc : (blockWords l k.firing).length ≤ k.pc) :
    exec (.blockCommit slot vtile ctx) s = .next (commitBlock s c vtile k) := by
  simp only [exec, execBlockCommit, hl, hk, hr, hc, if_neg (Nat.not_lt.2 hpc)]

/-- Settles O23: the tests of `commitBlock` in their order. -/
theorem blocksCommitAsOneUnit : Obligations.BlocksCommitAsOneUnit := by
  intro s slot vtile ctx l k r c hl hk hr hc hpc
  rw [exec_blockCommit hl hk hr hc hpc]
  refine ⟨fun es sx hout hrate hbad hrace => ?_, fun es u hout hrate hbad => ?_, fun t hout => ?_⟩
  · simp only [commitBlock, hout, hrate, hbad, hrace]
    rfl
  · simp only [commitBlock, hout, hrate, hbad]
  · simp only [commitBlock, hout]
    rfl

end Sys2Proof.Programs
end

section
/-! SUPPORT. SEMSIG and SEMWAIT as nodes (R320, R372). -/

namespace Sys2Proof.Programs

open Machine Safety Laws Elements

/-- A data firing of a speculative task at a node that none may fire (R342). -/
theorem runNode_speculative {s : State} {c : Ctx} {p : Policy} {d : Nat} (h : issued s c p) (hlp : isLp p c.f = false)
    (hdl : anyDl c.f = false) (hp : p.spec = some d) (hs : speculative s c.f.a.fh = true) (msgs : Ctx → Nat) (lp dl body : State → Ctx → Res) :
    runNode s c.r p msgs lp dl body = .next (trapFiring (counted s c p) c.f ⟨0x0B, d, 0⟩) := by
  obtain ⟨h1, h2, h3, h4, h5⟩ := h
  rw [hlp] at h5
  simp [runNode, h1, h2, h3, h4, h5, hlp, hdl, preTrap, hp, hs, mkTrap]

/-- Two lanes in each operand of a semaphore node. -/
def semFit (c : Ctx) : Prop := 2 ≤ laneCount c ∧ 2 ≤ (bLanes c).length

/-- What SEMSIG and SEMWAIT hand to the store buffer. -/
def semReq (op : Ctx → ReqOp) (s : State) (c : Ctx) : Req :=
  newReq s c (op c) (if bit (lanes64 c.f.a.lanes 0) 63 then .host else .device) [lanes64 c.f.a.lanes 0 % 2 ^ 52] 8 (bLanes c) false false

theorem semTrap_lanes {c : Ctx} (h : ¬semFit c) : semTrap c = some ⟨0x04, 2, 0⟩ := by
  rw [semTrap, if_pos]
  · rfl
  · unfold semFit at h
    simp only [Bool.or_eq_true, decide_eq_true_eq]
    omega

theorem semTrap_fit {c : Ctx} (h : semFit c) : semTrap c =
    if field (lanes64 c.f.a.lanes 0) 52 11 ≠ 0 then some ⟨0x08, 4, 0⟩
    else if lanes64 c.f.a.lanes 0 % 8 ≠ 0 then some ⟨0x0E, 0, 0⟩ else none := by
  obtain ⟨ha, hb⟩ := h
  rw [semTrap, if_neg]
  · simp only [bne_iff_ne]
    rfl
  · simp only [Bool.or_eq_true, decide_eq_true_eq]
    omega

section
variable {i : NodeRec → Instr} {op : NodeRec → ReqOp} (run : ∀ r s, exec (i r) s = runPlain s r (specOf 3) (semBody (op r)))
include run

theorem semNode_hands : answersNext i (specOf 3) fun s c t => semFit c ∧ field (lanes64 c.f.a.lanes 0) 52 11 = 0 ∧
    lanes64 c.f.a.lanes 0 % 8 = 0 ∧ outputTrap c 0 = none ∧ t = acceptReq s c.f.slot (semReq (fun c => op c.r) s c) := by
  refine answersNext_of_run (body := fun r => semBody (op r)) run ?_
  rintro s c t ⟨hfit, hr, ha, hout, rfl⟩
  rw [semBody, semTrap_fit hfit, if_neg (not_not.2 hr), if_neg (not_not.2 ha), hout, low_eq_mod]
  rfl

theorem semNode_traps {ok : State → Ctx → Trap → Prop} (h : ∀ s c t, ok s c t → semTrap c = some t) : traps i (specOf 3) ok := by
  refine traps_of_run (body := fun r => semBody (op r)) run fun s c t hok => ?_
  rw [semBody, h s c t hok]
  rfl

theorem semNode_speculative (s : State) (c : Ctx) (hi : issued s c (specOf 3)) (hlp : isLp (specOf 3) c.f = false)
    (hdl : anyDl c.f = false) (hs : speculative s c.f.a.fh = true) :
    exec (i c.r) s = .next (trapFiring (counted s c (specOf 3)) c.f ⟨0x0B, 3, 0⟩) :=
  (run c.r s).trans (runNode_speculative hi hlp hdl rfl hs _ _ _ _)

end

/-- Settles O32: the checks of `semTrap` in their order. -/
theorem semaphoreNodesHandTheirRequests : Obligations.SemaphoreNodesHandTheirRequests := by
  unfold Obligations.SemaphoreNodesHandTheirRequests
  have node {i : NodeRec → Instr} {op : NodeRec → ReqOp} (run : ∀ r s, exec (i r) s = runPlain s r (specOf 3) (semBody (op r))) :
      _ ∧ _ ∧ _ ∧ _ ∧ _ := ⟨semNode_hands run,
    semNode_traps (ok := fun _ c t => ¬semFit c ∧ t = ⟨0x04, 2, 0⟩) run fun _ _ _ ⟨h, ht⟩ => ht ▸ semTrap_lanes h,
    semNode_traps (ok := fun _ c t => semFit c ∧ field (lanes64 c.f.a.lanes 0) 52 11 ≠ 0 ∧ t = ⟨0x08, 4, 0⟩) run
      fun _ _ _ ⟨h, hr, ht⟩ => by rw [semTrap_fit h, if_pos hr, ht],
    semNode_traps (ok := fun _ c t => semFit c ∧ field (lanes64 c.f.a.lanes 0) 52 11 = 0 ∧ lanes64 c.f.a.lanes 0 % 8 ≠ 0 ∧
      t = ⟨0x0E, 0, 0⟩) run fun _ _ _ ⟨h, hr, ha, ht⟩ => by rw [semTrap_fit h, if_neg (not_not.2 hr), if_pos ha, ht],
    semNode_speculative run⟩
  exact List.forall_mem_cons.2 ⟨node (op := fun r => if bit r.modx.toNat 3 then .semAdd else .semSet) fun _ _ => rfl,
    List.forall_mem_singleton.2 (node (op := fun _ => .semWait) fun _ _ => rfl)⟩

end Sys2Proof.Programs
end

section
/-! SUPPORT. A LUT of a table whose bytes are listed out of order, which its statement does not rule out. -/

namespace Sys2Proof.Programs

open Machine Safety Laws Tests

/-- A LUT of a table whose second coefficient, 1.0, stands in memory with its two bytes in falling order of address. -/
def lutOutOfOrder : Site :=
  site 0xC7 (nr .f32 .mono 0 5 2 5) (tok 0 [0]) none
    (tile0 fun t => { t with luts := t.luts.set 5 { bytes := [(7, 0x3F), (6, 0x80)], defined := true } })

/-- The elements and flags that the statement gives for a LUT. -/
def lutOuts (c : Ctx) : List (Nat × Flags) :=
  let tb := (tileOf c.l (fTile c.f)).luts.getD (lutIndex c) { bytes := [], defined := false }
  let f := fmtOrF32 .f32
  let coeff (i : Nat) : Val := decodeVal f (readNat tb.bytes (4 * i) 4)
  (elems .f32 c.f.a.lanes).mapIdx fun e x =>
    let i := lutEntry (decodeVal f x)
    fFma f (coeff (2 * i)) (decodeVal f x) (coeff (2 * i + 1)) c.r.rnd (rsrBits (rsrSeed c.fr.fid c.f.a.tag (fNode c.f) 0) e)

/-- The flags of those elements. -/
def lutRaised (c : Ctx) : Raised := (lutOuts c).mapIdx fun e o => (e, o.2)

/-- The lanes of the tokens on their routes. -/
def sentLanes (s : State) : List (List Lane) := s.launches.flatMap fun l => l.flights.map fun f => f.2.lanes

/-- Whether an outcome is a next state with the same lanes on the routes. -/
def sendsAlike (o : Out) (t : State) : Bool :=
  match o with
  | .next u => sentLanes u == sentLanes t
  | .fault _ | .refused _ => false

theorem ne_next_of_sendsAlike {o : Out} {t : State} (h : sendsAlike o t = false) : o ≠ .next t := by
  rintro rfl
  simp [sendsAlike] at h

/-- The LUT meets the statement's conditions, and does not end as it says. -/
theorem lutOutOfOrder_differs : sees lutOutOfOrder (fun c =>
    let s0 := started lutOutOfOrder.s c plain
    let o := own lutOutOfOrder.s c plain
    decide (fires lutOutOfOrder.s c plain) &&
      ((tileOf o.l (fTile o.f)).luts.getD (lutIndex o) { bytes := [], defined := false }).defined &&
      (arithTrap o.l .f32 (lutRaised o)).isNone &&
      match checkAccesses (newGroup s0).1 o.f.slot [unitBy (newGroup s0).1 o.f (newGroup s0).2 .read (locLut 0 (lutIndex o))],
        outBoth o (packElems .f32 ((lutOuts o).map (·.1))) false false [(newGroup s0).2] with
      | .ok s1, .ok es => (rateTrap c es 0).isNone &&
          !sendsAlike (exec (.lut c.r) lutOutOfOrder.s) (completed s1 c es (allFlags (lutRaised o)))
      | _, _ => false) = true := by decide +kernel

/-- Refutes O26: the array reads a table in one pass over its bytes, which finds them only where they are listed at rising
addresses; the statement reads each coefficient on its own and asks for no such order. -/
theorem not_functionUnitsComplete : ¬ Obligations.FunctionUnitsComplete := by
  rintro ⟨-, -, -, -, hlut, -⟩
  obtain ⟨c, -, h⟩ := of_sees lutOutOfOrder_differs
  simp only [Bool.and_eq_true, decide_eq_true_eq, Option.isNone_iff_eq_none] at h
  obtain ⟨⟨⟨hf, hdef⟩, harith⟩, h⟩ := h
  split at h
  next s1 es hs hout =>
    simp only [Bool.and_eq_true, Bool.not_eq_true', Option.isNone_iff_eq_none] at h
    obtain ⟨hrate, hne⟩ := h
    exact ne_next_of_sendsAlike hne (hlut _ c _ _ _ hf ⟨hdef, harith, rfl, hs, hout⟩ hrate)
  · cases h

end Sys2Proof.Programs
end

section
/-! SUPPORT. The instructions of exact sums (R201 to R205). -/

namespace Sys2Proof.Programs

open Machine Safety Laws

theorem withAccesses_ok {s sx : State} {slot : Nat} {xs : List Access} (h : checkAccesses s slot xs = .ok sx) (k : State → Res) :
    withAccesses s slot xs k = k sx := by rw [withAccesses, h]

theorem untrapped {x : Option Trap} (res : Res) : x = none →
    (match x with
      | some t => Res.trap t
      | none => res) = res := by
  rintro rfl
  rfl

/-- A firing completed outside `runNode`, without a rate mismatch. -/
theorem settle_done {s s1 : State} {c : Ctx} {es : List Emission} (h : rateTrap c es 0 = none) (fl : Flags) :
    settle s c 0 true (.done s1 es fl) = completed s1 c es fl := by
  rw [settle, if_pos rfl, h]
  rfl

/-- The arrival of a sent register (R203). -/
theorem exec_xsendArrival {s : State} {slot id : Nat} {l : Launch} {f : Firing} {reg vt g : Nat} {x : Xacc} {hb : List Nat}
    {r : NodeRec} {c : Ctx} {sx : State} {es : List Emission} (hl : findLaunch s slot = some l)
    (hg : assoc l.cargo id = some (.xsend f reg vt x [g] hb)) (hr : recOf l f = some r)
    (hc : ctxOf (setLaunch s { l with cargo := assocDel l.cargo id }) f r = some c)
    (hx : checkAccesses (setLaunch s { l with cargo := assocDel l.cargo id }) slot
      [{ unitBy (setLaunch s { l with cargo := assocDel l.cargo id }) f g (.cls 0) (locXacc reg) with place := vt }] = .ok sx)
    (hout : outBoth c f.a.lanes false false [g] = .ok es) (hrate : rateTrap c es 0 = none) :
    exec (.xsendArrival slot id) s = .next (completed
      (modLaunch sx slot fun l => modTile l vt fun t => setXacc t reg (addToXacc t reg x)) c es 0) := by
  have ht : takeCargo s slot id = some (setLaunch s { l with cargo := assocDel l.cargo id },
      { l with cargo := assocDel l.cargo id }, .xsend f reg vt x [g] hb) := by simp only [takeCargo, hl, hg]
  have hr' : recOf { l with cargo := assocDel l.cargo id } f = some r := hr
  simp only [exec, execXsendArrival, ht, hr', hc, List.headD_cons]
  exact congrArg Host.Outcome.next ((congrArg (settle _ c 0 true) ((withAccesses_ok hx _).trans (doneWith_ok hout 0))).trans
    (settle_done hrate 0))

/-- Settles O27: each form's own effect, its accesses made. -/
theorem exactSumInstructionsComplete : Obligations.ExactSumInstructionsComplete := by
  refine ⟨completes_of_run (body := fun _ => reduceBody) (fun _ _ => rfl) ?_, completes_of_run (body := fun _ => xreadBody) (fun _ _ => rfl) ?_,
    answersNext_of_run (body := fun _ => xsendBody) (fun _ _ => rfl) ?_, traps_of_run (body := fun _ => xsendBody) (fun _ _ => rfl) ?_,
    fun s slot id l f reg vt x g hb r c sx es hl hg hr => exec_xsendArrival hl hg hr, 
    completes_of_run (body := fun _ => xmergeBody) (fun _ _ => rfl) ?_, completes_of_run (body := fun _ => xclrBody) (fun _ _ => rfl) ?_,
    completes_of_run (body := fun _ => decodetabBody) (fun _ _ => rfl) ?_⟩
  · rintro s c s1 es fl ⟨he, htrap, rfl, sx, hx, rfl, hout⟩
    rw [reduceBody, evenA_even _ he]
    simp only [htrap]
    exact (withAccesses_ok hx _).trans (doneWith_ok hout _)
  · rintro s c s1 es fl ⟨htrap, rfl, hx, hout⟩
    refine (untrapped _ htrap).trans ((withAccesses_ok hx _).trans ?_)
    exact doneWith_ok hout _
  · rintro s c t ⟨hv, sx, hx, rfl⟩
    unfold xsendBody
    simp only [beq_iff_eq]
    refine (if_neg (Nat.not_le.2 hv)).trans ?_
    exact withAccesses_ok hx _
  · rintro s c t ⟨hv, rfl⟩
    refine if_pos ?_
    simpa using hv
  · rintro s c s1 es fl ⟨rfl, sx, hx, rfl, hout⟩
    exact (withAccesses_ok hx _).trans (doneWith_ok hout _)
  · rintro s c s1 es fl ⟨rfl, sx, hx, rfl, hout⟩
    exact (withAccesses_ok hx _).trans (doneWith_ok hout _)
  · rintro s c s1 es fl ⟨rfl, sx, hx, rfl, hout⟩
    exact (withAccesses_ok hx _).trans (doneWith_ok hout _)

end Sys2Proof.Programs
end

section
/-! SUPPORT. LDT, STT and the tile forms of the atomics as nodes (R210 to R214). -/

namespace Sys2Proof.Programs

open Machine Safety Laws

/-! Nodes whose run is known for some records only. -/

section
variable {i : NodeRec → Instr} {p : Policy} {g : NodeRec → Prop} {lp dl body : NodeRec → State → Ctx → Res}
  (run : ∀ r s, g r → exec (i r) s = runNode s r p (fun _ => 0) (lp r) (dl r) (body r))
include run

theorem completes_of_runs {ok : State → Ctx → State → List Emission → Flags → Prop}
    (h : ∀ s c s1 es fl, ok s c s1 es fl → g c.r ∧ body c.r s c = .done s1 es fl) : completes i p ok := by
  intro s c s1 es fl hf hok hr
  obtain ⟨hg, hb⟩ := h _ _ _ _ _ hok
  exact (run c.r s hg).trans (runNode_done hf hb hr)

theorem answersNext_of_runs {ok : State → Ctx → State → Prop} (h : ∀ s c t, ok s c t → g c.r ∧ body c.r s c = .later t) :
    answersNext i p ok := by
  intro s c t hf hok
  obtain ⟨hg, hb⟩ := h _ _ _ hok
  exact (run c.r s hg).trans (runNode_later hf hb)

theorem traps_of_runs {ok : State → Ctx → Trap → Prop} (h : ∀ s c t, ok s c t → g c.r ∧ body c.r s c = .trap t) : traps i p ok := by
  intro s c t hf hok
  obtain ⟨hg, hb⟩ := h _ _ _ hok
  exact (run c.r s hg).trans (runNode_trap hf hb)

end

/-! The checks of a tile form. -/

/-- The first element, counted from `k`, of which `f` says something. -/
theorem findSome?_mapIdx {β : Type} {f : Nat × Nat → Option β} {xs : List Nat} {k u o : Nat} {b : β} (ho : xs[u]? = some o)
    (hb : f (k + u, o) = some b) (hn : ∀ x ∈ xs.take u, ∀ j, f (j, x) = none) :
    (xs.mapIdx fun i x => (k + i, x)).findSome? f = some b := by
  induction xs generalizing k u with
  | nil => cases ho
  | cons x xs ih =>
    rw [List.mapIdx_cons]
    cases u with
    | zero =>
      cases ho
      rw [List.findSome?_cons, Nat.add_zero, show f (k, o) = some b from hb]
    | succ u =>
      rw [List.findSome?_cons, hn x List.mem_cons_self]
      have hk : (fun i (y : Nat) => (k + (i + 1), y)) = fun i y => (k + 1 + i, y) := by
        funext i y
        rw [Nat.add_assoc, Nat.add_comm 1 i]
      rw [hk]
      refine ih ho ?_ fun y hy => hn y (List.mem_cons_of_mem x hy)
      rwa [Nat.add_assoc, Nat.add_comm 1 u]

/-- An aligned offset of a unit within SRAM. -/
def tileGood (c : Ctx) (o : Nat) : Prop := o % unitSize c.r.type = 0 ∧ o + unitSize c.r.type ≤ sramLimit c.l.man

/-- The first unit that is misaligned or past the limit. -/
def tileFailing (c : Ctx) (addrs : List Nat) (u o : Nat) : Prop :=
  addrs[u]? = some o ∧ ¬tileGood c o ∧ ∀ x ∈ addrs.take u, tileGood c x

/-- The trap of one unit. -/
def unitTrap (c : Ctx) (p : Nat × Nat) : Option Trap :=
  if p.2 % unitSize c.r.type != 0 then some ⟨0x0E, 0, unitLane c.r.type p.1⟩
  else if p.2 + unitSize c.r.type > sramLimit c.l.man then some ⟨0x08, 0, unitLane c.r.type p.1⟩
  else none

theorem tileTrap_eq_some {c : Ctx} {addrs : List Nat} {u o : Nat} {t : Trap} (h : tileFailing c addrs u o)
    (ht : unitTrap c (u, o) = some t) : tileTrap c (unitSize c.r.type) addrs = some t := by
  obtain ⟨ho, -, hn⟩ := h
  have hx : (addrs.mapIdx fun i x => (0 + i, x)).findSome? (unitTrap c) = some t :=
    findSome?_mapIdx ho (by rwa [Nat.zero_add]) fun x hx j => by
      obtain ⟨h1, h2⟩ := hn x hx
      rw [unitTrap, if_neg (by simpa using h1), if_neg (Nat.not_lt.2 h2)]
  change (addrs.mapIdx fun i x => (i, x)).findSome? (unitTrap c) = some t
  simpa only [Nat.zero_add] using hx

theorem unitTrap_misaligned {c : Ctx} {u o : Nat} (h : o % unitSize c.r.type ≠ 0) :
    unitTrap c (u, o) = some ⟨0x0E, 0, unitLane c.r.type u⟩ := if_pos (by simpa using h)

theorem unitTrap_past {c : Ctx} {addrs : List Nat} {u o : Nat} (hf : tileFailing c addrs u o) (h : o % unitSize c.r.type = 0) :
    unitTrap c (u, o) = some ⟨0x08, 0, unitLane c.r.type u⟩ := by
  obtain ⟨-, hbad, -⟩ := hf
  rw [unitTrap, if_neg (by simpa using h), if_pos (Nat.lt_of_not_le fun hle => hbad ⟨h, hle⟩)]

/-! The form's own effect. -/

/-- The offsets of a form's units. -/
def tileAddrs (op : ReqOp) (c : Ctx) : List Nat := if op = .cas then (tileOffsets .cas c).take 1 else tileOffsets op c

/-- The request of a form. -/
def tileReq (op : ReqOp) (s : State) (c : Ctx) : Req :=
  newReq s c op .sram (tileAddrs op c) (unitSize c.r.type) (bLanes c) true false

/-- A form's conditions on its lanes. -/
def tileFit (op : ReqOp) (c : Ctx) : Prop := ¬(wide c.r.type = true ∧ laneCount c % 2 = 1) ∧ (op = .cas → casTrap c = none)

/-- A form fit for its access: its first failing unit, then its access at once or in its chain. -/
theorem tileBody_fit {op : ReqOp} {c : Ctx} (h : tileFit op c) (s : State) :
    tileBody op s c = match tileTrap c (unitSize c.r.type) (tileAddrs op c) with
      | some t => .trap t
      | none => if waveNum c.r == 0x3FF then tilePerform s c (tileReq op s c)
        else match outputTrap c 0 with
          | some t => .trap t
          | none => .later (acceptReq s c.f.slot (tileReq op s c)) := by
  obtain ⟨hw, hcas⟩ := h
  have haddrs : (if op == .cas then (tileOffsets op c).take 1 else tileOffsets op c) = tileAddrs op c := by
    unfold tileAddrs
    by_cases h : op = .cas
    · subst h; rfl
    · rw [if_neg (by simpa using h), if_neg h]
  have hctrap : (if op == .cas then casTrap c else none) = none := by
    by_cases h : op = .cas
    · rw [if_pos (by simpa using h), hcas h]
    · rw [if_neg (by simpa using h)]
  unfold tileBody tileReq
  dsimp only
  rw [haddrs, hctrap, if_neg (by simpa using hw)] <;> rfl

/-- A form performed at once, with neither a race nor a bad word. -/
theorem tilePerform_done {op : ReqOp} {s sx : State} {c : Ctx} {es : List Emission} (hw : waveNum c.r = 0x3FF)
    (hbad : tileBad (tileOf c.l (fTile c.f)) (tileReq op s c) = none)
    (hx : checkAccesses (newGroup s).1 c.f.slot (tileAccesses (newGroup s).1 c (tileReq op s c) (newGroup s).2) = .ok sx)
    (hout : reqOut c (tileReq op s c) (tileUnits c.r.type (tileReq op s c) (tileOf c.l (fTile c.f)) 0 (tileAddrs op c)).2
      [(newGroup s).2] = .ok es) :
    tilePerform s c (tileReq op s c) = .done (dropReq (modFTile sx c.f fun _ =>
      (tileUnits c.r.type (tileReq op s c) (tileOf c.l (fTile c.f)) 0 (tileAddrs op c)).1) c.f.slot (tileReq op s c).id) es 0 := by
  have hq : (tileReq op s c).wave = 0x3FF := hw
  refine (withAccesses_ok hx _).trans ?_
  dsimp only
  rw [hbad]
  dsimp only
  rw [markPerformed, if_pos (by rw [hq]; rfl)]
  exact doneWith_ok hout 0

section
variable {i : NodeRec → Instr} {atom : Bool} {op : NodeRec → ReqOp}
  (run : ∀ r s, (atom = true → spaceBit r = false) → exec (i r) s = runMem r (some 0) s (tileBody (op r)))
include run

theorem tileForm_completes : completes i (specOf 0) fun s c s1 es fl => fl = 0 ∧
    ((atom = true → spaceBit c.r = false) ∧ tileFit (op c.r) c) ∧ tileTrap c (unitSize c.r.type) (tileAddrs (op c.r) c) = none ∧
    waveNum c.r = 0x3FF ∧ tileBad (tileOf c.l (fTile c.f)) (tileReq (op c.r) s c) = none ∧
    ∃ sx, checkAccesses (newGroup s).1 c.f.slot (tileAccesses (newGroup s).1 c (tileReq (op c.r) s c) (newGroup s).2) = .ok sx ∧
      s1 = dropReq (modFTile sx c.f fun _ =>
        (tileUnits c.r.type (tileReq (op c.r) s c) (tileOf c.l (fTile c.f)) 0 (tileAddrs (op c.r) c)).1) c.f.slot (tileReq (op c.r) s c).id ∧
      reqOut c (tileReq (op c.r) s c) (tileUnits c.r.type (tileReq (op c.r) s c) (tileOf c.l (fTile c.f)) 0 (tileAddrs (op c.r) c)).2
        [(newGroup s).2] = .ok es := by
  refine completes_of_runs (body := fun r => tileBody (op r)) run ?_
  rintro s c s1 es fl ⟨rfl, ⟨hat, hfit⟩, htrap, hw, hbad, sx, hx, rfl, hout⟩
  refine ⟨hat, ?_⟩
  rw [tileBody_fit hfit, htrap]
  exact (if_pos (by rw [hw]; rfl)).trans (tilePerform_done hw hbad hx hout)

theorem tileForm_joins : answersNext i (specOf 0) fun s c t => ((atom = true → spaceBit c.r = false) ∧ tileFit (op c.r) c) ∧
    tileTrap c (unitSize c.r.type) (tileAddrs (op c.r) c) = none ∧ waveNum c.r ≠ 0x3FF ∧ outputTrap c 0 = none ∧
    t = acceptReq s c.f.slot (tileReq (op c.r) s c) := by
  refine answersNext_of_runs (body := fun r => tileBody (op r)) run ?_
  rintro s c t ⟨⟨hat, hfit⟩, htrap, hw, hout, rfl⟩
  refine ⟨hat, ?_⟩
  rw [tileBody_fit hfit, htrap, hout]
  exact if_neg (by simpa using hw)

theorem tileForm_traps {t : Ctx → Nat → Trap} {ok : Ctx → Nat → Prop}
    (h : ∀ c u o, tileFailing c (tileAddrs (op c.r) c) u o → ok c o → unitTrap c (u, o) = some (t c u)) :
    traps i (specOf 0) fun _ c x => ((atom = true → spaceBit c.r = false) ∧ tileFit (op c.r) c) ∧
      ∃ u o, tileFailing c (tileAddrs (op c.r) c) u o ∧ ok c o ∧ x = t c u := by
  refine traps_of_runs (body := fun r => tileBody (op r)) run ?_
  rintro s c x ⟨⟨hat, hfit⟩, u, o, hf, hok, rfl⟩
  refine ⟨hat, ?_⟩
  rw [tileBody_fit hfit, tileTrap_eq_some hf (h c u o hf hok)]

end

/-- Settles O28. -/
theorem tileFormsComplete : Obligations.TileFormsComplete := by
  unfold Obligations.TileFormsComplete
  have form {i : NodeRec → Instr} {atom : Bool} {op : NodeRec → ReqOp}
      (run : ∀ r s, (atom = true → spaceBit r = false) → exec (i r) s = runMem r (some 0) s (tileBody (op r))) :
      _ ∧ _ ∧ _ ∧ _ :=
    ⟨tileForm_completes run, tileForm_joins run, tileForm_traps run (ok := fun c o => o % unitSize c.r.type ≠ 0) fun c u o _ => unitTrap_misaligned,
      tileForm_traps run (ok := fun c o => o % unitSize c.r.type = 0) fun c u o => unitTrap_past⟩
  have atom (op : NodeRec → ReqOp) (r : NodeRec) (s : State) (h : true = true → spaceBit r = false) :
      runAtom (op r) r s = runMem r (some 0) s (tileBody (op r)) := if_neg (by rw [h rfl]; exact Bool.false_ne_true)
  refine List.forall_mem_cons.2 ⟨form (atom := false) (op := fun _ => .read) fun _ _ _ => rfl, List.forall_mem_cons.2
    ⟨form (atom := false) (op := fun _ => .write) fun _ _ _ => rfl, List.forall_mem_cons.2 ⟨form (i := .atomp) (op := fun r => .atomP (low 3 r.modx.toNat)) (atom _),
    List.forall_mem_cons.2 ⟨form (i := .atomr) (op := fun r => .atomR (low 3 r.modx.toNat)) (atom _), List.forall_mem_singleton.2 (form (i := .casr) (op := fun _ => .cas) (atom _))⟩⟩⟩⟩

end Sys2Proof.Programs
end

section
/-! SUPPORT. The nodes of device memory, which hand their request to the store buffer (R262, R265, R269 to R272, R215). -/

namespace Sys2Proof.Programs

open Machine Safety Laws Completion

/-! A firing's rates before and after its node is bound (R217, R229). -/

/-- A monitor but for the frame in its slot. -/
def unbound (m : Monitor) : Monitor := { m with fh := 0 }

/-- Launches whose nodes have the same rates. -/
def SameRates (l m : Launch) : Prop :=
  m.man = l.man ∧ m.active = l.active ∧ ∀ f, (monitorsOf m f).map unbound = (monitorsOf l f).map unbound

theorem sameRates_of_tiles {l m : Launch} (hm : m.man = l.man) (ha : m.active = l.active) (ht : m.tiles = l.tiles) : SameRates l m :=
  ⟨hm, ha, fun f => by rw [monitorsOf, monitorsOf, tileOf, tileOf, ht]⟩

/-- The monitor slot of a node as its first firing enters its frame. -/
def bindMonitor (f : Firing) (t : Nat) (m : Monitor) : Monitor := if m.kind == 2 && m.node == fNode f then { m with fh := t } else m

theorem bindMonitor_keeps (f : Firing) (t : Nat) (m : Monitor) :
    unbound (bindMonitor f t m) = unbound m ∧ (bindMonitor f t m).node = m.node := by
  unfold bindMonitor
  split <;> exact ⟨rfl, rfl⟩

/-- Monitors changed in their frames only, in one tile. -/
theorem sameRates_modTile (l : Launch) (v : Nat) (g : Tile → Tile) (h : Monitor → Monitor)
    (hg : ∀ t, (g t).vtile = t.vtile ∧ (g t).monitors = t.monitors.map h) (hh : ∀ m, unbound (h m) = unbound m ∧ (h m).node = m.node) :
    SameRates l (modTile l v g) := by
  have hmap (f : Firing) (ms : List Monitor) :
      ((ms.map h).filter fun m => m.node == fNode f).map unbound = (ms.filter fun m => m.node == fNode f).map unbound := by
    rw [List.filter_map, List.map_map]
    have hp : ((fun m : Monitor => m.node == fNode f) ∘ h) = fun m => m.node == fNode f := by
      funext m
      simp [(hh m).2]
    rw [hp]
    exact List.map_congr_left fun m _ => (hh m).1
  refine ⟨?_, ?_, fun f => ?_⟩
  · unfold modTile
    split <;> rfl
  · unfold modTile
    split <;> rfl
  · by_cases hv : fTile f = v
    · rw [monitorsOf, hv, tileOf_modTile l v g fun t => (hg t).1, (hg _).2, hmap, monitorsOf, hv]
    · rw [monitorsOf, tileOf_modTile_ne l hv g fun t => (hg t).1, monitorsOf]

theorem sameRates_bindNode (s : State) (p : Policy) (f : Firing) (l : Launch) : SameRates l (bindNode s p f l) := by
  unfold bindNode
  split
  · exact sameRates_of_tiles rfl rfl rfl
  · exact sameRates_modTile l _ _ (bindMonitor f (bindTag s p f.a.fh)) (fun _ => ⟨rfl, rfl⟩) (bindMonitor_keeps f _)

theorem SameRates.trans {l m n : Launch} (h1 : SameRates l m) (h2 : SameRates m n) : SameRates l n := by
  obtain ⟨m1, a1, r1⟩ := h1
  obtain ⟨m2, a2, r2⟩ := h2
  exact ⟨m2.trans m1, a2.trans a1, fun f => (r2 f).trans (r1 f)⟩

theorem sameRates_modDesk (l : Launch) (v : Nat) (f : Desk → Desk) : SameRates l (modDesk l v f) := by
  unfold modDesk
  split <;> exact sameRates_of_tiles rfl rfl rfl

/-- A firing works on the launch it was found in, its node bound. -/
theorem sameRates_own {s : State} {c : Ctx} (hl : findLaunch s c.f.slot = some c.l) (p : Policy) : SameRates c.l (own s c p).l := by
  have hcounted : ∃ l, findLaunch (counted s c p) c.f.slot = some l ∧ SameRates c.l l := by
    unfold counted
    split
    · exact ⟨_, (findLaunch_modLaunch s _ _ fun l => modDesk_slot l _ _).trans (congrArg _ hl), sameRates_modDesk _ _ _⟩
    · exact ⟨_, hl, sameRates_of_tiles rfl rfl rfl⟩
  obtain ⟨l, hc, hr⟩ := hcounted
  have hstarted : ∃ l, findLaunch (started s c p) c.f.slot = some l ∧ SameRates c.l l := by
    unfold started
    dsimp only
    split
    · refine ⟨_, (findLaunch_modLaunch _ _ _ fun l => ?_).trans (congrArg _ hc), hr.trans (sameRates_bindNode s p c.f l)⟩
      unfold bindNode
      split
      · rfl
      · exact modTile_slot _ _ _
    · exact ⟨l, hc, hr⟩
  obtain ⟨m, hm, hr⟩ := hstarted
  have ho : (own s c p).l = m := by
    change (findLaunch (started s c p) c.f.slot).getD c.l = m
    rw [hm]
    rfl
  rwa [ho]

/-- Whether a monitor finds a mismatch. -/
def mismatch (c : Ctx) (es : List Emission) (msgs : Nat) (m : Monitor) : Bool :=
  m.kind == 2 && match rateDue c.l m (innermost c) with
    | none => false
    | some n => rateCount c m es msgs != n

theorem rateTrap_eq (c : Ctx) (es : List Emission) (msgs : Nat) :
    rateTrap c es msgs = (((monitorsOf c.l c.f).map unbound).find? (mismatch c es msgs)).map fun m => mkTrap 0x03 m.role := by
  rw [List.find?_map, Option.map_map]
  rfl

theorem mismatch_congr {c d : Ctx} (h : SameRates c.l d.l) (hd : d = { c with l := d.l }) (es : List Emission) (msgs : Nat) (m : Monitor) :
    mismatch d es msgs m = mismatch c es msgs m := by
  obtain ⟨hm, ha, -⟩ := h
  rw [hd]
  unfold mismatch rateDue rateCount rateOf
  dsimp only
  rw [hm, ha]
  rfl

theorem rateTrap_own {s : State} {c : Ctx} (hl : findLaunch s c.f.slot = some c.l) (p : Policy) (es : List Emission) (msgs : Nat) :
    rateTrap (own s c p) es msgs = rateTrap c es msgs := by
  have h := sameRates_own hl p
  rw [rateTrap_eq, rateTrap_eq, funext (mismatch_congr h rfl es msgs)]
  obtain ⟨-, -, hr⟩ := h
  rw [show (own s c p).f = c.f from rfl, hr]

theorem findLaunch_of_ctxOf {s : State} {c : Ctx} (h : ctxOf s c.f c.r = some c) : findLaunch s c.f.slot = some c.l := by
  unfold ctxOf at h
  split at h
  next l _ hl _ => exact hl.trans (congrArg some (congrArg Ctx.l (Option.some.inj h)))
  · cases h

/-! The store buffer. -/

theorem deviceAccept_later {s : State} {c : Ctx} {q : Req} {early : Bool} (hout : outputTrap c 0 = none)
    (he : (early && !speculative s c.f.a.fh) = false) : deviceAccept s c q early = .later (acceptReq s c.f.slot q) := by
  rw [deviceAccept, hout]
  exact if_neg (by rw [he]; exact Bool.false_ne_true)

theorem deviceAccept_early {s : State} {c : Ctx} {q : Req} {early : Bool} {es : List Emission}
    (hout : outBoth c oneZero false false [] = .ok es) (hrate : rateTrap c es 0 = none)
    (he : early = true ∧ speculative s c.f.a.fh = false) :
    deviceAccept s c q early = .done (acceptReq s c.f.slot { q with emitted := true }) es 0 := by
  obtain ⟨rfl, hs⟩ := he
  have htrap : outputTrap c 0 = none := by rw [outputTrap, hout]; exact hrate
  rw [deviceAccept, htrap]
  exact (if_pos (by rw [hs]; rfl)).trans (doneWith_ok hout 0)

section
variable {i : NodeRec → Instr} {spec : NodeRec → Option Nat} {g : NodeRec → Prop} {ok : State → Ctx → Prop} {q : State → Ctx → Req}
  {early : Ctx → Bool} {body : NodeRec → State → Ctx → Res}
  (run : ∀ r s, g r → exec (i r) s = runMem r (spec r) s (body r))
  (hb : ∀ s c, ok s c → g c.r ∧ body c.r s c = deviceAccept s c (q s c) (early c))
include run hb

/-- A device form whose token leaves when its request is performed. -/
theorem device_waits (he : ∀ s c, ok s c → (early c && !speculative s c.f.a.fh) = false) (s : State) (c : Ctx)
    (hf : fires s c { plain with spec := spec c.r })
    (hok : ok (started s c { plain with spec := spec c.r }) (own s c { plain with spec := spec c.r }))
    (hout : outputTrap (own s c { plain with spec := spec c.r }) 0 = none) :
    exec (i c.r) s = .next (acceptReq (started s c { plain with spec := spec c.r }) c.f.slot
      (q (started s c { plain with spec := spec c.r }) (own s c { plain with spec := spec c.r }))) := by
  obtain ⟨hg, hbody⟩ := hb _ _ hok
  exact (run c.r s hg).trans (runNode_later hf (hbody.trans (deviceAccept_later hout (he _ _ hok))))

/-- A device form whose token leaves at once. -/
theorem device_leaves (he : ∀ s c, ok s c → early c = true ∧ speculative s c.f.a.fh = false) (s : State) (c : Ctx) (es : List Emission)
    (hf : fires s c { plain with spec := spec c.r })
    (hok : ok (started s c { plain with spec := spec c.r }) (own s c { plain with spec := spec c.r }))
    (hout : outBoth c [0] false false [] = .ok es) (hrate : rateTrap c es 0 = none) :
    exec (i c.r) s = .next (completed (acceptReq (started s c { plain with spec := spec c.r }) c.f.slot
      { q (started s c { plain with spec := spec c.r }) (own s c { plain with spec := spec c.r }) with emitted := true }) c es 0) := by
  obtain ⟨hg, hbody⟩ := hb _ _ hok
  have hl : findLaunch s c.f.slot = some c.l := findLaunch_of_ctxOf hf.1.2.1
  exact (run c.r s hg).trans (runNode_done hf
    (hbody.trans (deviceAccept_early hout ((rateTrap_own hl _ es 0).trans hrate) (he _ _ hok))) hrate)

end

theorem needAddr_none {c : Ctx} (h : 2 ≤ laneCount c) : needAddr c = none := if_neg (Nat.not_lt.2 h)

theorem evenB_none {c : Ctx} (h : ¬(wide c.r.type = true ∧ (bLanes c).length % 2 = 1)) : evenB c = none := if_neg (by simpa using h)

theorem requestBody_fit {lanes : Ctx → Option Trap} {c : Ctx} (h : lanes c = none) (op : ReqOp) (addrs : Ctx → List Nat)
    (data : Ctx → List Lane) (early : Ctx → Bool) (s : State) : requestBody op addrs data early lanes s c =
      deviceAccept s c (newReq s c op (recSpace c.r) (addrs c) (unitSize c.r.type) (data c) true false) (early c) := by
  rw [requestBody, h]

/-- Whether an atomic's token may leave at once. -/
def atomEarly (op : ReqOp) (c : Ctx) : Bool :=
  match op with
  | .atomP _ => !doneBit c
  | _ => false

/-- The device form of an atomic fit for its access. -/
theorem deviceAtom_fit {op : ReqOp} {c : Ctx} (hl : 2 ≤ laneCount c) (hw : ¬(wide c.r.type = true ∧ (bLanes c).length % 2 = 1))
    (hcas : op = .cas → casTrap c = none) (s : State) : deviceAtom op s c =
      deviceAccept s c (newReq s c op .device [lanes64 c.f.a.lanes 0] (unitSize c.r.type) (bLanes c) true false) (atomEarly op c) := by
  have hctrap : (if op == .cas then casTrap c else none) = none := by
    by_cases h : op = .cas
    · rw [if_pos (by simpa using h), hcas h]
    · rw [if_neg (by simpa using h)]
  unfold deviceAtom
  rw [if_neg (Nat.not_lt.2 hl), if_neg (by simpa using hw), hctrap]
  cases op <;> rfl

theorem laneCheck_even {c : Ctx} (h : laneCount c % 2 = 0) : (if laneCount c % 2 == 1 then some (mkTrap 0x04 2) else none) = none :=
  if_neg (by simp [h])

theorem firstTrap_none {x y : Option Trap} (hx : x = none) (hy : y = none) : firstTrap x y = none := by rw [hx, hy]; rfl

/-- The lane check of SCATTER. -/
theorem scatterLanes_none {c : Ctx} (hl : laneCount c % 2 = 0) (hu : unitsIn c.r.type (bLanes c).length = laneCount c / 2) :
    (if laneCount c % 2 == 1 || unitsIn c.r.type (bLanes c).length != laneCount c / 2 then some (mkTrap 0x04 0) else none) = none :=
  if_neg (by simp [hl, hu])

theorem exec_ldm (r : NodeRec) (s : State) (_ : True) : exec (.ldm r) s = runMem r (hostSpec r) s
    (requestBody .read (fun c => baseAddrs c (unitsIn c.r.type (c.r.modx.toNat + 1))) (fun _ => []) (fun _ => false) needAddr) := rfl

theorem exec_gather (r : NodeRec) (s : State) (_ : True) : exec (.gather r) s = runMem r (hostSpec r) s
    (requestBody .read pairAddrs (fun _ => []) (fun _ => false) fun c => if laneCount c % 2 == 1 then some (mkTrap 0x04 2) else none) := rfl

theorem exec_stm (r : NodeRec) (s : State) (_ : True) : exec (.stm r) s = runMem r (hostSpec r) s
    (requestBody .write (fun c => baseAddrs c (unitsIn c.r.type (bLanes c).length)) bLanes (fun c => !doneBit c)
      fun c => firstTrap (needAddr c) (evenB c)) := rfl

theorem exec_scatter (r : NodeRec) (s : State) (_ : True) : exec (.scatter r) s = runMem r (hostSpec r) s
    (requestBody .write pairAddrs bLanes (fun c => !doneBit c) fun c => firstTrap (evenB c)
      (if laneCount c % 2 == 1 || unitsIn c.r.type (bLanes c).length != laneCount c / 2 then some (mkTrap 0x04 0) else none)) := rfl

theorem exec_done (r : NodeRec) (s : State) : exec (.done r) s = runMem r none s fun s c =>
    match outputTrap c 0 with
    | some t => .trap t
    | none => .later (acceptReq s c.f.slot (newReq s c .done .device [] 4 [] true false)) := rfl

theorem exec_atomp (r : NodeRec) (s : State) (h : spaceBit r = true) :
    exec (.atomp r) s = runMem r none s (deviceAtom (.atomP (low 3 r.modx.toNat))) := if_pos h

theorem exec_atomr (r : NodeRec) (s : State) (h : spaceBit r = true) :
    exec (.atomr r) s = runMem r none s (deviceAtom (.atomR (low 3 r.modx.toNat))) := if_pos h

theorem exec_casr (r : NodeRec) (s : State) (h : spaceBit r = true) : exec (.casr r) s = runMem r none s (deviceAtom .cas) := if_pos h

/-- An LDM or STM whose address has too few lanes. -/
theorem needAddr_some {c : Ctx} (h : laneCount c < 2) : needAddr c = some ⟨0x04, 2, 0⟩ := if_pos h

/-- Settles O31: each form's lane checks, then `deviceAccept`. -/
theorem deviceFormsHandTheirRequests : Obligations.DeviceFormsHandTheirRequests := by
  unfold Obligations.DeviceFormsHandTheirRequests
  intro space pol base pairs waits leaves rd wr at1 evenB stm scatter early stmAddrs p atom
  have hstm (s : State) (c : Ctx) (h : stm c) :
      True ∧ requestBody .write stmAddrs bLanes (fun c => !doneBit c) (fun c => firstTrap (needAddr c) (Machine.evenB c)) s c =
        deviceAccept s c (wr stmAddrs s c) (!doneBit c) :=
    ⟨trivial, requestBody_fit (firstTrap_none (needAddr_none h.1) (evenB_none h.2)) _ _ _ _ s⟩
  have hscatter (s : State) (c : Ctx) (h : scatter c) :
      True ∧ requestBody .write pairs bLanes (fun c => !doneBit c) (fun c => firstTrap (Machine.evenB c)
        (if laneCount c % 2 == 1 || unitsIn c.r.type (bLanes c).length != laneCount c / 2 then some (mkTrap 0x04 0) else none)) s c =
        deviceAccept s c (wr pairs s c) (!doneBit c) :=
    ⟨trivial, requestBody_fit (firstTrap_none (evenB_none h.1) (scatterLanes_none h.2.1 h.2.2)) _ _ _ _ s⟩
  have hatom (op : Ctx → ReqOp) (s : State) (c : Ctx) (h : atom c) (hcas : op c = .cas → casTrap c = none) :
      spaceBit c.r = true ∧ deviceAtom (op c) s c = deviceAccept s c (at1 op s c) (atomEarly (op c) c) :=
    ⟨h.1, deviceAtom_fit h.2.1 h.2.2 hcas s⟩
  have hearly (s : State) (c : Ctx) (h : early doneBit s c) : (!doneBit c) = true ∧ speculative s c.f.a.fh = false :=
    ⟨by rw [h.1]; rfl, h.2⟩
  have hlate (s : State) (c : Ctx) (h : ¬early doneBit s c) : (!doneBit c && !speculative s c.f.a.fh) = false := by
    by_contra hc
    rw [Bool.not_eq_false, Bool.and_eq_true, Bool.not_eq_true', Bool.not_eq_true'] at hc
    exact h hc
  refine ⟨?ldm, ?gather, ?stmLeaves, ?stmWaits, ?scatterLeaves, ?scatterWaits, ?done, ?atompLeaves, ?atompWaits, ?atomr, ?casr, ?traps⟩
  case ldm =>
    exact device_waits (ok := fun _ c => 2 ≤ laneCount c) (early := fun _ => false) exec_ldm
      (fun s c h => ⟨trivial, requestBody_fit (needAddr_none h) _ _ _ _ s⟩) fun _ _ _ => rfl
  case gather =>
    exact device_waits (ok := fun _ c => laneCount c % 2 = 0) (early := fun _ => false) exec_gather
      (fun s c h => ⟨trivial, requestBody_fit (laneCheck_even h) _ _ _ _ s⟩) fun _ _ _ => rfl
  case stmLeaves =>
    exact device_leaves (ok := fun s c => stm c ∧ early doneBit s c) exec_stm (fun s c h => hstm s c h.1) fun s c h => hearly s c h.2
  case stmWaits =>
    exact device_waits (ok := fun s c => stm c ∧ ¬early doneBit s c) exec_stm (fun s c h => hstm s c h.1) fun s c h => hlate s c h.2
  case scatterLeaves =>
    exact device_leaves (ok := fun s c => scatter c ∧ early doneBit s c) exec_scatter (fun s c h => hscatter s c h.1) fun s c h => hearly s c h.2
  case scatterWaits =>
    exact device_waits (ok := fun s c => scatter c ∧ ¬early doneBit s c) exec_scatter (fun s c h => hscatter s c h.1) fun s c h => hlate s c h.2
  case done =>
    intro s c hf _ hout
    exact (exec_done c.r s).trans (runNode_later hf (untrapped _ hout))
  case atompLeaves =>
    exact device_leaves (ok := fun s c => atom c ∧ early doneBit s c) exec_atomp
      (fun s c h => hatom (fun c => .atomP (low 3 c.r.modx.toNat)) s c h.1 nofun) fun s c h => hearly s c h.2
  case atompWaits =>
    exact device_waits (ok := fun s c => atom c ∧ ¬early doneBit s c) exec_atomp
      (fun s c h => hatom (fun c => .atomP (low 3 c.r.modx.toNat)) s c h.1 nofun) fun s c h => hlate s c h.2
  case atomr =>
    exact device_waits (ok := fun _ c => atom c) (early := fun _ => false) exec_atomr
      (fun s c h => hatom (fun c => .atomR (low 3 c.r.modx.toNat)) s c h nofun) fun _ _ _ => rfl
  case casr =>
    exact device_waits (ok := fun _ c => atom c ∧ casTrap c = none) (early := fun _ => false) exec_casr
      (fun s c h => hatom (fun _ => .cas) s c h.1 fun _ => h.2) fun _ _ _ => rfl
  case traps =>
    refine List.forall_mem_cons.2 ⟨fun s c hf hl => ?_, List.forall_mem_singleton.2 fun s c hf hl => ?_⟩
    · refine (exec_ldm c.r s trivial).trans (runNode_trap hf ?_)
      rw [requestBody, needAddr_some (c := own s c (pol c)) hl]
    · refine (exec_stm c.r s trivial).trans (runNode_trap hf ?_)
      rw [requestBody, needAddr_some (c := own s c (pol c)) hl]
      rfl

end Sys2Proof.Programs
end

section
/-! SUPPORT. The barrier nodes (R224 to R227). -/

namespace Sys2Proof.Programs

open Machine Safety Laws

/-- The effect of a firing of data, whose operands are healthy. -/
theorem completes_of_healthy {i : NodeRec → Instr} {p : Policy} {lp dl body : NodeRec → State → Ctx → Res}
    {ok : State → Ctx → State → List Emission → Flags → Prop}
    (run : ∀ r s, exec (i r) s = runNode s r p (fun _ => 0) (lp r) (dl r) (body r))
    (h : ∀ s c s1 es fl, anyDl c.f = false → ok s c s1 es fl → body c.r s c = .done s1 es fl) : completes i p ok := by
  rintro s c s1 es fl ⟨hi, hlp, hdl, hpre⟩ hok hr
  exact (run c.r s).trans (runNode_done ⟨hi, hlp, hdl, hpre⟩ (h _ (own s c p) _ _ _ hdl hok) hr)

theorem passLanes_healthy {c : Ctx} (h : anyDl c.f = false) : passLanes c = c.f.a.lanes := by
  rw [passLanes, h]
  rfl

theorem passLanes_dead {c : Ctx} (h : anyDl c.f = true) : passLanes c = poisonLanes (laneCount c) (poisonOf c) := by
  rw [passLanes, h]
  rfl

/-- The bytes of an ARRIVE. -/
def arriveBytes (c : Ctx) : Nat :=
  if field c.r.lit.toNat 16 16 ≠ 0 then field c.r.lit.toNat 16 16 else if anyDl c.f = true then 0 else (laneAt c.f.a.lanes 0).toNat

/-- The arrival of an ARRIVE. -/
def arriveAt (s : State) (c : Ctx) (poison : Option Nat) : Except Trap Tile :=
  arrival c.l (tileOf c.l (fTile c.f)) (bidxOf c.r) (arriveBytes c) poison (unionNat (firingHb c.f) [(newGroup s).2])

theorem arriveBody_eq (poison : Bool) (s : State) (c : Ctx) :
    arriveBody poison s c = match arriveAt s c (if poison then some (poisonOf c) else none) with
      | .error t => .trap t
      | .ok t => withAccesses (newGroup s).1 c.f.slot [barrierBy (newGroup s).1 c.f (newGroup s).2 (fTile c.f) addClass (bidxOf c.r)]
          fun s1 => doneWith (modFTile s1 c.f fun _ => t) (outBoth c (passLanes c) poison false [(newGroup s).2]) 0 := by
  unfold arriveBody arriveAt arriveBytes
  simp only [bne_iff_ne] <;> rfl

theorem arriveBody_done {poison : Bool} {s sx : State} {c : Ctx} {t : Tile} {es : List Emission}
    (ht : arriveAt s c (if poison then some (poisonOf c) else none) = .ok t)
    (hx : checkAccesses (newGroup s).1 c.f.slot [barrierBy (newGroup s).1 c.f (newGroup s).2 (fTile c.f) addClass (bidxOf c.r)] = .ok sx)
    (hout : outBoth c (passLanes c) poison false [(newGroup s).2] = .ok es) :
    arriveBody poison s c = .done (modFTile sx c.f fun _ => t) es 0 := by
  rw [arriveBody_eq, ht]
  exact (withAccesses_ok hx _).trans (doneWith_ok hout 0)

theorem exec_arrive (r : NodeRec) (s : State) : exec (.arrive r) s = runNode s r (specOf 3) (fun _ => 0) lpOut
    (fun s c => if speculative s c.f.a.fh then .trap (mkTrap 0x0B 3) else arriveBody true s c) (arriveBody false) := rfl

/-! WAITCNT. -/

/-- What the phases up to the target release. -/
def waitHb (c : Ctx) : List Nat :=
  ((tileOf c.l (fTile c.f)).barriers.filter fun x => x.bidx == bidxOf c.r && x.phase ≤ waitTarget c.r c.shape c.f.a c.f.b).foldl
    (fun h x => unionNat h x.hb) []

/-- Whether a poison is recorded at or below the target. -/
def waitPoisoned (c : Ctx) : Prop :=
  barWord (tileOf c.l (fTile c.f)) (bidxOf c.r) 3 ≠ 0 ∧
    barWord (tileOf c.l (fTile c.f)) (bidxOf c.r) 3 ≤ waitTarget c.r c.shape c.f.a c.f.b

/-- The output of a WAITCNT that is due. -/
def waitOut (c : Ctx) : Except Trap (List Emission) :=
  if barWord (tileOf c.l (fTile c.f)) (bidxOf c.r) 3 != 0 &&
      barWord (tileOf c.l (fTile c.f)) (bidxOf c.r) 3 ≤ waitTarget c.r c.shape c.f.a c.f.b then
    outBoth c (poisonLanes (laneCount c) (barWord (tileOf c.l (fTile c.f)) (bidxOf c.r) 4)) true false (waitHb c)
  else outBoth c c.f.a.lanes false false (waitHb c)

theorem waitOut_poisoned {c : Ctx} (h : waitPoisoned c) : waitOut c =
    outBoth c (poisonLanes (laneCount c) (barWord (tileOf c.l (fTile c.f)) (bidxOf c.r) 4)) true false (waitHb c) :=
  if_pos (by simpa [waitPoisoned] using h)

theorem waitOut_healthy {c : Ctx} (h : ¬waitPoisoned c) : waitOut c = outBoth c c.f.a.lanes false false (waitHb c) :=
  if_neg fun hc => h (by simpa [waitPoisoned] using hc)

theorem waitcntBody_due {c : Ctx} (h : waitDue c.l c.f c.r = true) (s : State) :
    waitcntBody s c = if waitTarget c.r c.shape c.f.a c.f.b == 0 then doneWith s (waitOut c) 0
      else withAccesses (newGroup s).1 c.f.slot
        [{ barrierBy (newGroup s).1 c.f (newGroup s).2 (fTile c.f) .sync (bidxOf c.r) with
          hb := unionNat (barrierBy (newGroup s).1 c.f (newGroup s).2 (fTile c.f) .sync (bidxOf c.r)).hb (waitHb c) }]
        fun s => doneWith s (waitOut c) 0 := by
  have hout (s : State) : (if barWord (tileOf c.l (fTile c.f)) (bidxOf c.r) 3 != 0 &&
      barWord (tileOf c.l (fTile c.f)) (bidxOf c.r) 3 ≤ waitTarget c.r c.shape c.f.a c.f.b then
      doneWith s (outBoth c (poisonLanes (laneCount c) (barWord (tileOf c.l (fTile c.f)) (bidxOf c.r) 4)) true false (waitHb c)) 0
      else doneWith s (outBoth c c.f.a.lanes false false (waitHb c)) 0) = doneWith s (waitOut c) 0 := by
    unfold waitOut
    split <;> rfl
  unfold waitcntBody
  rw [h]
  exact congrArg (fun out : State → Res => if waitTarget c.r c.shape c.f.a c.f.b == 0 then out s else withAccesses (newGroup s).1 c.f.slot
    [{ barrierBy (newGroup s).1 c.f (newGroup s).2 (fTile c.f) .sync (bidxOf c.r) with
      hb := unionNat (barrierBy (newGroup s).1 c.f (newGroup s).2 (fTile c.f) .sync (bidxOf c.r)).hb (waitHb c) }] out) (funext hout)

/-- A target of 0 has come whatever the phase. -/
theorem waitDue_zero {s : State} {c : Ctx} {p : Policy} (hc : ctxOf s c.f c.r = some c)
    (h : waitTarget c.r c.shape c.f.a c.f.b = 0) : waitDue (own s c p).l c.f c.r = true := by
  have hl := findLaunch_of_ctxOf hc
  obtain ⟨hman, -, -⟩ := sameRates_own hl p
  have hshape : c.shape = shapeOf c.l (fNode c.f) := by
    unfold ctxOf at hc
    split at hc
    next l _ hl' _ =>
      cases hl'.symm.trans hl
      exact (congrArg Ctx.shape (Option.some.inj hc)).symm
    · cases hc
  have hown : shapeOf (own s c p).l (fNode c.f) = c.shape := by rw [hshape, shapeOf, shapeOf, hman]
  rw [waitDue, hown, h]
  exact decide_eq_true (Nat.zero_le _)

/-- Settles O37. -/
theorem barrierInstructionsComplete : Obligations.BarrierInstructionsComplete := by
  unfold Obligations.BarrierInstructionsComplete
  intro p by1 bytes arrived recorded
  refine ⟨?barinit, ?barinitTrap, ?arrive, ?arriveTrap, ?arriveDead, ?waitcnt, ?waitZero, ?waitHold⟩
  case barinit =>
    refine completes_of_run (body := fun _ => barinitBody) (fun _ _ => rfl) ?_
    rintro s c s1 es fl ⟨rfl, hne, hout, sx, hx, rfl⟩
    have hz : (laneAt c.f.a.lanes 0).toNat ≠ 0 := fun h => hne (BitVec.eq_of_toNat_eq h)
    exact (if_neg (by simpa using hz)).trans ((withAccesses_ok hx _).trans (doneWith_ok hout 0))
  case barinitTrap =>
    refine traps_of_run (body := fun _ => barinitBody) (fun _ _ => rfl) ?_
    rintro s c t ⟨hz, rfl⟩
    exact if_pos (by rw [hz]; rfl)
  case arrive =>
    refine completes_of_healthy (lp := fun _ => lpOut) (body := fun _ => arriveBody false) exec_arrive ?_
    rintro s c s1 es fl hdl ⟨rfl, ⟨t, sx, ht, hx, rfl⟩, hout⟩
    exact arriveBody_done ht hx (by rwa [passLanes_healthy hdl])
  case arriveTrap =>
    refine traps_of_run (lp := fun _ => lpOut) (body := fun _ => arriveBody false) exec_arrive fun s c t ht => ?_
    have h : arriveAt s c none = .error t := ht
    rw [arriveBody_eq, if_neg Bool.false_ne_true, h]
  case arriveDead =>
    intro s c s1 es hf
    obtain ⟨-, -, hdl, -⟩ := id hf
    refine ⟨fun hs => ?_, fun hs ⟨t, sx, ht, hx, he⟩ hout => ?_⟩
    · refine (exec_arrive c.r s).trans ((runNode_firesDl hf _ _ _ _).trans ?_)
      have hspec : speculative (started s c p) (own s c p).f.a.fh = true := hs
      rw [if_pos hspec]
      rfl
    · refine (exec_arrive c.r s).trans ((runNode_firesDl hf _ _ _ _).trans ?_)
      have hspec : ¬speculative (started s c p) (own s c p).f.a.fh = true := ne_true_of_eq_false hs
      rw [if_neg hspec,
        arriveBody_done (poison := true) (c := own s c p) ht hx (by rwa [passLanes_dead (c := own s c p) hdl]), ← he]
      rfl
  case waitcnt =>
    intro b
    refine completes_of_run (body := fun _ => waitcntBody) (fun _ _ => rfl) ?_
    rintro s c s1 es fl ⟨rfl, hdue, hz, hb, hx, hout⟩
    refine (waitcntBody_due hdue s).trans ((if_neg (by simpa using hz)).trans ((withAccesses_ok hx _).trans (doneWith_ok ?_ 0)))
    cases b with
    | true => exact (waitOut_poisoned (hb.1 rfl)).trans hout
    | false => exact (waitOut_healthy fun h => Bool.false_ne_true (hb.2 h)).trans hout
  case waitZero =>
    rintro s c s1 es fl hf ⟨rfl, rfl, hz, hout⟩ hr
    have hb : waitHb (own s c p) = ((tileOf (own s c p).l (fTile c.f)).barriers.filter fun x =>
        x.bidx == bidxOf c.r && x.phase ≤ 0).foldl (fun h x => unionNat h x.hb) [] := by
      rw [waitHb, hz]
      rfl
    have hn : ¬waitPoisoned (own s c p) := fun h => h.1 (Nat.le_zero.1 (h.2.trans_eq hz))
    have hbody : waitcntBody (started s c p) (own s c p) = .done (started s c p) es 0 := by
      rw [waitcntBody_due (waitDue_zero hf.1.2.1 hz), if_pos (by rw [hz]; rfl), waitOut_healthy hn, hb]
      exact doneWith_ok hout 0
    exact runNode_done (p := p) hf hbody hr
  case waitHold =>
    refine holds_of_run (body := fun _ => waitcntBody) (fun _ _ => rfl) fun s c h => ?_
    exact if_pos (by rw [h]; rfl)

end Sys2Proof.Programs
end

section
/-! SUPPORT. The trap instructions and the handler's (R244 to R247), and a parked frame's withdrawal (R240). -/

namespace Sys2Proof.Programs

open Machine Safety Laws Completion Traps

/-- A launch set in the slot of one found there. -/
theorem findLaunch_set {s : State} {slot : Nat} {l l' : Launch} (h : findLaunch s slot = some l) (hs : l'.slot = l.slot) :
    findLaunch (setLaunch s l') slot = some l' := by
  have hl : l'.slot = slot := hs.trans (findLaunch_slot h)
  subst hl
  exact findLaunch_setLaunch h

theorem deskOf_vdesk (l : Launch) (v : Nat) : (deskOf l v).vdesk = v := by
  unfold deskOf
  cases h : l.desks.find? fun d => d.vdesk == v with
  | none => rfl
  | some d => simpa using List.find?_some h

/-- A desk's update that keeps its number is read back. -/
theorem deskOf_modDesk {v : Nat} {f : Desk → Desk} (hf : ∀ d, (f d).vdesk = d.vdesk) (l : Launch) :
    deskOf (modDesk l v f) v = f (deskOf l v) := by
  unfold deskOf modDesk
  split
  next h =>
    obtain ⟨d, hd⟩ := Option.isSome_iff_exists.1 (List.find?_isSome.2 (List.any_eq_true.1 h))
    simp only [find_map_key Desk.vdesk v f fun x h => (hf x).trans h, hd, Option.map_some, Option.getD_some]
  next h =>
    have hn : l.desks.find? (fun d => d.vdesk == v) = none := by simpa using h
    simp [List.find?_append, hn, hf, emptyDesk]

/-! The trap instructions, and the handler's (R244 to R247). -/

/-- What TRAP passes on. -/
theorem trapPass_iff (c : Ctx) : (c.r.arity == .dyad && !bit (laneAt (bLanes c) 0).toNat 0) = true ↔
    c.r.arity = .dyad ∧ bit (laneAt (bLanes c) 0).toNat 0 = false := by
  simp

/-- A resolution's own effect in the office frame. -/
theorem resumeBody_office {form : Nat} {s : State} {c : Ctx} (h : c.f.a.fh = c.l.office) :
    resumeBody form s c =
      let p := match openTicket c.l (laneAt (if form == 0 then bLanes c else c.f.a.lanes) 0).toNat with
        | none => (s, 1)
        | some rec => resolveTicket s c.f.slot rec form c.f.a.lanes (firingHb c.f)
      doneWith p.1 (outBoth c [BitVec.ofNat 32 p.2] false false []) 0 :=
  if_neg (by simpa using h)

theorem killfBody_office {s : State} {c : Ctx} (h : c.f.a.fh = c.l.office) :
    killfBody s c = match openTicket c.l (laneAt c.f.a.lanes 0).toNat with
      | none => doneWith s (outBoth c [1] false false []) 0
      | some rec => doneWith (killFrame s c.f.slot rec.fh) (outBoth c [0] false false []) 0 :=
  if_neg (by simpa using h)

/-- One form of RESUME: a ticket not open, an open one, another frame. -/
theorem resume_form {i : NodeRec → Instr} {form : Nat} (run : ∀ r s, exec (i r) s = runPlain s r plain (resumeBody form)) :
    let ticket (c : Ctx) : Nat := (laneAt (if form = 0 then bLanes c else c.f.a.lanes) 0).toNat
    (completes i plain fun s c s1 es fl => fl = 0 ∧ c.f.a.fh = c.l.office ∧ openTicket c.l (ticket c) = none ∧ s1 = s ∧
      outBoth c [1] false false [] = .ok es) ∧
    (completes i plain fun s c s1 es fl => fl = 0 ∧ c.f.a.fh = c.l.office ∧ ∃ rec, openTicket c.l (ticket c) = some rec ∧
      let r := resolveTicket s c.f.slot rec form c.f.a.lanes (firingHb c.f)
      s1 = r.1 ∧ outBoth c [BitVec.ofNat 32 r.2] false false [] = .ok es) ∧
    (traps i plain fun _ c t => c.f.a.fh ≠ c.l.office ∧ t = ⟨0x08, 3, 0⟩) := by
  intro ticket
  have hticket (c : Ctx) : (laneAt (if form == 0 then bLanes c else c.f.a.lanes) 0).toNat = ticket c := by
    simp only [beq_iff_eq, ticket]
  refine ⟨completes_of_run run ?_, completes_of_run run ?_, traps_of_run run ?_⟩
  · rintro s c s1 es fl ⟨rfl, ho, hn, rfl, hout⟩
    rw [resumeBody_office ho, hticket, hn]
    exact doneWith_ok hout 0
  · rintro s c s1 es fl ⟨rfl, ho, rec, hrec, rfl, hout⟩
    rw [resumeBody_office ho, hticket, hrec]
    exact doneWith_ok hout 0
  · rintro s c t ⟨ho, rfl⟩
    exact if_pos (by simpa using ho)

/-! PARK_NOTICE (R240). -/

/-- A whole token withdrawn to its free spill slot. -/
theorem withdrawToken_free {s : State} {slot v : Nat} {t : Token} {l : Launch} {f : Frame} (hh : headerOk t = true)
    (hp : payloadOk t = true) (hl : findLaunch s slot = some l) (hf : findFrame s t.fh = some f)
    (hs : slotHeld l v t.fh (slotOf f.spilld t) f.spilld = false) :
    withdrawToken s slot v t = some (setLaunch s (modDesk
      { l with spill := l.spill ++ [{ fh := t.fh, slot := slotOf f.spilld t, tok := t, withdrawn := true }] } v
        fun d => setCount d (setOf t) (· + 1))) := by
  have hpf : parityFault s slot t = none := by
    unfold parityFault
    rw [hh, hp]
    rfl
  unfold withdrawToken
  rw [hpf, hl, hf]
  simp only [hs, Bool.false_eq_true, if_false]

/-- Nothing of a frame is left at its desk. -/
theorem holdsStill_eq_false {l : Launch} {d : Desk} {fh : Nat} (hw : d.waiting.filter (fun t => t.fh == fh) = [])
    (hr : d.ready.filter (fun r => r.firing.a.fh == fh) = []) (ha : d.aside.filter (fun x => x.tok.fh == fh) = [])
    (hp : (unresolved l).any (unpooled d.vdesk fh) = false) : holdsStill l d fh = false := by
  rw [List.filter_eq_nil_iff] at hw hr ha
  unfold holdsStill
  rw [hp, List.any_eq_false.2 hw, List.any_eq_false.2 hr, List.any_eq_false.2 ha]
  rfl

/-- A parked frame's notice at its desk: entries of the pool for its faulting activations' operands. -/
def noticeDesk (l : Launch) (v fh : Nat) : Launch :=
  modDesk (poolFaults l v fh) v fun d => { d with noticed := unionNat d.noticed [fh] }

/-- A waiting token taken out of its way. -/
def withoutWaiting (v : Nat) (t : Token) (l : Launch) : Launch := modDesk l v fun d => { d with waiting := d.waiting.erase t }

/-- A withdrawn token in a spill slot. -/
def storeWithdrawn (l : Launch) (v fh k : Nat) (t : Token) : Launch :=
  modDesk { l with spill := l.spill ++ [{ fh, slot := k, tok := t, withdrawn := true }] } v fun d => setCount d (setOf t) (· + 1)

theorem deskOf_noticeDesk (l : Launch) (v fh : Nat) :
    deskOf (noticeDesk l v fh) v = { deskOf l v with noticed := unionNat (deskOf l v).noticed [fh] } := by
  refine deskOf_modDesk ?_ _
  exact fun _ => rfl

theorem deskOf_withoutWaiting (l : Launch) (v : Nat) (t : Token) :
    deskOf (withoutWaiting v t l) v = { deskOf l v with waiting := (deskOf l v).waiting.erase t } := by
  refine deskOf_modDesk ?_ _
  exact fun _ => rfl

theorem deskOf_storeWithdrawn (l : Launch) (v fh k : Nat) (t : Token) :
    deskOf (storeWithdrawn l v fh k t) v = setCount (deskOf l v) (setOf t) (· + 1) := by
  refine deskOf_modDesk ?_ _
  exact fun _ => rfl

/-- The one element that satisfies a predicate, erased. -/
theorem filter_erase_of_singleton {α : Type} [DecidableEq α] {p : α → Bool} {xs : List α} {x : α} (h : xs.filter p = [x]) :
    (xs.erase x).filter p = [] := by
  obtain ⟨hx, hp⟩ := List.mem_filter.1 (h ▸ List.mem_singleton_self x : x ∈ xs.filter p)
  rw [← List.length_eq_zero_iff, ← List.countP_eq_length_filter, List.countP_erase, List.countP_eq_length_filter, h]
  simp [hx, hp]

theorem unresolved_modDesk (l : Launch) (v : Nat) (f : Desk → Desk) : unresolved (modDesk l v f) = unresolved l := by
  unfold modDesk
  split <;> rfl

/-- Nothing of the frame is left at its desk once its one waiting token is in its spill slot. -/
theorem holdsStill_stored {l : Launch} {v fh k : Nat} {t : Token}
    (hw : (deskOf l v).waiting.filter (fun t => t.fh == fh) = [t])
    (hr : (deskOf l v).ready.filter (fun r => r.firing.a.fh == fh) = [])
    (ha : (deskOf l v).aside.filter (fun x => x.tok.fh == fh) = [])
    (hpool : (unresolved (poolFaults l v fh)).any (unpooled v fh) = false) :
    let l3 := storeWithdrawn (withoutWaiting v t (noticeDesk l v fh)) v fh k t
    holdsStill l3 (deskOf l3 v) fh = false := by
  intro l3
  have hd : deskOf l3 v = setCount { deskOf l v with
      noticed := unionNat (deskOf l v).noticed [fh], waiting := (deskOf l v).waiting.erase t } (setOf t) (· + 1) := by
    rw [deskOf_storeWithdrawn, deskOf_withoutWaiting, deskOf_noticeDesk]
  have hun : unresolved l3 = unresolved (poolFaults l v fh) :=
    (unresolved_modDesk _ _ _).trans ((unresolved_modDesk _ _ _).trans (unresolved_modDesk _ _ _))
  refine holdsStill_eq_false ?_ ?_ ?_ ?_
  · rw [hd]
    change ((deskOf l v).waiting.erase t).filter (fun t => t.fh == fh) = []
    exact filter_erase_of_singleton hw
  · rw [hd]
    exact hr
  · rw [hd]
    exact ha
  · rw [deskOf_vdesk, hun, hpool]

/-- PARK_NOTICE of a parked frame of which nothing is left at its desk afterwards. -/
theorem exec_parkNotice_parked {s s3 : State} {slot v fh : Nat} {l l3 : Launch} {f : Frame}
    (hl : findLaunch s slot = some l) (hf : findFrame s fh = some f) (hp : parked f = true)
    (h3 : withdrawAside (withdrawReady (withdrawWays (setLaunch s (noticeDesk l v fh)) slot v
      ((deskOf l v).waiting.filter fun t => t.fh == fh)) slot v ((deskOf l v).ready.filter fun r => r.firing.a.fh == fh)) slot v
      ((deskOf l v).aside.filter fun x => x.tok.fh == fh) = s3)
    (hl3 : findLaunch s3 slot = some l3) (hstill : holdsStill l3 (deskOf l3 v) fh = false) :
    exec (.parkNotice slot v fh) s = .next s3 := by
  subst h3
  change execParkNotice slot v fh s = _
  unfold execParkNotice
  rw [hl, hf]
  refine (if_neg (by simp [hp])).trans ?_
  unfold noticeDesk at hl3 ⊢
  dsimp only
  rw [hl3]
  exact if_neg (by simp [hstill])

/-- One waiting token of a parked frame goes to its free spill slot, and the desk has withdrawn the frame. -/
theorem exec_parkNotice_waiting {s : State} {slot v fh : Nat} {l : Launch} {f : Frame} {t : Token}
    (hl : findLaunch s slot = some l) (hf : findFrame s fh = some f) (hp : parked f = true)
    (hw : (deskOf l v).waiting.filter (fun t => t.fh == fh) = [t]) (hh : headerOk t = true) (hpay : payloadOk t = true)
    (hr : (deskOf l v).ready.filter (fun r => r.firing.a.fh == fh) = [])
    (ha : (deskOf l v).aside.filter (fun x => x.tok.fh == fh) = [])
    (hpool : (unresolved (poolFaults l v fh)).any (unpooled v fh) = false)
    (hs : slotHeld (withoutWaiting v t (noticeDesk l v fh)) v fh (slotOf f.spilld t) f.spilld = false) :
    exec (.parkNotice slot v fh) s = .next (setLaunch (modLaunch (setLaunch s (noticeDesk l v fh)) slot (withoutWaiting v t))
      (storeWithdrawn (withoutWaiting v t (noticeDesk l v fh)) v fh (slotOf f.spilld t) t)) := by
  have ht : t.fh = fh := by
    have hm : t ∈ (deskOf l v).waiting.filter fun t => t.fh == fh := by simp [hw]
    simpa using (List.mem_filter.1 hm).2
  subst ht
  have h0 : findLaunch (setLaunch s (noticeDesk l v t.fh)) slot = some (noticeDesk l v t.fh) :=
    findLaunch_set hl (modDesk_slot _ _ _)
  have h1 : findLaunch (modLaunch (setLaunch s (noticeDesk l v t.fh)) slot (withoutWaiting v t)) slot =
      some (withoutWaiting v t (noticeDesk l v t.fh)) := by
    refine (findLaunch_modLaunch _ slot _ ?_).trans (congrArg (Option.map (withoutWaiting v t)) h0)
    exact fun _ => modDesk_slot _ _ _
  have hw1 := withdrawToken_free (v := v) hh hpay h1 (f := f) hf hs
  have h3 := findLaunch_set (l' := storeWithdrawn (withoutWaiting v t (noticeDesk l v t.fh)) v t.fh (slotOf f.spilld t) t) h1
    (modDesk_slot _ _ _)
  have hstill := holdsStill_stored (k := slotOf f.spilld t) hw hr ha hpool
  have hways : withdrawWays (setLaunch s (noticeDesk l v t.fh)) slot v [t] =
      setLaunch (modLaunch (setLaunch s (noticeDesk l v t.fh)) slot (withoutWaiting v t))
        (storeWithdrawn (withoutWaiting v t (noticeDesk l v t.fh)) v t.fh (slotOf f.spilld t) t) :=
    congrArg (fun o : Option State => o.getD _) hw1
  refine exec_parkNotice_parked hl hf hp ?_ h3 hstill
  rw [hw, hr, ha, hways]
  rfl

/-- Settles O42. -/
theorem trapAndHandlerInstructionsComplete : Obligations.TrapAndHandlerInstructionsComplete := by
  unfold Obligations.TrapAndHandlerInstructionsComplete
  intro pass addr trapPass
  refine ⟨emits_of_run (fun r s => by dsimp only [exec, execNop, runPlain]) ?nop, completes_of_run (fun r s => by dsimp only [exec, execRdsys, runPlain]) ?rdsys,
    completes_of_run (body := fun _ => taillBody) (fun _ _ => rfl) ?taill, traps_of_run (body := fun _ => taillBody) (fun _ _ => rfl) ?taillFull,
    traps_of_run (fun r s => by dsimp only [exec, execTrap, runPlain]) ?trap, emits_of_run (fun r s => by dsimp only [exec, execTrap, runPlain]) ?trapPass,
    traps_of_run (fun r s => by dsimp only [exec, execBrk, runPlain]) ?brk, emits_of_run (fun r s => by dsimp only [exec, execBrk, runPlain]) ?brkPass, ?resume,
    completes_of_run (body := fun _ => killfBody) (fun _ _ => rfl) ?killf, completes_of_run (body := fun _ => killfBody) (fun _ _ => rfl) ?killfNone,
    traps_of_run (body := fun _ => killfBody) (fun _ _ => rfl) ?killfTrap, ?parkNotice⟩
  case nop => exact fun s c es h => doneWith_ok h 0
  case rdsys =>
    rintro s c s1 es fl ⟨rfl, rfl, hodd, hout⟩
    rw [if_neg (by simpa using hodd)]
    refine doneWith_ok (Eq.trans (congrArg (outBoth c · false false []) (List.map_congr_left fun k _ => ?_)) hout) 0
    rw [sysLane, Nat.shiftRight_eq_div_pow]
    simp
  case taill =>
    rintro s c s1 es fl ⟨rfl, hn, hfield, hal, hlen, hout, rfl⟩
    unfold taillBody
    rw [if_neg (by omega), if_neg (by simpa using hfield), if_neg (by simpa using hal), if_neg (by omega)]
    exact doneWith_ok hout 0
  case taillFull =>
    rintro s c t ⟨hn, hfield, hal, hlen, rfl⟩
    unfold taillBody
    rw [if_neg (by omega), if_neg (by simpa using hfield), if_neg (by simpa using hal), if_pos (by omega)]
    rfl
  case trap =>
    rintro s c t ⟨hn, rfl⟩
    exact if_neg (mt (trapPass_iff c).1 hn)
  case trapPass =>
    rintro s c es ⟨h, hout⟩
    exact (if_pos ((trapPass_iff c).2 h)).trans (doneWith_ok hout 0)
  case brk =>
    rintro s c t ⟨hn, rfl⟩
    exact if_neg (by simpa using hn)
  case brkPass =>
    rintro s c es ⟨h, hout⟩
    exact (if_pos (by simpa using h)).trans (doneWith_ok hout 0)
  case resume =>
    exact List.forall_mem_cons.2 ⟨resume_form fun _ _ => rfl, List.forall_mem_cons.2 ⟨resume_form fun _ _ => rfl,
      List.forall_mem_singleton.2 (resume_form fun _ _ => rfl)⟩⟩
  case killf =>
    rintro s c s1 es fl ⟨rfl, ho, rec, hrec, rfl, hout⟩
    rw [killfBody_office ho, hrec]
    exact doneWith_ok hout 0
  case killfNone =>
    rintro s c s1 es fl ⟨rfl, ho, hn, rfl, hout⟩
    rw [killfBody_office ho, hn]
    exact doneWith_ok hout 0
  case killfTrap =>
    rintro s c t ⟨ho, rfl⟩
    exact if_pos (by simpa using ho)
  case parkNotice =>
    intro s slot v fh l f hl hf
    refine ⟨fun hp => ?_, fun t hp hw hh hpay hr ha hpool => exec_parkNotice_waiting hl hf hp hw hh hpay hr ha hpool⟩
    change execParkNotice slot v fh s = _
    unfold execParkNotice
    rw [hl, hf]
    exact if_pos (by simpa using hp)

end Sys2Proof.Programs
end

section
/-! SUPPORT. A round instruction on its courier (R309), and the rounds' start, registers and end (R304 to R312, R321). -/

namespace Sys2Proof.Rounds

open Machine Safety Laws Programs

theorem firing_of_ctxOf {s : State} {f : Firing} {n : NodeRec} {c : Ctx} (h : ctxOf s f n = some c) : c.f = f := by
  unfold ctxOf at h
  split at h
  · cases h
    rfl
  · cases h

/-- An issued round instruction runs its body on what its courier sees (R309). -/
theorem runRound_eq {s : State} {r : RCtx} (h : inRound s r) (body : State → RCtx → RRes) :
    runRound s body = match body s r with
      | .next s1 q1 => .next (putCourier s1 r.f.slot q1)
      | .wait => .next (putCourier s r.f.slot { r.q with state := .waiting, held := true })
      | .trap t => .next (trapRound s r.l r.q r.f [] t)
      | .race e x => .next (trapRound s r.l r.q r.f [companionOf e x] ⟨0x09, raceDetail e x, 0⟩)
      | .done s1 => .next s1 := by
  obtain ⟨hi, hl, q, n, hq, hf, hr, hn, hc⟩ := h
  obtain ⟨l, q', f, c⟩ := r
  dsimp only at hi hl hq hf hr hn hc
  subst hr
  cases q
  subst hf
  unfold runRound
  simp only [hi, hl, hq, hn, hc]
  generalize body s _ = res
  cases res <;> rfl

section
variable {i : Instr} {body : State → RCtx → RRes} (run : ∀ s, exec i s = runRound s body)
include run

theorem roundRuns_of_run {ok : State → RCtx → State → Courier → Prop}
    (h : ∀ s r s1 q, ok s r s1 q → body s r = .next s1 q) : roundRuns i ok := by
  intro s r s1 q hr hok
  rw [run, runRound_eq hr, h s r s1 q hok]

theorem roundTraps_of_run {ok : State → RCtx → Trap → Prop} (h : ∀ s r t, ok s r t → body s r = .trap t) : roundTraps i ok := by
  intro s r t hr hok
  rw [run, runRound_eq hr, h s r t hok]

theorem roundWaits_of_run {ok : State → RCtx → Prop} (h : ∀ s r, ok s r → body s r = .wait) : roundWaits i ok := by
  intro s r hr hok
  rw [run, runRound_eq hr, h s r hok]

theorem exec_round_done {s s1 : State} {r : RCtx} (hr : inRound s r) (h : body s r = .done s1) : exec i s = .next s1 := by
  rw [run, runRound_eq hr, h]

end

/-! Registers and loops (R312). -/

theorem gReg_setG_same {q : Courier} (hg : q.g.length = 8) (d : BitVec 3) (v : Dword) : gReg (setG q d v) d = v := by
  have hd : d.toNat < q.g.length := hg ▸ d.isLt
  simp [gReg, setG, hd]

theorem set_gReg {q : Courier} (hg : q.g.length = 8) (d : BitVec 3) : q.g.set d.toNat (gReg q d) = q.g := by
  have hd : d.toNat < q.g.length := hg ▸ d.isLt
  simp [gReg, List.getD_eq_getElem?_getD, hd]

/-! ROUND and ROUNDSTOP (R305 to R308). -/

/-- A ROUND whose token leaves starts its round on an idle courier. -/
theorem roundBody_idle {s : State} {c : Ctx} {q : Courier} {es : List Emission} (hq : courierOf c.l (fNode c.f) = some q)
    (hs : q.state = .idle) (hp : q.pending = 0) (hout : outBoth c oneZero false false [] = .ok es) :
    roundBody s c = .later (putCourier s c.f.slot
      { q with
        state := .running, held := false, g := paramRegs c.f.a, pc := 0, round := low 16 c.r.lit.toNat, firing := some c.f,
        bufs := List.replicate 4 [], delivered := [], sunk := [], hb := [], ending := false }) := by
  unfold roundBody
  rw [hq]
  dsimp only
  rw [if_neg (by simp [hs, hp]), hout]
  cases tagRule c.shape (ctxTag c) c.f.a.fill c.r.tagop <;> rfl

theorem roundBody_busy {s : State} {c : Ctx} (h : ∀ q, courierOf c.l (fNode c.f) = some q → q.state ≠ .idle ∨ q.pending ≠ 0) :
    roundBody s c = .hold := by
  unfold roundBody
  split
  next => rfl
  next q hq => exact if_pos (by simpa using h q hq)

/-- An END with nothing pending, whose token leaves (R321). -/
theorem exec_endRound {s : State} {r : RCtx} {es : List Emission} (hr : inRound s r) (hp : r.q.pending = 0)
    (hout : outBoth r.c [0] false false (roundHb r) = .ok es) :
    exec .endRound s = match endTrap r es with
      | some t => .next (trapRound s r.l r.q r.f [] t)
      | none => .next (finishRound (modLaunch s r.f.slot fun l => modTile l (fTile r.f) fun t =>
          { t with monitors := t.monitors.map fun m =>
              if m.node == fNode r.f && m.kind == 2 && (rateDue r.l m 0).isSome then
                { m with count := m.count + BitVec.ofNat 32 (roundCount r m es), firings := m.firings + 1 } else m })
          r.c r.q 0 (roundHb r)) := by
  change execEndRound s = _
  unfold execEndRound
  rw [runRound_eq hr]
  dsimp only
  rw [if_neg (by simp [hp]), hout]
  dsimp only
  cases endTrap r es <;> rfl

/-- A round whose status leaves. -/
theorem finishRound_ok {s : State} {c : Ctx} {q : Courier} {status : Nat} {hb : List Nat} {es : List Emission}
    (hout : outBoth c [BitVec.ofNat 32 status] false false hb = .ok es) :
    finishRound s c q status hb = complete (putCourier s c.f.slot { q with state := .idle, firing := none, ending := false }) c es 0 := by
  unfold finishRound
  rw [hout]

/-- Settles O45. -/
theorem roundsStartRunAndEnd : Obligations.RoundsStartRunAndEnd := by
  unfold Obligations.RoundsStartRunAndEnd
  intro sext at1 wr next
  refine ⟨answersNext_of_run (body := fun _ => roundBody) (fun _ _ => rfl) ?round, holds_of_run (body := fun _ => roundBody) (fun _ _ => rfl) ?busy,
    completes_of_run (body := fun _ => roundstopBody) (fun _ _ => rfl) ?stop,
    fun d imm => roundRuns_of_run (fun _ => by dsimp only [exec, execSetg]) ?setg, fun d a imm => roundRuns_of_run (fun _ => by dsimp only [exec, execAddg]) ?addg,
    fun d a b sh => roundRuns_of_run (fun _ => by dsimp only [exec, execAddgg]) ?addgg, fun d skip count => roundRuns_of_run (fun _ => by dsimp only [exec, execLoop]) ?loop,
    fun d back => roundRuns_of_run (fun _ => by dsimp only [exec, execEndl]) ?endl, ?endRound, ?endTrap⟩
  case round =>
    rintro s c t ⟨q, es, hq, hs, hp, hout, rfl⟩
    exact roundBody_idle hq hs hp hout
  case busy => exact fun s c h => roundBody_busy h
  case stop =>
    rintro s c s1 es fl ⟨rfl, rfl, hout⟩
    refine Eq.trans ?_ (doneWith_ok hout 0)
    have hcases (q : Courier) (s : State) : (match q.firing with
        | some f => stopRound s q f
        | none => s) = q.firing.elim s fun f => stopRound s q f := by cases q.firing <;> rfl
    have hne (qs : List Courier) : decide (qs ≠ []) = !qs.isEmpty := by cases qs <;> rfl
    simp only [hne, ← hcases]
    rfl
  case setg =>
    rintro s r s1 q ⟨rfl, rfl⟩
    rfl
  case addg =>
    rintro s r s1 q ⟨rfl, rfl⟩
    rfl
  case addgg =>
    rintro s r s1 q ⟨rfl, rfl⟩
    have h (v : Dword) : v * BitVec.ofNat 64 (2 ^ sh.toNat) = v <<< sh.toNat := by
      rw [BitVec.shiftLeft_eq_mul_twoPow]
      congr 1
      exact BitVec.eq_of_toNat_eq (by simp [BitVec.toNat_twoPow])
    simp only [next, wr, at1, h]
    rfl
  case loop =>
    rintro s r s1 q ⟨rfl, hg, rfl⟩
    by_cases hc : count = 0
    · subst hc
      simp only [beq_self_eq_true, if_true, beq_iff_eq, at1, ← gReg.eq_def, set_gReg hg]
    · have hc' : (count == 0) = false := by simpa using hc
      simp only [hc, hc', Bool.false_eq_true, if_false, gReg_setG_same hg, beq_iff_eq]
      rfl
  case endl =>
    rintro s r s1 q ⟨rfl, hg, rfl⟩
    by_cases hv : gReg r.q d - 1 = 0
    · have hv' : at1 r.q d - 1 = 0 := hv
      simp only [gReg_setG_same hg, hv, hv', bne_self_eq_false, Bool.false_eq_true, if_false, if_true]
      rfl
    · have hv' : ¬at1 r.q d - 1 = 0 := hv
      simp only [gReg_setG_same hg, hv', bne_iff_ne.2 hv, if_false, if_true]
      rfl
  case endRound =>
    intro s r es hr hp hout htrap
    obtain ⟨-, -, _, _, -, -, -, -, hc⟩ := id hr
    rw [exec_endRound hr hp hout, htrap, ← firing_of_ctxOf hc]
    exact congrArg _ (finishRound_ok hout)
  case endTrap =>
    rintro s r t hr ⟨hp, es, hout, ht⟩
    rw [exec_endRound hr hp hout, ht]

end Sys2Proof.Rounds
end

section
/-! SUPPORT. The MODE nodes and the quiescence they wait for (R233 to R235). -/

namespace Sys2Proof.Programs

open Machine Safety Laws

/-- QUIESCENCE_DETECTED of a launch. -/
theorem exec_quiescenceDetected {s : State} {slot : Nat} {l : Launch} (hl : findLaunch s slot = some l) :
    exec (.quiescenceDetected slot) s =
      if quiescent s l && l.modeQueue.isEmpty && l.phase == .running then
        .next (setLaunch s { l with modeQueue := sortBy (modeLt s) (modeHeld s l) })
      else .next s := by
  change execQuiescenceDetected slot s = _
  unfold execQuiescenceDetected
  rw [hl]

/-- A MODE firing that is not the next to act is held. -/
theorem modeBody_notNext {s : State} {c : Ctx} (h : modeNext c.l c.f = false) : modeBody s c = .hold := if_pos (by simp [h])

theorem modeBody_next {s : State} {c : Ctx} {es : List Emission} (h : modeNext c.l c.f = true)
    (hout : outBoth c c.f.a.lanes false false [] = .ok es) :
    modeBody s c = .done (modLaunch s c.f.slot fun l =>
      loadPhases { l with active := low 4 c.r.lit.toNat, modeQueue := l.modeQueue.drop 1 }) es 0 :=
  (if_neg (by simp [h])).trans (doneWith_ok hout 0)

/-- The status token of a MODE that fails. -/
theorem failMode_ok {s : State} {c : Ctx} {code detail off : Nat} {es : List Emission}
    (hout : outPorts c [1] ([BitVec.ofNat 32 code, BitVec.ofNat 32 detail] ++ lanesOf64 off) c.r.tagop false false [] = .ok es) :
    failMode s c code detail off = .done (discardModes s c.f.slot c.f.a) es 0 := doneWith_ok hout 0

/-- Settles O41. -/
theorem modesChangeAtQuiescence : Obligations.ModesChangeAtQuiescence := by
  refine ⟨fun s slot l hl hq hm hp => ?_, fun s slot l hl hq => ?_, fun s slot l hl hm => ?_,
    completes_of_run (body := fun _ => modeBody) (fun _ _ => rfl) ?mode, holds_of_run (body := fun _ => modeBody) (fun _ _ => rfl) fun s c h => modeBody_notNext h,
    holds_of_run (body := fun _ => modeReconfBody) (fun _ _ => rfl) ?held, traps_of_run (body := fun _ => modeReconfBody) (fun _ _ => rfl) ?short,
    answersNext_of_run (body := fun _ => modeReconfBody) (fun _ _ => rfl) ?staged, completes_of_run (body := fun _ => modeReconfBody) (fun _ _ => rfl) ?failed⟩
  · rw [exec_quiescenceDetected hl, if_pos (by simp [hq, hm, hp])]
  · rw [exec_quiescenceDetected hl, if_neg (by simp [hq])]
  · rw [exec_quiescenceDetected hl, if_neg (by simp [hm])]
  case mode =>
    rintro s c s1 es fl ⟨rfl, hn, rfl, hout⟩
    exact modeBody_next hn hout
  case held =>
    rintro s c ⟨hb, hn⟩
    exact (if_neg (by omega)).trans (if_pos (by simp [hn]))
  case short =>
    rintro s c t ⟨hb, rfl⟩
    exact if_pos hb
  case staged =>
    rintro s c t ⟨hb, hn, m, placed, hload, hstage, rfl⟩
    unfold modeReconfBody
    rw [if_neg (by omega), if_neg (by simp [hn]), hload]
    dsimp only
    rw [hstage]
  case failed =>
    rintro s c s1 es fl ⟨hb, hn, rfl, rfl, code, detail, off, hcase, hout⟩
    unfold modeReconfBody
    rw [if_neg (by omega), if_neg (by simp [hn])]
    rcases hcase with ⟨hload, rfl, rfl, rfl⟩ | ⟨k, hload, rfl, rfl, rfl⟩ | ⟨m, t, hload, hstage, rfl, rfl, rfl⟩
    · rw [hload]
      exact failMode_ok hout
    · rw [hload]
      exact failMode_ok hout
    · rw [hload]
      dsimp only
      rw [hstage]
      exact failMode_ok hout

end Sys2Proof.Programs
end

section
/-! SUPPORT. The tensor queue and the steps of the array (R186 to R194). -/

namespace Sys2Proof.Programs

open Machine Safety Laws Rounds

theorem rec_of_ctxOf {s : State} {f : Firing} {n : NodeRec} {c : Ctx} (h : ctxOf s f n = some c) : c.r = n := by
  unfold ctxOf at h
  split at h
  · cases h
    rfl
  · cases h

/-! Joining the queue (R183, R194). -/

theorem enqueueTensor_room {s : State} {c : Ctx} (h : (tileOf c.l (fTile c.f)).tq.length < 4) :
    enqueueTensor s c = .later (modFTile s c.f fun t => { t with tq := t.tq ++ [c.f] }) := if_neg (by omega)

theorem enqueueTensor_full {s : State} {c : Ctx} (h : 4 ≤ (tileOf c.l (fTile c.f)).tq.length) : enqueueTensor s c = .hold := if_pos h

/-- A node whose firings join the tensor queue. -/
theorem enqueues_of_run {i : NodeRec → Instr} {p : Policy} {dl : NodeRec → State → Ctx → Res}
    (run : ∀ r s, exec (i r) s = runNode s r p (fun _ => 0) lpOut (dl r) enqueueTensor) :
    (answersNext i p fun s c t => (tileOf c.l (fTile c.f)).tq.length < 4 ∧
      t = modLaunch s c.f.slot fun l => modTile l (fTile c.f) fun t => { t with tq := t.tq ++ [c.f] }) ∧
    (holds i p fun _ c => 4 ≤ (tileOf c.l (fTile c.f)).tq.length) ∧
    (passesLp i p fun c es => outBoth c (lpLanes c) (anyDl c.f) true [] = .ok es) := by
  refine ⟨answersNext_of_run (lp := fun _ => lpOut) (body := fun _ => enqueueTensor) run ?_,
    holds_of_run (lp := fun _ => lpOut) (body := fun _ => enqueueTensor) run fun _ _ => enqueueTensor_full,
    passesLp_of_run (lp := fun _ => lpOut) (body := fun _ => enqueueTensor) run fun _ _ _ => lpOut_done⟩
  rintro s c t ⟨h, rfl⟩
  exact enqueueTensor_room h

/-! The oldest firing runs in the array (R191). -/

theorem exec_tensorQueueStart {s : State} {slot vtile : Nat} {l : Launch} {f : Firing} {rest : List Firing} {w opc : Nat}
    {r : NodeRec} {c : Ctx} (hl : findLaunch s slot = some l) (hq : (tileOf l vtile).tq = f :: rest)
    (hw : nodeWord l (fNode f) = some w) (hp : parseNode w = some (opc, r))
    (hc : ctxOf (modLaunch s slot fun l => modTile l vtile fun t => { t with tq := rest }) f r = some c) :
    exec (.tensorQueueStart slot vtile) s =
      .next (settle (modLaunch s slot fun l => modTile l vtile fun t => { t with tq := rest }) c 0 true
        (tensorStep opc (modLaunch s slot fun l => modTile l vtile fun t => { t with tq := rest }) c)) := by
  change execTensorQueueStart slot vtile s = _
  simp only [execTensorQueueStart, hl, hq, hw, hp, hc]

/-- The checked accesses of an MMA or MMAZ step. -/
theorem mmaTrap_none {mma : Bool} {pb : Nat} {t : Tile} {bank : Bank} (ha : pb ≤ (fifoBytes t.fifoA).length)
    (hb : pb ≤ (fifoBytes t.fifoB).length) (hd : mma = true → bank.defined = true) : mmaTrap mma pb t bank = none := by
  unfold mmaTrap
  rw [if_neg (by omega), if_neg (by omega), if_neg (by cases mma <;> simp_all)]

theorem mmaTrap_short {mma : Bool} {pb : Nat} {t : Tile} {bank : Bank} (ha : (fifoBytes t.fifoA).length < pb) :
    mmaTrap mma pb t bank = some ⟨0x0D, 0, 0⟩ := if_pos ha

/-- An MMA or MMAZ step with its panels there, its bank defined and no enabled flag. -/
theorem mmaStep_done {mma : Bool} {s0 sx : State} {c : Ctx} {es : List Emission}
    (hx : checkAccesses (newGroup s0).1 c.f.slot (mmaAccesses (newGroup s0).1 c (newGroup s0).2) = .ok sx) :
    let t := tileOf c.l (fTile c.f)
    let m := c.r.modx.toNat
    let k := low 2 c.r.lit.toNat
    let n := panelBytes c.r.type (bit m 2)
    let rows := bankRows (bankOf t k)
    let res := mmaResult c mma rows (panelRows c.r.type (bit m 2) ((fifoBytes t.fifoA).take n))
      (panelRows (altTy c.r.type (bit m 3)) (bit m 2) ((fifoBytes t.fifoB).take n))
    mmaTrap mma n t (bankOf t k) = none → firstRaised c.l.rcd.arithen res = none →
    outBoth c c.f.a.lanes false false [(newGroup s0).2] = .ok es →
    mmaStep mma s0 c = .done (modLaunch (popFifos sx c (!bit m 0) (!bit m 1) n (newGroup s0).2) c.f.slot fun l =>
        modTile l (fTile c.f) fun t => { t with banks := t.banks.set k { bytes := mmaBank c mma rows res, defined := true } })
      es (allFlags (res.flatMap fun row => row.map fun x => (0, x.2))) := by
  dsimp only
  intro htrap hraised hout
  unfold mmaStep
  dsimp only
  rw [withAccesses_ok hx, htrap]
  dsimp only
  rw [hraised]
  exact doneWith_ok hout _

/-- An MMA or MMAZ step with a panel missing or its bank undefined. -/
theorem mmaStep_trap {mma : Bool} {s0 sx : State} {c : Ctx} {e : Trap}
    (hx : checkAccesses (newGroup s0).1 c.f.slot (mmaAccesses (newGroup s0).1 c (newGroup s0).2) = .ok sx)
    (h : mmaTrap mma (panelBytes c.r.type (bit c.r.modx.toNat 2)) (tileOf c.l (fTile c.f))
      (bankOf (tileOf c.l (fTile c.f)) (low 2 c.r.lit.toNat)) = some e) :
    mmaStep mma s0 c = .trap e := by
  refine (withAccesses_ok hx _).trans ?_
  rw [h]

/-- An ACCRD of a defined bank with no enabled flag. -/
theorem accrdStep_done {s0 sx : State} {c : Ctx} {es : List Emission} :
    let k := low 2 c.r.lit.toNat
    let bank := bankOf (tileOf c.l (fTile c.f)) k
    let toks := accrdTokensOf c bank
    bank.defined = true → (∀ x ∈ toks.flatten, x.2.1 &&& c.l.rcd.arithen = 0) →
    checkAccesses (newGroup s0).1 c.f.slot [unitBy (newGroup s0).1 c.f (newGroup s0).2 .read (locAcc k)] = .ok sx →
    accrdOut c (toks.map (accrdLanes c.r.type)) false [(newGroup s0).2] = .ok es →
    accrdStep s0 c = .done sx es (allFlags (toks.flatMap fun t => t.map fun x => (0, x.2.1))) := by
  dsimp only
  intro hd hraised hx hout
  have hfind : (accrdTokensOf c (bankOf (tileOf c.l (fTile c.f)) (low 2 c.r.lit.toNat))).flatten.find?
      (fun x => x.2.1 &&& c.l.rcd.arithen != 0) = none :=
    List.find?_eq_none.2 fun x hm => by simp [hraised x hm]
  unfold accrdStep
  rw [if_neg (by simp [hd])]
  dsimp only
  rw [hfind]
  exact (withAccesses_ok hx _).trans (doneWith_ok hout _)

theorem accrdStep_undefined {s0 : State} {c : Ctx} (h : (bankOf (tileOf c.l (fTile c.f)) (low 2 c.r.lit.toNat)).defined = false) :
    accrdStep s0 c = .trap ⟨0x08, 1, 0⟩ := if_pos (by simp [h])

theorem fskipTrap_none {m n : Nat} {t : Tile} (ha : bit m 0 = true → n ≤ (fifoBytes t.fifoA).length)
    (hb : bit m 1 = true → n ≤ (fifoBytes t.fifoB).length) : fskipTrap m n t = none := by
  unfold fskipTrap
  rw [if_neg (by simpa using ha), if_neg (by simpa using hb)]

/-- Settles O24. -/
theorem tensorFiringsAreQueuedAndRun : Obligations.TensorFiringsAreQueuedAndRun := by
  refine ⟨⟨?queue, passesDl_of_run (dl := fun _ s c => doneWith s (accrdOut c (List.replicate
      (accrdTokens c.r.type (field c.r.lit.toNat 8 6 + 1)) (passLanes c)) true []) 0) (body := fun _ => enqueueTensor)
      (fun _ _ => rfl) ?dead⟩, ?start⟩
  case queue =>
    exact List.forall_mem_cons.2 ⟨enqueues_of_run fun _ _ => rfl, List.forall_mem_cons.2 ⟨enqueues_of_run fun _ _ => rfl,
      List.forall_mem_cons.2 ⟨enqueues_of_run (i := .accrd) (dl := fun _ s c => doneWith s (accrdOut c (List.replicate
        (accrdTokens c.r.type (field c.r.lit.toNat 8 6 + 1)) (passLanes c)) true []) 0) fun _ _ => rfl,
      List.forall_mem_cons.2 ⟨enqueues_of_run fun _ _ => rfl, List.forall_mem_singleton.2 (enqueues_of_run fun _ _ => rfl)⟩⟩⟩⟩
  case dead =>
    intro s c es hout
    refine doneWith_ok (Eq.trans ?_ hout) 0
    simp [accrdTokens]
  case start =>
    intro s slot vtile l f rest w opc r c hl hq hw hp s0 hc t m k g checked mine panels ends
    obtain rfl := firing_of_ctxOf hc
    obtain rfl := rec_of_ctxOf hc
    have hexec := exec_tensorQueueStart hl hq hw hp hc
    have hends {s1 : State} {es : List Emission} {fl : Flags} (h : tensorStep opc s0 c = .done s1 es fl) : ends s1 es fl := by
      intro hrate
      rw [hexec]
      exact congrArg _ ((congrArg (settle s0 c 0 true) h).trans (settle_done hrate fl))
    have htraps {e : Trap} (h : tensorStep opc s0 c = .trap e) :
        exec (.tensorQueueStart slot vtile) s = .next (trapFiring s0 c.f e) := by
      rw [hexec]
      exact congrArg _ (congrArg (settle s0 c 0 true) h)
    have hmma (h : opc = 0xC0 ∨ opc = 0xC1) : tensorStep opc s0 c = mmaStep (opc == 0xC0) s0 c := by
      rcases h with rfl | rfl <;> rfl
    refine ⟨?_, ?_, ?_, ?_, fun sx ho hx ha => htraps ?_, fun ho hd => htraps ?_⟩
    · intro sx es ho n rows res ha hb hd hraised hx hout
      refine hends ?_
      rw [hmma ho]
      exact mmaStep_done hx (mmaTrap_none ha hb fun h => hd (by simpa using h)) hraised hout
    · intro sx es ho hd toks hraised hx hout
      subst ho
      exact hends (accrdStep_done hd hraised hx hout)
    · intro sx es ho hx hout
      subst ho
      exact hends ((withAccesses_ok hx _).trans (doneWith_ok hout 0))
    · intro sx es ho n ha hb hx hout
      subst ho
      exact hends ((withAccesses_ok hx _).trans ((untrapped _ (fskipTrap_none ha hb)).trans (doneWith_ok hout 0)))
    · rw [hmma ho]
      exact mmaStep_trap hx (mmaTrap_short ha)
    · subst ho
      exact accrdStep_undefined hd

end Sys2Proof.Programs
end

section
/-! SUPPORT. What becomes of a request at its home: where it is performed, and what performing it leaves (R265 to R279, R372). -/

namespace Sys2Proof.Requests

open Machine Safety Laws Programs Perform Traps

variable {s s0 sx : State} {slot id : Nat} {l : Launch} {q : Req} {r : NodeRec} {c : Ctx} {places : List Nat}

/-- Where a request is performed and in which state: at the places its check answers, or at those that its wait keeps. -/
def AtHome (s : State) (l : Launch) (r : NodeRec) (q : Req) (s0 : State) (places : List Nat) : Prop :=
  (q.places = [] ∧
    checkUnits s l (portOf l q.firing) (q.space == .host) false (needOf q.op) q.unit (unitLane r.type) 0 q.addrs = .ok places ∧
    s0 = fillTile s l (portOf l q.firing) (q.space == .host) q.addrs) ∨
  (q.places ≠ [] ∧ places = q.places ∧ s0 = s)

/-! The checks (R273). -/

theorem performReq_eq (hl : findLaunch s slot = some l) (hr : recOf l q.firing = some r) (hc : reqCtx s q.firing r = some c)
    (direct : Bool) : performReq s slot q direct = checkReq s l c q direct := by
  simp only [performReq, hl, hr, hc]

theorem performReq_home (hl : findLaunch s slot = some l) (hr : recOf l q.firing = some r) (hc : reqCtx s q.firing r = some c)
    (h : AtHome s l r q s0 places) : performReq s slot q false = performChecked s0 l c q places := by
  rw [performReq_eq hl hr hc, ← reqCtx_record hc] at *
  unfold checkReq
  rcases h with ⟨hp, hcheck, rfl⟩ | ⟨hp, rfl, rfl⟩
  · dsimp only
    rw [if_neg (by simp [hp]), hcheck]
  · exact if_pos (by simpa using hp)

section
variable (hl : findLaunch s slot = some l) (hr : recOf l q.firing = some r) (hc : reqCtx s q.firing r = some c) (hp : q.places = [])
include hl hr hc hp

theorem performReq_trap {t : Trap}
    (h : checkUnits s l (portOf l q.firing) (q.space == .host) false (needOf q.op) q.unit (unitLane r.type) 0 q.addrs = .trap t) :
    performReq s slot q false = trapReq s slot q t := by
  rw [performReq_eq hl hr hc, ← findLaunch_slot hl]
  unfold checkReq
  dsimp only
  rw [if_neg (by simp [hp]), reqCtx_record hc, h]

theorem performReq_lost {n : Nat}
    (h : checkUnits s l (portOf l q.firing) (q.space == .host) false (needOf q.op) q.unit (unitLane r.type) 0 q.addrs = .lost n) :
    performReq s slot q false = askRecovery s slot n := by
  rw [performReq_eq hl hr hc, ← findLaunch_slot hl]
  unfold checkReq
  dsimp only
  rw [if_neg (by simp [hp]), reqCtx_record hc, h]

theorem performReq_miss {u n : Nat}
    (h : checkUnits s l (portOf l q.firing) (q.space == .host) false (needOf q.op) q.unit (unitLane r.type) 0 q.addrs = .miss u n) :
    performReq s slot q false = if q.space = .host then parkReq s slot q .walking
      else pushAlone (parkReq s slot q .walking) (.walkComplete slot q.id) := by
  rw [performReq_eq hl hr hc, ← findLaunch_slot hl]
  unfold checkReq
  dsimp only
  rw [if_neg (by simp [hp]), reqCtx_record hc, h]
  simp only [beq_iff_eq]

end

/-! What performing a checked request comes to (R267, R292). -/

theorem specTask_none {f : Firing} (h : taskFrame s f = none) : specTask s f = none := by
  rw [specTask, h]

/-- A request of no task that its wait, its race check and its lines do not stop. -/
theorem performChecked_ready (ht : taskFrame s0 c.f = none) (hlost : q.op = .semWait → lostRead s0 q places = none)
    (hshort : semShort s0 q places = false)
    (hx : checkAccesses (newGroup s0).1 c.f.slot (reqAccesses (newGroup s0).1 l c.r.type (acquiring s0 c q places) (newGroup s0).2
      places) = .ok sx) (hl : lostRead s0 (acquiring s0 c q places) places = none) :
    performChecked s0 l c q places = performNow sx c none (acquiring s0 c q places) places (newGroup s0).2 := by
  have h1 : ¬(q.op == .semWait && (lostRead s0 q places).isSome) = true := by
    rw [Bool.and_eq_true, beq_iff_eq]
    rintro ⟨ho, hs⟩
    rw [hlost ho] at hs
    cases hs
  unfold performChecked
  dsimp only
  rw [if_neg h1, if_neg (by simp [hshort]), if_neg (by simp [specTask_none ht]), hx]
  dsimp only
  rw [hl]
  dsimp only
  rw [ht]

theorem semShort_of_ne (h : q.op ≠ .semWait) : semShort s q places = false := by
  simp [semShort, h]

theorem lostRead_eq_none (h : q.space = .device → readsOld q.op = true → lostLine s places q.unit = none) :
    lostRead s q places = none := by
  unfold lostRead
  split
  next hb =>
    obtain ⟨hd, hr⟩ := Bool.and_eq_true_iff.1 hb
    exact h (by simpa using hd) hr
  next => rfl

/-- A wait whose semaphore stands in a lost line. -/
theorem performChecked_lost {n : Nat} (ho : q.op = .semWait) (h : lostRead s0 q places = some n) :
    performChecked s0 l c q places = askRecovery s0 c.f.slot n := by
  unfold performChecked
  dsimp only
  rw [if_pos (by simp [ho, h]), h]
  rfl

/-- A wait whose semaphore is below its target. -/
theorem performChecked_short (ho : q.op = .semWait) (hl : lostRead s0 q places = none)
    (h : readSpace s0 (q.space == .host) (places.headD 0) 8 < lanes64 q.data 0) :
    performChecked s0 l c q places =
      setReq s0 c.f.slot { q with state := .waiting, places := if q.space = .device then places else [] } := by
  unfold performChecked
  dsimp only
  have hshort : semShort s0 q places = true := by
    rw [semShort, ho, decide_eq_true h]
    rfl
  rw [if_neg (by simp [hl]), if_pos hshort]
  simp only [beq_iff_eq]

theorem acquiring_of_ne (h : q.op ≠ .semWait) : acquiring s c q places = q := if_neg (by simpa using h)

/-- The state that performing a request leaves before its reply. -/
def performedState (s : State) (c : Ctx) (q : Req) (places : List Nat) (g : Nat) : State :=
  markPerformed (afterPerform (clearWritten (performUnits s c.f.slot c.r.type none q 0 places).1 q places) c q (places.headD 0) g)
    c.f.slot q (unionNat (firingHb c.f) (unionNat q.hb [g]))

theorem performNow_emitted {g : Nat} (h : q.emitted = true) : performNow s c none q places g = performedState s c q places g := by
  unfold performNow
  exact if_pos h

theorem performNow_reply {g : Nat} {es : List Emission} (h : q.emitted = false)
    (hout : reqOut c q (performUnits s c.f.slot c.r.type none q 0 places).2
      (if carriesOwn q.op then unionNat q.hb [g] else q.hb) = .ok es) :
    performNow s c none q places g = completed (performedState s c q places g) c es 0 := by
  unfold performNow
  dsimp only
  rw [if_neg (by simp [h]), hout]
  rfl

/-! Units (R270, R271). -/

/-- What the unit at a place reads outside any task. -/
theorem unit_read (s : State) (slot a n : Nat) (host : Bool) :
    (if host then readSpace s true a n
      else match findLaunch s slot with
        | some l => readFor s l none a n
        | none => readSpace s false a n) = readSpace s host a n := by
  cases host with
  | true => rfl
  | false => cases findLaunch s slot <;> rfl

theorem performUnits_cons (s : State) (slot : Nat) (t : Ty) (q : Req) (u a : Nat) (as : List Nat) :
    performUnits s slot t none q u (a :: as) =
      let m := readSpace s (q.space == .host) a q.unit
      let s1 := match reqNew t q u m with
        | some v => writeSpace s slot (q.space == .host) a q.unit v
        | none => s
      ((performUnits s1 slot t none q (u + 1) as).1, m :: (performUnits s1 slot t none q (u + 1) as).2) := by
  rw [← unit_read s slot]
  rfl

/-- Units that write nothing read their places. -/
theorem performUnits_reads (s : State) (slot : Nat) (t : Ty) (h : ∀ u m, reqNew t q u m = none) (u : Nat) (places : List Nat) :
    performUnits s slot t none q u places = (s, places.map fun a => readSpace s (q.space == .host) a q.unit) := by
  induction places generalizing u with
  | nil => rfl
  | cons a as ih => simp only [performUnits_cons, h, ih, List.map_cons]

/-- The units of a write, in order. -/
theorem performUnits_write (slot : Nat) (t : Ty) (h : q.op = .write) (u : Nat) (places : List Nat) (s : State) :
    (performUnits s slot t none q u places).1 = (places.mapIdx fun k a => (u + k, a)).foldl (fun s p =>
      writeSpace s slot (q.space == .host) p.2 q.unit (unitVal t q.data p.1)) s := by
  induction places generalizing u s with
  | nil => rfl
  | cons a as ih =>
    have hn (m : Nat) : reqNew t q u m = some (unitVal t q.data u) := by
      unfold reqNew
      rw [h]
    simp only [performUnits_cons, hn, ih, List.mapIdx_cons, List.foldl_cons, Nat.add_zero, Nat.add_assoc, Nat.add_comm 1]

theorem performedState_read {g : Nat} (h : q.op = .read) :
    performedState s c q places g = markPerformed s c.f.slot q (unionNat (firingHb c.f) (unionNat q.hb [g])) := by
  rw [performedState, performUnits_reads s c.f.slot c.r.type (reqNew_of_read (by rw [h]; rfl) c.r.type)]
  simp [afterPerform, clearWritten, h]

theorem performedState_write {g : Nat} (h : q.op = .write) :
    performedState s c q places g = markPerformed (clearWritten ((places.mapIdx fun u a => (u, a)).foldl (fun t p =>
      writeSpace t c.f.slot (q.space == .host) p.2 q.unit (unitVal c.r.type q.data p.1)) s) q places) c.f.slot q
      (unionNat (firingHb c.f) (unionNat q.hb [g])) := by
  rw [performedState, performUnits_write c.f.slot c.r.type h]
  simp [afterPerform, h]

/-! The events (R265, R268, R279, R372). -/

theorem exec_memoryPerform (hl : findLaunch s slot = some l) (hq : findReq l id = some q)
    (h : q.state = .issued ∨ q.state = .waiting ∧ q.op = .semWait) :
    exec (.memoryPerform slot id) s = .next (performReq s slot q false) := by
  change execMemoryPerform slot id s = _
  unfold execMemoryPerform
  rw [hl]
  dsimp only
  rw [hq]
  exact if_pos (by simpa using h)

theorem exec_semwaitHostPoll (hl : findLaunch s slot = some l) (hq : findReq l id = some q) (hs : q.state = .waiting)
    (ho : q.op = .semWait) (hh : q.space = .host) :
    exec (.semwaitHostPoll slot id) s = .next (performReq s slot q false) := by
  change execSemwaitHostPoll slot id s = _
  unfold execSemwaitHostPoll
  rw [hl]
  dsimp only
  rw [hq]
  exact if_pos (by simp [hs, ho, hh])

theorem exec_waveIssue {hb : List Nat} (hl : findLaunch s slot = some l) (hq : findReq l id = some q)
    (hr : recOf l q.firing = some r) (hc : reqCtx s q.firing r = some c) (hs : q.state = .buffered)
    (hw : waveReady l q = some hb) (hg : reqGoes l q = true) :
    exec (.waveIssue slot id) s = .next (issueReq s c { q with hb := hb }) := by
  change execWaveIssue slot id s = _
  unfold execWaveIssue
  simp only [hl, hq, hs, hw, hr, hg, hc]
  rfl

theorem exec_performedNotice (hl : findLaunch s slot = some l) (hq : findReq l id = some q) (hs : q.state = .performed) :
    exec (.performedNotice slot id) s = .next (modLaunch s slot fun l =>
      { l with
        reqs := l.reqs.filter fun r => r.id != id
        performed := l.performed ++
          [{ fh := q.firing.a.fh, tag := q.firing.a.tag, fill := q.firing.a.fill, wave := q.wave, succ := q.succ, acc := q.hb }] }) := by
  change execPerformedNotice slot id s = _
  unfold execPerformedNotice
  rw [hl]
  dsimp only
  rw [hq]
  exact if_neg (by simp [hs])

/-- A buffered request of device or host memory goes to its home. -/
theorem issueReq_home (ho : q.op ≠ .done) (hs : q.space ≠ .sram)
    (hd : q.space = .device → q.op = .write ∨ (∃ o, q.op = .atomP o) → specTask s q.firing = none) :
    issueReq s c q = pushAlone (setReq s c.f.slot { q with state := .issued }) (.memoryPerform c.f.slot q.id) := by
  unfold issueReq
  dsimp only
  split
  next h => exact absurd h ho
  next h _ => exact absurd h hs
  next h _ =>
    have hspec := hd h
    split
    next h => rw [hspec (.inl h)]; rfl
    next o h => rw [hspec (.inr ⟨o, h⟩)]; rfl
    next => rfl
  next => rfl

/-- A DONE whose turn comes emits its operand. -/
theorem issueReq_done {es : List Emission} (ho : q.op = .done) (he : q.emitted = false)
    (hout : outBoth c c.f.a.lanes false false q.hb = .ok es) (hr : rateTrap c es 0 = none) :
    issueReq s c q = completed (markPerformed s c.f.slot q (unionNat (firingHb c.f) q.hb)) c es 0 := by
  unfold issueReq
  rw [ho]
  dsimp only
  rw [if_neg (by simp [he]), doneWith_ok hout 0, settle_done hr 0]

/-- Settles O33. -/
theorem requestsIssueAndPerform : Obligations.RequestsIssueAndPerform := by
  intro s slot id l q r c hl hq hr hc hslot check atHome
  subst hslot
  obtain rfl := reqCtx_record hc
  have hperf (h : q.state = .issued ∨ q.state = .waiting ∧ q.op = .semWait) := exec_memoryPerform hl hq h
  refine ⟨fun hb hs hw => ⟨fun ho hsp hd => ?_, fun es ho hg he hout hrate => ?_⟩, ?performed, ?unplaced, ?lost, ?short, ?notice⟩
  · rw [exec_waveIssue hl hq hr hc hs hw (by simp [reqGoes, hsp])]
    exact congrArg _ (issueReq_home (q := { q with hb := hb }) ho hsp hd)
  · rw [exec_waveIssue hl hq hr hc hs hw hg]
    exact congrArg _ (issueReq_done (q := { q with hb := hb }) ho he hout hrate)
  case performed =>
    intro s0 places sx hs hhome ht hne hx hlost hb read marked
    have hacq : acquiring s0 c q places = q := acquiring_of_ne hne
    have hready : exec (.memoryPerform c.f.slot id) s = .next (performNow sx c none q places (newGroup s0).2) := by
      rw [hperf (.inl hs), performReq_home hl hr hc hhome, performChecked_ready ht (fun h => absurd h hne) ?_ ?_ ?_, hacq]
      · exact semShort_of_ne hne
      · rw [hacq]
        exact hx
      · rw [hacq]
        exact lostRead_eq_none hlost
    refine ⟨fun es ho he hout => ?_, fun es ho => ⟨fun he => ?_, fun he hout => ?_⟩⟩
    · have hreads := performUnits_reads sx c.f.slot c.r.type (q := q) (reqNew_of_read (by rw [ho]; rfl) c.r.type) 0 places
      rw [hready, performNow_reply he (es := es), performedState_read ho]
      rw [hreads, reqOut, ho]
      exact hout
    · rw [hready, performNow_emitted he, performedState_write ho]
    · rw [hready, performNow_reply he (es := es), performedState_write ho]
      rw [reqOut, ho]
      exact hout
  case unplaced =>
    intro hs hp
    refine ⟨fun u n h hsp => ?_, fun u n h hsp => ?_, fun t h => ?_, fun n h => ?_⟩
    · rw [hperf (.inl hs), performReq_miss hl hr hc hp h, if_neg hsp]
    · rw [hperf (.inl hs), performReq_miss hl hr hc hp h, if_pos hsp]
    · rw [hperf (.inl hs), performReq_trap hl hr hc hp h]
    · rw [hperf (.inl hs), performReq_lost hl hr hc hp h]
  case lost =>
    intro s0 places n ho hs hhome hlost
    rw [hperf (hs.imp_right fun h => ⟨h, ho⟩), performReq_home hl hr hc hhome, performChecked_lost ho hlost]
  case short =>
    intro s0 places ho hhome hlost hv t
    have hshort : performChecked s0 l c q places = t := performChecked_short ho hlost hv
    refine ⟨fun hs => ?_, fun hs hh => ?_⟩
    · rw [hperf (hs.imp_right fun h => ⟨h, ho⟩), performReq_home hl hr hc hhome, hshort]
    · rw [exec_semwaitHostPoll hl hq hs ho hh, performReq_home hl hr hc hhome, hshort]
  case notice => exact exec_performedNotice hl hq

/-! Semaphores (R292, R372). -/

/-- A wait that is met leaves no mark on memory. -/
theorem performedState_semWait {g : Nat} (h : q.op = .semWait) :
    performedState s c q places g = markPerformed s c.f.slot q (unionNat (firingHb c.f) (unionNat q.hb [g])) := by
  rw [performedState, performUnits_reads s c.f.slot c.r.type (reqNew_of_read (by rw [h]; rfl) c.r.type)]
  simp [afterPerform, clearWritten, h]

/-- A signal stores or adds, and is recorded. -/
theorem performedState_signal {g a : Nat} (set : Bool) (h : q.op = if set then .semSet else .semAdd) :
    performedState s c q [a] g = markPerformed (addSignal (writeSpace s c.f.slot (q.space == .host) a q.unit
        (if set then lanes64 q.data 0 else (readSpace s (q.space == .host) a q.unit + lanes64 q.data 0) % 2 ^ 64))
      { host := q.space == .host, addr := a, isSet := set, scope := recScope c.r, port := some (portOf c.l c.f),
        hb := unionNat (unionNat (firingHb c.f) q.hb) [g] }) c.f.slot q (unionNat (firingHb c.f) (unionNat q.hb [g])) := by
  rw [performedState, performUnits_cons]
  cases set <;> simp [h, reqNew, performUnits, afterPerform, clearWritten, low] <;> rfl

/-- Settles O34. -/
theorem semaphoreWaitsEnd : Obligations.SemaphoreWaitsEnd := by
  intro s slot id l q r c a s0 sx es hl hq hr hc hslot he hunit hplaces ht checked marked
  subst hslot
  obtain rfl := reqCtx_record hc
  have hhome : AtHome s l c.r q s0 [a] := by
    rcases hplaces with ⟨hp, hs0, hcheck⟩ | ⟨hp, hs0⟩
    · exact .inl ⟨hp, by rw [hunit]; exact hcheck, hs0⟩
    · exact .inr ⟨by rw [hp]; exact List.cons_ne_nil _ _, hp.symm, hs0⟩
  refine ⟨?_, ?_⟩
  · intro ho hv got hx hlost hout
    have hacq : acquiring s0 c q [a] = { q with hb := got } := if_pos (by simp [ho])
    have hnone : lostRead s0 q [a] = none := lostRead_eq_none fun hd _ => by rw [hunit]; exact hlost hd
    have hshort : semShort s0 q [a] = false := by
      rw [semShort, ho]
      simpa using hv
    have hready : performReq s c.f.slot q false = completed (marked sx got) c es 0 := by
      rw [performReq_home hl hr hc hhome, performChecked_ready ht (fun _ => hnone) hshort (by rw [hacq]; exact hx)
        (by rw [hacq]; exact hnone), hacq, performNow_reply (q := { q with hb := got }) he (es := es)]
      · rw [performedState_semWait (q := { q with hb := got }) ho]
      · rw [reqOut, ho]
        exact hout
    refine ⟨fun hs => ?_, fun hs hh => ?_⟩
    · rw [exec_memoryPerform hl hq (hs.imp_right fun h => ⟨h, ho⟩), hready]
    · rw [exec_semwaitHostPoll hl hq hs ho hh, hready]
  · intro set ho hs hx hlost hout
    have hne : q.op ≠ .semWait := by
      rw [ho]
      cases set <;> exact fun h => ReqOp.noConfusion h
    have hacq : acquiring s0 c q [a] = q := acquiring_of_ne hne
    have hnone : lostRead s0 q [a] = none := by
      refine lostRead_eq_none fun hd hro => ?_
      rw [hunit]
      refine hlost ?_ hd
      cases set with
      | false => rfl
      | true => rw [ho] at hro; cases hro
    rw [exec_memoryPerform hl hq (.inl hs), performReq_home hl hr hc hhome, performChecked_ready ht (fun h => absurd h hne)
      (semShort_of_ne hne) (by rw [hacq]; exact hx) (by rw [hacq]; exact hnone), hacq, performNow_reply he (es := es),
      performedState_signal set ho, hunit]
    rw [reqOut, ho]
    cases set <;> exact hout

end Sys2Proof.Requests
end

section
/-! SUPPORT. Walks, host translations and invalidations (R279 to R283). -/

namespace Sys2Proof.Requests

open Machine Safety Laws

/-! Invalidations (R282, R283). -/

/-- Entries written to a memory, in order. -/
def putEntries (m : Memory) (es : List (Nat × Dword)) : Memory := es.foldl (fun m e => writeBytes m e.1 (leBytes 8 e.2.toNat)) m

/-- The same on a state. -/
def storeEntries (s : State) (es : List (Nat × Dword)) : State := es.foldl (fun s e => storeMem s e.1 (leBytes 8 e.2.toNat)) s

/-- Entries stored change device memory, its lost lines and the manifest cache only. -/
theorem storeEntries_keeps {α : Type} (g : State → α) (hg : ∀ s a bs, g (storeMem s a bs) = g s) (es : List (Nat × Dword))
    (s : State) : g (storeEntries s es) = g s := by
  induction es generalizing s with
  | nil => rfl
  | cons e es ih => exact (ih _).trans (hg s _ _)

theorem mem_storeEntries (es : List (Nat × Dword)) (s : State) : (storeEntries s es).mem = putEntries s.mem es := by
  induction es generalizing s with
  | nil => rfl
  | cons e es ih => exact ih _

/-- A walk's entries depend on the partitions' roots and on device memory only. -/
theorem rangeEntries_congr {s t : State} (hp : t.parts = s.parts) (hm : t.mem = s.mem) (part base bytes : Nat) :
    rangeEntries t part base bytes = rangeEntries s part base bytes := by
  simp only [rangeEntries, walkEntries, hp, hm]

/-- What an invalidation writes of the tables that come with it. -/
theorem writeTables_part (s : State) (p base bytes : Nat) (es : List (Nat × Dword)) :
    writeTables s (.part p base bytes) es =
      if rangeMapped s p base bytes then s
      else storeEntries s (es.filter fun e => (rangeEntries (storeEntries s es) p base bytes).contains e.1 &&
        !(mappedEntries s p).contains e.1) := rfl

/-- The writing of the tables keeps what no store changes. -/
theorem writeTables_keeps {α : Type} (g : State → α) (hg : ∀ s a bs, g (storeMem s a bs) = g s) (s : State) (sc : InvalScope)
    (es : List (Nat × Dword)) : g (writeTables s sc es) = g s := by
  cases sc with
  | pasid p base bytes => rfl
  | part p base bytes =>
    rw [writeTables_part]
    split
    · rfl
    · exact storeEntries_keeps g hg _ s

theorem mem_writeTables_part (s : State) (p base bytes : Nat) (es : List (Nat × Dword)) :
    (writeTables s (.part p base bytes) es).mem =
      if rangeMapped s p base bytes = true then s.mem
      else putEntries s.mem (es.filter fun e => (rangeEntries { s with mem := putEntries s.mem es } p base bytes).contains e.1 &&
        !(mappedEntries s p).contains e.1) := by
  have hr : rangeEntries (storeEntries s es) p base bytes = rangeEntries { s with mem := putEntries s.mem es } p base bytes :=
    rangeEntries_congr (s := { s with mem := putEntries s.mem es }) (storeEntries_keeps State.parts (fun _ _ _ => rfl) es s)
      (mem_storeEntries es s) p base bytes
  rw [writeTables_part, hr]
  split
  · rfl
  · exact mem_storeEntries _ s

theorem exec_invalidationComplete {s : State} {id : Nat} {v : Inval} (hv : s.invals.find? (fun x => x.id == id) = some v)
    (hd : invalDone s v = true) :
    exec (.invalidationComplete id) s =
      let ended : State := { s with invals := s.invals.filter fun x => x.id != id }
      match v.queue with
      | none => .next ended
      | some q => match runningKind ended q 4 with
        | some r => .next (finishRecord ended q r (plainDone 0 0) [])
        | none => .next ended := by
  change execInvalidationComplete id s = _
  unfold execInvalidationComplete
  rw [hv]
  exact if_neg (by simp [hd])

/-- Settles O35. -/
theorem translationsArriveAndLeave : Obligations.TranslationsArriveAndLeave := by
  refine ⟨?walk, ?noWalk, ?host, ?inval, ?complete⟩
  case walk =>
    intro s slot id l q hl hq hs hsp
    change execWalkComplete slot id s = _
    unfold execWalkComplete
    rw [hl]
    dsimp only
    rw [hq]
    exact if_pos (by simp [hs, hsp])
  case noWalk =>
    intro s slot id h
    change execWalkComplete slot id s = _
    unfold execWalkComplete
    split
    · rfl
    next l hl =>
      split
      · rfl
      next q hq => exact if_neg (by simpa using h l q hl hq)
  case host =>
    intro s space vpn pg asked failed fail
    refine ⟨fun frame r w => rfl, ?_, rfl, ?_, ?_⟩
    · change execAtsAnswer space vpn .notPresent s = _
      simp only [execAtsAnswer, grantOthers, atsRequests, List.contains_iff_mem, beq_iff_eq]
      rfl
    · change execPriResponse space vpn true s = _
      have hretr (s : State) (l : Launch) (q : Req) : retranslate s l q =
          if waitPage s l { q with state := .walking, page := none } = none then
            remake s l.slot { q with state := .walking, page := none } false
          else setReq s l.slot { q with state := .walking, page := none } := by
        unfold retranslate
        dsimp only
        cases waitPage s l { q with state := .walking, page := none } <;> rfl
      simp only [execPriResponse, priRequests, hretr]
      rfl
    · change execPriResponse space vpn false s = _
      simp only [execPriResponse, priRequests, Bool.false_or, Bool.not_eq_true', ← Bool.not_eq_true, List.contains_iff_mem]
      by_cases h : pg ∈ outstanding s space.part
      · rw [if_pos h, if_neg (not_not.2 h)]
        rfl
      · rw [if_neg h, if_pos h]
        rfl
  case inval =>
    intro s id remap
    refine ⟨_, rfl, ?_, ?_, ?_, ?_, ?_⟩
    · intro e he
      rcases List.mem_append.1 he with h | h <;> simpa using (List.mem_filter.1 h).2
    · intro e he hc
      refine List.mem_filter.2 ⟨?_, by simp [hc]⟩
      rwa [writeTables_keeps State.dieTlb fun _ _ _ => rfl]
    · intro e he hc
      refine List.mem_filter.2 ⟨?_, by simp [hc]⟩
      rwa [writeTables_keeps State.tileTlb fun _ _ _ => rfl]
    · have h : (writeTables s remap.scope remap.entries).invals = s.invals :=
        writeTables_keeps State.invals (fun _ _ _ => rfl) s _ _
      exact List.map_append.trans (by rw [h]; rfl)
    · intro p base bytes hsc put
      have h := mem_writeTables_part s p base bytes remap.entries
      rw [← hsc] at h
      exact h
  case complete =>
    intro s id ended
    refine ⟨fun h => ?_, fun v hv => ⟨fun hd => ?_, fun hd hq => ?_, fun q hd hq hr => ?_, fun q r hd hq hr => ?_⟩⟩
    · change execInvalidationComplete id s = _
      unfold execInvalidationComplete
      rw [h]
    · change execInvalidationComplete id s = _
      unfold execInvalidationComplete
      rw [hv]
      exact if_pos (by simp [hd])
    · rw [exec_invalidationComplete hv hd, hq]
    · rw [exec_invalidationComplete hv hd, hq]
      dsimp only
      rw [hr]
    · rw [exec_invalidationComplete hv hd, hq]
      dsimp only
      rw [hr]

end Sys2Proof.Requests
end

section
/-! SUPPORT. Frames created, freed and joined (R113 to R115, R330). -/

namespace Sys2Proof.Programs

open Machine Safety Laws

/-! What a creation traps on, in order (R107, R113). -/

theorem createTrap_none {c : Ctx} {w ord pm : Nat} {spawnt : Bool} (hw : c.fr.ffill + w ≤ 64) (ho : ord ≤ ones w)
    (hp : spawnt = true → pm < 2 ^ 64 ∧ c.fr.postmark.toNat ≤ pm) : createTrap c w ord pm spawnt = none := by
  have h64 := ones_lt 64 pm
  unfold createTrap
  cases spawnt with
  | false => rw [if_neg (by simp; omega), if_neg (by simp; omega), if_neg (by simp), if_neg (by simp)]
  | true =>
    obtain ⟨h1, h2⟩ := hp rfl
    rw [if_neg (by simp; omega), if_neg (by simp; omega), if_neg (by simp; omega), if_neg (by simp; omega)]

/-- FRAME extends no FID. -/
theorem createTrap_frame (c : Ctx) (ord : Nat) : createTrap c 0 ord 0 false = none := rfl

theorem createTrap_full {c : Ctx} {w ord pm : Nat} {spawnt : Bool} (hw : 64 < c.fr.ffill + w) (h0 : 0 < w) :
    createTrap c w ord pm spawnt = some ⟨0x11, 0, 0⟩ := if_pos (by simp; omega)

theorem createTrap_ordinal {c : Ctx} {w ord pm : Nat} {spawnt : Bool} (hw : c.fr.ffill + w ≤ 64) (h0 : 0 < w)
    (ho : ones w < ord) : createTrap c w ord pm spawnt = some ⟨0x11, 1, 0⟩ :=
  (if_neg (by simp; omega)).trans (if_pos (by simp; omega))

theorem createTrap_past {c : Ctx} {w ord pm : Nat} (hw : c.fr.ffill + w ≤ 64) (ho : ord ≤ ones w) (hp : 2 ^ 64 ≤ pm) :
    createTrap c w ord pm true = some ⟨0x0A, 1, 0⟩ := by
  have h64 := ones_lt 64 pm
  unfold createTrap
  rw [if_neg (by simp; omega), if_neg (by simp; omega), if_pos (by simp; omega)]
  rfl

theorem createTrap_early {c : Ctx} {w ord pm : Nat} (hw : c.fr.ffill + w ≤ 64) (ho : ord ≤ ones w)
    (hp : pm < c.fr.postmark.toNat) : createTrap c w ord pm true = some ⟨0x0A, 0, 0⟩ := by
  have h64 := ones_lt 64 pm
  have hlt := c.fr.postmark.isLt
  unfold createTrap
  rw [if_neg (by simp; omega), if_neg (by simp; omega), if_neg (by simp; omega), if_pos (by simp; omega)]
  rfl

theorem createTagTrap_ok {c : Ctx} {es : List Emission} (h : outPorts c [1] c.f.a.lanes c.r.tagop false false [] = .ok es) :
    createTagTrap c = none := by
  rw [createTagTrap, h]

theorem createTagTrap_error {c : Ctx} {t : Trap} (h : outPorts c [1] c.f.a.lanes c.r.tagop false false [] = .error t) :
    createTagTrap c = some t := by
  rw [createTagTrap, h]

theorem createOut_ok {s : State} {c : Ctx} {fh : Nat} {es : List Emission}
    (h : outPorts c [1] c.f.a.lanes c.r.tagop false false [] = .ok es) :
    createOut s c fh = .done s ({ emission c 0 c.f.a.lanes (0, 0) false false [] with fh := fh } :: es) 0 := by
  rw [createOut, h]

/-! FRAME and SPAWN (R113). -/

section
variable {w : Nat} {spawn : Bool} {s : State} {c : Ctx} {es : List Emission} {t : Trap}

theorem createBody_trap (h : createTrap c w (ordinalOf c spawn) 0 false = some t) : createBody w spawn s c = .trap t := by
  unfold createBody
  dsimp only
  rw [h]

theorem createBody_tag (h : createTrap c w (ordinalOf c spawn) 0 false = none)
    (hr : outPorts c [1] c.f.a.lanes c.r.tagop false false [] = .error t) : createBody w spawn s c = .trap t := by
  unfold createBody
  dsimp only
  rw [h, createTagTrap_error hr]

theorem createBody_hold (h : createTrap c w (ordinalOf c spawn) 0 false = none)
    (hr : outPorts c [1] c.f.a.lanes c.r.tagop false false [] = .ok es) (hp : poolFree s c.f.slot = false) :
    createBody w spawn s c = .hold := by
  unfold createBody
  dsimp only
  rw [h, createTagTrap_ok hr]
  exact if_pos (by simp [hp])

theorem createBody_done (h : createTrap c w (ordinalOf c spawn) 0 false = none)
    (hr : outPorts c [1] c.f.a.lanes c.r.tagop false false [] = .ok es) (hp : poolFree s c.f.slot = true) :
    createBody w spawn s c = .done (modFrame (addFrame s (makeFrame s c.l (freeHandle s) c.f.a.fh .ordinary
        (childFid c.fr w (ordinalOf c spawn)) (c.fr.ffill + w) c.fr.postmark)) c.f.a.fh fun g => { g with children := g.children + 1 })
      ({ emission c 0 c.f.a.lanes (0, 0) false false [] with fh := freeHandle s } :: es) 0 := by
  unfold createBody
  dsimp only
  rw [h, createTagTrap_ok hr]
  exact (if_neg (by simp [hp])).trans (createOut_ok hr)

theorem ordinalOf_spawn (c : Ctx) : ordinalOf c true = if c.r.arity = .mono then innermost c else fieldValue c := by
  unfold ordinalOf
  by_cases h : c.r.arity = .mono <;> simp [h]

end

/-! SPAWNT (R113, R330 to R333). -/

section
variable {s : State} {c : Ctx} {es : List Emission} {t : Trap}

/-- Whether a SPAWNT outside every task does not exceed the horizon. -/
def spawntLate (s : State) (c : Ctx) : Prop :=
  taskOf s c.f.a.fh = none ∧ ∃ h, c.l.horizon = some h ∧ keyLt h (spawnKey c) = false

theorem spawntBody_trap (h : createTrap c (c.r.modx.toNat + 1) (innermost c) (postmarkOf c true) true = some t) :
    spawntBody s c = .trap t := by
  have h' : createTrap c (c.r.modx.toNat + 1) (ordinalOf c false) (postmarkOf c true) true = some t := h
  unfold spawntBody
  dsimp only
  rw [h']

theorem spawntBody_tag (h : createTrap c (c.r.modx.toNat + 1) (innermost c) (postmarkOf c true) true = none)
    (hr : outPorts c [1] c.f.a.lanes c.r.tagop false false [] = .error t) : spawntBody s c = .trap t := by
  have h' : createTrap c (c.r.modx.toNat + 1) (ordinalOf c false) (postmarkOf c true) true = none := h
  unfold spawntBody
  dsimp only
  rw [h', createTagTrap_error hr]

theorem spawntLate_iff (s : State) (c : Ctx) : ((taskOf s c.f.a.fh).isNone && match c.l.horizon with
    | some h => !keyLt h (spawnKey c)
    | none => false) = true ↔ spawntLate s c := by
  rw [Bool.and_eq_true, Option.isNone_iff_eq_none, spawntLate]
  refine and_congr_right fun _ => ?_
  cases c.l.horizon <;> simp

/-- The state of a SPAWNT's record. -/
def spawntRecorded (s : State) (c : Ctx) : State :=
  { s with nextId := s.nextId + 1, spawns := s.spawns ++ [spawnRecord s c (spawnKey c)] }

variable (h : createTrap c (c.r.modx.toNat + 1) (innermost c) (postmarkOf c true) true = none)
  (hr : outPorts c [1] c.f.a.lanes c.r.tagop false false [] = .ok es)
include h hr

theorem spawntBody_late (hl : spawntLate s c) : spawntBody s c = .trap ⟨0x0B, 5, 0⟩ := by
  have h' : createTrap c (c.r.modx.toNat + 1) (ordinalOf c false) (postmarkOf c true) true = none := h
  unfold spawntBody
  dsimp only
  rw [h', createTagTrap_ok hr]
  exact if_pos ((spawntLate_iff s c).2 hl)

theorem spawntBody_noRoom (hl : ¬spawntLate s c)
    (hn : ¬(reservedPlaces s 256 ≠ [] ∧ poolFree (spawntRecorded s c) c.f.slot = true)) : spawntBody s c = .hold := by
  have h' : createTrap c (c.r.modx.toNat + 1) (ordinalOf c false) (postmarkOf c true) true = none := h
  unfold spawntBody
  dsimp only
  rw [h', createTagTrap_ok hr]
  refine (if_neg (mt (spawntLate_iff s c).1 hl)).trans (if_pos ?_)
  rw [Bool.or_eq_true, List.isEmpty_iff, Bool.not_eq_true', ← Bool.not_eq_true]
  exact (not_and_or.1 hn).imp_left not_not.1

/-- A SPAWNT with room for its record and its frame looks for its context. -/
theorem spawntBody_room (hl : ¬spawntLate s c)
    (hroom : reservedPlaces s 256 ≠ [] ∧ poolFree (spawntRecorded s c) c.f.slot = true) :
    spawntBody s c =
      match contextFor (spawntRecorded s c) c (destDesk c.r.dsta / 16) with
      | none => .hold
      | some (s1, i) =>
        let p := startTask s1 c.l (destDesk c.r.dsta / 16) i c.f.a.fh (spawnKey c).fid (spawnKey c).ffill (spawnKey c).postmark
          s.nextId (spawnRecord s c (spawnKey c)).addr
        let s3 := modFrame p.1 c.f.a.fh fun g => { g with children := g.children + 1 }
        createOut (if (taskOf s c.f.a.fh).isNone then modLaunch s3 c.f.slot fun l =>
          { l with regs := l.regs ++ [(destDesk c.r.dsta / 16, spawnKey c)] } else s3) c p.2 := by
  have h' : createTrap c (c.r.modx.toNat + 1) (ordinalOf c false) (postmarkOf c true) true = none := h
  unfold spawntBody
  dsimp only
  rw [h', createTagTrap_ok hr]
  refine (if_neg (mt (spawntLate_iff s c).1 hl)).trans ((if_neg ?_).trans ?_)
  · rw [Bool.or_eq_true, List.isEmpty_iff, Bool.not_eq_true', ← Bool.not_eq_true]
    exact not_or.2 ⟨hroom.1, not_not.2 hroom.2⟩
  · rfl

end

/-! FREE and SYNC (R114, R115). -/

theorem passesDl_of_dead {i : NodeRec → Instr} {p : Policy} {lp dl body : NodeRec → State → Ctx → Res} {ok : Ctx → List Emission → Prop}
    (run : ∀ r s, exec (i r) s = runNode s r p (fun _ => 0) (lp r) (dl r) (body r))
    (h : ∀ s c es, anyDl c.f = true → ok c es → dl c.r s c = .done s es 0) : passesDl i p ok := by
  rintro s c es ⟨hi, hlp, hdl, hft⟩ hok
  refine passesDl_of_run (ok := fun c' es' => c' = own s c p ∧ es' = es) run ?_ s c es ⟨hi, hlp, hdl, hft⟩ ⟨rfl, rfl⟩
  rintro s' c' es' ⟨rfl, rfl⟩
  exact h s' (own s c p) es' hdl hok

/-- Settles O18. -/
theorem framesAreCreatedFreedAndJoined : Obligations.FramesAreCreatedFreedAndJoined := by
  refine ⟨?create, ?release⟩
  case create =>
    intro width ordinal rest child adopted entered fits taskFits late recorded room home
    have hfits {c : Ctx} (h : fits c (ordinal c)) : createTrap c (c.r.modx.toNat + 1) (ordinalOf c true) 0 false = none :=
      createTrap_none h.1 (by rw [ordinalOf_spawn]; exact h.2) fun h => Bool.noConfusion h
    have htask {c : Ctx} (h : taskFits c) :
        createTrap c (c.r.modx.toNat + 1) (innermost c) (postmarkOf c true) true = none :=
      createTrap_none h.1.1 h.1.2 fun _ => h.2
    have hframe (r : NodeRec) (s : State) :
        exec (.frame r) s = runNode s r plain (fun _ => 0) createLp createDl (createBody 0 false) := rfl
    have hspawn (r : NodeRec) (s : State) : exec (.spawn r) s =
        runNode s r plain (fun _ => 0) createLp createDl ((fun r : NodeRec => createBody (r.modx.toNat + 1) true) r) := rfl
    have hspawnt (r : NodeRec) (s : State) :
        exec (.spawnt r) s = runNode s r plain (fun _ => 0) createLp createDl spawntBody := rfl
    refine ⟨completes_of_run (lp := fun _ => createLp) (dl := fun _ => createDl) (body := fun _ => createBody 0 false) hframe ?_,
      holds_of_run (lp := fun _ => createLp) (dl := fun _ => createDl) (body := fun _ => createBody 0 false) hframe ?_,
      traps_of_run (lp := fun _ => createLp) (dl := fun _ => createDl) (body := fun _ => createBody 0 false) hframe ?_,
      completes_of_run (lp := fun _ => createLp) (dl := fun _ => createDl) hspawn ?_,
      holds_of_run (lp := fun _ => createLp) (dl := fun _ => createDl) hspawn ?_,
      traps_of_run (lp := fun _ => createLp) (dl := fun _ => createDl) hspawn ?_, ?_,
      traps_of_run (lp := fun _ => createLp) (dl := fun _ => createDl) hspawn ?_,
      traps_of_run (lp := fun _ => createLp) (dl := fun _ => createDl) (body := fun _ => spawntBody) hspawnt ?_,
      traps_of_run (lp := fun _ => createLp) (dl := fun _ => createDl) (body := fun _ => spawntBody) hspawnt ?_,
      traps_of_run (lp := fun _ => createLp) (dl := fun _ => createDl) (body := fun _ => spawntBody) hspawnt ?_,
      traps_of_run (lp := fun _ => createLp) (dl := fun _ => createDl) (body := fun _ => spawntBody) hspawnt ?_,
      traps_of_run (lp := fun _ => createLp) (dl := fun _ => createDl) (body := fun _ => spawntBody) hspawnt ?_,
      holds_of_run (lp := fun _ => createLp) (dl := fun _ => createDl) (body := fun _ => spawntBody) hspawnt ?_,
      completes_of_run (lp := fun _ => createLp) (dl := fun _ => createDl) (body := fun _ => spawntBody) hspawnt ?_, ?_, ?_⟩
    · rintro s c s1 es fl ⟨hp, rfl, rfl, x, hr, rfl⟩
      exact createBody_done (createTrap_frame c _) hr hp
    · rintro s c ⟨hp, x, hr⟩
      exact createBody_hold (createTrap_frame c _) hr hp
    · exact fun s c t hr => createBody_tag (createTrap_frame c _) hr
    · rintro s c s1 es fl ⟨hf, hp, rfl, rfl, x, hr, rfl⟩
      refine (createBody_done (hfits hf) hr hp).trans ?_
      rw [ordinalOf_spawn]
    · rintro s c ⟨hf, hp, x, hr⟩
      exact createBody_hold (hfits hf) hr hp
    · rintro s c t ⟨hf, hr⟩
      exact createBody_tag (hfits hf) hr
    · refine List.forall_mem_cons.2 ⟨traps_of_run (lp := fun _ => createLp) (dl := fun _ => createDl) hspawn ?_,
        List.forall_mem_singleton.2
          (traps_of_run (lp := fun _ => createLp) (dl := fun _ => createDl) (body := fun _ => spawntBody) hspawnt ?_)⟩
      · rintro s c t ⟨hw, rfl⟩
        exact createBody_trap (createTrap_full hw (Nat.succ_pos _))
      · rintro s c t ⟨hw, rfl⟩
        exact spawntBody_trap (createTrap_full hw (Nat.succ_pos _))
    · rintro s c t ⟨hw, ho, rfl⟩
      refine createBody_trap (createTrap_ordinal hw (Nat.succ_pos _) ?_)
      rw [ordinalOf_spawn]
      exact ho
    · rintro s c t ⟨hw, ho, rfl⟩
      exact spawntBody_trap (createTrap_ordinal hw (Nat.succ_pos _) ho)
    · rintro s c t ⟨hf, hp, rfl⟩
      exact spawntBody_trap (createTrap_past hf.1 hf.2 hp)
    · rintro s c t ⟨hf, hp, rfl⟩
      exact spawntBody_trap (createTrap_early hf.1 hf.2 hp)
    · rintro s c t ⟨hf, hr⟩
      exact spawntBody_tag (htask hf) hr
    · rintro s c t ⟨hf, ⟨x, hr⟩, hl, rfl⟩
      exact spawntBody_late (htask hf) hr hl
    · rintro s c ⟨hf, ⟨x, hr⟩, hl, hn⟩
      by_cases hroom : room s c
      · have hctx : contextFor (spawntRecorded s c) c (destDesk c.r.dsta / 16) = none := hn.resolve_left (not_not.2 hroom)
        exact (spawntBody_room (htask hf) hr hl hroom).trans (by rw [hctx])
      · exact spawntBody_noRoom (htask hf) hr hl hroom
    · rintro s c s1 es fl ⟨hf, hl, hroom, rfl, s0, i, x, hctx, hr, rfl, rfl⟩
      refine (spawntBody_room (htask hf) hr hl hroom).trans ?_
      rw [show contextFor (spawntRecorded s c) c (destDesk c.r.dsta / 16) = some (s0, i) from hctx]
      dsimp only
      rw [createOut_ok hr]
      simp only [Option.isNone_iff_eq_none]
      rfl
    · refine fun s c v => ⟨fun i hi => ?_, fun hn => ⟨fun t tf y l1 i ht htf hfront hy hl1 hi => ?_, fun ht => ?_⟩⟩
      · rw [contextFor, hi]
      · simp only [contextFor, hn, ht, htf, hfront, hy, hl1, hi, bne_self_eq_false, Bool.false_eq_true, if_false, Option.map_some]
      · rw [contextFor, hn]
        dsimp only
        rw [ht]
    · have hlp {s : State} {c : Ctx} {es : List Emission} (h : outPorts c [1] (lpLanes c) c.r.tagop (anyDl c.f) true [] = .ok es) :
          createLp s c = .done s es 0 := doneWith_ok h 0
      have hdl {s : State} {c : Ctx} {es : List Emission} (h : outPorts c [1] (passLanes c) c.r.tagop true false [] = .ok es) :
          createDl s c = .done s es 0 := doneWith_ok h 0
      have both {i : NodeRec → Instr} {body : NodeRec → State → Ctx → Res}
          (run : ∀ r s, exec (i r) s = runNode s r plain (fun _ => 0) createLp createDl (body r)) :
          (passesLp i plain fun c es => outPorts c [1] (lpLanes c) c.r.tagop (anyDl c.f) true [] = .ok es) ∧
          (passesDl i plain fun c es => outPorts c [1] (passLanes c) c.r.tagop true false [] = .ok es) :=
        ⟨passesLp_of_run (lp := fun _ => createLp) (dl := fun _ => createDl) run fun _ _ _ => hlp,
          passesDl_of_run (lp := fun _ => createLp) (dl := fun _ => createDl) run fun _ _ _ => hdl⟩
      exact List.forall_mem_cons.2 ⟨both (body := fun _ => createBody 0 false) hframe, List.forall_mem_cons.2 ⟨both hspawn,
        List.forall_mem_singleton.2 (both (body := fun _ => spawntBody) hspawnt)⟩⟩
  case release =>
    intro told even
    refine ⟨completes_of_run (body := fun _ => freeBody) (fun _ _ => rfl) ?_, completes_of_run (body := fun _ => freeBody) (fun _ _ => rfl) ?_,
      completes_of_run (body := fun _ => freeBody) (fun _ _ => rfl) ?_, passesLp_of_run (body := fun _ => freeBody) (fun _ _ => rfl) ?_,
      passesDl_of_dead (body := fun _ => freeBody) (fun _ _ => rfl) ?_, emits_of_run (fun r s => by dsimp only [exec, execSync]) ?_,
      traps_of_run (fun r s => by dsimp only [exec, execSync]) ?_, passesLp_of_run (fun r s => by dsimp only [exec, execSync]) ?_,
      passesDl_of_run (fun r s => by dsimp only [exec, execSync]) ?_⟩
    · rintro s c s1 es fl ⟨hk, rfl, rfl, rfl⟩
      unfold freeBody
      rw [hk]
    · rintro s c s1 es fl ⟨hk, rfl, rfl, rfl⟩
      unfold freeBody
      rw [hk]
    · rintro s c s1 es fl ⟨hk, rfl, rfl, rfl⟩
      unfold freeBody
      rw [hk]
    · exact fun s c es => lpOut_done
    · intro s c es hdl hout
      rw [passLanes_dead hdl] at hout
      exact dlOut_done hout
    · rintro s c es ⟨he, hout⟩
      exact (evenA_even _ he).trans (doneWith_ok hout 0)
    · rintro s c t ⟨he, rfl⟩
      exact evenA_odd _ (not_not.1 he)
    · exact fun s c es hout => doneWith_ok hout 0
    · exact fun s c es hout => doneWith_ok hout 0

end Sys2Proof.Programs
end

section
/-! SUPPORT. The letterbox nodes and their messages on the way (R217 to R221, R260, R376). -/

namespace Sys2Proof.Programs

open Machine Safety Laws Requests

/-! SEND (R217, R218). -/

/-- The arc that a SEND goes out on. -/
def SendsOn (c : Ctx) (x : Arc) : Prop := ∃ a, arcFrom c.l (fNode c.f) = some a ∧ arcOf c.l a.arc = some x

section
variable {s : State} {c : Ctx} {x : Arc} {t : Trap}

theorem sendBody_noArc (h : ∀ x, ¬SendsOn c x) : sendBody s c = .hold := by
  unfold sendBody
  split
  · rfl
  next a ha =>
    split
    · rfl
    next x hx => exact absurd ⟨a, ha, hx⟩ (h x)

theorem sendBody_odd (h : SendsOn c x) (ho : wide c.r.type = true ∧ laneCount c % 2 = 1) : sendBody s c = .trap ⟨0x04, 1, 0⟩ := by
  obtain ⟨a, ha, hx⟩ := h
  unfold sendBody
  simp only [ha, hx]
  exact if_pos (by simpa using ho)

variable (h : SendsOn c x) (hodd : ¬(wide c.r.type = true ∧ laneCount c % 2 = 1))
include h hodd

theorem sendBody_long (hl : x.bind = .bound ∧ x.slotb < 4 * laneCount c) : sendBody s c = .trap ⟨0x10, 1, 0⟩ := by
  obtain ⟨a, ha, hx⟩ := h
  unfold sendBody
  simp only [ha, hx]
  exact (if_neg (by simpa using hodd)).trans (if_pos (by simpa using hl))

variable (hlong : ¬(x.bind = .bound ∧ x.slotb < 4 * laneCount c))
include hlong

theorem sendBody_output (ht : outputTrap c 1 = some t) : sendBody s c = .trap t := by
  obtain ⟨a, ha, hx⟩ := h
  unfold sendBody
  simp only [ha, hx, ht]
  exact (if_neg (by simpa using hodd)).trans (if_neg (by simpa using hlong))

/-- A SEND whose operands and output nothing traps. -/
theorem sendBody_eq (ht : outputTrap c 1 = none) :
    sendBody s c = if speculative s c.f.a.fh then .later (holdSend s c.f)
      else match arcGate x with
        | .error t => .trap t
        | .ok go => if go && !sendsLeft s c.l c.f.a.fh then .later (launchSend s c.f.slot c.f c.r x false) else .hold := by
  obtain ⟨a, ha, hx⟩ := h
  unfold sendBody
  simp only [ha, hx, ht]
  exact (if_neg (by simpa using hodd)).trans (if_neg (by simpa using hlong))

end

/-- An arc that no end of its partner's stops lets a message go with credit. -/
theorem arcGate_open {x : Arc} (hm : x.bind ≠ .mismatch) (he : x.bind ≠ .ended) :
    arcGate x = .ok (decide (x.bind ≠ .unbound ∧ x.credit ≠ 0)) := by
  unfold arcGate
  split <;> simp_all [bne, beq_eq_decide]

/-! MESSAGE_WRITE (R218). -/

section
variable {s s1 : State} {slot id : Nat} {l tl : Launch} {f : Firing} {lb vt : Nat} {bytes : List Byte} {bar : Option Nat}
  {held : Bool} {hb : List Nat} {r : NodeRec} {a : ArcDecl} {x : Arc} {c : Ctx}
  (hg : takeCargo s slot id = some (s1, l, .send f lb vt bytes bar held hb)) (hr : recOf l f = some r)
  (ha : arcFrom l (fNode f) = some a) (hx : arcOf l a.arc = some x) (hc : reqCtx s1 f r = some c)
include hg hr ha hx hc

theorem exec_messageWrite_lost (h : (a.kind = 2 ∧ x.bind ≠ .bound) ∨ findLaunch s1 x.peerSlot = none) :
    exec (.messageWrite slot id) s = .next (discardMessage s1 l f x) := by
  change execMessageWrite slot id s = _
  unfold execMessageWrite
  simp only [hg, hr, ha, hx, hc]
  by_cases hl : a.kind = 2 ∧ x.bind ≠ .bound
  · exact if_pos (by simpa using hl)
  · rw [if_neg (by simpa using hl), h.resolve_left hl]

theorem exec_messageWrite_there (hl : ¬(a.kind = 2 ∧ x.bind ≠ .bound)) (ht : findLaunch s1 x.peerSlot = some tl) :
    exec (.messageWrite slot id) s = match writeMessage s1 f r.type tl vt lb bytes bar hb with
      | .ok (s2, g) => if held then .next s2 else .next (settle s2 c 1 true (doneWith s2 (outBoth c oneZero false false [g]) 0))
      | .error e => .next (failSend (returnCredit s1 slot a.arc) f held e) := by
  change execMessageWrite slot id s = _
  unfold execMessageWrite
  simp only [hg, hr, ha, hx, hc, ht]
  exact if_neg (by simpa using hl)

end

/-! RECV and FREESLOT (R219, R220). -/

/-- The letterbox of a RECV or FREESLOT. -/
abbrev boxOf (c : Ctx) : Letterbox := lbOf (tileOf c.l (fTile c.f)) (recLb c.r)

section
variable {s : State} {c : Ctx}

theorem recvBody_odd (hd : bit c.r.modx.toNat 0 = true) (ho : wide c.r.type = true ∧ laneCount c % 2 = 1) :
    recvBody s c = .trap ⟨0x04, 1, 0⟩ := if_pos (by simpa [hd] using ho)

theorem recvBody_long (hd : bit c.r.modx.toNat 0 = true) (ho : ¬(wide c.r.type = true ∧ laneCount c % 2 = 1))
    (hl : (boxOf c).slotb < 4 * laneCount c) : recvBody s c = .trap ⟨0x10, 1, 0⟩ :=
  (if_neg (by simpa [hd] using ho)).trans (if_pos (by simpa [hd] using hl))

variable (hok : bit c.r.modx.toNat 0 = true → ¬(wide c.r.type = true ∧ laneCount c % 2 = 1) ∧ 4 * laneCount c ≤ (boxOf c).slotb)
include hok

theorem recv_lanes_ok : (bit c.r.modx.toNat 0 && wide c.r.type && laneCount c % 2 == 1) = false ∧
    (bit c.r.modx.toNat 0 && decide (4 * laneCount c > (boxOf c).slotb)) = false := by
  cases hd : bit c.r.modx.toNat 0 with
  | false => exact ⟨rfl, rfl⟩
  | true =>
    obtain ⟨ho, hl⟩ := hok hd
    exact ⟨by simpa using ho, by simpa using hl⟩

theorem recvBody_empty (h : (boxOf c).rseq = (boxOf c).wseq) : recvBody s c = .hold := by
  obtain ⟨h1, h2⟩ := recv_lanes_ok hok
  unfold recvBody
  dsimp only
  rw [h1, h2, if_neg Bool.false_ne_true, if_neg Bool.false_ne_true]
  exact if_pos (by simpa using h)

variable {es : List Emission} (hne : (boxOf c).rseq ≠ (boxOf c).wseq)
include hne

theorem recvBody_offset (hd : bit c.r.modx.toNat 0 = false)
    (hout : outBoth c [BitVec.ofNat 32 (slotOffset (boxOf c) (boxOf c).rseq.toNat), BitVec.ofNat 32 (boxOf c).rseq.toNat] false false
      (unionNat (messageHb (boxOf c)) [(newGroup s).2]) = .ok es) :
    recvBody s c = .done (takeMessage (newGroup s).1 c (newGroup s).2 (messageHb (boxOf c))) es 0 := by
  obtain ⟨h1, h2⟩ := recv_lanes_ok hok
  unfold recvBody
  dsimp only
  rw [h1, h2, if_neg Bool.false_ne_true, if_neg Bool.false_ne_true, if_neg (by simpa using hne), if_pos (by simp [hd])]
  exact doneWith_ok hout 0

theorem recvBody_data {sx : State} (hd : bit c.r.modx.toNat 0 = true)
    (hx : checkAccesses (newGroup s).1 c.f.slot (((upTo (unitsIn c.r.type (laneCount c))).flatMap fun k =>
        sramBy (newGroup s).1 c.f (newGroup s).2 0 .read (slotOffset (boxOf c) (boxOf c).rseq.toNat + unitSize c.r.type * k)
          (unitSize c.r.type) (unitLane c.r.type k)).map fun x => { x with hb := unionNat x.hb (messageHb (boxOf c)) }) = .ok sx) :
    let t := tileOf c.l (fTile c.f)
    let o := slotOffset (boxOf c) (boxOf c).rseq.toNat
    let carry := unionNat (messageHb (boxOf c)) [(newGroup s).2]
    recvBody s c = if badRange t o (4 * laneCount c) then
        let d := postDlout sx c.f (badLane t c.r.type o (laneCount c))
        doneWith (takeMessage d.1 c (newGroup s).2 (messageHb (boxOf c))) (outBoth c (poisonLanes (laneCount c) d.2) true false carry) 0
      else
        doneWith (takeMessage sx c (newGroup s).2 (messageHb (boxOf c)))
          (outBoth c (bytesLanes (readBytes t.sram o (4 * laneCount c))) false false carry) 0 := by
  obtain ⟨h1, h2⟩ := recv_lanes_ok hok
  unfold recvBody
  dsimp only
  rw [h1, h2, if_neg Bool.false_ne_true, if_neg Bool.false_ne_true, if_neg (by simpa using hne), if_neg (by simp [hd])]
  exact withAccesses_ok hx _

end

/-! FREED_SLOT_NOTICE (R220, R376). -/

theorem noticeEnd_isSome (s : State) (slot ps arc : Nat) : (noticeEnd s slot ps arc).isSome = true ↔
    ∃ o x, findLaunch s ps = some o ∧ arcOf o arc = some x ∧ x.bind = .bound ∧ x.peerSlot = slot := by
  unfold noticeEnd
  cases hl : findLaunch s ps with
  | none => simp
  | some o =>
    cases ha : arcOf o arc with
    | none => simp [ha]
    | some x => by_cases h : x.bind = .bound ∧ x.peerSlot = slot <;> simp_all [Option.filter]

theorem exec_freed {s s1 : State} {slot id ps arc n : Nat} {l : Launch} {hb : List Nat}
    (hg : takeCargo s slot id = some (s1, l, .freed ps arc n hb)) :
    exec (.freedSlotNotice slot id) s = .next (if (noticeEnd s1 slot ps arc).isSome then
        modLaunch s1 ps fun l => modArc l arc fun x => { x with credit := x.credit + n, frees := x.frees ++ List.replicate n hb }
      else discardNotice s1 l ps arc) := by
  change execFreedSlotNotice slot id s = _
  unfold execFreedSlotNotice
  rw [hg]

/-- Settles O39. -/
theorem letterboxInstructionsComplete : Obligations.LetterboxInstructionsComplete := by
  unfold Obligations.LetterboxInstructionsComplete
  intro rp box odd onArc long direct free
  have hsend (r : NodeRec) (s : State) :
      exec (.send r) s = runNode s r sendPolicy (fun _ => 1) lpOut dlOut sendBody := rfl
  have hfree (r : NodeRec) (s : State) :
      exec (.freeslot r) s = runNode s r rp freeCount lpOut dlOut freeslotBody := rfl
  have hdirect {s : State} {c : Ctx} {x : Arc} (h : direct s c x) : sendBody s c = match arcGate x with
      | .error t => .trap t
      | .ok go => if go && !sendsLeft s c.l c.f.a.fh then .later (launchSend s c.f.slot c.f c.r x false) else .hold := by
    obtain ⟨ha, ho, hl, ht, hs⟩ := h
    rw [sendBody_eq ha ho hl ht, hs]
    exact if_neg Bool.false_ne_true
  refine ⟨answersNext_of_run (body := fun _ => sendBody) hsend ?_, answersNext_of_run (body := fun _ => sendBody) hsend ?_,
    holds_of_run (body := fun _ => sendBody) hsend ?_, traps_of_run (body := fun _ => sendBody) hsend ?_,
    traps_of_run (body := fun _ => sendBody) hsend ?_, traps_of_run (body := fun _ => sendBody) hsend ?_,
    traps_of_run (body := fun _ => sendBody) hsend ?_, traps_of_run (body := fun _ => sendBody) hsend ?_, ?_, ?_,
    completes_of_run (body := fun _ => recvBody) (fun _ _ => rfl) ?_, completes_of_run (body := fun _ => recvBody) (fun _ _ => rfl) ?_,
    holds_of_run (body := fun _ => recvBody) (fun _ _ => rfl) ?_, traps_of_run (body := fun _ => recvBody) (fun _ _ => rfl) ?_,
    traps_of_run (body := fun _ => recvBody) (fun _ _ => rfl) ?_,
    completesMsgs_of_run (body := fun _ => freeslotBody) hfree (fun _ => rfl) ?_, traps_of_run (body := fun _ => freeslotBody) hfree ?_,
    ?_, ?_, ?_⟩
  · rintro s c t ⟨x, hd, ⟨hm, he, hu, hcr⟩, hleft, rfl⟩
    rw [hdirect hd, arcGate_open hm he, hleft, decide_eq_true ⟨hu, hcr⟩]
    rfl
  · rintro s c t ⟨⟨x, ha, ho, hl⟩, ht, hs, rfl⟩
    exact (sendBody_eq ha ho hl ht).trans (if_pos hs)
  · rintro s c (hn | ⟨x, hd, hm, he, hstop⟩)
    · exact sendBody_noArc hn
    · rw [hdirect hd, arcGate_open hm he]
      refine if_neg ?_
      rw [Bool.and_eq_true, decide_eq_true_iff, Bool.not_eq_true']
      rintro ⟨⟨hu, hcr⟩, hleft⟩
      rcases hstop with h | h | h
      · exact hu h
      · exact hcr h
      · exact Bool.false_ne_true (hleft.symm.trans h)
  · rintro s c t ⟨⟨x, ha⟩, ho, rfl⟩
    exact sendBody_odd ha ho
  · rintro s c t ⟨⟨x, ha, ho, hl⟩, rfl⟩
    exact sendBody_long ha ho hl
  · rintro s c t ⟨⟨x, ha, ho, hl⟩, ht⟩
    exact sendBody_output ha ho hl ht
  · rintro s c t ⟨⟨x, hd, hm⟩, rfl⟩
    rw [hdirect hd, arcGate, hm]
    rfl
  · rintro s c t ⟨⟨x, hd, he⟩, rfl⟩
    rw [hdirect hd, arcGate, he]
    rfl
  · intro s slot id hg
    change execMessageWrite slot id s = _
    unfold execMessageWrite
    rw [hg]
  · intro s slot id s1 l f lb vt bytes bar held hb r a x c hg hr ha hx hc lost
    refine ⟨exec_messageWrite_lost hg hr ha hx hc, fun tl hl ht => ⟨fun s2 g es hw => ⟨fun hh hout hrate => ?_, fun hh => ?_⟩,
      fun e hw => ?_⟩⟩
    · rw [exec_messageWrite_there hg hr ha hx hc hl ht, hw]
      dsimp only
      have hout' : outBoth c oneZero false false [g] = .ok es := hout
      rw [if_neg (by simp [hh]), doneWith_ok hout' 0]
      simp only [settle, if_true, hrate]
    · rw [exec_messageWrite_there hg hr ha hx hc hl ht, hw]
      exact if_pos hh
    · rw [exec_messageWrite_there hg hr ha hx hc hl ht, hw]
  · rintro s c s1 es fl ⟨rfl, hd, hne, rfl, hout⟩
    exact recvBody_offset (fun h => absurd (hd.symm.trans h) Bool.false_ne_true) hne hd hout
  · rintro s c s1 es fl ⟨rfl, hd, hne, ho, hl, sx, hx, hcase⟩
    refine (recvBody_data (fun _ => ⟨ho, hl⟩) hne hd hx).trans ?_
    rcases hcase with ⟨hbad, rfl, hout⟩ | ⟨hbad, rfl, hout⟩
    · exact (if_neg (by rw [hbad]; exact Bool.false_ne_true)).trans (doneWith_ok hout 0)
    · exact (if_pos hbad).trans (doneWith_ok hout 0)
  · rintro s c ⟨he, hok⟩
    exact recvBody_empty hok he
  · rintro s c t ⟨hd, ho, rfl⟩
    exact recvBody_odd hd ho
  · rintro s c t ⟨hd, ho, hl, rfl⟩
    exact recvBody_long hd ho hl
  · rintro s c s1 es fl ⟨rfl, hn, rfl, hout⟩
    exact (if_neg (Nat.not_lt.2 hn)).trans (doneWith_ok hout 0)
  · rintro s c t ⟨hn, rfl⟩
    exact if_pos hn
  · intro s slot id hg
    change execFreedSlotNotice slot id s = _
    unfold execFreedSlotNotice
    rw [hg]
  · intro s slot id s1 l ps arc n hb hg joined
    refine ⟨fun hj => ?_, fun hj => ?_⟩
    · rw [exec_freed hg, if_pos ((noticeEnd_isSome s1 slot ps arc).2 hj)]
    · rw [exec_freed hg, if_neg (mt (noticeEnd_isSome s1 slot ps arc).1 hj)]
  · intro s slot id s1 l node vt tgt n hb hg
    change execFreedSlotNotice slot id s = _
    unfold execFreedSlotNotice
    rw [hg]

end Sys2Proof.Programs
end

section
/-! SUPPORT. Tokens at their desks (R131 to R139, R34 to R38). -/

namespace Sys2Proof.Desks

open Machine Safety Laws Completion Traps Programs

/-! What a desk's change leaves of a launch. -/

section
variable {s t : State} {slot v : Nat} {l : Launch}

theorem man_modDesk (l : Launch) (v : Nat) (f : Desk → Desk) : (modDesk l v f).man = l.man := by
  unfold modDesk
  split <;> rfl

theorem spill_modDesk (l : Launch) (v : Nat) (f : Desk → Desk) : (modDesk l v f).spill = l.spill := by
  unfold modDesk
  split <;> rfl

theorem tiles_modDesk (l : Launch) (v : Nat) (f : Desk → Desk) : (modDesk l v f).tiles = l.tiles := by
  unfold modDesk
  split <;> rfl

theorem destRec_congr {l m : Launch} (h : m.man = l.man) (t : Token) : destRec m t = destRec l t := by
  simp only [destRec, nodeWord, h]

theorem needsPartner_congr {l m : Launch} (h : m.man = l.man) (t : Token) (opc : Nat) (r : NodeRec) :
    needsPartner m t opc r = needsPartner l t opc r := by
  have hs (k : Nat) : shapeOf m k = shapeOf l k := by rw [shapeOf, h, shapeOf]
  rw [needsPartner, hs, needsPartner]

theorem heldToken_congr {l m : Launch} (hm : m.man = l.man) (ht : m.tiles = l.tiles) (hs : m.slot = l.slot)
    (hf : t.frames = s.frames) (hi : t.nextId = s.nextId) (k : Token) (opc : Nat) (r : NodeRec) :
    heldToken t m k opc r = heldToken s l k opc r := by
  have hfire : soloFiring t m.slot k = soloFiring s l.slot k := by rw [soloFiring, hs, hi, soloFiring]
  have hdue : waitDue m (soloFiring t m.slot k) r = waitDue l (soloFiring s l.slot k) r := by
    rw [hfire, waitDue, shapeOf, tileOf, hm, ht, waitDue, shapeOf, tileOf]
  unfold heldToken
  rw [speculative_congr hf, hdue]

end

/-! Ways and pairs (R133, R134). -/

/-- Ways that are there need no spilling. -/
theorem makeWays_free {s : State} {slot v set need n : Nat} {l : Launch} {partner : Option Token} (hl : findLaunch s slot = some l)
    (h : need ≤ freeWays (deskOf l v) set) : makeWays s slot v set partner need (n + 1) = some s := by
  simp only [makeWays, hl]
  exact if_pos h

/-- Ways taken by ready firings alone make no room. -/
theorem makeWays_full {s : State} {slot v set need n : Nat} {l : Launch} (hl : findLaunch s slot = some l)
    (h : freeWays (deskOf l v) set < need) (hw : setWaiting (deskOf l v) set = []) :
    makeWays s slot v set none need (n + 1) = none := by
  simp only [makeWays, hl, hw]
  rw [if_neg (by omega)]
  split <;> rfl

theorem pairTrap_none {opc : Nat} {t w : Token} (hl : t.lp = w.lp) (hn : t.lanes.length = w.lanes.length) : pairTrap opc t w = none := by
  simp [pairTrap, hl, hn]

theorem parityFault_none {s : State} {slot : Nat} {t : Token} (hh : headerOk t = true) (hp : payloadOk t = true) :
    parityFault s slot t = none := by
  simp [parityFault, hh, hp]

theorem waitingHere_eq {d : Desk} (h : d.aside = []) : waitingHere d = d.waiting := by
  simp [waitingHere, h]

/-- A desk that accepts an arrival has nothing beside its latch. -/
theorem aside_of_accepts {l : Launch} {d : Desk} (h : accepts l d = true) : d.aside = [] := by
  simp only [accepts, Bool.and_eq_true, List.isEmpty_iff] at h
  exact h.1.2

theorem placeSolo_free {s : State} {slot v : Nat} {l : Launch} {t : Token} (hl : findLaunch s slot = some l)
    (h : 0 < freeWays (deskOf l v) (setOf t)) : placeSolo s slot v t = some (makeReady s slot v t none) := by
  rw [placeSolo, waySteps, makeWays_free hl h]
  rfl

/-- A token without a partner, for which nothing is asked or spilled, takes a free way. -/
theorem placeDyad_alone {s : State} {slot v opc : Nat} {l : Launch} {t : Token} (hl : findLaunch s slot = some l)
    (ha : (deskOf l v).aside = []) (hn : (deskOf l v).waiting.find? (fun w => sameActivation w t) = none)
    (hp : probing (deskOf l v) t = false) (hc : (deskOf l v).counts.getD (setOf t) 0 = 0)
    (hw : 0 < freeWays (deskOf l v) (setOf t)) :
    placeDyad s slot v opc t = some (modLaunch s slot fun l => modDesk l v fun d => { d with waiting := d.waiting ++ [t] }) := by
  have hnone := List.find?_eq_none.1 hn
  have hmatch : matchHere s slot v opc (deskOf l v) t = none := by
    unfold matchHere
    rw [waitingHere_eq ha, List.find?_eq_none.2 fun w hm => by simp [hnone w hm]]
    exact if_neg (by simpa using hnone)
  simp only [placeDyad, hl, hmatch, Option.getD_none, placeUnmatched, hp, hc, placeWaiting]
  rw [if_neg Bool.false_ne_true, if_neg (Nat.lt_irrefl 0), if_pos hw]

/-- A token whose partner waits in a way. -/
theorem placeDyad_pair {s : State} {slot v opc : Nat} {l : Launch} {t w : Token} (hl : findLaunch s slot = some l)
    (ha : (deskOf l v).aside = [])
    (hw : (deskOf l v).waiting.find? (fun w => sameActivation w t && destPort w.dest != destPort t.dest) = some w)
    (hf : 0 < freeWays (deskOf l v) (setOf t)) (hlp : w.lp = t.lp) (hn : w.lanes.length = t.lanes.length) :
    placeDyad s slot v opc t = some (makePair (takeWaiting s slot v w) slot v t w) := by
  have hmem : (deskOf l v).waiting.contains w = true := by simpa using List.mem_of_find?_eq_some hw
  have hmatch : matchHere s slot v opc (deskOf l v) t = some (meetPartner s slot v opc (deskOf l v) t w) := by
    unfold matchHere
    rw [waitingHere_eq ha, hw]
  simp only [placeDyad, hl, hmatch, Option.getD_some, meetPartner, pairTrap_none (opc := opc) hlp.symm hn.symm, hmem, if_true,
    waySteps]
  rw [makeWays_free hl hf]
  rfl

/-! TOKEN_ARRIVAL (R134, R135). -/

/-- The state in which an accepted arrival is delivered. -/
def landed (s : State) (slot id v : Nat) : State :=
  modLaunch s slot fun l => modDesk { l with flights := assocDel l.flights id } v fun d => d

theorem findLaunch_landed {s : State} {slot : Nat} {l : Launch} (hl : findLaunch s slot = some l) (id v : Nat) :
    findLaunch (landed s slot id v) slot = some (modDesk { l with flights := assocDel l.flights id } v fun d => d) := by
  refine (findLaunch_modLaunch s slot _ ?_).trans (congrArg _ hl)
  exact fun _ => modDesk_slot _ _ _

theorem exec_tokenArrival {s : State} {slot id : Nat} {l : Launch} {t : Token} (hl : findLaunch s slot = some l)
    (hn : latched l id = none) (hf : assoc l.flights id = some t) :
    exec (.tokenArrival slot id) s =
      if accepts l (deskOf l (destDesk t.dest)) = true then
        match deliver (landed s slot id (destDesk t.dest)) slot t with
        | some s2 => .next s2
        | none => .next (modLaunch (landed s slot id (destDesk t.dest)) slot fun l =>
            modDesk l (destDesk t.dest) fun d => { d with latch := some (id, t) })
      else .next (putBack s (tokenChan slot t) (.tokenArrival slot id)) := by
  change execTokenArrival slot id s = _
  unfold execTokenArrival
  simp only [hl, hn, hf]
  cases accepts l (deskOf l (destDesk t.dest)) <;> rfl

theorem exec_tokenArrival_delivered {s s2 : State} {slot id : Nat} {l : Launch} {t : Token} (hl : findLaunch s slot = some l)
    (hn : latched l id = none) (hf : assoc l.flights id = some t) (ha : accepts l (deskOf l (destDesk t.dest)) = true)
    (hd : deliver (landed s slot id (destDesk t.dest)) slot t = some s2) : exec (.tokenArrival slot id) s = .next s2 := by
  rw [exec_tokenArrival hl hn hf, if_pos ha, hd]

theorem deliver_draining {s : State} {slot : Nat} {l : Launch} {t : Token} {f : Frame} (hl : findLaunch s slot = some l)
    (hf : findFrame s t.fh = some f) (hs : f.state = .draining) (hh : headerOk t = true) :
    deliver s slot t = some (consume s t.fh 1) := by
  simp [deliver, hh, hl, hf, hs]

/-- An intact token of a live frame that its desk neither withdraws nor holds. -/
theorem deliver_live {s : State} {slot opc : Nat} {l : Launch} {t : Token} {f : Frame} {r : NodeRec} (hl : findLaunch s slot = some l)
    (hf : findFrame s t.fh = some f) (hs : f.state ≠ .draining) (hh : headerOk t = true) (hp : payloadOk t = true)
    (hd : destRec l t = some (opc, r)) (hw : withdraws (deskOf l (destDesk t.dest)) f = false)
    (hheld : heldToken s l t opc r = false) :
    deliver s slot t = if needsPartner l t opc r then placeDyad s slot (destDesk t.dest) opc t
      else placeSolo s slot (destDesk t.dest) t := by
  simp [deliver, hh, hl, hf, hs, hp, hd, hw, hheld]

theorem frames_landed (s : State) (slot id v : Nat) : (landed s slot id v).frames = s.frames := rfl

/-- What its desk makes of an accepted token of a live frame. -/
theorem deliver_landed {s : State} {slot id opc : Nat} {l : Launch} {t : Token} {f : Frame} {r : NodeRec}
    (hl : findLaunch s slot = some l) (hf : findFrame s t.fh = some f) (hs : f.state ≠ .draining) (hh : headerOk t = true)
    (hp : payloadOk t = true) (hd : destRec l t = some (opc, r)) (hw : withdraws (deskOf l (destDesk t.dest)) f = false)
    (hheld : heldToken s l t opc r = false) :
    deliver (landed s slot id (destDesk t.dest)) slot t =
      if needsPartner l t opc r then placeDyad (landed s slot id (destDesk t.dest)) slot (destDesk t.dest) opc t
      else placeSolo (landed s slot id (destDesk t.dest)) slot (destDesk t.dest) t := by
  generalize hm : (modDesk { l with flights := assocDel l.flights id } (destDesk t.dest) fun d => d) = m
  have hl1 : findLaunch (landed s slot id (destDesk t.dest)) slot = some m := hm ▸ findLaunch_landed hl id _
  have hman : m.man = l.man := by rw [← hm, man_modDesk]
  have htiles : m.tiles = l.tiles := by rw [← hm, tiles_modDesk]
  have hslot : m.slot = l.slot := by rw [← hm, modDesk_slot]
  have hdesk : deskOf m (destDesk t.dest) = deskOf l (destDesk t.dest) := by
    rw [← hm]
    exact deskOf_modDesk (fun _ => rfl) _
  rw [deliver_live hl1 hf hs hh hp ((destRec_congr hman t).trans hd) (by rw [hdesk]; exact hw)
    ((heldToken_congr (s := s) (t := landed s slot id (destDesk t.dest)) hman htiles hslot rfl rfl t opc r).trans hheld), needsPartner_congr hman]

/-! The spill path (R34, R37, R136). -/

/-- The pair that a probe brings back goes on where two ways are free, else beside the latch. -/
theorem bringBack_pair_free {s : State} {slot v : Nat} {l : Launch} {t w : Token} (hl : findLaunch s slot = some l)
    (h : 1 < freeWays (deskOf l v) (setOf t)) : bringBack s slot v ⟨t, some w, true⟩ = makePair s slot v t w := by
  simp only [bringBack, placeBack, waySteps]
  rw [makeWays_free hl h]
  rfl

theorem bringBack_pair_full {s : State} {slot v : Nat} {l : Launch} {t w : Token} (hl : findLaunch s slot = some l)
    (h : freeWays (deskOf l v) (setOf t) ≤ 1) (hw : setWaiting (deskOf l v) (setOf t) = []) :
    bringBack s slot v ⟨t, some w, true⟩ = putAside s slot v ⟨t, some w, true⟩ := by
  simp only [bringBack, placeBack, waySteps]
  rw [makeWays_full hl (Nat.lt_succ_of_le h) hw]
  rfl

/-- A probe that hits its partner in the slot. -/
theorem probeHit_pair {s : State} {slot v opc : Nat} {t : Token} {p : SpillSlot} (hsame : sameActivation p.tok t = true)
    (hport : destPort p.tok.dest ≠ destPort t.dest) (hh : headerOk p.tok = true) (hp : payloadOk p.tok = true)
    (hlp : p.tok.lp = t.lp) (hn : p.tok.lanes.length = t.lanes.length) :
    probeHit s slot v opc t p = bringBack (clearSlot s slot v p) slot v ⟨t, some p.tok, true⟩ := by
  simp only [probeHit, parityFault_none hh hp, pairTrap_none (opc := opc) hlp.symm hn.symm, hsame]
  rw [if_neg (by simp), if_neg (by simpa using hport)]

theorem findLaunch_modDesk {s : State} {slot : Nat} {l : Launch} (hl : findLaunch s slot = some l) (v : Nat) (g : Desk → Desk) :
    findLaunch (modLaunch s slot fun l => modDesk l v g) slot = some (modDesk l v g) := by
  refine (findLaunch_modLaunch s slot _ ?_).trans (congrArg _ hl)
  exact fun _ => modDesk_slot _ _ _

/-- A queued write of a live frame's intact token into its free slot. -/
theorem exec_spillWriteDone {s : State} {slot v : Nat} {l : Launch} {t : Token} {rest : List SpillOp} {f : Frame}
    (hl : findLaunch s slot = some l) (hf : findFrame s t.fh = some f) (hs : f.state ≠ .draining)
    (hsp : (deskOf l v).spill = .write t :: rest) (hh : headerOk t = true) (hp : payloadOk t = true)
    (hnone : l.spill.find? (fun p => p.fh == t.fh && p.slot == slotOf f.spilld t) = none) :
    exec (.spillWriteDone slot v) s = .next (modLaunch (popSpill s slot v) slot fun l =>
      { l with spill := l.spill ++ [{ fh := t.fh, slot := slotOf f.spilld t, tok := t }] }) := by
  change execSpillWriteDone slot v s = _
  simp only [execSpillWriteDone, hl, hsp, spillWrite, hf, parityFault_none hh hp, spillAt, hnone, findLaunch_slot hl]
  rw [if_neg (by simpa using hs)]

/-- A probe of a live frame that finds a token in the slot. -/
theorem exec_spillProbeReturn {s : State} {slot v opc : Nat} {l : Launch} {t : Token} {rest : List SpillOp} {f : Frame} {r : NodeRec}
    {p : SpillSlot} (hl : findLaunch s slot = some l) (hf : findFrame s t.fh = some f) (hs : f.state ≠ .draining)
    (hsp : (deskOf l v).spill = .probe t :: rest) (hw : withdraws (deskOf l v) f = false) (hd : destRec l t = some (opc, r))
    (hslot : l.spill.find? (fun p => p.fh == t.fh && p.slot == slotOf f.spilld t) = some p) :
    exec (.spillProbeReturn slot v) s = .next (probeHit (popSpill s slot v) slot v opc t p) := by
  have hl1 : findLaunch (popSpill s slot v) slot = some (modDesk l v fun d => { d with spill := d.spill.drop 1 }) :=
    findLaunch_modDesk hl v _
  have hf1 : findFrame (popSpill s slot v) t.fh = some f := hf
  have hw1 : withdraws (deskOf (modDesk l v fun d => { d with spill := d.spill.drop 1 }) v) f = false := by
    rw [deskOf_modDesk]
    · exact hw
    · exact fun _ => rfl
  change execSpillProbeReturn slot v s = _
  simp only [execSpillProbeReturn, hl, hsp, probeReturn, hl1, hf1, hw1, destRec_congr (man_modDesk l v _), hd, spillAt,
    spill_modDesk, hslot]
  rw [if_neg (by simpa using hs), if_neg Bool.false_ne_true]

/-- What clearing a slot leaves of a desk's ways. -/
theorem freeWays_setCount (d : Desk) (k set : Nat) (g : Nat → Nat) : freeWays (setCount d set g) k = freeWays d k := rfl

/-- The launch and the ways after a probe's slot is cleared. -/
theorem findLaunch_cleared {s : State} {slot v : Nat} {l : Launch} (hl : findLaunch s slot = some l) (p : SpillSlot) :
    ∃ l1, findLaunch (clearSlot (popSpill s slot v) slot v p) slot = some l1 ∧
      deskOf l1 v = setCount { deskOf l v with spill := (deskOf l v).spill.drop 1 } (setOf p.tok) (· - 1) := by
  have h1 := findLaunch_modDesk hl v fun d => { d with spill := d.spill.drop 1 }
  generalize hm : (modDesk l v fun d => { d with spill := d.spill.drop 1 }) = m at h1
  have h2 : findLaunch (modLaunch (popSpill s slot v) slot fun l =>
      { l with spill := l.spill.filter fun q => !(q.fh == p.fh && q.slot == p.slot) }) slot =
      some { m with spill := m.spill.filter fun q => !(q.fh == p.fh && q.slot == p.slot) } := by
    refine (findLaunch_modLaunch _ slot _ ?_).trans (congrArg _ h1)
    exact fun _ => rfl
  refine ⟨_, findLaunch_modDesk h2 v _, ?_⟩
  rw [deskOf_modDesk]
  · refine congrArg (setCount · (setOf p.tok) (· - 1)) (Eq.trans (b := deskOf m v) rfl ?_)
    rw [← hm]
    refine deskOf_modDesk ?_ l
    exact fun _ => rfl
  · exact fun _ => rfl

/-- A handle returned names no frame. -/
theorem findFrame_returnHandle {s : State} {fh : Nat} {f : Frame} (hf : findFrame s fh = some f) :
    findFrame (returnHandle s fh) fh = none := by
  have hgone (t : State) : findFrame { t with frames := t.frames.filter fun g => g.fh != fh } fh = none := by
    simp [findFrame]
  unfold returnHandle
  rw [hf]
  dsimp only
  split
  · exact hgone _
  · by_cases hp : f.parent = fh
    · rw [hp]
      refine (findFrame_modFrame _ fh _ ?_).trans (by rw [hgone]; rfl)
      exact fun _ => rfl
    · refine (findFrame_modFrame_ne _ (Ne.symm hp) _ ?_).trans (hgone _)
      exact fun _ => rfl

/-- Settles O47. -/
theorem tokensArriveAtTheirDesks : Obligations.TokensArriveAtTheirDesks := by
  refine ⟨?arrival, ?spill, fun _ _ _ _ => rfl, fun _ _ _ => rfl, ?handle⟩
  case arrival =>
    intro s slot id l t f opc r hl hn hfl hf v d s1
    refine ⟨fun ha => ?_, fun ha hh => ⟨fun hd => ?_, fun hs hw hp hd hheld => ?_⟩⟩
    · rw [exec_tokenArrival hl hn hfl, if_neg (by rw [ha]; exact Bool.false_ne_true)]
    · exact exec_tokenArrival_delivered hl hn hfl ha (deliver_draining (findLaunch_landed hl id v) hf hd hh)
    · have hdel := deliver_landed (id := id) hl hf hs hh hp hd hw hheld
      have hl1 := findLaunch_landed hl id v
      have hdesk : deskOf (modDesk { l with flights := assocDel l.flights id } v fun d => d) v = d :=
        deskOf_modDesk (fun _ => rfl) _
      have haside := aside_of_accepts ha
      refine ⟨fun hnp hfree => ?_, fun hnp hnone hpr hc hfree => ?_, ?_⟩
      · refine exec_tokenArrival_delivered hl hn hfl ha (hdel.trans ?_)
        rw [if_neg (by simp [hnp]), placeSolo_free hl1 (by rw [hdesk]; exact hfree)]
        rfl
      · refine exec_tokenArrival_delivered hl hn hfl ha (hdel.trans ?_)
        rw [if_pos hnp]
        exact placeDyad_alone hl1 (by rw [hdesk]; exact haside) (by rw [hdesk]; exact hnone) (by rw [hdesk]; exact hpr)
          (by rw [hdesk]; exact hc) (by rw [hdesk]; exact hfree)
      · intro w hnp hw' hfree hlp hlen s2
        refine exec_tokenArrival_delivered hl hn hfl ha (hdel.trans ?_)
        rw [if_pos hnp, placeDyad_pair hl1 (by rw [hdesk]; exact haside) (by rw [hdesk]; exact hw') (by rw [hdesk]; exact hfree) hlp hlen]
        simp only [makePair, beq_iff_eq]
        rfl
  case spill =>
    intro s slot v l t rest f hl hf hs k s1
    refine ⟨fun hsp hh hp hnone => ?_, fun p opc r hsp hw hd hslot hsame hport hh hp hlp hn => ?_⟩
    · exact exec_spillWriteDone hl hf hs hsp hh hp hnone
    · have hexec := exec_spillProbeReturn hl hf hs hsp hw hd hslot
      rw [probeHit_pair hsame hport hh hp hlp hn] at hexec
      obtain ⟨l1, hl1, hdesk⟩ := findLaunch_cleared (v := v) hl p
      have hfree : freeWays (deskOf l1 v) (setOf t) = freeWays (deskOf l v) (setOf t) := by rw [hdesk]; rfl
      refine ⟨fun h => ?_, fun h hset => ?_⟩
      · rw [hexec, bringBack_pair_free hl1 (by rw [hfree]; exact h)]
        rfl
      · rw [hexec, bringBack_pair_full hl1 (by rw [hfree]; exact h) (by rw [hdesk]; exact hset)]
        rfl
  case handle =>
    intro s fh f hf
    refine ⟨fun h => ⟨?_, ?_⟩, fun h => ?_⟩
    · change execHandleReturn fh s = _
      simp [execHandleReturn, hf, h]
    · exact findFrame_returnHandle hf
    · change execHandleReturn fh s = _
      simp [execHandleReturn, hf, h]

end Sys2Proof.Desks
end

section
/-! SUPPORT. Epochs, the mailbag, commit and TASK_FRONT (R334 to R348). -/

namespace Sys2Proof.Tasks

open Machine Safety Laws Traps

section
variable {s s1 : State} {slot v id fh : Nat} {l l1 : Launch} {q : Req} {f : Frame} {t : Frame} {g : Firing} {r : NodeRec} {c : Ctx}

theorem exec_frontierReport (hl : findLaunch s slot = some l) (hr : (tileOf l v).report = none) (hv : v ∉ l.bcast) :
    exec (.frontierReport slot v) s = .next (setLaunch s (modTile { l with regs := l.regs.filter fun r => r.1 != v } v fun t =>
      { t with
        report := some (reportKey s l v), least := none
        tasks := t.tasks.map fun c =>
          if c.phase = .spec ∨ c.phase = .front then { c with unf := BitVec.ofNat 16 l.epoch } else c })) := by
  have hg : ((tileOf l v).report.isSome || l.bcast.contains v) = false := by simp [hr, hv]
  dsimp only [exec, execFrontierReport]
  rw [hl]
  simp only [hg, Bool.false_eq_true, if_false, Bool.or_eq_true, beq_iff_eq]

theorem exec_epochClose (hl : findLaunch s slot = some l) (hr : ∀ t ∈ l.tiles, t.report ≠ none) :
    exec (.epochClose slot) s = .next (pushAll (setLaunch s { l with
        epoch := l.epoch + 1
        formed := some (((l.tiles.filterMap (·.report) ++ l.regs.map (·.2)).foldl keyMin none).getD keyTop)
        bcast := l.tiles.map (·.vtile), tiles := l.tiles.map fun t => { t with report := none } })
      (l.tiles.map fun t => .frontierBroadcast slot t.vtile)) := by
  have hg : (l.tiles.any fun t => t.report.isNone) = false := by
    simpa only [List.any_eq_false, Option.isNone_iff_eq_none] using hr
  dsimp only [exec, execEpochClose]
  rw [hl]
  simp only [hg, Bool.false_eq_true, if_false]

theorem exec_frontierBroadcast (hl : findLaunch s slot = some l) (hv : v ∈ l.bcast) :
    exec (.frontierBroadcast slot v) s = .next (setLaunch s (modTile { l with bcast := l.bcast.filter fun w => w != v } v fun t =>
      { t with frontier := l.formed })) := by
  dsimp only [exec, execFrontierBroadcast]
  rw [hl]
  simp only [List.contains_iff_mem.2 hv, if_true]

/-! The mailbag (R334). -/

theorem reqEntry_issued (hq : q.state = .issued) (hl : findLaunch (setReq s slot q) slot = some l)
    (ht : specTask (setReq s slot q) q.firing = some t) (hr : recOf l q.firing = some r)
    (hc : reqCtx (setReq s slot q) q.firing r = some c) :
    reqEntry s slot q = tryEnter (setReq s slot q) l c t q := by
  have hs : (q.state == .held) = false := by rw [hq]; rfl
  have hsame : ({ q with state := .issued } : Req) = q := by rw [← hq]
  unfold reqEntry
  simp only [hs, Bool.false_eq_true, if_false, hsame, hl, ht, hr, hc]

theorem tryEnter_fits {places : List Nat}
    (hp : checkUnits s l (portOf l q.firing) false false (needOf q.op) q.unit (unitLane c.r.type) 0 q.addrs = .ok places)
    (hfit : linesFit l t.vtile (linesFor l t q places) = true) :
    tryEnter s l c t q = enterReq (fillTile s l (portOf l q.firing) false q.addrs) l c t q places := by
  unfold tryEnter
  simp only [hp, hfit, if_true]

theorem exec_mailbagEntry_req (hl : findLaunch s slot = some l) (hq : findReq l id = some q) (hi : q.state = .issued) :
    exec (.mailbagEntry slot id) s = .next (reqEntry s slot q) := by
  have hs : (q.state == .issued) = true := by rw [hi]; rfl
  dsimp only [exec, execMailbagEntry]
  simp only [hl, hq, hs, Bool.true_or, if_true]

theorem exec_mailbagEntry_send (hl : findLaunch s slot = some l) (hq : findReq l id = none)
    (ha : assoc l.cargo id = some (.sendHeld g false)) :
    exec (.mailbagEntry slot id) s = .next (sendEntry s slot id g false) := by
  dsimp only [exec, execMailbagEntry]
  simp only [hl, hq, ha]

theorem sendEntry_fits (hl : findLaunch (modLaunch s slot fun l => { l with cargo := assocDel l.cargo id }) slot = some l)
    (hr : recOf l g = some r) (hc : ctxOf (modLaunch s slot fun l => { l with cargo := assocDel l.cargo id }) g r = some c)
    (hd : c.fr.state ≠ .draining)
    (ht : specTask (modLaunch s slot fun l => { l with cargo := assocDel l.cargo id }) g = some t)
    (hfit : linesFit l t.vtile (sendLines g) = true) :
    sendEntry s slot id g false = enterSend (modLaunch s slot fun l => { l with cargo := assocDel l.cargo id }) c t := by
  have hdr : (c.fr.state == .draining) = false := beq_eq_false_iff_ne.2 hd
  unfold sendEntry
  simp only [Bool.false_eq_true, if_false, hl, hr, hc, hdr, ht, hfit, if_true]

/-! Commit and TASK_FRONT (R346, R347). -/

theorem exec_taskCommit_due (hl : findLaunch s slot = some l) (hf : findFrame s fh = some f) (hd : commitDue s l f = true) :
    exec (.taskCommit slot fh) s =
      if dataLines (tileOf l f.vtile) f.tcidx ≠ [] then
        match lostAtom s.lost (dataLines (tileOf l f.vtile) f.tcidx) with
        | some n => .next (askRecovery s slot n)
        | none => .next (freeLines (performLines s slot (dataLines (tileOf l f.vtile) f.tcidx)) f)
      else
        match heldSends l f with
        | h :: _ => .next (if sendOut l then s else releaseSend s l f h)
        | [] => .next (if sendOut l then s else finishCommit s l f) := by
  dsimp only [exec, execTaskCommit]
  simp only [hl, hf, hd, Bool.not_true, Bool.false_eq_true, if_false, Bool.not_eq_true', List.isEmpty_eq_false_iff] <;> rfl

theorem taskCommit_outcomes (hl : findLaunch s slot = some l) (hf : findFrame s fh = some f) (hd : commitDue s l f = true) :
    let ls := dataLines (tileOf l f.vtile) f.tcidx
    (ls ≠ [] → (lostAtom s.lost ls = none → exec (.taskCommit slot fh) s =
        .next (freeLines (performLines s slot ls) f)) ∧
      ∀ n, lostAtom s.lost ls = some n → exec (.taskCommit slot fh) s = .next (askRecovery s slot n)) ∧
    (∀ h rest, ls = [] → heldSends l f = h :: rest → sendOut l = false →
      exec (.taskCommit slot fh) s = .next (releaseSend s l f h)) ∧
    (ls = [] → heldSends l f = [] → sendOut l = false → exec (.taskCommit slot fh) s = .next (finishCommit s l f)) := by
  dsimp only
  rw [exec_taskCommit_due hl hf hd]
  refine ⟨fun hls => ?_, ?_, ?_⟩
  · rw [if_pos hls]
    exact ⟨fun hn => by rw [hn], fun n hn => by rw [hn]⟩
  · intro h rest hls hh ho
    rw [if_neg (not_not.2 hls), hh]
    simp only [ho, Bool.false_eq_true, if_false]
  · intro hls hh ho
    rw [if_neg (not_not.2 hls), hh]
    simp only [ho, Bool.false_eq_true, if_false]

theorem taskFrontEntry_outcomes (hl : findLaunch s slot = some l) (hf : findFrame s fh = some f) (hd : frontDue s l f = true) :
    (lostAtom s.lost (dataLines (tileOf l f.vtile) f.tcidx) = none →
      exec (.taskFrontEntry slot fh) s = .next (enterFront s l f)) ∧
    ∀ n, lostAtom s.lost (dataLines (tileOf l f.vtile) f.tcidx) = some n →
      exec (.taskFrontEntry slot fh) s = .next (askRecovery s slot n) := by
  dsimp only [exec, execTaskFrontEntry]
  simp only [hl, hf, hd, if_true]
  exact ⟨fun hn => by rw [hn], fun n hn => by rw [hn]⟩

theorem exec_taskRespawn {rc : SpawnRec} {i : Nat} (hl : findLaunch s slot = some l)
    (hr : s.spawns.find? (fun r => r.id == id) = some rc) (hp : rc.pending = true)
    (hi : freeTaskCtx l.man (tileOf l (homeTile rc)) = some i) (hpool : poolFree s slot = true) :
    let p := startTask { s with spawns := s.spawns.map fun x =>
        if x.id = id then { x with respawn := min 0xFFFF (x.respawn + 1) } else x } l (homeTile rc) i rc.parent rc.fid rc.ffill
      rc.postmark id rc.addr
    exec (.taskRespawn slot id) s = .next (emitToken p.1 slot
      { dest := rc.dest, fh := p.2, tag := 0, fill := 0, dl := false, lp := false, sp := false, lanes := rc.lanes, lpar := 0, hp := 0,
        src := 2 ^ 22 + id, hb := rc.hb }) := by
  have hready : respawnReady s l rc = true := by
    rw [respawnReady, hp, hi, findLaunch_slot hl, hpool]
    rfl
  dsimp only [exec, execTaskRespawn]
  simp only [hl, hr, hready, Bool.not_true, Bool.false_eq_true, if_false, hi, beq_iff_eq]
  rfl

end

/-- Settles O48. -/
theorem tasksReportAndCommit : Obligations.TasksReportAndCommit := by
  unfold Obligations.TasksReportAndCommit
  refine ⟨fun _ _ _ _ => exec_frontierReport, fun _ _ _ => exec_epochClose, fun _ _ _ _ => exec_frontierBroadcast, ?_, ?_, ?_,
    fun _ _ _ _ _ _ => exec_taskRespawn⟩
  · intro s slot id l q l1 t r c places hl hq hi s1 hl1 ht hr hc hp hfit
    rw [exec_mailbagEntry_req hl hq hi, reqEntry_issued hi hl1 ht hr hc, tryEnter_fits hp hfit]
  · intro s slot id l f l1 r c t hl hq ha s1 hl1 hr hc hd ht hfit
    rw [exec_mailbagEntry_send hl hq ha, sendEntry_fits hl1 hr hc hd ht hfit]
  · intro s slot fh l f hl hf
    exact ⟨taskCommit_outcomes hl hf, taskFrontEntry_outcomes hl hf⟩

end Sys2Proof.Tasks
end

section
/-! SUPPORT. The rounds' data moves and announcements (R313 to R320). -/

namespace Sys2Proof.RoundMoves

open Machine Safety Laws Completion Rounds

theorem lostPiece_eq_none {s : State} {host : Bool} {ps : List (Nat × Nat × Nat)}
    (h : host = false → ∀ p ∈ ps, lostLine s [p.2.1] p.2.2 = none) : lostPiece s host ps = none := by
  cases host with
  | true => rfl
  | false => exact List.findSome?_eq_none_iff.2 (h rfl)

/-- A semaphore of a round in no lost line. -/
theorem lostPiece_semaphore {s : State} {host : Bool} {a place : Nat} (h : host = false → lostLine s [place] 8 = none) :
    lostPiece s host [(a, place, 8)] = none :=
  lostPiece_eq_none fun hh p hp => by
    rw [List.mem_singleton.1 hp]
    exact h hh

section
variable {s s1 s2 : State} {r : RCtx} {q : Courier} {k : Credit}

/-! FETCH and SINK (R315). -/

theorem fetch_runs (ga gs : BitVec 3) (buf : BitVec 2) (host : Bool) (rows : BitVec 8) (rowb : BitVec 11) :
    roundRuns (.fetch ga gs buf host rows rowb) fun s r s1 q =>
      ∃ ps sx, rowPlaces s r.l (courierPort r.q) host ⟨true, false⟩ (rowsOf (gReg r.q ga) (gReg r.q gs) rows rowb) = .ok ps ∧
        checkAccesses (newGroup s).1 r.f.slot (pieceAccesses (newGroup s).1 r (newGroup s).2 host .read ps) = .ok sx ∧
        s1 = courierPages sx r host (ps.map (·.1)) ∧
        (host = false → ∀ p ∈ ps, lostLine s [p.2.1] p.2.2 = none) ∧
        q = advance { r.q with bufs := r.q.bufs.set buf.toNat (readPieces s host ps), hb := r.q.hb ++ [(newGroup s).2] } := by
  refine roundRuns_of_run (fun _ => by dsimp only [exec, execFetch]) ?_
  rintro s r s1 q ⟨ps, sx, hps, hacc, rfl, hlost, rfl⟩
  simp only [hps, hacc, lostPiece_eq_none hlost]

theorem sink_runs (ga gs gt : BitVec 3) (host : Bool) (tgt : BitVec 7) (rows : BitVec 8) (rowb : BitVec 11) :
    roundRuns (.courierSink ga gs gt host tgt rows rowb) fun s r s1 q =>
      let vt := (gReg r.q gt).toNat
      let b := lbOf (tileOf r.l vt) tgt.toNat
      let o := slotOffset b b.rseq.toNat
      let total := (rows.toNat + 1) * (rowb.toNat * 4 + 4)
      let p := newGroup s
      let w := newGroup p.1
      let hb := messageHb b
      ∃ a ps sx l3, roundArc r vt tgt.toNat true = some a ∧ overRate r vt tgt.toNat true = false ∧ total ≤ b.slotb ∧ b.rseq ≠ b.wseq ∧
        rowPlaces s r.l (courierPort r.q) host ⟨false, true⟩ (rowsOf (gReg r.q ga) (gReg r.q gs) rows rowb) = .ok ps ∧
        badRange (tileOf r.l vt) o total = false ∧
        checkAccesses w.1 r.f.slot (((granules o total).map (fun g => roundAccess w.1 r p.2 .sram vt g .read (4 * g)) ++
          (pieceAccesses w.1 r w.2 host .write ps).map fun (x : Access) => { x with hb := x.hb ++ [p.2] }).map fun (x : Access) =>
            { x with hb := unionNat x.hb hb }) = .ok sx ∧
        let s3 := modLaunch (clearPieces (writePieces (courierPages sx r host (ps.map (·.1))) r.f.slot host ps
            (readBytes (tileOf r.l vt).sram o total)) host ps) r.f.slot fun l =>
          modTile l vt fun t => modLb t tgt.toNat fun b => { b with rseq := b.rseq + 1 }
        findLaunch s3 r.f.slot = some l3 ∧
        s1 = freeMessages s3 l3 vt tgt.toNat 1 (unionNat (unionNat (roundHb r) hb) [p.2]) ∧
        q = advance { r.q with hb := unionNat r.q.hb (unionNat hb [p.2, w.2]), sunk := r.q.sunk ++ [(a.arc, 1)] } := by
  refine roundRuns_of_run (fun _ => by dsimp only [exec, execCourierSink]) ?_
  dsimp only
  rintro s r s1 q ⟨a, ps, sx, l3, ha, hrate, hlen, hseq, hps, hbad, hacc, hl3, rfl, rfl⟩
  have hseq' : ((lbOf (tileOf r.l (gReg r.q gt).toNat) tgt.toNat).rseq == (lbOf (tileOf r.l (gReg r.q gt).toNat) tgt.toNat).wseq) = false := by
    simpa using hseq
  simp only [ha, hrate, Bool.false_eq_true, if_false, not_lt.2 hlen, hseq', hps, hbad, hacc, hl3, countArc]

/-! WAITSLOT and DELIVER (R314, R316). -/

theorem waitslot_runs (gt : BitVec 3) (tgt : BitVec 7) (n : BitVec 8) :
    roundRuns (.waitslot gt tgt n) fun s r s1 q => s1 = s ∧ ∃ q1 k, withCredit r (gReg r.q gt).toNat tgt.toNat = .ok (q1, k) ∧
      (if tgt.toNat < 64 then n.toNat else 256 * n.toNat) ≤ creditUnits k ∧ q = advance q1 := by
  refine roundRuns_of_run (fun _ => by dsimp only [exec, execWaitslot]) ?_
  rintro s r s1 q ⟨rfl, q1, k, hk, hn, rfl⟩
  simp only [hk, ge_iff_le, hn, if_true]

theorem waitslot_waits (gt : BitVec 3) (tgt : BitVec 7) (n : BitVec 8) :
    roundRuns (.waitslot gt tgt n) fun s r s1 q => s1 = s ∧ ∃ q1 k, withCredit r (gReg r.q gt).toNat tgt.toNat = .ok (q1, k) ∧
      creditUnits k < (if tgt.toNat < 64 then n.toNat else 256 * n.toNat) ∧ q = { q1 with state := .waiting, held := true } := by
  rintro s r s1 q hr ⟨rfl, q1, k, hk, hn, rfl⟩
  refine exec_round_done (fun _ => by dsimp only [exec, execWaitslot]) hr ?_
  simp only [hk, ge_iff_le, not_le.2 hn, if_false]

/-- What a DELIVER comes to where its bytes suit its target. -/
theorem exec_deliver {gt : BitVec 3} {buf : BitVec 2} {tgt : BitVec 7} (hr : inRound s r) (hp : r.q.pending = 0)
    (hbs : r.q.bufs.getD buf.toNat [] ≠ [])
    (hlb : tgt.toNat < 64 → (r.q.bufs.getD buf.toNat []).length ≤ (lbOf (tileOf r.l (gReg r.q gt).toNat) tgt.toNat).slotb ∧
      overRate r (gReg r.q gt).toNat tgt.toNat false = false)
    (hk : withCredit r (gReg r.q gt).toNat tgt.toNat = .ok (q, k)) :
    let bs := r.q.bufs.getD buf.toNat []
    let n := if tgt.toNat < 64 then 1 else bs.length
    exec (.deliver gt buf tgt) s =
      if n ≤ creditUnits k ∧ meterHas r.l 0 bs.length = true then
        .next (putCourier (push (modLaunch { s with nextId := s.nextId + 1 } r.f.slot fun l =>
          { meterTake l 0 bs.length with cargo := l.cargo ++ [(s.nextId, .deliver q.node (gReg r.q gt).toNat tgt.toNat r.f q.round q.pc bs
              (takeCredit k n).2 (unionNat (roundHb r) ((takeCredit k n).2.returns.foldl (fun h x => unionNat h x.2) [])))] })
        ⟨7, r.f.slot, q.node, 0⟩ (.deliveryArrival r.f.slot s.nextId)) r.f.slot
        { putCredit q (takeCredit k n).1 with pending := 1, state := .waiting, held := true })
      else .next (putCourier s r.f.slot { q with state := .waiting, held := true }) := by
  dsimp only
  change execDeliver gt buf tgt s = _
  unfold execDeliver
  rw [runRound_eq hr]
  have hpend : (r.q.pending != 0) = false := by simp [hp]
  have hempty : (r.q.bufs.getD buf.toNat []).isEmpty = false := by simpa using hbs
  have hslot : (decide (tgt.toNat < 64) && decide ((gReg r.q gt).toNat < r.l.man.depots * 8) &&
      (lbOf (tileOf r.l (gReg r.q gt).toNat) tgt.toNat).valid &&
      decide ((r.q.bufs.getD buf.toNat []).length > (lbOf (tileOf r.l (gReg r.q gt).toNat) tgt.toNat).slotb)) = false := by
    by_cases h : tgt.toNat < 64
    · simp only [gt_iff_lt, not_lt.2 (hlb h).1, decide_false, Bool.and_false]
    · simp [h]
  have hover : (decide (tgt.toNat < 64) && overRate r (gReg r.q gt).toNat tgt.toNat false) = false := by
    by_cases h : tgt.toNat < 64
    · simp [(hlb h).2]
    · simp [h]
  simp only [hpend, hempty, hslot, hover, hk, Bool.false_eq_true, if_false, decide_eq_true_eq]
  generalize (if tgt.toNat < 64 then 1 else (r.q.bufs.getD buf.toNat []).length) = n
  by_cases hn : n ≤ creditUnits k
  · cases hm : meterHas r.l 0 (r.q.bufs.getD buf.toNat []).length with
    | true => simp only [hn, not_lt.2 hn, decide_false, Bool.not_true, Bool.or_false, Bool.false_eq_true, if_false, and_self, if_true]
    | false => simp only [Bool.not_false, Bool.or_true, if_true, Bool.false_eq_true, and_false, if_false]
  · simp only [hn, not_le.1 hn, decide_true, Bool.true_or, if_true, false_and, if_false]

theorem deliver_traps (gt : BitVec 3) (buf : BitVec 2) (tgt : BitVec 7) :
    roundTraps (.deliver gt buf tgt) fun _ r t => r.q.pending = 0 ∧ r.q.bufs.getD buf.toNat [] = [] ∧ t = ⟨0x08, 1, 0⟩ := by
  refine roundTraps_of_run (fun _ => by dsimp only [exec, execDeliver]) ?_
  rintro s r t ⟨hp, hbs, rfl⟩
  simp only [hp, hbs, bne_self_eq_false, Bool.false_eq_true, if_false, List.isEmpty_nil, if_true]
  rfl

/-- A delivery written at its target, whose courier has waited for it. -/
theorem exec_deliveryArrival {slot id node vt tgt round pc g : Nat} {l : Launch} {f : Firing} {bs : List Byte} {taken : Credit}
    {hb : List Nat} {rec : NodeRec} {c : Ctx}
    (hg : takeCargo s slot id = some (s1, l, .deliver node vt tgt f round pc bs taken hb)) (hq : courierOf l node = some q)
    (hrec : recOf l f = some rec) (hc : ctxOf s1 f rec = some c) (hf : q.firing = some f) (hpc : q.pc = pc) (hs : q.state = .waiting)
    (hw : deliverWrite s1 l { l, q := { q with round }, f, c } vt tgt bs hb = .ok (s2, g)) :
    let q1 : Courier := { q with pending := 0, state := .running, held := false, hb := unionNat q.hb (unionNat hb [g]) }
    exec (.deliveryArrival slot id) s = if q.ending = true then .next (finishRound s2 c q1 1 [])
      else .next (putCourier s2 slot (advance { q1 with delivered := countArc q.delivered (roundArc { l, q, f, c } vt tgt false) })) := by
  dsimp only
  change execDeliveryArrival slot id s = _
  unfold execDeliveryArrival
  have hw2 : (q.state == .waiting) = true := by rw [hs]; rfl
  simp only [hg, hq, hrec, hc, hw, hw2, if_true]
  cases he : q.ending with
  | true => rfl
  | false => simp only [Bool.false_eq_true, if_false, hf, hpc, beq_self_eq_true, Bool.not_false, Bool.and_true, Bool.or_true, Bool.true_or, if_true]

end

/-! DECODE (R317). -/

section
variable (bi bo tab : BitVec 2)

theorem decode_runs : roundRuns (.decode bi bo tab) fun s r s1 q => ∃ ct out, r.q.bufs.getD bi.toNat [] ≠ [] ∧
    r.q.slots.getD tab.toNat none = some ct ∧
    checkAccesses (newGroup s).1 r.f.slot [roundAccess (newGroup s).1 r (newGroup s).2 .unit (courierPlace r.q.node) (locSlot tab.toNat) .read 0] = .ok s1 ∧
    expandBlock ((assoc r.l.man.codetabs ct).getD []) (r.q.bufs.getD bi.toNat []) = some out ∧
    q = advance { r.q with bufs := r.q.bufs.set bo.toNat out, hb := r.q.hb ++ [(newGroup s).2] } := by
  refine roundRuns_of_run (fun _ => by dsimp only [exec, execDecode]) ?_
  rintro s r s1 q ⟨ct, out, hsrc, hct, hacc, hout, rfl⟩
  obtain ⟨b, bs, hbs⟩ := List.exists_cons_of_ne_nil hsrc
  rw [hbs] at hout
  simp only [hbs, hct, hacc, hout]

theorem decode_parity : roundTraps (.decode bi bo tab) fun s r t => ∃ ct sx, r.q.bufs.getD bi.toNat [] ≠ [] ∧
    r.q.slots.getD tab.toNat none = some ct ∧
    checkAccesses (newGroup s).1 r.f.slot [roundAccess (newGroup s).1 r (newGroup s).2 .unit (courierPlace r.q.node) (locSlot tab.toNat) .read 0] = .ok sx ∧
    expandBlock ((assoc r.l.man.codetabs ct).getD []) (r.q.bufs.getD bi.toNat []) = none ∧ t = ⟨0x05, 2, 0⟩ := by
  refine roundTraps_of_run (fun _ => by dsimp only [exec, execDecode]) ?_
  rintro s r t ⟨ct, sx, hsrc, hct, hacc, hout, rfl⟩
  obtain ⟨b, bs, hbs⟩ := List.exists_cons_of_ne_nil hsrc
  rw [hbs] at hout
  simp only [hbs, hct, hacc, hout]
  rfl

theorem decode_empty : roundTraps (.decode bi bo tab) fun _ r t => r.q.bufs.getD bi.toNat [] = [] ∧ t = ⟨0x08, 1, 0⟩ := by
  refine roundTraps_of_run (fun _ => by dsimp only [exec, execDecode]) ?_
  rintro s r t ⟨hsrc, rfl⟩
  simp only [hsrc]
  rfl

end

/-! Announcements (R318 to R320). -/

theorem arrive_runs (gt : BitVec 3) (bidx : BitVec 16) (bytes : BitVec 24) :
    roundRuns (.courierArrive gt bidx bytes) fun s r s1 q => (gReg r.q gt).toNat < r.l.man.depots * 8 ∧
      64 * bidx.toNat + 64 ≤ sramLimit r.l.man ∧ r.q.pending = 0 ∧ ∃ t sx,
        arrival r.l (tileOf r.l (gReg r.q gt).toNat) bidx.toNat bytes.toNat none (unionNat (roundHb r) [(newGroup s).2]) = .ok t ∧
        checkAccesses (newGroup s).1 r.f.slot
          [roundAccess (newGroup s).1 r (newGroup s).2 .unit (gReg r.q gt).toNat (barrierLoc bidx.toNat) addClass 0] = .ok sx ∧
        s1 = modLaunch sx r.f.slot (fun l => modTile l (gReg r.q gt).toNat fun _ => t) ∧
        q = advance { r.q with hb := r.q.hb ++ [(newGroup s).2] } := by
  refine roundRuns_of_run (fun _ => by dsimp only [exec, execCourierArrive]) ?_
  rintro s r s1 q ⟨hvt, hb, hp, t, sx, harr, hacc, rfl, rfl⟩
  simp only [ge_iff_le, not_le.2 hvt, gt_iff_lt, not_lt.2 hb, hp, bne_self_eq_false, Bool.false_eq_true, if_false, harr, hacc]

theorem token_runs (dest : BitVec 19) (ga : BitVec 3) (fill : BitVec 7) :
    roundRuns (.token dest ga fill) fun s r s1 q => r.q.pending = 0 ∧ q = advance r.q ∧
      let v := (gReg r.q ga).toNat
      s1 = emitToken s r.f.slot
        { dest, fh := r.f.a.fh, tag := BitVec.ofNat 64 (v % 2 ^ fill.toNat), fill := fill.toNat, dl := false, lp := false, sp := false,
          lanes := [BitVec.ofNat 32 v, BitVec.ofNat 32 (v / 2 ^ 32)], lpar := 0, hp := 0, src := 2 ^ 24 + r.q.node, hb := roundHb r } := by
  refine roundRuns_of_run (fun _ => by dsimp only [exec, execToken]) ?_
  rintro s r s1 q ⟨hp, rfl, rfl⟩
  simp only [hp, bne_self_eq_false, Bool.false_eq_true, if_false, low, lanesOf64, Nat.one_shiftLeft, Nat.shiftRight_eq_div_pow]

section
variable (ga gv : BitVec 3)

theorem semwait_runs : roundRuns (.courierSemwait ga gv) fun s r s1 q => let a := (gReg r.q ga).toNat
    ∃ place, roundSem s r a ⟨true, false⟩ = .ok place ∧ (gReg r.q gv).toNat ≤ readSpace s (bit a 63) place 8 ∧
      (bit a 63 = false → lostLine s [place] 8 = none) ∧
      let got := acquired s (bit a 63) place (some (courierPort r.q))
      ∃ sx, checkAccesses (newGroup s).1 r.f.slot ((semAccess (newGroup s).1 r (newGroup s).2 a place .sync).map fun (x : Access) =>
          { x with hb := unionNat x.hb got }) = .ok sx ∧
        s1 = courierPages sx r (bit a 63) [a % 2 ^ 52] ∧ q = advance { r.q with hb := unionNat r.q.hb (got ++ [(newGroup s).2]) } := by
  refine roundRuns_of_run (fun _ => by dsimp only [exec, execCourierSemwait]) ?_
  dsimp only
  rintro s r s1 q ⟨place, hplace, hv, hlost, sx, hacc, rfl, rfl⟩
  simp only [hplace, lostPiece_semaphore hlost, not_lt.2 hv, if_false, hacc]
  rfl

theorem semwait_waits : roundWaits (.courierSemwait ga gv) fun s r => let a := (gReg r.q ga).toNat
    ∃ place, roundSem s r a ⟨true, false⟩ = .ok place ∧ (bit a 63 = false → lostLine s [place] 8 = none) ∧
      readSpace s (bit a 63) place 8 < (gReg r.q gv).toNat := by
  refine roundWaits_of_run (fun _ => by dsimp only [exec, execCourierSemwait]) ?_
  rintro s r ⟨place, hplace, hlost, hv⟩
  simp only [hplace, lostPiece_semaphore hlost, hv, if_true]

theorem semsig_runs (add : Bool) (scope : Scope) : roundRuns (.courierSemsig ga gv add scope) fun s r s1 q =>
    r.q.pending = 0 ∧ ∃ place sx,
      let a := (gReg r.q ga).toNat
      let v := (gReg r.q gv).toNat
      roundSem s r a ⟨false, true⟩ = .ok place ∧
      checkAccesses (newGroup s).1 r.f.slot (semAccess (newGroup s).1 r (newGroup s).2 a place (if add then addClass else .write)) = .ok sx ∧
      (add = true → bit a 63 = false → lostLine s [place] 8 = none) ∧
      s1 = addSignal (writeSpace (courierPages sx r (bit a 63) [a % 2 ^ 52]) r.f.slot (bit a 63) place 8
          (if add then (readSpace s (bit a 63) place 8 + v) % 2 ^ 64 else v))
        { host := bit a 63, addr := place, isSet := !add, scope, port := some (courierPort r.q),
          hb := unionNat (roundHb r) [(newGroup s).2] } ∧
      q = advance { r.q with hb := r.q.hb ++ [(newGroup s).2] } := by
  refine roundRuns_of_run (fun _ => by dsimp only [exec, execCourierSemsig]) ?_
  dsimp only
  rintro s r s1 q ⟨hp, place, sx, hplace, hacc, hlost, rfl, rfl⟩
  have hnone : (if add then lostPiece s (bit (gReg r.q ga).toNat 63) [(low 52 (gReg r.q ga).toNat, place, 8)] else none) = none := by
    cases add with
    | true => exact lostPiece_semaphore (hlost rfl)
    | false => rfl
  simp only [hp, bne_self_eq_false, Bool.false_eq_true, if_false, hplace, hacc, hnone]
  rfl

end

/-- Settles O46. -/
theorem roundsMoveAndAnnounce : Obligations.RoundsMoveAndAnnounce := by
  unfold Obligations.RoundsMoveAndAnnounce
  intro g1 id1 next tileNo
  refine ⟨fetch_runs, sink_runs, fun gt tgt n => ⟨waitslot_runs gt tgt n, waitslot_waits gt tgt n⟩, fun gt buf tgt => ⟨?deliver, deliver_traps gt buf tgt⟩,
    ?arrival, fun bi bo tab => ⟨decode_runs bi bo tab, decode_parity bi bo tab, decode_empty bi bo tab⟩, arrive_runs, token_runs,
    fun ga gv => ⟨semwait_runs ga gv, semwait_waits ga gv⟩, semsig_runs⟩
  case deliver =>
    intro s r q k hr bs n hp hbs hlb hk
    have hrun := exec_deliver (tgt := tgt) hr hp hbs hlb hk
    refine ⟨fun hn hm => hrun.trans (if_pos ⟨hn, hm⟩), fun hn => hrun.trans (if_neg ?_)⟩
    rintro ⟨hle, -⟩
    exact not_lt.2 hle hn
  case arrival =>
    intro s slot id s1 l node vt tgt f round pc bs taken hb q rec c s2 g hg hq hrec hc hf hpc hs hw
    have hrun := exec_deliveryArrival hg hq hrec hc hf hpc hs hw
    exact ⟨fun he => hrun.trans (if_neg (by simp [he])), fun he => hrun.trans (if_pos he)⟩

end Sys2Proof.RoundMoves
end

section
/-! SUPPORT. Cross-package arcs and the link (R403 to R420). -/

namespace Sys2Proof.Fabric

open Machine Safety Laws Programs

/-- A list changed at a place that holds an element. -/
theorem modAt_eq_set {α : Type} {xs : List α} {i : Nat} {x : α} (h : xs[i]? = some x) (f : α → α) : modAt xs i f = xs.set i (f x) := by
  refine List.ext_getElem? fun k => ?_
  obtain ⟨hi, rfl⟩ := List.getElem?_eq_some_iff.1 h
  rw [modAt, List.getElem?_mapIdx, List.getElem?_set]
  by_cases hk : i = k
  · subst hk
    simp [hi]
  · simp [hk, Ne.symm hk]

theorem even_lanes {ty : Ty} {n : Nat} (h : ¬(wide ty = true ∧ n % 2 = 1)) : (wide ty && n % 2 == 1) = false := by
  simpa using h

section
variable {s : State} {c : Ctx} {x : Arc} {dl lp : Bool} {lanes : List Lane} {out : Except Trap (List Emission)}

/-! ARCOUT (R413). -/

/-- A message sent on a bound arc with credit. -/
theorem arcSend_open {es : List Emission} (hx : nodeArc c = some x) (hb : x.bind = .bound) (hc : x.credit ≠ 0)
    (hn : 8 + 4 * lanes.length ≤ x.slotb) (ho : out = .ok es) :
    arcSend s c dl lp lanes out =
      .done (modLaunch (sendFlit s x.plane (peerPkg s c.l x) (.message x.peerSlot x.peerArc x.sent (arcBytes x.sent dl lp lanes))) c.f.slot
        fun l => modArc l x.arc fun x => { x with credit := x.credit - 1, sent := x.sent + 1 }) es 0 := by
  unfold arcSend
  rw [hx]
  dsimp only
  rw [bindTrap, hb]
  dsimp only
  rw [if_neg (by simpa using hc), if_neg (not_lt.2 hn)]
  exact doneWith_ok ho 0

theorem arcSend_held (h : nodeArc c = none ∨ ∃ x, nodeArc c = some x ∧ bindTrap x true = none ∧ (x.bind ≠ .bound ∨ x.credit = 0)) :
    arcSend s c dl lp lanes out = .hold := by
  unfold arcSend
  obtain hx | ⟨x, hx, ht, hh⟩ := h
  · rw [hx]
  · rw [hx]
    dsimp only
    rw [ht]
    exact if_pos (by simpa using hh)

theorem arcSend_long (hx : nodeArc c = some x) (hb : x.bind = .bound) (hc : x.credit ≠ 0) (hn : x.slotb < 8 + 4 * lanes.length) :
    arcSend s c dl lp lanes out = .trap ⟨0x10, 1, 0⟩ := by
  unfold arcSend
  rw [hx]
  dsimp only
  rw [bindTrap, hb]
  dsimp only
  rw [if_neg (by simpa using hc), if_pos hn]
  rfl

/-! The rules for last posts and dead letters (R411, R417). -/

theorem arcSpec_free {go : State → Ctx → Res} (h : speculative s c.f.a.fh = false) : arcSpec go s c = go s c := by
  rw [arcSpec, h]
  rfl

theorem arcSpec_speculative {go : State → Ctx → Res} (h : speculative s c.f.a.fh = true) : arcSpec go s c = .trap ⟨0x0B, 3, 0⟩ := by
  rw [arcSpec, h]
  rfl

theorem arcLp_due {go : State → Ctx → Res} (h : ctxTag c = ordNext (deskOf c.l c.f.vdesk) c.f.node c.f.a.fh) :
    arcLp go s c = go s c := by
  unfold arcLp
  exact if_pos (by simp [h])

theorem arcLp_early {go : State → Ctx → Res} (h : ¬ctxTag c = ordNext (deskOf c.l c.f.vdesk) c.f.node c.f.a.fh) :
    arcLp go s c = .hold := by
  unfold arcLp
  exact if_neg (by simpa using h)

theorem arcPass_passable {go : State → Ctx → Res} {a : ArcDecl} (hx : nodeArc c = some x) (ha : nodeDecl c = some a)
    (h : bindTrap x (decide (a.delay ≤ ctxTag c)) = none) : arcPass go s c = go s c := by
  unfold arcPass
  rw [hx, ha]
  dsimp only
  rw [h]

theorem arcPass_trap {go : State → Ctx → Res} {a : ArcDecl} {t : Trap} (hx : nodeArc c = some x) (ha : nodeDecl c = some a)
    (h : bindTrap x (decide (a.delay ≤ ctxTag c)) = some t) : arcPass go s c = .trap t := by
  unfold arcPass
  rw [hx, ha]
  dsimp only
  rw [h]

theorem exec_arcout (r : NodeRec) (s : State) :
    exec (.arcout r) s = runNode s r (streamOf 3) (fun _ => 1)
      (arcLp (arcSpec fun s c => arcSend s c false true oneZero (outBoth c oneZero false true [])))
      (arcSpec fun s c => arcSend s c true false (originRecord c) (outBoth c (poisonLanes (laneCount c) (poisonOf c)) true false []))
      (fun s c => if wide c.r.type && laneCount c % 2 == 1 then .trap (mkTrap 0x04 1)
        else arcSend s c false false c.f.a.lanes (outBoth c oneZero false false [])) := rfl

theorem exec_arcin (r : NodeRec) (s : State) :
    exec (.arcin r) s = runNode s r (streamOf 3) (fun _ => 1) (arcLp (arcSpec (arcPass lpOut))) (arcSpec (arcPass dlOut)) arcinBody := rfl

/-- A last post at a fabric node meets the order of its node first, then speculation. -/
theorem exec_arc_lp {i : NodeRec → Instr} (hi : i ∈ [Instr.arcout, .arcin]) (h : firesLp s c (streamOf 3)) :
    ∃ go, exec (i c.r) s =
      .next (settleFrom s c (streamOf 3) 0 false (arcLp (arcSpec go) (started s c (streamOf 3)) (own s c (streamOf 3)))) := by
  obtain rfl | rfl := List.mem_pair.1 hi
  · exact ⟨_, (exec_arcout _ _).trans (runNode_firesLp h _ _ _ _)⟩
  · exact ⟨_, (exec_arcin _ _).trans (runNode_firesLp h _ _ _ _)⟩

theorem exec_arc_dl {i : NodeRec → Instr} (hi : i ∈ [Instr.arcout, .arcin]) (h : firesDl s c (streamOf 3)) :
    ∃ go, exec (i c.r) s =
      .next (settleFrom s c (streamOf 3) 0 false (arcSpec go (started s c (streamOf 3)) (own s c (streamOf 3)))) := by
  obtain rfl | rfl := List.mem_pair.1 hi
  · exact ⟨_, (exec_arcout _ _).trans (runNode_firesDl h _ _ _ _)⟩
  · exact ⟨_, (exec_arcin _ _).trans (runNode_firesDl h _ _ _ _)⟩

theorem originRecord_eq (c : Ctx) :
    originRecord c = ((c.l.faults.find? fun r => r.ticket == poisonIdx c.f.a).map recordLanes).getD (List.replicate 16 0) := by
  unfold originRecord
  cases c.l.faults.find? fun r => r.ticket == poisonIdx c.f.a <;> rfl

/-! ARCIN (R414). -/

theorem arcinBody_early {a : ArcDecl} {es : List Emission} (he : ¬(wide c.r.type = true ∧ laneCount c % 2 = 1)) (ha : nodeDecl c = some a)
    (hx : nodeArc c = some x) (hb : bindTrap x false = none) (hj : ctxTag c < a.delay)
    (ho : outBoth c c.f.a.lanes false false [] = .ok es) : arcinBody s c = .later (complete s c es 0) := by
  unfold arcinBody
  rw [ha, hx]
  dsimp only
  rw [if_pos hj, even_lanes he, hb, ho]
  rfl

theorem arcinBody_written {a : ArcDecl} (ha : nodeDecl c = some a) (hx : nodeArc c = some x) (hb : bindTrap x false = none)
    (hj : a.delay ≤ ctxTag c) (hw : written (lbOf (tileOf c.l (fTile c.f)) a.lb) (ctxTag c - a.delay) = true) :
    arcinBody s c = arcTake s c x a.lb (ctxTag c - a.delay) := by
  unfold arcinBody
  rw [ha, hx]
  dsimp only
  rw [if_neg (not_lt.2 hj), hb]
  dsimp only
  rw [hw]
  rfl

theorem bindTrap_unbroken (h : bindTrap x true = none) : bindTrap x false = none := by
  unfold bindTrap at h ⊢
  split at h <;> simp_all

theorem arcinBody_held {a : ArcDecl} (ha : nodeDecl c = some a) (hx : nodeArc c = some x) (hb : bindTrap x true = none)
    (hj : a.delay ≤ ctxTag c) (hw : written (lbOf (tileOf c.l (fTile c.f)) a.lb) (ctxTag c - a.delay) = false) :
    arcinBody s c = .hold := by
  unfold arcinBody
  rw [ha, hx]
  dsimp only
  rw [if_neg (not_lt.2 hj), bindTrap_unbroken hb]
  dsimp only
  rw [hw, hb]
  rfl

/-- A message of data or a last post taken from a letterbox without a bad word. -/
theorem arcTake_message {sx : State} {lb m : Nat} {es : List Emission} :
    let t := tileOf c.l (fTile c.f)
    let b := lbOf t lb
    let o := slotOffset b m
    let d := readNat t.sram o 8
    let n := d % 32 + 1
    let hb := (b.wrote.find? fun w => w.1 == m % 2 ^ 16).elim [] (·.2)
    badRange t o (8 + 4 * n) = false → bit d 6 = false →
    checkAccesses (newGroup s).1 c.f.slot ((arcAccesses (newGroup s).1 c.f (newGroup s).2 .read o n).map fun e =>
      { e with hb := unionNat e.hb hb }) = .ok sx →
    (if bit d 5 then outBoth c [0] false true hb
      else outBoth c (bytesLanes (readBytes t.sram (o + 8) (4 * n))) false false hb) = .ok es →
    arcTake s c x lb m = .done (takeArc sx c x lb m (unionNat (unionNat (firingHb c.f) hb) [(newGroup s).2])) es 0 := by
  have hn (d : Nat) : field d 0 5 = d % 32 := by rw [field, Nat.shiftRight_zero]; rfl
  dsimp only
  unfold arcTake
  dsimp only
  rw [hn, show low 16 m = m % 2 ^ 16 from rfl]
  generalize (lbOf (tileOf c.l (fTile c.f)) lb).wrote.find? (fun w => w.1 == m % 2 ^ 16) = w
  intro hbad hdl hacc hout
  cases w
  all_goals
    refine (withAccesses_ok hacc _).trans ?_
    simp only [hbad, hdl, Bool.false_eq_true, if_false]
    split at hout
    next hlp => exact (if_pos hlp).trans (doneWith_ok hout 0)
    next hlp => exact (if_neg hlp).trans (doneWith_ok hout 0)

end

/-! Messages of peers (R415). -/

section
variable {s s1 : State} {slot id arc msg : Nat} {l : Launch} {bytes : List Byte} {a : ArcDecl} {x : Arc}

theorem exec_arcMessageArrival (hg : takeCargo s slot id = some (s1, l, .arcMsg arc msg bytes))
    (ha : l.man.arcs.find? (fun a => a.arc == arc) = some a) (hx : arcOf l arc = some x) :
    exec (.arcMessageArrival slot id) s = .next (if x.bind ≠ .bound then s1
      else if meterHas l 2 bytes.length = false then putBack s ⟨8, slot, arc, 0⟩ (.arcMessageArrival slot id)
      else arcWrite (setLaunch s1 (meterTake l 2 bytes.length)) (meterTake l 2 bytes.length) a x msg bytes) := by
  dsimp only [exec, execArcMessageArrival]
  simp only [hg, ha, hx, bne_iff_ne, Bool.not_eq_true']
  split
  · rfl
  · split <;> rfl

end

/-! Flits (R404). -/

section
variable {s : State} {port seq ack : Nat} {kind : LinkKind} {q : LinkPort} (hq : s.ports[port]? = some q) (hup : q.up = true)
include hq hup

theorem exec_flit_intact :
    exec (.linkFlitReceive port seq ack kind true) s = .next (if seq % 2 ^ 16 = q.rcvd.toNat then
        takeFlit (modPort (modPort s port fun q => takeAck q ack) port fun q => acceptFlit q kind) port kind
      else modPort s port fun q => takeAck q ack) := by
  dsimp only [exec, execLinkFlitReceive]
  have hlow : low 16 seq = seq % 2 ^ 16 := rfl
  simp only [hq, hup, hlow, Bool.not_true, Bool.false_eq_true, if_false, bne_iff_ne, ne_eq, ite_not]
  split <;> rfl

theorem exec_flit_failed :
    exec (.linkFlitReceive port seq ack kind false) s = .next (if 7 ≤ q.attempts then
        portDown (modPort s port fun q => { q with attempts := q.attempts + 1 }) port
      else sendFlit (modPort s port fun q => { q with attempts := q.attempts + 1 }) port 0 .again) := by
  have hle : 8 ≤ q.attempts + 1 ↔ 7 ≤ q.attempts := by omega
  dsimp only [exec, execLinkFlitReceive]
  simp only [hq, hup, Bool.not_true, Bool.not_false, Bool.false_eq_true, if_false, if_true, ge_iff_le, hle]

omit hup in
theorem exec_ackTimeout :
    exec (.linkAckTimeout port) s = .next (if q.replay = [] then s else portDown s port) := by
  dsimp only [exec, execLinkAckTimeout]
  simp only [hq, Option.map_some, Option.getD_some, List.isEmpty_iff]

end

theorem exec_communicatorRebuild {s : State} {comm : Nat} {entries : List CommEntry} {c : Comm} (h : s.comms[comm]? = some c) :
    exec (.communicatorRebuild comm entries) s =
      .next (breakArcs { s with comms := s.comms.set comm { cver := c.cver + 1, entries } } 2 fun l x =>
        l.part == comm && x.cver != (c.cver + 1).toNat) := by
  dsimp only [exec, execCommunicatorRebuild]
  have hlt : comm < s.comms.length := (List.getElem?_eq_some_iff.1 h).1
  simp only [modAt_eq_set h, List.getElem?_set_self hlt, Option.map_some, Option.getD_some]

/-- Settles O44. -/
theorem fabricInstructionsComplete : Obligations.FabricInstructionsComplete := by
  unfold Obligations.FabricInstructionsComplete
  dsimp only
  refine ⟨completesMsgs_of_run exec_arcout (fun _ => rfl) ?send, holds_of_run exec_arcout ?sendHeld, traps_of_run exec_arcout ?sendLong, ?sendLp, ?sendDl, ?spec,
    ?early, ?passLp, ?passDl, ?passTrap, answersNext_of_run (body := fun _ => arcinBody) (fun _ _ => rfl) ?release,
    completesMsgs_of_run (body := fun _ => arcinBody) (fun _ _ => rfl) (fun _ => rfl) ?take,
    holds_of_run (body := fun _ => arcinBody) (fun _ _ => rfl) ?takeHeld, ?arrival, fun _ _ _ => rfl, ?flits, fun _ _ _ => rfl,
    fun _ _ _ _ => exec_communicatorRebuild⟩
  case send =>
    rintro s c s1 es fl ⟨rfl, he, hout, x, ⟨hx, hb, hc, hn⟩, rfl⟩
    rw [even_lanes he]
    exact arcSend_open hx hb hc hn hout
  case sendHeld =>
    rintro s c ⟨he, h⟩
    rw [even_lanes he]
    exact arcSend_held h
  case sendLong =>
    rintro s c t ⟨he, x, hx, hb, hc, hn, rfl⟩
    rw [even_lanes he]
    exact arcSend_long hx hb hc hn
  case sendLp =>
    rintro s c x es hf hfree hdue ⟨hx, hb, hc, hn⟩ hout
    refine (exec_arcout _ _).trans ((runNode_firesLp hf _ _ _ _).trans ?_)
    rw [arcLp_due hdue, arcSpec_free (c := own s c (streamOf 3)) hfree]
    exact congrArg (fun r => Host.Outcome.next (settleFrom s c (streamOf 3) 0 false r))
      (arcSend_open (c := own s c (streamOf 3)) (lanes := oneZero) hx hb hc hn hout)
  case sendDl =>
    rintro s c x es hf hfree ⟨hx, hb, hc, hn⟩ hout
    refine (exec_arcout _ _).trans ((runNode_firesDl hf _ _ _ _).trans ?_)
    rw [arcSpec_free (c := own s c (streamOf 3)) hfree, originRecord_eq]
    exact congrArg (fun r => Host.Outcome.next (settleFrom s c (streamOf 3) 0 false r))
      (arcSend_open (c := own s c (streamOf 3)) hx hb hc hn hout)
  case spec =>
    rintro i hi s c hs (hf | ⟨hf, hdue⟩)
    · obtain ⟨go, hgo⟩ := exec_arc_dl hi hf
      rw [hgo, arcSpec_speculative (c := own s c (streamOf 3)) hs]
      rfl
    · obtain ⟨go, hgo⟩ := exec_arc_lp hi hf
      rw [hgo, arcLp_due hdue, arcSpec_speculative (c := own s c (streamOf 3)) hs]
      rfl
  case early =>
    intro i hi s c hf hdue
    obtain ⟨go, hgo⟩ := exec_arc_lp hi hf
    rw [hgo, arcLp_early hdue]
    rfl
  case passLp =>
    rintro s c es hf hfree hdue ⟨x, a, hx, ha, hb⟩ hout
    refine (exec_arcin _ _).trans ((runNode_firesLp hf _ _ _ _).trans ?_)
    rw [arcLp_due hdue, arcSpec_free (c := own s c (streamOf 3)) hfree, arcPass_passable hx ha hb, lpOut_done hout]
    rfl
  case passDl =>
    rintro s c es hf hfree ⟨x, a, hx, ha, hb⟩ hout
    refine (exec_arcin _ _).trans ((runNode_firesDl hf _ _ _ _).trans ?_)
    rw [arcSpec_free (c := own s c (streamOf 3)) hfree, arcPass_passable hx ha hb, dlOut_done hout]
    rfl
  case passTrap =>
    rintro s c x a t (hf | ⟨hf, hdue⟩) hfree hx ha hb
    · refine (exec_arcin _ _).trans ((runNode_firesDl hf _ _ _ _).trans ?_)
      rw [arcSpec_free (c := own s c (streamOf 3)) hfree, arcPass_trap hx ha hb]
      rfl
    · refine (exec_arcin _ _).trans ((runNode_firesLp hf _ _ _ _).trans ?_)
      rw [arcLp_due hdue, arcSpec_free (c := own s c (streamOf 3)) hfree, arcPass_trap hx ha hb]
      rfl
  case release =>
    rintro s c t ⟨he, a, x, es, ha, hx, hb, hj, hout, rfl⟩
    exact arcinBody_early he ha hx hb hj hout
  case take =>
    rintro s c s1 es fl ⟨rfl, a, x, ha, hx, hb, hj, hw, hbad, hdl, sx, hacc, rfl, hout⟩
    exact (arcinBody_written ha hx hb hj hw).trans (arcTake_message hbad hdl hacc hout)
  case takeHeld =>
    rintro s c ⟨a, x, ha, hx, hb, hj, hw⟩
    exact arcinBody_held ha hx hb hj hw
  case arrival =>
    intro s slot id s1 l arc msg bytes a x hg ha hx
    have hrun := exec_arcMessageArrival hg ha hx
    exact ⟨fun hb => hrun.trans (by rw [if_pos hb]), fun hb hm => hrun.trans (by rw [if_neg (not_not.2 hb), if_pos hm]),
      fun hb hm => hrun.trans (by rw [if_neg (not_not.2 hb), if_neg (by simp [hm])])⟩
  case flits =>
    intro s port seq ack kind q hq hup
    have hok := exec_flit_intact (seq := seq) (ack := ack) (kind := kind) hq hup
    have hbad := exec_flit_failed (seq := seq) (ack := ack) (kind := kind) hq hup
    have htime := exec_ackTimeout hq
    exact ⟨fun h => hok.trans (by rw [if_pos h]), fun h => hok.trans (by rw [if_neg h]), fun h => hbad.trans (by rw [if_neg (not_le.2 h)]),
      fun h => hbad.trans (by rw [if_pos h]), fun h => htime.trans (by rw [if_neg h]), fun h => htime.trans (by rw [if_pos h]), rfl⟩

end Sys2Proof.Fabric
end

section
/-! SUPPORT. Halts, folds, meters, clocks and the deadlock detector (R148 to R150, R377 to R384). -/

namespace Sys2Proof.Regions

open Machine Safety Laws Fabric

section
variable {s : State} {slot v : Nat} {l : Launch} (hl : findLaunch s slot = some l)
include hl

/-! Halts (R150, R366). -/

theorem exec_haltRequest_running (hp : l.phase = .running) :
    exec (.haltRequest slot) s = match l.reconf with
      | none => .next (setLaunch s (haltRegion l))
      | some f => if ∀ t ∈ l.tiles, t.answered = true then .next (pushAlone s (.haltRequest slot))
        else .next (modLaunch (abortMode s l f) slot haltRegion) := by
  dsimp only [exec, execHaltRequest]
  simp only [hl, hp, List.all_eq_true] <;> rfl

theorem exec_haltRequest_staging (hp : l.phase = .staging) : exec (.haltRequest slot) s = .next (abandonLaunch s l) := by
  dsimp only [exec, execHaltRequest]
  simp only [hl, hp]

theorem exec_haltRequest_sealed (hp : l.phase = .sealed) :
    exec (.haltRequest slot) s = .next (pushAlone s (.haltRequest slot)) := by
  dsimp only [exec, execHaltRequest]
  simp only [hl, hp]

theorem exec_haltComplete (ht : (tileOf l v).state = .halting) (hi : tileIdle s l (tileOf l v) = true)
    (hq : ∀ q ∈ l.couriers, q.pending = 0) (hc : ∀ p ∈ l.cargo, cargoOwn l p.2 = false)
    (hf : ∀ p ∈ l.flights, roundFlight l p.2 = false) :
    let l1 := modTile l v fun t => { t with state := .halted }
    exec (.haltComplete slot v) s =
      .next (setLaunch s (if l.phase = .halting ∧ ∀ t ∈ l1.tiles, t.state = .halted ∨ t.state = .offline then
        { l1 with phase := .halted } else l1)) := by
  have hready : haltReady s l (tileOf l v) = true := by
    simp only [haltReady, ht, hi, beq_self_eq_true, Bool.true_and, Bool.and_eq_true, Bool.not_eq_true', List.all_eq_true, beq_iff_eq,
      List.any_eq_false, Bool.not_eq_true]
    exact ⟨⟨hq, hc⟩, hf⟩
  have hphase : (modTile l v fun t => { t with state := .halted }).phase = l.phase := by
    unfold modTile
    split <;> rfl
  dsimp only [exec, execHaltComplete]
  simp only [hl, hready, hphase, Bool.not_true, Bool.false_eq_true, if_false, Bool.and_eq_true, beq_iff_eq, List.all_eq_true, Bool.or_eq_true]

/-! Folds (R149, R378, R379). -/

theorem exec_foldExchange (hfold : 1 < l.fold) (hp : l.phase = .running)
    (hi : ∀ t ∈ l.tiles, bankLive l t.vtile = true → tileIdle s l t = true) :
    exec (.foldExchange slot) s = .next (setLaunch s { l with live := (l.live + 1) % l.fold }) := by
  have hg : (decide (l.fold > 1) && l.phase == .running && l.tiles.all fun t => !bankLive l t.vtile || tileIdle s l t) = true := by
    simpa only [hp, decide_eq_true hfold, beq_self_eq_true, Bool.true_and, List.all_eq_true, Bool.or_eq_true, Bool.not_eq_true', ← Bool.not_eq_true, ← imp_iff_not_or] using hi
  dsimp only [exec, execFoldExchange]
  simp only [hl, hg, if_true]

theorem exec_regionShrink (hp : l.phase = .halted) :
    exec (.regionShrink slot) s = if l.target ≤ l.fold then .next (setLaunch s (resumeRegion l))
      else .next (unblock (setLaunch (leaveRegion s l) (resumeRegion (resetRates s { l with
        depots := keptDepots l l.target, fold := l.target, live := 0, before := (l.fold, l.depots) :: l.before }))) l.part) := by
  have hg : (l.phase != .halted) = false := by rw [hp]; rfl
  dsimp only [exec, execRegionShrink]
  simp only [hl, hg, Bool.false_eq_true, if_false]

omit hl in
theorem restored_cons {fold : Nat} {depots : List Nat} {rest : List (Nat × List Nat)} (hb : l.before = (fold, depots) :: rest) :
    restored s l = if ∀ d ∈ depots, d ∈ freeDepots s l.part ∨ d ∈ l.depots then
      some (resetRates s { l with depots, fold, target := fold, live := 0, before := rest }) else none := by
  unfold restored
  rw [hb]
  simp only [List.all_eq_true, Bool.or_eq_true, List.contains_iff_mem]

theorem exec_foldRestore :
    exec (.foldRestore slot) s = match l.phase, restored s l with
      | .running, some _ => .next (pushAll s [.haltRequest slot, .foldRestore slot])
      | .halted, some l1 => .next (setLaunch (leaveRegion s l) (resumeRegion l1))
      | .halted, none => .next (setLaunch s (resumeRegion l))
      | _, _ => .next s := by
  dsimp only [exec, execFoldRestore]
  simp only [hl] <;> rfl

/-! The idle detector (R384). -/

theorem exec_deadlockIdle :
    exec (.deadlockIdle slot) s =
      .next (if l.phase = .running ∧ idleExempt s l = false ∧ heldFirings s l ≠ [] ∧ launchIdle s l = true then
        trapDeadlock s slot 1 (heldFirings s l) else s) := by
  have hg : idleDue s l = true ↔ l.phase = .running ∧ idleExempt s l = false ∧ heldFirings s l ≠ [] ∧ launchIdle s l = true := by
    simp only [idleDue, Bool.and_eq_true, beq_iff_eq, Bool.not_eq_true', List.isEmpty_eq_false_iff, and_assoc, ne_eq]
  dsimp only [exec, execDeadlockIdle]
  simp only [hl, hg]

end

/-! Clocks and meters (R381, R382). -/

theorem exec_clockStep (s : State) (die mhz : Nat) :
    exec (.clockStep die mhz) s =
      .next (if 1200 ≤ mhz ∧ mhz ≤ 2400 ∧ mhz % 100 = 0 ∧ s.trips.getD die false = false then
        { s with clocks := modAt s.clocks die fun _ => mhz } else s) := by
  dsimp only [exec, execClockStep]
  simp only [Bool.and_eq_true, decide_eq_true_eq, beq_iff_eq, Bool.not_eq_true', and_assoc]

theorem getD_modAt {xs : List Bool} {i k : Nat} {b : Bool} (hb : b = true → i < xs.length) :
    (modAt xs i fun _ => b).getD k false = if k = i then b else xs.getD k false := by
  rw [modAt, List.getD_eq_getElem?_getD, List.getElem?_mapIdx]
  by_cases hk : k = i
  · subst hk
    cases b with
    | true => simp [hb rfl]
    | false => cases xs[k]? <;> simp
  · cases h : xs[k]? <;> simp [hk, h]

/-- A region on a die that has tripped. -/
theorem tripped_of_trip {s : State} {die : Nat} (hdie : die < s.trips.length) (clocks : List Nat) {depots : List Nat}
    (h : (depots.any fun d => d / 9 == die) = true) :
    tripped { s with trips := modAt s.trips die fun _ => true, clocks } depots = true := by
  obtain ⟨d, hd, hdd⟩ := List.any_eq_true.1 h
  refine List.any_eq_true.2 ⟨d, hd, ?_⟩
  rw [getD_modAt fun _ => hdie, if_pos (beq_iff_eq.1 hdd)]

/-- The dies of a region that stay tripped where one is cleared. -/
theorem tripped_of_clear (s : State) (die : Nat) (clocks : List Nat) (depots : List Nat) :
    tripped { s with trips := modAt s.trips die fun _ => false, clocks } depots =
      depots.any fun d => d / 9 != die && s.trips.getD (d / 9) false := by
  unfold tripped
  congr 1
  funext d
  rw [getD_modAt fun h => absurd h Bool.false_ne_true]
  by_cases hd : d / 9 = die <;> simp [hd]

/-- The meters of a region at the rates that stand. -/
theorem resetRates_eq (s : State) (l : Launch) : resetRates s l = { l with meters := l.meters.mapIdx fun k m => { m with
    rate := if tripped s l.depots then meterCap l.couriers.length k / 16
      else min (s.cfg.meterRate.getD (4 * l.slot + k) 0) (meterCap l.couriers.length k) } } := rfl

/-- Settles O52. -/
theorem regionsClocksAndMetersChange : Obligations.RegionsClocksAndMetersChange := by
  unfold Obligations.RegionsClocksAndMetersChange
  refine ⟨?_, fun s => rfl, ?_, ?_, ?_, fun s => rfl⟩
  · intro s slot l hl
    refine ⟨?_, exec_haltRequest_staging hl, exec_haltRequest_sealed hl, ?_, ?_, exec_foldExchange hl, ?_, ?_, ?_, ?_, ?_, ?_⟩
    · intro hp hr
      have hrun := exec_haltRequest_running hl hp
      rw [hr] at hrun
      rw [hrun]
      simp only [haltRegion, Bool.or_eq_true, beq_iff_eq]
    · intro f hp hr
      rw [exec_haltRequest_running hl hp, hr]
      exact ⟨fun h => if_pos h, fun h => if_neg h⟩
    · intro v ht hi hq hc hf l1 all
      have hrun := exec_haltComplete hl ht hi hq hc hf
      exact ⟨fun h => hrun.trans (by rw [if_pos h]), fun h => hrun.trans (by rw [if_neg h])⟩
    · intro hp hlt
      rw [exec_regionShrink hl hp, if_neg (not_le.2 hlt)]
    · intro hp hle
      rw [exec_regionShrink hl hp, if_pos hle]
    · intro fold depots rest hb hd
      rw [exec_foldRestore hl, restored_cons hb, if_pos hd]
      exact ⟨fun hp => by rw [hp], fun hp => by rw [hp]⟩
    · rintro fold depots rest hb ⟨d, hd, hfree, hown⟩
      rw [exec_foldRestore hl, restored_cons hb, if_neg fun h => (h d hd).elim hfree hown]
      exact ⟨fun hp => by rw [hp], fun hp => by rw [hp]⟩
    · intro hp he hh hi
      rw [exec_deadlockIdle hl, if_pos ⟨hp, he, hh, hi⟩]
    · intro h
      rw [exec_deadlockIdle hl, if_neg]
      rintro ⟨hp, he, -, hi⟩
      rcases h with h | h | h
      · exact h hp
      · simp [he] at h
      · simp [hi] at h
  · intro s die mhz
    rw [exec_clockStep]
    refine ⟨fun h1 h2 h3 h4 => by rw [if_pos ⟨h1, h2, h3, h4⟩], fun h => ?_⟩
    rw [if_neg]
    rintro ⟨h1, h2, h3, h4⟩
    rcases h with h | h | h | h
    · omega
    · omega
    · exact h h3
    · exact Bool.false_ne_true (h4.symm.trans h)
  · intro s die hdie
    refine congrArg (fun ls => Host.Outcome.next { s with
      trips := modAt s.trips die fun _ => true, clocks := modAt s.clocks die fun _ => 1200, launches := ls }) ?_
    refine List.map_congr_left fun l _ => ?_
    by_cases hd : (l.depots.any fun d => d / 9 == die) = true
    · rw [if_pos hd, if_pos hd, resetRates_eq, tripped_of_trip hdie _ hd]
      rfl
    · rw [if_neg hd, if_neg hd]
  · intro s die
    refine congrArg (fun ls => Host.Outcome.next { s with
      trips := modAt s.trips die fun _ => false, clocks := modAt s.clocks die fun _ => 2400, launches := ls }) ?_
    refine List.map_congr_left fun l _ => ?_
    rw [resetRates_eq, tripped_of_clear]

end Sys2Proof.Regions
end

section
/-! SUPPORT. Doorbells, registers, the dispatcher and the records COPY, FENCE and INVAL (R352 to R359, R386 to R389). -/

namespace Sys2Proof.Queues

open Machine Safety Laws

/-! Doorbells and registers (R386 to R389). -/

theorem seesQueue_iff {s : State} {fn q : Nat} :
    seesQueue s fn q = true ↔ q < 16384 ∧ (fn = 0 ∨ (queueOf s q).part + 1 = fn) := by
  simp only [seesQueue, Bool.and_eq_true, Bool.or_eq_true, decide_eq_true_eq, beq_iff_eq]

theorem ringSize_eq (q : Queue) : ringSize q = 2 ^ (min q.logn 11 + 4) := Nat.one_shiftLeft _

theorem exec_doorbell (s : State) (fn q : Nat) (v : BitVec 64) :
    exec (.doorbell ⟨fn, q⟩ v) s =
      if (s.dev = .ready ∨ s.dev = .recovering) ∧ seesQueue s fn q = true then
        if (v.setWidth 32 - (queueOf s q).head).toNat ≤ 2 ^ (min (queueOf s q).logn 11 + 4) then
          .next (modQueue s q fun x => rewait { x with tail := v.setWidth 32 })
        else .next (logEntry (modQueue s q fun x => { x with err := true })
          { kind := 1, part := (queueOf s q).part, queue := q, lslot := 0, value := v, user := 0 })
      else .next s := by
  have hg : ((s.dev != .ready && s.dev != .recovering) || !seesQueue s fn q) = true ↔
      ¬((s.dev = .ready ∨ s.dev = .recovering) ∧ seesQueue s fn q = true) := by
    simp only [Bool.or_eq_true, Bool.and_eq_true, bne_iff_ne, Bool.not_eq_true', not_and_or, not_or, Bool.not_eq_true, ne_eq]
  dsimp only [exec, execDoorbell]
  simp only [hg, ite_not, ringSize_eq]

/-- A write of a queue's word 0, by a function that sees the queue. -/
theorem exec_registerWrite_queue (s : State) (fn q : Nat) (v : BitVec 64) :
    exec (.registerWrite fn ⟨0x100000 + 32 * q, 8⟩ v) s =
      if seesQueue s fn q = true then
        .next (modQueue s q fun x => rewait { x with en := bit v.toNat 0, pause := bit v.toNat 4, err := x.err && !bit v.toNat 6 })
      else .next s := by
  have halign : ((8 : Nat) != 8 || (0x100000 + 32 * q) % 8 != 0) = false := by
    simp only [bne_self_eq_false, Bool.false_or, bne_eq_false_iff_eq]
    omega
  have hlow : decide (0x100000 ≤ 0x100000 + 32 * q) = true := decide_eq_true (by omega)
  have hq : (0x100000 + 32 * q - 0x100000) / 32 = q := by omega
  have hw : (0x100000 + 32 * q - 0x100000) / 8 % 4 = 0 := by omega
  dsimp only [exec, execRegisterWrite]
  simp only [halign, hlow, hq, hw, Bool.false_eq_true, if_false, if_true]
  rfl

theorem exec_registerWrite_narrow {s : State} {fn o n : Nat} {v : BitVec 64} (h : o % 8 ≠ 0 ∨ n ≠ 8) :
    exec (.registerWrite fn ⟨o, n⟩ v) s = .next s := by
  dsimp only [exec, execRegisterWrite]
  rw [if_pos]
  simpa only [Bool.or_eq_true, bne_iff_ne] using h.symm

theorem exec_registerWrite_hoplog {s : State} {d : Nat} {v : BitVec 64} (hd : d < 36) :
    exec (.registerWrite 0 ⟨0x2200 + 8 * d, 8⟩ v) s = exec (.hoplogClear d v) s := by
  have halign : ((8 : Nat) != 8 || (0x2200 + 8 * d) % 8 != 0) = false := by
    simp only [bne_self_eq_false, Bool.false_or, bne_eq_false_iff_eq]
    omega
  have hlow : decide (0x100000 ≤ 0x2200 + 8 * d) = false := decide_eq_false (by omega)
  have hin : (decide (0x2200 ≤ 0x2200 + 8 * d) && decide (0x2200 + 8 * d < 0x2200 + 8 * 36)) = true := by
    simp only [Bool.and_eq_true, decide_eq_true_eq]
    omega
  have hi : (0x2200 + 8 * d - 0x2200) / 8 = d := by omega
  dsimp only [exec, execRegisterWrite, execHoplogClear]
  rw [halign, hlow, hin, hi]
  rfl

/-! The dispatcher (R355, R359). -/

theorem pollWaits_eq (s : State) (q : Queue) : pollWaits s q = ((nextRecord s q).map fun r =>
    if pollFinds s q then { q with hostOk := true, hb := unionNat q.hb (waitHb s (hostWaits r)) } else q).getD q := by
  unfold pollWaits
  cases pollFinds s q <;> cases nextRecord s q <;> rfl

/-- A record taken by DISPATCH, with the queues as their counters then stand. -/
def dispatched (s : State) (p : Nat) (w : Queue) (r : Rec) (queues : List Queue) : State :=
  let s2 := modQueue { s with rotation := (p + 1) % 8, queues } w.q fun q => takeRecord q r
  if r.bad then finishRecord s2 w.q r (plainDone 0x80 0) [] else s2

theorem exec_dispatch {s : State} {p : Nat} {w : Queue} {r : Rec} (hp : nextPart s = some p)
    (hw : chosen ((contenders s p).map fun q => { q with cnt := q.cnt + queueWeight q }) = some w) (hr : nextRecord s w = some r) :
    let raised := (contenders s p).map fun q => { q with cnt := q.cnt + queueWeight q }
    let total := ((contenders s p).map queueWeight).sum
    let s2 := modQueue { s with
      rotation := (p + 1) % 8
      queues := s.queues.map fun q => ((raised.find? fun x => x.q == q.q).map fun x =>
        if x.q = w.q then { x with cnt := x.cnt - total } else x).getD q } w.q fun q => takeRecord q r
    exec .dispatch s = .next (if r.bad then finishRecord s2 w.q r (plainDone 0x80 0) [] else s2) := by
  dsimp only
  dsimp only [exec, execDispatch]
  simp only [hp, hw, hr]
  refine congrArg (fun queues => Host.Outcome.next (dispatched s p w r queues)) (List.map_congr_left fun q _ => ?_)
  split
  next x hx => simp only [hx, Option.map_some, Option.getD_some, beq_iff_eq]
  next hx => simp only [hx, Option.map_none, Option.getD_none]

theorem exec_prioWeight (s : State) (q part prio weight : Nat) :
    exec (.queuePrioWeightChange q part prio weight) s = .next (modQueue s q fun x =>
      { x with part := part % 8, prio := prio % 4, weight := weight % 2 ^ 16,
               cnt := if x.prio = prio % 4 ∧ x.weight = weight % 2 ^ 16 then x.cnt else 0 }) := by
  have h3 : low 3 part = part % 8 := rfl
  have h2 : low 2 prio = prio % 4 := rfl
  have h16 : low 16 weight = weight % 2 ^ 16 := rfl
  dsimp only [exec, execQueuePrioWeightChange]
  simp only [h3, h2, h16, Bool.and_eq_true, beq_iff_eq]

/-! Records (R356). -/

section
variable {s : State} {q : Nat} {r : Rec}

theorem runningKind_some {k : Nat} (h : (queueOf s q).running = some r ∧ r.kind = k) : runningKind s q k = some r := by
  unfold runningKind
  rw [h.1]
  exact if_pos (beq_iff_eq.2 h.2)

theorem exec_fence (h : (queueOf s q).running = some r ∧ r.kind = 3) :
    exec (.fence q) s = .next (finishRecord s q r (plainDone 0 0) []) := by
  dsimp only [exec, execFence]
  rw [runningKind_some h]

section
variable {src dst : List (Nat × Nat × Nat)} {u : UnitCheck} (h : (queueOf s q).running = some r ∧ r.kind = 2)
include h

theorem exec_copyRecord (hs : copyEnd s (recordSetting s q r) r.body0 r.body2 ⟨true, false⟩ = .ok src)
    (hd : copyEnd s (recordSetting s q r) r.body1 r.body2 ⟨false, true⟩ = .ok dst) :
    exec (.copyRecord q) s =
      if rangeFoes s (recordSetting s q r).part (copyRange r.body0 r.body2 1 ++ copyRange r.body1 r.body2 2) = [] then
        .next (finishRecord (clearPieces (copyWrite s (bit r.body1 63) dst (copyBytes s (bit r.body0 63) src)) (bit r.body1 63) dst)
          q r (plainDone 0 0) [])
      else .next (finishRecord s q r (plainDone 0x81 0) []) := by
  dsimp only [exec, execCopyRecord]
  simp only [runningKind_some h, hs, hd, Bool.not_eq_true', List.isEmpty_eq_false_iff, ite_not]

/-- What a COPY comes to where one of its ends does not check. -/
def copyFailure (s : State) (q : Nat) (r : Rec) : UnitCheck → Out
  | .trap t => .next (finishRecord s q r (plainDone t.code t.detail) [])
  | .lost _ => .next (finishRecord s q r (plainDone 0x16 0) [])
  | .miss _ _ | .ok _ => .next s


theorem exec_copyRecord_failed (hu : copyEnd s (recordSetting s q r) r.body0 r.body2 ⟨true, false⟩ = .error u ∨
      (∃ src, copyEnd s (recordSetting s q r) r.body0 r.body2 ⟨true, false⟩ = .ok src ∧
        copyEnd s (recordSetting s q r) r.body1 r.body2 ⟨false, true⟩ = .error u)) :
    exec (.copyRecord q) s = copyFailure s q r u := by
  dsimp only [exec, execCopyRecord]
  rcases hu with hu | ⟨src, hs, hu⟩
  · simp only [runningKind_some h, hu]
    cases u <;> rfl
  · simp only [runningKind_some h, hs, hu]
    cases u <;> rfl

end

theorem rangeMapped_iff {part base bytes : Nat} : rangeMapped s part base bytes = true ↔
    ∃ l ∈ s.launches, l.part = part ∧ l.phase ≠ .closed ∧ ∃ t ∈ launchRanges l, meetsRange t.base t.bytes base bytes = true := by
  simp only [rangeMapped, List.any_eq_true, Bool.and_eq_true, beq_iff_eq, bne_iff_ne, ne_eq, and_assoc]

theorem exec_inval (h : (queueOf s q).running = some r ∧ r.kind = 4) (hv : ∀ v ∈ s.invals, v.queue ≠ some q) :
    exec (.inval q) s =
      if r.hostinv = false ∧ rangeMapped s (queueOf s q).part r.body0 r.body1 = true then
        .next (finishRecord s q r (plainDone 0x81 0) [])
      else .next (beginInval { s with nextId := s.nextId + 1 } s.nextId
        (if r.hostinv then .pasid r.pasid r.body0 r.body1 else .part (queueOf s q).part r.body0 r.body1) (some q)) := by
  have hnone : (s.invals.any fun v => v.queue == some q) = false := by
    simpa only [List.any_eq_false, beq_iff_eq] using hv
  dsimp only [exec, execInval]
  simp only [runningKind_some h, hnone, Bool.false_eq_true, if_false, Bool.and_eq_true, Bool.not_eq_true']

end

/-- Settles O50. -/
theorem queuesTakeAndCompleteRecords : Obligations.QueuesTakeAndCompleteRecords := by
  unfold Obligations.QueuesTakeAndCompleteRecords
  intro kind
  refine ⟨?bar, fun _ _ _ _ _ => exec_registerWrite_narrow, fun s v => ⟨rfl, rfl, fun _ => exec_registerWrite_hoplog⟩, ?poll,
    fun _ _ _ _ => exec_dispatch, ?idle, exec_prioWeight, fun _ _ _ => exec_fence, ?copy, ?copyFails, ?inval⟩
  case bar =>
    intro s fn q v
    have hrun := exec_doorbell s fn q v
    have hreg := exec_registerWrite_queue s fn q v
    refine ⟨fun hdev hsees => ?_, fun h => hrun.trans (if_neg ?_), fun h => hreg.trans (if_pos h),
      fun h => hreg.trans (if_neg (by simp [h])), seesQueue_iff⟩
    · rw [if_pos ⟨hdev, hsees⟩] at hrun
      exact ⟨fun h => hrun.trans (if_pos h), fun h => hrun.trans (if_neg (not_le.2 h))⟩
    · rintro ⟨hdev, hsees⟩
      rcases h with ⟨h1, h2⟩ | h
      · exact hdev.elim h1 h2
      · exact Bool.false_ne_true (h.symm.trans hsees)
  case poll =>
    intro s
    dsimp only [exec, execQueueWaitPoll]
    rw [funext (pollWaits_eq s)]
  case idle =>
    intro s h
    dsimp only [exec, execDispatch]
    rw [h]
  case copy =>
    intro s q r src dst h l hs hd foes
    have hrun := exec_copyRecord h hs hd
    exact ⟨fun hf => hrun.trans (if_pos hf), fun hf => hrun.trans (if_neg hf)⟩
  case copyFails =>
    intro s q r u h l hu
    have hrun := exec_copyRecord_failed h hu
    exact ⟨fun t ht => by rw [hrun, ht]; rfl, fun n hn => by rw [hrun, hn]; rfl, fun a b hm => by rw [hrun, hm]; rfl⟩
  case inval =>
    intro s q r h hv mapped
    have hm : rangeMapped s (queueOf s q).part r.body0 r.body1 = true ↔ mapped := rangeMapped_iff
    have hrun := exec_inval h hv
    refine ⟨fun hh hmap => hrun.trans (if_pos ⟨hh, hm.2 hmap⟩), fun hh => hrun.trans (if_neg ?_)⟩
    rintro ⟨hf, hmap⟩
    rcases hh with hh | hh
    · exact Bool.false_ne_true (hf.symm.trans hh)
    · exact hh (hm.1 hmap)

end Sys2Proof.Queues
end

section
/-! SUPPORT. LAUNCH, the seal's waves, ARC_BIND and the end of a launch (R362 to R369, R376, R410). -/

namespace Sys2Proof.Launches

open Machine Safety Laws Completion Traps Queues

/-! LAUNCH (R360, R364). -/

section
variable {s s1 s2 : State} {q : Nat} {r : Rec} {m : Manifest} (hr : (queueOf s q).running = some r ∧ r.kind = 1)
  (hq : ∀ l ∈ s.launches, l.queue = q → l.phase = .closed)
include hr hq

omit hr in
theorem unplaced_queue : (s.launches.any fun l => l.queue == q && placedNow l) = false := by
  simp only [List.any_eq_false, Bool.and_eq_true, beq_iff_eq, placedNow, bne_iff_ne, not_and, not_not, ne_eq]
  exact hq

theorem exec_launch_error {e : LoadErr} (h : loadLaunch s (queueOf s q).part r = .error e) :
    exec (.launch q) s = .next (finishRecord s q r (loadDone e) []) := by
  dsimp only [exec, execLaunch]
  simp only [runningKind_some hr, unplaced_queue hq, Bool.false_eq_true, if_false, h]

theorem exec_launch_overlap {k : Nat} (h : loadLaunch s (queueOf s q).part r = .ok (s1, m)) (hp : r.permissive = false)
    (ho : ownOverlap m.tensors = some k) :
    exec (.launch q) s = .next (finishRecord s1 q r { plainDone 0x17 (errDetail (k, 0x0B)) with moffset := k } []) := by
  dsimp only [exec, execLaunch]
  simp only [runningKind_some hr, unplaced_queue hq, Bool.false_eq_true, if_false, h, hp, ho]
  rfl

theorem exec_launch_allowed (h : loadLaunch s (queueOf s q).part r = .ok (s1, m))
    (ha : r.permissive = true ∨ ownOverlap m.tensors = none) :
    exec (.launch q) s =
      if unplaceable s1 (queueOf s q).part m r.maxfold = true then .next (finishRecord s1 q r (plainDone 0x82 0) [])
      else match routedState s1 with
        | none => .next (modQueue s1 q fun x => { putRecord x r with blocked := true })
        | some s2 => match findPlace s2 (queueOf s q).part m r.maxfold with
          | none => .next (blockLaunch s2 q r m)
          | some (fold, depots) => .next (stageLaunch s2 q r m fold depots) := by
  dsimp only [exec, execLaunch]
  simp only [runningKind_some hr, unplaced_queue hq, Bool.false_eq_true, if_false, h]
  rcases ha with hp | ho
  · rw [hp] <;> rfl
  · rw [ho]
    cases r.permissive <;> rfl

end

/-! The seal (R365). -/

section
variable {s : State} {slot v : Nat} {l : Launch}

theorem vtile_modTile_answered {t : Tile} : (∃ u ∈ l.tiles, u.vtile = v) →
    (t ∈ (modTile l v fun t => { t with answered := true }).tiles ↔
      ∃ u ∈ l.tiles, (if u.vtile = v then { u with answered := true } else u) = t) := by
  rintro ⟨u, hu, huv⟩
  have hany : (l.tiles.any fun t => t.vtile == v) = true := List.any_eq_true.2 ⟨u, hu, beq_iff_eq.2 huv⟩
  unfold modTile
  rw [if_pos hany]
  simp only [List.mem_map, beq_iff_eq]

/-- A tile in STAGING answers. -/
theorem modTile_staging (ht : ∀ t ∈ l.tiles, t.state = .staging) (hv : ∃ t ∈ l.tiles, t.vtile = v) :
    (modTile l v fun t => if t.state == .staging then { t with answered := true } else t) =
      modTile l v fun t => { t with answered := true } := by
  obtain ⟨u, hu, huv⟩ := hv
  have hany : (l.tiles.any fun t => t.vtile == v) = true := List.any_eq_true.2 ⟨u, hu, beq_iff_eq.2 huv⟩
  unfold modTile
  rw [if_pos hany, if_pos hany]
  congr 1
  refine List.map_congr_left fun t hmem => ?_
  simp only [ht t hmem, beq_self_eq_true, if_true]

theorem all_answered (hv : ∃ t ∈ l.tiles, t.vtile = v) :
    ((modTile l v fun t => { t with answered := true }).tiles.all (·.answered)) = true ↔
      ∀ t ∈ l.tiles, t.vtile = v ∨ t.answered = true := by
  simp only [List.all_eq_true, vtile_modTile_answered hv]
  constructor
  · intro h t ht
    by_cases hvt : t.vtile = v
    · exact .inl hvt
    · exact .inr (by simpa only [if_neg hvt] using h _ ⟨t, ht, rfl⟩)
  · rintro h _ ⟨t, ht, rfl⟩
    split
    · rfl
    next hvt => exact (h t ht).resolve_left hvt

theorem exec_sealWave (hl : findLaunch s slot = some l) (hp : l.phase = .staging) (hv : ∃ t ∈ l.tiles, t.vtile = v)
    (ht : ∀ t ∈ l.tiles, t.state = .staging) :
    let l1 := modTile l v fun t => { t with answered := true }
    ∃ t, exec (.sealWave slot v) s = .next t ∧
      findLaunch t slot = some (if ∀ t ∈ l.tiles, t.vtile = v ∨ t.answered = true then { l1 with phase := .sealed } else l1) := by
  have hphase (f : Tile → Tile) : (modTile l v f).phase = l.phase := by
    unfold modTile
    split <;> rfl
  refine ⟨_, rfl, ?_⟩
  rw [findLaunch_modLaunch _ _ _ ?_, hl, Option.map_some, modTile_staging ht hv]
  · simp only [hphase, hp, beq_self_eq_true, Bool.true_and, all_answered hv]
  · intro m
    dsimp only
    split <;> exact modTile_slot _ _ _

/-! The waves and events of a launch (R365, R369, R362). -/

theorem exec_commitWave (hl : findLaunch s slot = some l) :
    exec (.commitWave slot) s = match l.phase, l.staged, l.reconf with
      | .sealed, _, _ => .next (commitLaunch s l)
      | .running, some m, some f => if l.tiles.all (·.answered) then .next (commitMode s l m f) else .next s
      | .running, _, _ => .next (injectSeeds s slot l.seedsLeft)
      | _, _, _ => .next s := by
  dsimp only [exec, execCommitWave]
  simp only [hl] <;> rfl

theorem exec_launchEnd (hl : findLaunch s slot = some l) :
    exec (.launchEnd slot) s = .next (if l.phase = .ended ∨ endDue s l = true then completeLaunch s l else s) := by
  dsimp only [exec, execLaunchEnd]
  simp only [hl, Bool.or_eq_true, beq_iff_eq]

theorem exec_slotRelease (hl : findLaunch s slot = some l) :
    exec (.slotRelease slot) s = if l.phase = .closed then .next { s with
        launches := s.launches.filter fun x => x.slot != slot
        agenda := s.agenda.filter fun p => eventSlot p.act != some slot }
      else .next s := by
  dsimp only [exec, execSlotRelease]
  simp only [hl, bne_iff_ne, ne_eq, ite_not]

end

/-! ARC_BIND (R376, R408, R410). -/

section
variable {s : State} {slot arc : Nat} {l : Launch} {a : ArcDecl} (hl : findLaunch s slot = some l)
  (ha : l.man.arcs.find? (fun a => a.arc == arc) = some a) (hu : unboundArc l a = true)
include hl ha hu

theorem exec_arcBind_within (hk : a.kind = 2) (peer : Option ArcPeer) :
    exec (.arcBind slot arc peer) s = match arcPartner s l a with
      | none => .next s
      | some (o, b) => .next (if a.src = 0x3FFFF then bindPair s o b l a else bindPair s l a o b) := by
  dsimp only [exec, execArcBind]
  simp only [hl, ha, hu, hk, Bool.not_true, Bool.false_eq_true, if_false, beq_self_eq_true, if_true, beq_iff_eq] <;> rfl

theorem exec_arcBind_over (hk : a.kind ≠ 2) (peer : Option ArcPeer) :
    exec (.arcBind slot arc peer) s = .next (bindOver s l a peer) := by
  have hk' : (a.kind == 2) = false := beq_eq_false_iff_ne.2 hk
  dsimp only [exec, execArcBind]
  simp only [hl, ha, hu, hk', Bool.not_true, Bool.false_eq_true, if_false]

omit hu in
theorem bindOver_unrouted (hr : arcRoute s l a = none) (peer : Option ArcPeer) :
    bindOver s l a peer = modLaunch s slot fun l => modArc l arc fun x => { x with bind := .broken 3 } := by
  have harc : a.arc = arc := by simpa using List.find?_some ha
  unfold bindOver
  rw [findLaunch_slot hl, harc]
  split
  · rfl
  · simp_all
  · simp_all

end

theorem bindOver_declare {s : State} {l : Launch} {a : ArcDecl} {e : CommEntry} {plane : Nat} (hr : arcRoute s l a = some (e, plane)) :
    bindOver s l a none = sendFlit s plane e.pkg (.declare (declaration s l a) false) := by
  unfold bindOver
  split <;> simp_all

theorem bindOver_peer {s : State} {l : Launch} {a : ArcDecl} {e : CommEntry} {plane : Nat} (hr : arcRoute s l a = some (e, plane))
    (p : ArcPeer) :
    bindOver s l a (some p) = if otherEnd s l a e p then
      modLaunch s l.slot fun l => modArc l a.arc fun x =>
        bindCross x l a p plane (((s.comms[l.part]?).map fun c => c.cver.toNat).getD 0)
      else s := by
  unfold bindOver
  split
  · simp_all
  · simp_all
  next e' plane' q hr' hq =>
    rw [hr] at hr'
    cases hr'
    cases hq
    rfl

theorem arcRoute_none {s : State} {l : Launch} {a : ArcDecl} {c : Comm} (hc : s.comms[l.part]? = some c)
    (h : ∀ e, c.entries[a.peer / 256]? = some e → planeOf e (a.peer % 256) = none) : arcRoute s l a = none := by
  rw [arcRoute, hc, Option.bind_some]
  cases he : c.entries[a.peer / 256]? with
  | none => rfl
  | some e => rw [Option.bind_some, h e he]; rfl

theorem arcRoute_some {s : State} {l : Launch} {a : ArcDecl} {c : Comm} {e : CommEntry} {plane : Nat} (hc : s.comms[l.part]? = some c)
    (he : c.entries[a.peer / 256]? = some e) (hp : planeOf e (a.peer % 256) = some plane) : arcRoute s l a = some (e, plane) := by
  rw [arcRoute, hc, Option.bind_some, he, Option.bind_some, hp]
  rfl

/-- Settles O51. -/
theorem launchesStageSealAndEnd : Obligations.LaunchesStageSealAndEnd := by
  unfold Obligations.LaunchesStageSealAndEnd
  refine ⟨?launch, ?sealed, ?waves, ?bind⟩
  case launch =>
    intro s q r hr hk hq part
    have hk' := And.intro hr hk
    refine ⟨fun s1 m h ha => ?_, fun s1 m k => exec_launch_overlap hk' hq, exec_launch_error hk' hq, fun e => exec_launch_error hk' hq⟩
    have hrun := exec_launch_allowed hk' hq h ha
    refine ⟨fun hu => hrun.trans (if_pos hu), fun hu => ?_⟩
    rw [if_neg (Bool.eq_false_iff.1 hu)] at hrun
    refine ⟨fun hs => by rw [hrun, hs], fun s2 hs => ⟨fun fold depots hp => ?_, fun hp => ?_⟩⟩
    · rw [hrun, hs]
      dsimp only
      rw [hp]
    · rw [hrun, hs]
      dsimp only
      rw [hp]
  case sealed =>
    intro s slot v l hl hp hv ht l1
    obtain ⟨t, hrun, hfind⟩ := exec_sealWave hl hp hv ht
    exact ⟨fun h => ⟨t, hrun, by rw [hfind, if_pos h]⟩, fun h => ⟨t, hrun, by rw [hfind, if_neg h]⟩⟩
  case waves =>
    intro s slot l hl
    have hcommit := exec_commitWave hl
    have hend := exec_launchEnd hl
    have hrel := exec_slotRelease hl
    refine ⟨fun hp => by rw [hcommit, hp], fun m f hp hm hf ht => ?_, fun hp hs => by rw [hcommit, hp, hs], fun h => by rw [hend, if_pos h],
      fun hp he => ?_, fun h => by rw [hrel, if_pos h], fun h => by rw [hrel, if_neg h]⟩
    · rw [hcommit, hp, hm, hf]
      exact if_pos (List.all_eq_true.2 ht)
    · have hno : ¬(l.phase = .ended ∨ endDue s l = true) := by simp only [hp, he, Bool.false_eq_true, or_self, not_false_eq_true]
      rw [hend, if_neg hno]
  case bind =>
    intro s slot arc l a hl ha hu
    refine ⟨fun peer o b hk hp => by rw [exec_arcBind_within hl ha hu hk, hp], fun peer hk hp => by rw [exec_arcBind_within hl ha hu hk, hp],
      fun c peer hk hc he => ?_, fun c e plane p hk hc he hp => ⟨fun ho => ?_, fun ho => ?_, ?_⟩⟩
    · rw [exec_arcBind_over hl ha hu hk, bindOver_unrouted hl ha (arcRoute_none hc he)]
    · have harc : a.arc = arc := by simpa using List.find?_some ha
      rw [exec_arcBind_over hl ha hu hk, bindOver_peer (arcRoute_some hc he hp), if_pos ho, findLaunch_slot hl, harc]
    · rw [exec_arcBind_over hl ha hu hk, bindOver_peer (arcRoute_some hc he hp), if_neg (by simp only [ho, Bool.false_eq_true, not_false_eq_true])]
    · rw [exec_arcBind_over hl ha hu hk, bindOver_declare (arcRoute_some hc he hp)]

end Sys2Proof.Launches
end

section
/-! SUPPORT. Boot, attestation, telemetry, flits, recovery and resets (R254 to R257, R392 to R402). -/

namespace Sys2Proof.Device

open Machine Safety Laws

/-! Boot, attestation and telemetry (R394 to R396). -/

section
variable {s : State}

theorem exec_bootgo {v : BitVec 64} (hv : bit v.toNat 0 = true) :
    exec (.bootgo v) s = .next (if s.dev = .waitImg ∨ s.dev = .failed then
      pushAlone { s with dev := .loading, failcode := 0 } (.bootImageChecked true) else s) := by
  dsimp only [exec, execBootgo, writeBootgo]
  simp only [hv, Bool.true_and, Bool.or_eq_true, beq_iff_eq]

theorem exec_attestGo {v : BitVec 64} (hv : bit v.toNat 0 = true) (hd : s.dev = .ready ∨ s.dev = .recovering) (hb : s.attBusy = false) :
    exec (.attestGo v) s = .next (pushAlone { s with attBusy := true, attDone := false } .attestReportDone) := by
  dsimp only [exec, execAttestGo, writeAttest]
  simp only [hv, hb, Bool.not_false, Bool.true_and, Bool.or_eq_true, beq_iff_eq, if_pos hd]

theorem exec_bootImageChecked (hd : s.dev = .loading) (fetched : Bool) :
    exec (.bootImageChecked fetched) s =
      if fetched then
        match imageFail (readRun s.bus (low 52 s.bootaddr.toNat) s.bootlen.toNat) with
        | some k => .next { s with dev := .failed, failcode := k }
        | none => .next { s with dev := .init, image := readRun s.bus (low 52 s.bootaddr.toNat) s.bootlen.toNat }
      else .next { s with dev := .failed, failcode := 1 } := by
  have hg : (s.dev != .loading) = false := by rw [hd]; rfl
  dsimp only [exec, execBootImageChecked]
  rw [hg]
  cases fetched <;> rfl

/-- The state that a completed initialisation leaves. -/
theorem exec_bootReady (hd : s.dev = .init) (cfg : BootConfig) :
    exec (.bootReady cfg) s = if cfg.ok then
        .next (writeRoutes { s with
          dev := .ready, cfg := partSettings cfg, budget := (partSettings cfg).budget, epoch := 0, queues := [], rotation := 0
          badnode := s.badnode.mapIdx fun i w => w ||| (cfg.badnode.getD i 0 &&& BitVec.ofNat 64 (badnodeMask i))
          parts := (upTo 8).map fun k => match cfg.parts[k]? with
            | some p => { depots := p.depots, root := p.root, backfill := p.backfill }
            | none => partReset
          ports := s.ports.mapIdx fun i p => { p with up := bit cfg.linkMap i } })
      else .next { s with dev := .failed, failcode := 6 } := by
  have hg : (s.dev != .init) = false := by rw [hd]; rfl
  dsimp only [exec, execBootReady]
  rw [hg]
  cases cfg.ok <;> rfl

theorem exec_attestReportDone (hb : s.attBusy = true) :
    exec .attestReportDone s = .next { s with
      attBusy := false, attDone := true
      report := reportBody s ++ fitBytes 1280 (Config.falconSign (Config.shake256 (reportBody s))) } := by
  dsimp only [exec, execAttestReportDone]
  simp only [hb, Bool.not_true, Bool.false_eq_true, if_false]

theorem telemetryWord_clock {i : Nat} (hs : sensed i = false) (h1 : 32 ≤ i) (h2 : i < 36) (w : Dword) :
    telemetryWord s i w = BitVec.ofNat 64 (s.clocks.getD (i - 32) 0) := by
  have hout : outsideCount i = false := by
    simp only [outsideCount, Bool.or_eq_false_iff, Bool.and_eq_false_iff, decide_eq_false_iff_not]
    omega
  simp only [telemetryWord, hs, hout, h1, h2, decide_true, Bool.and_self, Bool.false_eq_true, if_false, if_true]

theorem telemetryWord_counter {i : Nat} (hs : sensed i = false) (h : i < 32 ∨ 36 ≤ i) (ho : outsideCount i = false) (w : Dword) :
    telemetryWord s i w = w := by
  have hclock : (decide (32 ≤ i) && decide (i < 36)) = false := by
    simp only [Bool.and_eq_false_iff, decide_eq_false_iff_not]
    omega
  simp only [telemetryWord, hs, ho, hclock, Bool.false_eq_true, if_false]

end

/-! Flits (R254, R255). -/

section
variable {s : State} {slot depot port flit word : Nat} {of : FlitOf} {l : Launch}

theorem exec_flit_ignored {corrupt retryBad : Bool} (hl : findLaunch s slot = some l)
    (h : corrupt = false ∨ portExists depot port = false ∨ flitUnderWay l of flit = false) :
    exec (.flitReceive slot of depot port flit word corrupt retryBad) s = .next s := by
  dsimp only [exec, execFlitReceive]
  simp only [hl]
  exact if_pos (by simpa only [Bool.or_eq_true, Bool.not_eq_true', or_assoc] using h)

theorem exec_flit_repaired (hl : findLaunch s slot = some l) (hp : portExists depot port = true) (hf : flitUnderWay l of flit = true) :
    exec (.flitReceive slot of depot port flit word true false) s = .next (countRetry s depot) := by
  dsimp only [exec, execFlitReceive]
  simp only [hl, hp, hf, Bool.not_true, Bool.not_false, Bool.or_self, Bool.false_eq_true, if_false, if_true]

theorem exec_flit_failed (hl : findLaunch s slot = some l) (hp : portExists depot port = true) (hf : flitUnderWay l of flit = true) :
    exec (.flitReceive slot of depot port flit word true true) s = match (generalizing := false) of with
      | .token id => .next (modLaunch (failHop s depot port 0 word) slot fun l =>
          { l with flights := l.flights.map fun p => if p.1 == id then (p.1, corruptToken p.2 flit word) else p })
      | .cargo id => .next (endFault (failHop s depot port (flitClass of (assoc l.cargo id)) word) slot 0x05 3 none)
      | .request _ | .reply _ | .spill _ | .barrier | .control =>
        .next (endFault (failHop s depot port (flitClass of none) word) slot 0x05 3 none) := by
  dsimp only [exec, execFlitReceive]
  simp only [hl, hp, hf, Bool.not_true, Bool.or_self, Bool.false_eq_true, if_false] <;> rfl

end

/-! Recovery (R398 to R400). -/

section
variable {s : State} {slot : Nat} {l : Launch}

theorem inRecovery_eq_false : inRecovery s slot = false ↔ ∀ p ∈ s.recovering, p.1 ≠ slot := by
  simp only [inRecovery, List.any_eq_false, beq_iff_eq, ne_eq]

/-- A recovery begun: the launch's effects stop. -/
theorem beginRecovery_begun (hl : findLaunch s slot = some l) (hp : l.phase ≠ .closed) (hr : ∀ p ∈ s.recovering, p.1 ≠ slot)
    (line : Option Nat) :
    (beginRecovery s slot line).dev = .recovering ∧
      findLaunch (beginRecovery s slot line) slot = some { l with phase := .ended } := by
  have hg : (l.phase == .closed || inRecovery s slot) = false := by
    rw [inRecovery_eq_false.2 hr, beq_eq_false_iff_ne.2 hp]
    rfl
  have hslot := Traps.findLaunch_slot hl
  unfold beginRecovery
  rw [hl]
  simp only [hg, Bool.false_eq_true, if_false]
  refine ⟨rfl, ?_⟩
  subst hslot
  exact findLaunch_setLaunch (l := { l with phase := .ended }) hl

theorem exec_recovery_owned (hr : ∀ p ∈ s.recovering, p.1 ≠ slot) :
    exec (.recovery (.owned slot)) s = .next (beginRecovery s slot none) := by
  have hin := inRecovery_eq_false.2 hr
  dsimp only [exec, execRecovery]
  cases h : s.recovering with
  | nil => rfl
  | cons p rest =>
    have hne : (p.1 == slot) = false := beq_eq_false_iff_ne.2 (hr p (h ▸ List.mem_cons_self))
    simp only [List.head?_cons, hne, hin, Bool.false_eq_true, if_false]

theorem exec_recovery_due {line : Option Nat} {rest : List (Nat × Option Nat)} (hr : s.recovering = (slot, line) :: rest) :
    exec (.recovery (.owned slot)) s = .next { recoverLaunch s slot line with
      recovering := rest, dev := if rest = [] then .ready else .recovering } := by
  dsimp only [exec, execRecovery]
  simp only [hr, List.head?_cons, beq_self_eq_true, if_true, endRecovery, List.drop_one, List.tail_cons, List.isEmpty_iff]

end

/-! Resets (R402). -/

section
variable {s : State} {l : Launch}

theorem leaveRegion_keeps (s : State) (l : Launch) :
    (leaveRegion s l).launches = s.launches ∧ (leaveRegion s l).mem = s.mem ∧ (leaveRegion s l).bus = s.bus := by
  unfold leaveRegion
  generalize l.tiles = ts
  induction ts generalizing s with
  | nil => exact ⟨rfl, rfl, rfl⟩
  | cons t ts ih =>
    obtain ⟨hl, hm, hb⟩ := ih (leaveTile s l t)
    exact ⟨hl.trans rfl, hm.trans rfl, hb.trans rfl⟩

theorem releaseLaunch_memories (s : State) (l : Launch) :
    (releaseLaunch s l).mem = s.mem ∧ (releaseLaunch s l).bus = s.bus := by
  obtain ⟨-, hm, hb⟩ := leaveRegion_keeps s l
  exact ⟨hm, hb⟩

/-- A launch that stands after a release stood before it, on another slot. -/
theorem standing_releaseLaunch {x : Launch} (hx : x ∈ (releaseLaunch s l).launches) (hp : x.phase ≠ .closed) :
    x.slot ≠ l.slot ∧ ∃ y ∈ s.launches, y.slot = x.slot ∧ y.part = x.part ∧ y.phase = x.phase := by
  obtain ⟨hl, -, -⟩ := leaveRegion_keeps s l
  change x ∈ (endArcs (leaveRegion s l) l.slot).launches.map _ at hx
  obtain ⟨z, hz, rfl⟩ := List.mem_map.1 hx
  by_cases hs : z.slot = l.slot
  · rw [if_pos (beq_iff_eq.2 hs)] at hp
    exact absurd rfl hp
  · rw [if_neg (by simpa using hs)] at hp ⊢
    refine ⟨hs, ?_⟩
    obtain ⟨y, hy, rfl⟩ := List.mem_map.1 hz
    rw [hl] at hy
    refine ⟨y, hy, ?_⟩
    split <;> exact ⟨rfl, rfl, rfl⟩

/-- A launch that stands after several releases stood before them, on none of their slots. -/
theorem standing_releases (ls : List Launch) {x : Launch} (hx : x ∈ (ls.foldl releaseLaunch s).launches) (hp : x.phase ≠ .closed) :
    (∀ l ∈ ls, x.slot ≠ l.slot) ∧ ∃ y ∈ s.launches, y.slot = x.slot ∧ y.part = x.part ∧ y.phase = x.phase := by
  induction ls generalizing s with
  | nil => exact ⟨fun l hl => absurd hl List.not_mem_nil, x, hx, rfl, rfl, rfl⟩
  | cons l ls ih =>
    obtain ⟨hslots, y, hy, hys, hyp, hyphase⟩ := ih hx
    obtain ⟨hne, z, hz, hzs, hzp, hzphase⟩ := standing_releaseLaunch hy (hyphase ▸ hp)
    refine ⟨?_, z, hz, hzs.trans hys, hzp.trans hyp, hzphase.trans hyphase⟩
    rintro m hm
    rcases List.mem_cons.1 hm with rfl | hm
    · exact hys ▸ hne
    · exact hslots m hm

theorem releases_memories (ls : List Launch) (s : State) :
    (ls.foldl releaseLaunch s).mem = s.mem ∧ (ls.foldl releaseLaunch s).bus = s.bus := by
  induction ls generalizing s with
  | nil => exact ⟨rfl, rfl⟩
  | cons l ls ih =>
    obtain ⟨hm, hb⟩ := ih (releaseLaunch s l)
    obtain ⟨hm', hb'⟩ := releaseLaunch_memories s l
    exact ⟨hm.trans hm', hb.trans hb'⟩

end

theorem partRecovers_eq_true {s : State} {part : Nat} :
    partRecovers s part = true ↔ ∃ l ∈ s.launches, l.part = part ∧ ∃ p ∈ s.recovering, p.1 = l.slot := by
  simp only [partRecovers, inRecovery, List.any_eq_true, Bool.and_eq_true, beq_iff_eq]

/-- A VF FLR outside recoveries stops the partition's launches and resets its queues. -/
theorem exec_vfFlr {s : State} {part : Nat} (hr : partRecovers s part = false) :
    ∃ t, exec (.vfFlr part) s = .next t ∧ (∀ l ∈ t.launches, l.part = part → l.phase = .closed) ∧
      t.mem = s.mem ∧ t.bus = s.bus ∧ ∀ q ∈ t.queues, q.part = part →
        q.en = false ∧ q.head = 0 ∧ q.tail = 0 ∧ q.done = 0 ∧ q.running = none ∧ q.blocked = false ∧ q.headList = [] := by
  dsimp only [exec, execVfFlr]
  simp only [hr, Bool.false_eq_true, if_false]
  refine ⟨_, rfl, ?_, (releases_memories _ s).1, (releases_memories _ s).2, ?_⟩
  · intro x hx hpart
    by_contra hp
    obtain ⟨hslots, y, hy, hys, hyp, hyphase⟩ := standing_releases _ hx hp
    refine hslots y (List.mem_filter.2 ⟨hy, ?_⟩) hys.symm
    simp only [hyp, hpart, hyphase, beq_self_eq_true, Bool.true_and, bne_iff_ne]
    exact hp
  · intro q hq hpart
    obtain ⟨q0, -, rfl⟩ := List.mem_map.1 hq
    by_cases h : q0.part = part
    · rw [if_pos (beq_iff_eq.2 h)]
      exact ⟨rfl, rfl, rfl, rfl, rfl, rfl, rfl⟩
    · rw [if_neg (by simpa using h)] at hpart
      exact absurd hpart h

/-- Settles O53. -/
theorem deviceBootsReportsAndResets : Obligations.DeviceBootsReportsAndResets := by
  unfold Obligations.DeviceBootsReportsAndResets
  refine ⟨?go, ?image, ?ready, fun _ => exec_attestReportDone, ?telemetry, ?flit, ?hoplog, ?recovery, ?waits, ?flr, ?reset⟩
  case go =>
    intro s v hv
    have hrun := exec_bootgo (s := s) hv
    exact ⟨fun h => by rw [hrun, if_pos h], fun h1 h2 => by rw [hrun, if_neg (not_or.2 ⟨h1, h2⟩)], exec_attestGo hv⟩
  case image =>
    intro s hd
    refine ⟨exec_bootImageChecked hd false, fun hi => ?_, fun k hi => ?_⟩
    · rw [exec_bootImageChecked hd, if_pos rfl, show low 52 s.bootaddr.toNat = s.bootaddr.toNat % 2 ^ 52 from rfl, hi]
    · rw [exec_bootImageChecked hd, if_pos rfl, show low 52 s.bootaddr.toNat = s.bootaddr.toNat % 2 ^ 52 from rfl, hi]
  case ready =>
    intro s cfg hd
    have hrun := exec_bootReady hd cfg
    refine ⟨fun h => ?_, fun h => ?_⟩
    · rw [h] at hrun
      exact hrun
    · rw [h] at hrun
      exact ⟨_, hrun, rfl, rfl, rfl, rfl, rfl, rfl, rfl, rfl, rfl, rfl, rfl, rfl⟩
  case telemetry =>
    exact fun s => ⟨rfl, fun i w hs => ⟨fun h1 h2 => telemetryWord_clock hs h1 h2 w, fun h ho => telemetryWord_counter hs h ho w⟩⟩
  case flit =>
    intro s slot of depot port flit word retryBad l hl
    refine ⟨exec_flit_ignored hl (.inl rfl), fun h => exec_flit_ignored hl (.inr h), fun hp hf => ?_⟩
    have hrun := exec_flit_failed (word := word) hl hp hf
    refine ⟨?_, fun id hof => ?_, fun id g hof hg => ?_, fun hof => ?_⟩
    · rw [exec_flit_repaired hl hp hf, countRetry]
      simp only [beq_iff_eq]
      rfl
    · rw [hrun, hof]
      simp only [beq_iff_eq]
      rfl
    · rw [hrun, hof]
      dsimp only
      rw [hg]
      rfl
    · rw [hrun]
      cases of with
      | token id => exact absurd rfl (hof id).1
      | cargo id => exact absurd rfl (hof id).2
      | request _ | reply _ | spill _ | barrier | control => rfl
  case hoplog =>
    intro s depot v
    have hrun : exec (.hoplogClear depot v) s = .next (if bit v.toNat 63 then { s with hoplog := modAt s.hoplog depot fun _ => 0 } else s) := rfl
    exact ⟨fun h => by rw [hrun, h]; rfl, fun h => by rw [hrun, h]; rfl⟩
  case recovery =>
    intro s slot n v w
    refine ⟨rfl, fun l hl hp hr => ?_, fun line rest => exec_recovery_due, rfl, rfl, ?_⟩
    · obtain ⟨hdev, hfind⟩ := beginRecovery_begun hl hp hr none
      exact ⟨exec_recovery_owned hr, hdev, _, hfind, rfl⟩
    · dsimp only [exec, execRecovery]
      rw [List.foldl_map]
  case waits =>
    intro s part h
    dsimp only [exec, execVfFlr]
    rw [if_pos (partRecovers_eq_true.2 h)]
  case flr =>
    intro s part h
    refine exec_vfFlr (Bool.eq_false_iff.2 fun hr => ?_)
    obtain ⟨l, hl, hpart, p, hp, hps⟩ := partRecovers_eq_true.1 hr
    exact h l hl hpart p hp hps
  case reset =>
    exact fun s => ⟨_, _, rfl, rfl, rfl, rfl, rfl, rfl⟩

end Sys2Proof.Device
end

section
/-! SUPPORT. Rounding depends on the value of a magnitude alone, and is exact just on the values that a format holds
(R49, R50). -/

namespace Sys2Proof.Rounding

open Machine NumberFormats

/-- The number that a quotient with an exponent stands for. -/
def ratioValue (num den : Nat) (e : Int) : ℚ := num / den * 2 ^ e

/-- Magnitudes that rounding cannot tell apart. -/
structure SameMag (m m' : Mag) : Prop where
  floorLog2_eq : floorLog2 m = floorLog2 m'
  floorMul_eq : ∀ k, floorMul m k = floorMul m' k

theorem SameMag.roundAt_eq {m m' : Mag} (h : SameMag m m') (u : Int) (neg : Bool) (rnd : Rnd) (r : Nat) :
    roundAt m u neg rnd r = roundAt m' u neg rnd r := by
  simp only [roundAt, h.floorMul_eq]

theorem SameMag.roundMag_eq {m m' : Mag} (h : SameMag m m') (f : Fmt) (neg : Bool) (rnd : Rnd) (sat : Bool) (r : Nat) :
    roundMag f neg m rnd sat r = roundMag f neg m' rnd sat r := by
  simp only [roundMag, h.floorLog2_eq, h.roundAt_eq]

/-! The floor and the logarithm of a quotient. -/

theorem div_eq_floor (a b : Nat) (hb : b ≠ 0) : a / b = ⌊(a : ℚ) / b⌋₊ ∧ (a % b == 0) = decide ((a : ℚ) / b = ⌊(a : ℚ) / b⌋₊) := by
  have hfloor : ⌊(a : ℚ) / b⌋₊ = a / b := Nat.floor_div_eq_div a b
  have hbq : (b : ℚ) ≠ 0 := Nat.cast_ne_zero.2 hb
  refine ⟨hfloor.symm, ?_⟩
  rw [hfloor, Bool.eq_iff_iff, beq_iff_eq, decide_eq_true_iff, div_eq_iff hbq, ← Nat.cast_mul, Nat.cast_inj, ← Nat.dvd_iff_mod_eq_zero]
  exact ⟨fun h => (Nat.div_mul_cancel h).symm, fun h => Dvd.intro_left _ h.symm⟩

/-- R49's scaled floor, and whether it is exact, by the value alone. -/
theorem floorMul_ratio (num den : Nat) (hd : den ≠ 0) (e k : Int) :
    floorMul (.ratio num den e) k =
      (⌊ratioValue num den e * 2 ^ k⌋₊, decide (ratioValue num den e * 2 ^ k = ⌊ratioValue num den e * 2 ^ k⌋₊)) := by
  have hv : ratioValue num den e * 2 ^ k = num / den * 2 ^ (e + k) := by
    rw [ratioValue, mul_assoc, ← zpow_add₀ two_ne_zero]
  rw [hv]
  unfold floorMul
  dsimp only
  cases e + k with
  | ofNat s =>
    have hq : (num : ℚ) / den * 2 ^ (Int.ofNat s) = ((num <<< s : Nat) : ℚ) / den := by
      rw [Nat.shiftLeft_eq, Int.ofNat_eq_natCast, zpow_natCast]
      push_cast
      ring
    obtain ⟨hdiv, hmod⟩ := div_eq_floor (num <<< s) den hd
    rw [hq]
    exact Prod.ext hdiv hmod
  | negSucc s =>
    have hq : (num : ℚ) / den * 2 ^ (Int.negSucc s) = (num : ℚ) / ((den <<< (s + 1) : Nat) : ℚ) := by
      rw [Nat.shiftLeft_eq, zpow_negSucc]
      push_cast
      field_simp
    have hden : den <<< (s + 1) ≠ 0 := by
      rw [Nat.shiftLeft_eq]
      positivity
    obtain ⟨hdiv, hmod⟩ := div_eq_floor num (den <<< (s + 1)) hden
    rw [hq, ← hmod, ← hdiv]
    dsimp only
    split
    next hlt =>
      have hnum : num < den <<< (s + 1) := by
        rw [Nat.shiftLeft_eq]
        by_cases h0 : num = 0
        · rw [h0]
          positivity
        · calc num
            _ < 2 ^ (s + 1) := (Nat.log2_lt h0).1 hlt
            _ ≤ den * 2 ^ (s + 1) := Nat.le_mul_of_pos_left _ (Nat.pos_of_ne_zero hd)
      rw [Nat.div_eq_of_lt hnum, Nat.mod_eq_of_lt hnum]
    next => rfl

theorem log2_bounds {n : Nat} (hn : n ≠ 0) : (2 : ℚ) ^ Nat.log2 n ≤ n ∧ (n : ℚ) < 2 ^ (Nat.log2 n + 1) := by
  constructor
  · exact_mod_cast Nat.log2_self_le hn
  · exact_mod_cast Nat.lt_log2_self

theorem floorLog2_eq {num den : Nat} (hd : den ≠ 0) (e : Int) :
    floorLog2 (.ratio num den e) = (if (num : ℚ) / den < 2 ^ ((Nat.log2 num : Int) - Nat.log2 den) then
      (Nat.log2 num : Int) - Nat.log2 den - 1 else (Nat.log2 num : Int) - Nat.log2 den) + e := by
  have hden : (0 : ℚ) < den := Nat.cast_pos.2 (Nat.pos_of_ne_zero hd)
  unfold floorLog2
  dsimp only
  generalize (Nat.log2 num : Int) - Nat.log2 den = d
  congr 1
  refine if_congr ?_ rfl rfl
  rw [div_lt_iff₀ hden]
  cases d with
  | ofNat k =>
    rw [decide_eq_true_iff, Int.ofNat_eq_natCast, zpow_natCast, Nat.shiftLeft_eq, ← Nat.cast_lt (α := ℚ)]
    push_cast
    rw [mul_comm]
  | negSucc k =>
    rw [decide_eq_true_iff, zpow_negSucc, Nat.shiftLeft_eq, ← Nat.cast_lt (α := ℚ), inv_mul_eq_div, lt_div_iff₀ (by positivity)]
    push_cast
    rfl

/-- R49's exponent is that of the value. -/
theorem floorLog2_ratio {num den : Nat} (hn : num ≠ 0) (hd : den ≠ 0) (e : Int) :
    (2 : ℚ) ^ floorLog2 (.ratio num den e) ≤ ratioValue num den e ∧
      ratioValue num den e < 2 ^ (floorLog2 (.ratio num den e) + 1) := by
  obtain ⟨hn1, hn2⟩ := log2_bounds hn
  obtain ⟨hd1, hd2⟩ := log2_bounds hd
  have hden : (0 : ℚ) < den := Nat.cast_pos.2 (Nat.pos_of_ne_zero hd)
  have hlow : (2 : ℚ) ^ ((Nat.log2 num : Int) - Nat.log2 den - 1) ≤ num / den := by
    rw [le_div_iff₀ hden]
    calc (2 : ℚ) ^ ((Nat.log2 num : Int) - Nat.log2 den - 1) * den
      _ ≤ 2 ^ ((Nat.log2 num : Int) - Nat.log2 den - 1) * 2 ^ ((Nat.log2 den + 1 : Nat) : Int) :=
        mul_le_mul_of_nonneg_left (by rw [zpow_natCast]; exact hd2.le) (by positivity)
      _ = 2 ^ Nat.log2 num := by rw [← zpow_add₀ two_ne_zero, ← zpow_natCast]; congr 1; push_cast; ring
      _ ≤ num := hn1
  have hhigh : (num : ℚ) / den < 2 ^ ((Nat.log2 num : Int) - Nat.log2 den + 1) := by
    rw [div_lt_iff₀ hden]
    calc (num : ℚ)
      _ < 2 ^ (Nat.log2 num + 1) := hn2
      _ = 2 ^ ((Nat.log2 num : Int) - Nat.log2 den + 1) * 2 ^ Nat.log2 den := by
        rw [← zpow_natCast, ← zpow_natCast, ← zpow_add₀ two_ne_zero]; congr 1; push_cast; ring
      _ ≤ 2 ^ ((Nat.log2 num : Int) - Nat.log2 den + 1) * den := mul_le_mul_of_nonneg_left hd1 (by positivity)
  have hscale (z : Int) : (2 : ℚ) ^ (z + e) = 2 ^ z * 2 ^ e := zpow_add₀ two_ne_zero _ _
  have he : (0 : ℚ) < 2 ^ e := by positivity
  rw [floorLog2_eq hd, add_right_comm, hscale, hscale, ratioValue, mul_le_mul_iff_left₀ he, mul_lt_mul_iff_left₀ he]
  split
  next hlt => exact ⟨hlow, by rw [sub_add_cancel]; exact hlt⟩
  next hle => exact ⟨not_lt.1 hle, hhigh⟩

theorem zpow_two_unique {q : ℚ} {a b : Int} (ha : (2 : ℚ) ^ a ≤ q ∧ q < 2 ^ (a + 1)) (hb : (2 : ℚ) ^ b ≤ q ∧ q < 2 ^ (b + 1)) : a = b := by
  have h1 := (zpow_lt_zpow_iff_right₀ (one_lt_two (α := ℚ))).1 (ha.1.trans_lt hb.2)
  have h2 := (zpow_lt_zpow_iff_right₀ (one_lt_two (α := ℚ))).1 (hb.1.trans_lt ha.2)
  omega

/-- Quotients of one value are rounded alike. -/
theorem sameMag_of_value {num den num' den' : Nat} {e e' : Int} (hn : num ≠ 0) (hd : den ≠ 0) (hn' : num' ≠ 0) (hd' : den' ≠ 0)
    (h : ratioValue num den e = ratioValue num' den' e') : SameMag (.ratio num den e) (.ratio num' den' e') := by
  refine ⟨zpow_two_unique (floorLog2_ratio hn hd e) (h ▸ floorLog2_ratio hn' hd' e'), fun k => ?_⟩
  rw [floorMul_ratio _ _ hd, floorMul_ratio _ _ hd', h]

end Sys2Proof.Rounding
end

section
/-! SUPPORT. Integer square roots, and roots of squares (R163, R164). -/

namespace Sys2Proof.Rounding

open Machine NumberFormats

/-- Bits tried from the top close in on the root. -/
theorem isqrtBits_spec (n k r : Nat) (h1 : r * r ≤ n) (h2 : n < (r + 2 ^ k) * (r + 2 ^ k)) :
    isqrtBits n k r * isqrtBits n k r ≤ n ∧ n < (isqrtBits n k r + 1) * (isqrtBits n k r + 1) := by
  induction k generalizing r with
  | zero => exact ⟨h1, h2⟩
  | succ k ih =>
    rw [isqrtBits, Nat.one_shiftLeft]
    split
    next h => exact ih (r + 2 ^ k) h (by rw [add_assoc, ← two_mul, ← pow_succ']; exact h2)
    next h => exact ih r h1 (not_le.1 h)

theorem isqrt_eq_sqrt (n : Nat) : isqrt n = Nat.sqrt n := by
  have hstart : n < (0 + 2 ^ (Nat.log2 n / 2 + 1)) * (0 + 2 ^ (Nat.log2 n / 2 + 1)) := by
    rw [zero_add, ← pow_add]
    exact Nat.lt_log2_self.trans_le (Nat.pow_le_pow_right two_pos (by omega))
  obtain ⟨h1, h2⟩ := isqrtBits_spec n _ 0 (by omega) hstart
  exact Nat.eq_sqrt.2 ⟨h1, h2⟩

theorem isqrt_square (k : Nat) : isqrt (k * k) = k := by rw [isqrt_eq_sqrt, Nat.sqrt_eq]

/-- A root of which the low bits are dropped. -/
theorem isqrt_square_shift (k j : Nat) : isqrt ((k * k) >>> (2 * j)) = k / 2 ^ j := by
  have hp : 2 ^ (2 * j) = 2 ^ j * 2 ^ j := by rw [two_mul, pow_add]
  have hpos := Nat.two_pow_pos j
  rw [isqrt_eq_sqrt, Nat.shiftRight_eq_div_pow, hp, eq_comm, Nat.eq_sqrt]
  have hle := Nat.div_mul_le_self k (2 ^ j)
  have hlt := Nat.lt_div_mul_add (a := k) hpos
  constructor
  · rw [Nat.le_div_iff_mul_le (by positivity)]
    calc k / 2 ^ j * (k / 2 ^ j) * (2 ^ j * 2 ^ j)
      _ = (k / 2 ^ j * 2 ^ j) * (k / 2 ^ j * 2 ^ j) := by ring
      _ ≤ k * k := Nat.mul_le_mul hle hle
  · rw [Nat.div_lt_iff_lt_mul (by positivity)]
    calc k * k
      _ < (k / 2 ^ j * 2 ^ j + 2 ^ j) * (k / 2 ^ j * 2 ^ j + 2 ^ j) := Nat.mul_lt_mul'' hlt hlt
      _ = (k / 2 ^ j + 1) * (k / 2 ^ j + 1) * (2 ^ j * 2 ^ j) := by ring

theorem log2_square_div {k : Nat} (hk : k ≠ 0) : Nat.log2 (k * k) / 2 = Nat.log2 k := by
  have hkk : k * k ≠ 0 := mul_ne_zero hk hk
  have h1 : 2 * Nat.log2 k ≤ Nat.log2 (k * k) := by
    rw [Nat.le_log2 hkk, two_mul, pow_add]
    exact Nat.mul_le_mul (Nat.log2_self_le hk) (Nat.log2_self_le hk)
  have h2 : Nat.log2 (k * k) < 2 * Nat.log2 k + 2 := by
    rw [Nat.log2_lt hkk, show 2 * Nat.log2 k + 2 = (Nat.log2 k + 1) + (Nat.log2 k + 1) by ring, pow_add]
    exact Nat.mul_lt_mul'' Nat.lt_log2_self Nat.lt_log2_self
  omega

/-- The root of a square is rounded as its base is. -/
theorem sameMag_root {k : Nat} (hk : k ≠ 0) (u : Int) : SameMag (.root (k * k) u) (.ratio k 1 u) := by
  refine ⟨?_, fun z => ?_⟩
  · rw [floorLog2_ratio_one hk, floorLog2, log2_square_div hk]
  · unfold floorMul
    dsimp only
    cases u + z with
    | ofNat s =>
      have hsq : (k * k) <<< (2 * s) = (k <<< s) * (k <<< s) := by
        simp only [Nat.shiftLeft_eq, two_mul, pow_add]
        ring
      simp only [hsq, isqrt_square, Nat.div_one, Nat.mod_one, beq_self_eq_true]
    | negSucc s =>
      have hlog : 2 * (s + 1) > Nat.log2 (k * k) ↔ s + 1 > Nat.log2 k := by
        have := log2_square_div hk
        omega
      have hzero : (k * k == 0) = (k == 0) := by simp [hk]
      have hexact : (k / 2 ^ (s + 1) * (k / 2 ^ (s + 1) * 2 ^ (2 * (s + 1))) == k * k) = (k % 2 ^ (s + 1) == 0) := by
        have hp : k / 2 ^ (s + 1) * (k / 2 ^ (s + 1) * 2 ^ (2 * (s + 1))) =
            (k / 2 ^ (s + 1) * 2 ^ (s + 1)) * (k / 2 ^ (s + 1) * 2 ^ (s + 1)) := by
          rw [two_mul (s + 1), pow_add]
          ring
        have hmod := Nat.div_add_mod' k (2 ^ (s + 1))
        rw [hp, Bool.eq_iff_iff, beq_iff_eq, beq_iff_eq, Nat.mul_self_inj]
        omega
      simp only [hlog, hzero, isqrt_square_shift, Nat.shiftLeft_eq, one_mul, hexact]

end Sys2Proof.Rounding
end

section
/-! SUPPORT. The values that a format holds: what rounds to them, what is rounded exactly, and how they decode
(R42, R49, R50). -/

namespace Sys2Proof.Rounding

open Machine NumberFormats

/-- A finite magnitude of a format other than zero, and the value it stands for. -/
structure Holds (f : Fmt) (n : Nat) (q : ℚ) : Prop where
  ne_zero : n ≠ 0
  le_max : n ≤ fmtMax f
  shift_lt : ulpShift f n + 1 ≤ ones f.expw
  value : (magValue f n : ℚ) * 2 ^ (fmtEmin f - f.frac) = q

theorem ratioValue_one (m : Nat) (e : Int) : ratioValue m 1 e = m * 2 ^ e := by
  rw [ratioValue, Nat.cast_one, div_one]

/-- A magnitude as its significand and exponent. -/
theorem ratioValue_significand (f : Fmt) (n : Nat) :
    ratioValue (significand f n) 1 (fmtEmin f - f.frac + ulpShift f n) = magValue f n * 2 ^ (fmtEmin f - f.frac) := by
  rw [ratioValue_one, magValue, zpow_add₀ two_ne_zero, zpow_natCast]
  push_cast
  ring

section
variable {f : Fmt} {n : Nat} {q : ℚ}

/-- A value that a format holds rounds to its bits. -/
theorem Holds.roundMag_eq (h : Holds f n q) {num den : Nat} {e : Int} (hn : num ≠ 0) (hd : den ≠ 0) (hq : ratioValue num den e = q)
    (s : Bool) (rnd : Rnd) (sat : Bool) {r : Nat} (hr : r < 2 ^ 32) :
    roundMag f s (.ratio num den e) rnd sat r = (n + b2n s * fmtSign f, 0) := by
  have hv : ratioValue num den e = ratioValue (significand f n) 1 (fmtEmin f - f.frac + ulpShift f n) := by
    rw [ratioValue_significand, h.value, hq]
  rw [(sameMag_of_value hn hd (significand_pos h.ne_zero).ne' one_ne_zero hv).roundMag_eq]
  exact roundMag_significand h.ne_zero h.le_max h.shift_lt s rnd sat hr

/-- The magnitude with a significand at an exponent. -/
theorem ulpShift_of_parts {t S : Nat} (ht : t < 2 ^ (f.frac + 1)) (hS : S ≠ 0 → 2 ^ f.frac ≤ t) :
    ulpShift f (S * 2 ^ f.frac + t) = S := by
  have hpos := Nat.two_pow_pos f.frac
  rw [pow_succ] at ht
  rw [ulpShift, Nat.add_comm, Nat.add_mul_div_right _ _ hpos]
  by_cases h0 : S = 0
  · have : t / 2 ^ f.frac < 2 := Nat.div_lt_of_lt_mul (by omega)
    omega
  · have h1 : 1 ≤ t / 2 ^ f.frac := (Nat.one_le_div_iff hpos).2 (hS h0)
    have h2 : t / 2 ^ f.frac < 2 := Nat.div_lt_of_lt_mul (by omega)
    omega

theorem magValue_of_parts {t S : Nat} (ht : t < 2 ^ (f.frac + 1)) (hS : S ≠ 0 → 2 ^ f.frac ≤ t) :
    magValue f (S * 2 ^ f.frac + t) = t * 2 ^ S := by
  rw [magValue, significand, ulpShift_of_parts ht hS, Nat.add_sub_cancel_left]

/-- A significand at an exponent of the format is a magnitude of it. -/
theorem holds_of_parts {t S : Nat} (ht0 : t ≠ 0) (ht : t < 2 ^ (f.frac + 1)) (hS : S ≠ 0 → 2 ^ f.frac ≤ t)
    (hmax : S * 2 ^ f.frac + t ≤ fmtMax f) (hexp : S + 1 ≤ ones f.expw) :
    Holds f (S * 2 ^ f.frac + t) (t * 2 ^ (fmtEmin f + S - f.frac)) := by
  refine ⟨by omega, hmax, by rwa [ulpShift_of_parts ht hS], ?_⟩
  rw [magValue_of_parts ht hS, add_sub_right_comm, zpow_add₀ two_ne_zero, zpow_natCast]
  push_cast
  ring

end

section
variable {f : Fmt} {m : Nat} {e : Int} (hm : m ≠ 0)
include hm

/-- The exponent that R49 rounds at. -/
theorem le_floorLog2 : (2 : ℚ) ^ floorLog2 (.ratio m 1 e) ≤ m * 2 ^ e ∧ (m : ℚ) * 2 ^ e < 2 ^ (floorLog2 (.ratio m 1 e) + 1) := by
  rw [← ratioValue_one]
  exact floorLog2_ratio hm one_ne_zero e

/-- A value that R49 keeps at its last place has a significand of the format. -/
theorem parts_of_multiple {E : Int} {t : Nat} (hE : E = max (floorLog2 (.ratio m 1 e)) (fmtEmin f))
    (hv : (m : ℚ) * 2 ^ e = t * 2 ^ (E - f.frac)) :
    t ≠ 0 ∧ t < 2 ^ (f.frac + 1) ∧ ((E - fmtEmin f).toNat ≠ 0 → 2 ^ f.frac ≤ t) := by
  obtain ⟨h1, h2⟩ := le_floorLog2 (e := e) hm
  have hpos : (0 : ℚ) < 2 ^ (E - f.frac) := by positivity
  have hmq : (0 : ℚ) < m * 2 ^ e := by have := Nat.pos_of_ne_zero hm; positivity
  refine ⟨?_, ?_, fun h => ?_⟩
  · rintro rfl
    rw [Nat.cast_zero, zero_mul] at hv
    exact hmq.ne' hv
  · have hlt : (t : ℚ) * 2 ^ (E - f.frac) < 2 ^ (f.frac + 1) * 2 ^ (E - f.frac) := by
      rw [← hv, ← zpow_natCast, ← zpow_add₀ two_ne_zero]
      refine h2.trans_le (zpow_le_zpow_right₀ one_le_two ?_)
      push_cast
      omega
    exact_mod_cast (mul_lt_mul_iff_left₀ hpos).1 hlt
  · have hle : (2 : ℚ) ^ f.frac * 2 ^ (E - f.frac) ≤ t * 2 ^ (E - f.frac) := by
      rw [← hv, ← zpow_natCast, ← zpow_add₀ two_ne_zero]
      refine le_trans (zpow_le_zpow_right₀ one_le_two ?_) h1
      omega
    exact_mod_cast (mul_le_mul_iff_left₀ hpos).1 hle

theorem holds_of_multiple (hf : IeeeShaped f) {E : Int} {t : Nat} (hE : E = max (floorLog2 (.ratio m 1 e)) (fmtEmin f))
    (hv : (m : ℚ) * 2 ^ e = t * 2 ^ (E - f.frac)) (hmax : (E - fmtEmin f).toNat * 2 ^ f.frac + t ≤ fmtMax f) :
    Holds f ((E - fmtEmin f).toNat * 2 ^ f.frac + t) (m * 2 ^ e) := by
  obtain ⟨ht0, ht, hS⟩ := parts_of_multiple hm hE hv
  have hexp : (E - fmtEmin f).toNat < ones f.expw := by
    rw [fmtMax, if_pos hf.ieee, Nat.shiftLeft_eq] at hmax
    exact lt_of_mul_lt_mul_right (a := 2 ^ f.frac) (by omega) (Nat.zero_le _)
  have hcast : fmtEmin f + ((E - fmtEmin f).toNat : Int) - f.frac = E - f.frac := by omega
  have hholds := holds_of_parts ht0 ht hS hmax hexp
  rwa [hcast, ← hv] at hholds

/-- A number of few enough digits, no lower and no higher than the format goes, is held by it. -/
theorem holds_of_digits (hf : IeeeShaped f) (hdigits : m < 2 ^ (f.frac + 1)) (hlow : fmtEmin f - f.frac ≤ e)
    (hexpw : 2 ≤ ones f.expw)
    (hhigh : Nat.log2 m + e + f.bias < ones f.expw) : ∃ n, Holds f n (m * 2 ^ e) := by
  have hlog := floorLog2_ratio_one hm e
  have hlog2 : Nat.log2 m ≤ f.frac := Nat.lt_succ_iff.1 ((Nat.log2_lt hm).2 hdigits)
  have hones := two_le_pow_expw hf
  have hE : ∃ E : Int, E = max (floorLog2 (.ratio m 1 e)) (fmtEmin f) := ⟨_, rfl⟩
  obtain ⟨E, hE⟩ := hE
  have hk : ∃ k : Nat, e = E - f.frac + k := ⟨(e - (E - f.frac)).toNat, by omega⟩
  obtain ⟨k, hk⟩ := hk
  have hv : (m : ℚ) * 2 ^ e = ((m * 2 ^ k : Nat) : ℚ) * 2 ^ (E - f.frac) := by
    rw [hk, zpow_add₀ two_ne_zero, zpow_natCast]
    push_cast
    ring
  obtain ⟨-, ht, -⟩ := parts_of_multiple hm hE hv
  refine ⟨_, holds_of_multiple hm hf hE hv ?_⟩
  have hexp : (E - fmtEmin f).toNat + 2 ≤ ones f.expw := by
    unfold fmtEmin at *
    omega
  have hmul : ((E - fmtEmin f).toNat + 2) * 2 ^ f.frac ≤ ones f.expw * 2 ^ f.frac := Nat.mul_le_mul_right _ hexp
  rw [fmtMax, if_pos hf.ieee, Nat.shiftLeft_eq]
  rw [Nat.add_mul] at hmul
  rw [pow_succ] at ht
  omega

omit hm in
/-- A rounding that discards nothing keeps the integer it finds (R49). -/
theorem roundAt_exact {x : Mag} {u : Int} {neg : Bool} {rnd : Rnd} {r : Nat} (hr : r < 2 ^ 32)
    (h : (roundAt x u neg rnd r).2 = false) :
    ∃ t, (roundAt x u neg rnd r).1 = t ∧ floorMul x (32 - u) = (t * 2 ^ 32, true) := by
  rcases hq : floorMul x (32 - u) with ⟨n, kept⟩
  have h' : (low 32 n != 0 || !kept) = false := by simpa only [roundAt, hq] using h
  obtain ⟨hlow, rfl⟩ : low 32 n = 0 ∧ kept = true := by simpa using h'
  have hn : n >>> 32 * 2 ^ 32 = n := by
    rw [Elements.low_eq_mod] at hlow
    rw [Nat.shiftRight_eq_div_pow]
    exact Nat.div_mul_cancel (Nat.dvd_of_mod_eq_zero hlow)
  have hup : r < 4294967296 := hr
  refine ⟨n >>> 32, ?_, by rw [hn]⟩
  cases rnd <;> simp [roundAt, hq, hlow, b2n, Nat.one_shiftLeft, hup]

omit hm in
theorem ite_ne_of_ne {α : Type} {p : Prop} [Decidable p] {a b c : α} (ha : a ≠ c) (hb : b ≠ c) : (if p then a else b) ≠ c := by
  split
  · exact ha
  · exact hb

/-- Rounding that raises no flag finds its value in the format. -/
theorem holds_of_exact (hf : IeeeShaped f) {neg : Bool} {rnd : Rnd} {sat : Bool} {r : Nat} (hr : r < 2 ^ 32)
    (h : (roundMag f neg (.ratio m 1 e) rnd sat r).2 = 0) :
    ∃ n, Holds f n (m * 2 ^ e) ∧ (roundMag f neg (.ratio m 1 e) rnd sat r).1 = n + b2n neg * fmtSign f := by
  have hover : flOF ||| flNX ≠ 0 := by decide
  obtain ⟨E, hE⟩ : ∃ E : Int, E = max (floorLog2 (.ratio m 1 e)) (fmtEmin f) := ⟨_, rfl⟩
  have hE' : (if floorLog2 (.ratio m 1 e) < fmtEmin f then fmtEmin f else floorLog2 (.ratio m 1 e)) = E := by
    rw [hE, max_def_lt]
  unfold roundMag at h ⊢
  simp only [hE'] at h ⊢
  split at h
  · exact absurd h hover
  next htop =>
    rw [if_neg htop]
    split at h
    · exact absurd h hover
    next hmax =>
      rw [if_neg hmax]
      have hexact : (roundAt (.ratio m 1 e) (E - f.frac) neg rnd r).2 = false := by
        by_contra hne
        rw [Bool.not_eq_false] at hne
        rw [if_pos hne] at h
        exact ite_ne_of_ne (by decide) (by decide) h
      obtain ⟨t, ht, hfloor⟩ := roundAt_exact hr hexact
      rw [floorMul_ratio _ _ one_ne_zero, Prod.mk.injEq, decide_eq_true_iff] at hfloor
      obtain ⟨h1, h2⟩ := hfloor
      have hv : (m : ℚ) * 2 ^ e = t * 2 ^ (E - f.frac) := by
        have hscale : (2 : ℚ) ^ (32 - (E - f.frac)) ≠ 0 := zpow_ne_zero _ two_ne_zero
        have hsplit : (t : ℚ) * 2 ^ (E - f.frac) * 2 ^ (32 - (E - f.frac)) = t * 2 ^ 32 := by
          rw [mul_assoc, ← zpow_add₀ two_ne_zero, add_sub_cancel]
          norm_num
        apply mul_right_cancel₀ hscale
        rw [hsplit, ← ratioValue_one, h2, h1]
        push_cast
        rfl
      rw [ht, not_lt, Nat.shiftLeft_eq] at hmax
      rw [ht, Nat.shiftLeft_eq]
      exact ⟨_, holds_of_multiple hm hf hE hv hmax, rfl⟩

end

end Sys2Proof.Rounding
end

section
/-! SUPPORT. What a bit pattern that is no NaN stands for, and how the bits of a value are read again (R42, R43). -/

namespace Sys2Proof.Rounding

open Machine NumberFormats

/-- What a pattern that is no NaN stands for: a zero, a value its format holds, or an infinity. -/
inductive Reads (f : Fmt) (x : Nat) : Val → Prop
  | zero {s : Bool} (bits : b2n s * fmtSign f = x) : Reads f x (.zero s)
  | fin {s : Bool} {m n : Nat} {e : Int} (ne_zero : m ≠ 0) (bits : n + b2n s * fmtSign f = x)
      (holds : Holds f n (ratioValue m 1 e)) : Reads f x (.fin s m e)
  | inf {s : Bool} (ieee : f.ieee = true) (bits : fmtInf f + b2n s * fmtSign f = x) : Reads f x (.inf s)

section
variable {f : Fmt} {n x : Nat} {q : ℚ} {v : Val}

theorem le_fmtMax_of_lt_inf (hf : IeeeShaped f) (h : n < fmtInf f) : n ≤ fmtMax f := by
  rw [fmtInf, if_pos hf.ieee] at h
  rw [fmtMax, if_pos hf.ieee]
  exact Nat.le_sub_one_of_lt h

theorem lt_inf_of_le_fmtMax (hf : IeeeShaped f) (h : n ≤ fmtMax f) : n < fmtInf f := by
  have hpos := fmtInf_pos hf
  rw [fmtInf, if_pos hf.ieee] at hpos ⊢
  rw [fmtMax, if_pos hf.ieee] at h
  omega

/-- A magnitude below the top of its format is the finite number of its significand and exponent. -/
theorem holds_significand (hn : n ≠ 0) (hmax : n ≤ fmtMax f) (hexp : ulpShift f n + 1 ≤ ones f.expw) :
    Holds f n (ratioValue (significand f n) 1 (fmtEmin f - f.frac + ulpShift f n)) :=
  ⟨hn, hmax, hexp, (ratioValue_significand f n).symm⟩

theorem reads_ieee (hf : IeeeShaped f) (hx : x < 2 ^ fmtWidth f) (hnan : isNaN (decodeVal f x) = false) :
    Reads f x (decodeVal f x) := by
  have hbits := magBits_add_sign hx
  rcases (magBits_le_of_not_nan hf hnan).lt_or_eq with hlt | heq
  · by_cases h0 : magBits f x = 0
    · rw [decodeVal_zero hf h0]
      exact .zero (by rwa [h0, zero_add] at hbits)
    · rw [decodeVal_fin hf h0 hlt]
      exact .fin (significand_pos h0).ne' hbits (holds_significand h0 (le_fmtMax_of_lt_inf hf hlt) (ulpShift_lt_ones hf hlt))
  · rw [decodeVal_inf hf heq]
    exact .inf hf.ieee (by rwa [heq] at hbits)

/-- Whether a pattern is read as its sign and magnitude say, and lies within its format. -/
def readsAsNumber (f : Fmt) (x : Nat) : Bool :=
  let n := magBits f x
  if n = 0 then decodeVal f x = .zero (signBit f x)
  else n ≤ fmtMax f ∧ ulpShift f n + 1 ≤ ones f.expw ∧
    decodeVal f x = .fin (signBit f x) (significand f n) (fmtEmin f - f.frac + ulpShift f n)

theorem reads_of_readsAsNumber (hx : x < 2 ^ fmtWidth f) (h : readsAsNumber f x = true) : Reads f x (decodeVal f x) := by
  have hbits := magBits_add_sign hx
  unfold readsAsNumber at h
  dsimp only at h
  split at h
  next h0 =>
    rw [of_decide_eq_true h]
    exact .zero (by rwa [h0, zero_add] at hbits)
  next h0 =>
    obtain ⟨hmax, hexp, hv⟩ := of_decide_eq_true h
    rw [hv]
    exact .fin (significand_pos h0).ne' hbits (holds_significand h0 hmax hexp)

/-- The patterns of E4M3, the one format that is not IEEE shaped (R43). -/
theorem readsAsNumber_e4m3 : ∀ x < 256, isNaN (decodeVal (fmtOrF32 .e4m3) x) = false → readsAsNumber (fmtOrF32 .e4m3) x = true := by
  decide +kernel

/-- The floating-point formats. -/
theorem ieee_or_e4m3 {t : Ty} (ht : t ∈ [Ty.f64, .f32, .bf16, .f16, .e4m3, .e5m2]) :
    t = .e4m3 ∨ IeeeShaped (fmtOrF32 t) ∧ tyWidth t = fmtWidth (fmtOrF32 t) := by
  simp only [List.mem_cons, List.not_mem_nil, or_false] at ht
  rcases ht with rfl | rfl | rfl | rfl | rfl | rfl
  case inr.inr.inr.inr.inl => exact .inl rfl
  all_goals exact .inr ⟨⟨rfl, by decide⟩, rfl⟩

theorem reads_decodeVal {t : Ty} (ht : t ∈ [Ty.f64, .f32, .bf16, .f16, .e4m3, .e5m2]) (hx : x < 2 ^ tyWidth t)
    (hnan : isNaN (decodeVal (fmtOrF32 t) x) = false) : Reads (fmtOrF32 t) x (decodeVal (fmtOrF32 t) x) := by
  rcases ieee_or_e4m3 ht with rfl | ⟨hf, hw⟩
  · exact reads_of_readsAsNumber hx (readsAsNumber_e4m3 x hx hnan)
  · exact reads_ieee hf (hw ▸ hx) hnan

/-- What a pattern stands for rounds to that pattern. -/
theorem Reads.roundVal_eq (h : Reads f x v) (rnd : Rnd) (sat : Bool) {r : Nat} (hr : r < 2 ^ 32) :
    roundVal f v rnd sat r = (x, 0) := by
  cases h with
  | zero bits => rw [roundVal, zeroOut, bits]
  | fin hm bits holds => rw [roundVal, holds.roundMag_eq hm one_ne_zero rfl _ _ _ hr, bits]
  | inf ieee bits => rw [roundVal, infOut, if_pos ieee, bits]

/-! The bits of a value, read again. -/

theorem parts_of_bits (h : n < fmtSign f) (s : Bool) :
    magBits f (n + b2n s * fmtSign f) = n ∧ signBit f (n + b2n s * fmtSign f) = s := by
  rw [fmtSign, Nat.one_shiftLeft] at *
  have hpos := Nat.two_pow_pos (f.expw + f.frac)
  constructor
  · rw [magBits, Elements.low_eq_mod, Nat.add_mul_mod_self_right, Nat.mod_eq_of_lt h]
  · rw [signBit, bit, Nat.shiftRight_eq_div_pow, Nat.add_mul_div_right _ _ hpos, Nat.div_eq_of_lt h]
    cases s <;> rfl

theorem fmtInf_lt_sign (hf : IeeeShaped f) : fmtInf f < fmtSign f := by
  have := two_le_pow_expw hf
  rw [fmtInf_eq hf, fmtSign, Nat.one_shiftLeft, pow_add]
  exact Nat.mul_lt_mul_of_pos_right (by omega) (Nat.two_pow_pos _)

theorem decodeVal_zero_bits (hf : IeeeShaped f) (s : Bool) : decodeVal f (b2n s * fmtSign f) = .zero s := by
  have h := parts_of_bits (f := f) (n := 0) ((Nat.zero_le _).trans_lt (fmtInf_lt_sign hf)) s
  rw [zero_add] at h
  rw [decodeVal_zero hf h.1, h.2]

theorem decodeVal_inf_bits (hf : IeeeShaped f) (s : Bool) : decodeVal f (fmtInf f + b2n s * fmtSign f) = .inf s := by
  obtain ⟨hmag, hsign⟩ := parts_of_bits (fmtInf_lt_sign hf) s
  rw [decodeVal_inf hf hmag, hsign]

theorem Holds.lt_inf (hf : IeeeShaped f) (h : Holds f n q) : n < fmtInf f := lt_inf_of_le_fmtMax hf h.le_max

/-- The bits of a value that a format holds are read as that value. -/
theorem Holds.decodeVal_bits (hf : IeeeShaped f) (h : Holds f n q) (s : Bool) :
    ∃ m e, decodeVal f (n + b2n s * fmtSign f) = .fin s m e ∧ m ≠ 0 ∧ ratioValue m 1 e = q := by
  have hlt := h.lt_inf hf
  obtain ⟨hmag, hsign⟩ := parts_of_bits (hlt.trans (fmtInf_lt_sign hf)) s
  have hfin := decodeVal_fin (x := n + b2n s * fmtSign f) hf (by rw [hmag]; exact h.ne_zero) (by rw [hmag]; exact hlt)
  rw [hmag, hsign] at hfin
  exact ⟨_, _, hfin, (significand_pos h.ne_zero).ne', by rw [ratioValue_significand, h.value]⟩

end

end Sys2Proof.Rounding
end

section
/-! SUPPORT. Exact arithmetic: FSCALE by 0, FRINT of an integer, FMA by 1, and the quotient and the root of an exact product
(R159 to R164). -/

namespace Sys2Proof.Rounding

open Machine NumberFormats

section
variable {f : Fmt} {n x y : Nat} {q : ℚ} {v w : Val} {rnd rnd1 : Rnd} {r r1 : Nat}

/-- A value that is no NaN raises nothing of its own. -/
theorem snanFlag_cons (h : isNaN v = false) (vs : List Val) : snanFlag (v :: vs) = snanFlag vs := by
  cases v with
  | nan => cases h
  | inf | zero | fin => rfl

/-! FSCALE and FRINT. -/

theorem Reads.fScale_zero (h : Reads f x v) (hr : r < 2 ^ 32) : fScale f v 0 rnd r = (x, 0) := by
  have hround := h.roundVal_eq rnd false hr
  cases h with
  | zero => exact hround
  | inf => exact hround
  | fin =>
    rw [fScale, add_zero]
    exact hround

theorem exactBits_eq (h : Reads f x v) : exactBits f v = x := by
  rw [exactBits, h.roundVal_eq _ _ (Nat.two_pow_pos 32)]

/-- An integer that is held as it is. -/
theorem roundInt_integer {m k : Nat} {e : Int} (hm : m ≠ 0) (hk : k ≠ 0) (h : ratioValue m 1 e = k) (neg : Bool) (hr : r < 2 ^ 32) :
    roundInt neg m e rnd r = (k, false) := by
  have hv : ratioValue m 1 e = ratioValue k 1 0 := by rw [h, ratioValue_one, zpow_zero, mul_one]
  rw [roundInt, (sameMag_of_value hm one_ne_zero hk one_ne_zero hv).roundAt_eq]
  exact roundAt_multiple k 0 neg rnd hr

/-- An integral value stays under FRINT. -/
theorem Reads.fRint_integer {s : Bool} {m k : Nat} {e : Int} (h : Reads f x (.fin s m e)) (hk : e < 0 → ratioValue m 1 e = k)
    (hbits : exactBits f (.fin s k 0) = x) (hr : r < 2 ^ 32) : fRint f (.fin s m e) rnd r = (x, 0) := by
  cases h with
  | fin hm bits holds =>
    unfold fRint
    dsimp only
    split
    next => rw [exactBits_eq (.fin hm bits holds)]
    next he =>
      have hval := hk (not_le.1 he)
      have hk0 : k ≠ 0 := by
        rintro rfl
        rw [ratioValue_one, Nat.cast_zero, mul_eq_zero, Nat.cast_eq_zero] at hval
        exact hval.elim hm (zpow_ne_zero e two_ne_zero)
      rw [roundInt_integer hm hk0 hval s hr]
      simp only [beq_eq_false_iff_ne.2 hk0, Bool.false_eq_true, if_false, hbits]

/-! The integer that FRINT rounds to fits its format. -/

theorem or_one_le (t : Nat) : t ||| 1 ≤ t + 1 := by
  have hdiv := Nat.or_div_two (a := t) (b := 1)
  simp only [Nat.reduceDiv, Nat.or_zero] at hdiv
  omega

/-- Rounding goes at most one above the floor (R49). -/
theorem roundAt_le (x : Mag) (u : Int) (neg : Bool) (rnd : Rnd) (r : Nat) :
    (roundAt x u neg rnd r).1 ≤ (floorMul x (32 - u)).1 >>> 32 + 1 := by
  have hb (b : Bool) : b2n b ≤ 1 := by cases b <;> decide
  have hor := or_one_le ((floorMul x (32 - u)).1 >>> 32)
  unfold roundAt
  cases rnd
  case rto =>
    dsimp only
    split
    · exact hor
    · exact Nat.le_succ _
  all_goals exact Nat.add_le_add_left (hb _) _

theorem decodeVal_digits (hf : IeeeShaped f) {s : Bool} {m : Nat} {e : Int} (h : decodeVal f x = .fin s m e) : m < 2 ^ (f.frac + 1) := by
  rw [decodeVal_eq hf] at h
  split at h
  · cases h
  split at h
  · cases h
    rw [pow_succ']
    exact significand_lt f _
  split at h <;> cases h

/-- A value below 1 in its last place rounds to an integer of at most `frac + 1` bits. -/
theorem roundInt_le {m : Nat} {e : Int} (hm : m < 2 ^ (f.frac + 1)) (he : e < 0) (neg : Bool) :
    (roundInt neg m e rnd r).1 ≤ 2 ^ f.frac := by
  have hfloor : (floorMul (.ratio m 1 e) (32 - 0)).1 < 2 ^ f.frac * 2 ^ 32 := by
    rw [floorMul_ratio _ _ one_ne_zero, ratioValue_one]
    refine Nat.floor_lt' (by positivity) |>.2 ?_
    have hhalf : (2 : ℚ) ^ e ≤ 2 ^ (-1 : Int) := zpow_le_zpow_right₀ one_le_two (by omega)
    have hmq : (m : ℚ) < 2 ^ (f.frac + 1) := by exact_mod_cast hm
    have hval : (m : ℚ) * 2 ^ e < 2 ^ f.frac := calc
      _ ≤ (m : ℚ) * 2 ^ (-1 : Int) := mul_le_mul_of_nonneg_left hhalf (Nat.cast_nonneg m)
      _ < 2 ^ (f.frac + 1) * 2 ^ (-1 : Int) := mul_lt_mul_of_pos_right hmq (by positivity)
      _ = 2 ^ f.frac := by rw [pow_succ, zpow_neg_one, mul_assoc, mul_inv_cancel₀ two_ne_zero, mul_one]
    push_cast
    exact mul_lt_mul_of_pos_right hval (by positivity)
  have hshift : (floorMul (.ratio m 1 e) (32 - 0)).1 >>> 32 < 2 ^ f.frac := by
    rw [Nat.shiftRight_eq_div_pow]
    exact Nat.div_lt_of_lt_mul (by rwa [Nat.mul_comm])
  exact (roundAt_le _ 0 neg rnd r).trans hshift

/-- A format whose integers below its precision are all held. -/
structure HoldsIntegers (f : Fmt) : Prop extends IeeeShaped f where
  ones_expw : 2 ≤ ones f.expw
  emin_le : fmtEmin f ≤ f.frac
  frac_lt : (f.frac : Int) + f.bias < ones f.expw

theorem HoldsIntegers.holds (hf : HoldsIntegers f) {k : Nat} (hk : k ≠ 0) (hle : k < 2 ^ (f.frac + 1)) : ∃ n, Holds f n k := by
  have hlog : Nat.log2 k ≤ f.frac := Nat.lt_succ_iff.1 ((Nat.log2_lt hk).2 hle)
  have hlt := hf.frac_lt
  have hlow := hf.emin_le
  simpa using holds_of_digits (e := 0) hk hf.toIeeeShaped hle (by omega) hf.ones_expw (by omega)

/-- FRINT of what FRINT gave changes nothing, and is exact. -/
theorem fRint_fRint (hf : HoldsIntegers f) (h : Reads f x (decodeVal f x)) (hr1 : r1 < 2 ^ 32) :
    fRint f (decodeVal f (fRint f (decodeVal f x) rnd r).1) rnd1 r1 = ((fRint f (decodeVal f x) rnd r).1, 0) := by
  have hf' := hf.toIeeeShaped
  cases hv : decodeVal f x with
  | nan =>
    rw [hv] at h
    cases h
  | zero s =>
    simp only [fRint, zeroOut, decodeVal_zero_bits hf']
  | inf s =>
    simp only [fRint, infOut, hf'.ieee, if_true, decodeVal_inf_bits hf']
  | fin s m e =>
    rw [hv] at h
    by_cases he : e ≥ 0
    · have hkept (rnd : Rnd) (r : Nat) : fRint f (.fin s m e) rnd r = (x, 0) := by
        unfold fRint
        dsimp only
        rw [if_pos he, exactBits_eq h]
      rw [hkept, hv, hkept]
    · obtain ⟨k, hk⟩ : ∃ k, k = (roundInt s m e rnd r).1 := ⟨_, rfl⟩
      have hout : (fRint f (.fin s m e) rnd r).1 = exactBits f (if k == 0 then .zero s else .fin s k 0) := by
        rw [hk]
        unfold fRint
        dsimp only
        rw [if_neg he]
      rw [hout]
      by_cases hk0 : k = 0
      · rw [if_pos (beq_iff_eq.2 hk0), exactBits_eq (.zero rfl), decodeVal_zero_bits hf', fRint, zeroOut]
      · have hle : k ≤ 2 ^ f.frac := hk ▸ roundInt_le (decodeVal_digits hf' hv) (not_le.1 he) s
        obtain ⟨n, hn⟩ := hf.holds hk0 (hle.trans_lt (Nat.pow_lt_pow_succ one_lt_two))
        have hnk : Holds f n (ratioValue k 1 0) := by rwa [ratioValue_one, zpow_zero, mul_one]
        have hbits : exactBits f (.fin s k 0) = n + b2n s * fmtSign f := exactBits_eq (.fin hk0 rfl hnk)
        obtain ⟨m', e', hdec, hm', hval⟩ := hn.decodeVal_bits hf' s
        rw [if_neg (by simpa using hk0), hbits, hdec]
        exact (Reads.fin hm' rfl (hval ▸ hn)).fRint_integer (fun _ => hval) hbits hr1

/-! FMA by 1. -/

/-- Sums of one value are rounded alike. -/
theorem roundDyadic_congr {a b : Machine.Dyadic} (h : dyValue a = dyValue b) (sat : Bool) :
    roundDyadic f a.n a.e rnd sat r = roundDyadic f b.n b.e rnd sat r := by
  have hpos (e : Int) : (0 : ℚ) < 2 ^ e := by positivity
  have hzero (d : Machine.Dyadic) : d.n = 0 ↔ dyValue d = 0 := by
    rw [dyValue, mul_eq_zero, Int.cast_eq_zero, or_iff_left (hpos _).ne']
  have hneg (d : Machine.Dyadic) : d.n < 0 ↔ dyValue d < 0 := by
    rw [dyValue, ← zero_mul ((2 : ℚ) ^ d.e), mul_lt_mul_iff_left₀ (hpos _), Int.cast_lt_zero]
  have habs (d : Machine.Dyadic) : ratioValue d.n.natAbs 1 d.e = |dyValue d| := by
    rw [ratioValue_one, dyValue, abs_mul, abs_of_pos (hpos _), Nat.cast_natAbs, Int.cast_abs]
  unfold roundDyadic
  by_cases h0 : a.n = 0
  · have h0' : b.n = 0 := by rwa [hzero, ← h, ← hzero]
    rw [h0, h0']
    rfl
  · have h0' : ¬ b.n = 0 := by rwa [hzero, ← h, ← hzero]
    have hsign : decide (a.n < 0) = decide (b.n < 0) := decide_eq_decide.2 (by rw [hneg, hneg, h])
    have hmag : SameMag (.ratio a.n.natAbs 1 a.e) (.ratio b.n.natAbs 1 b.e) :=
      sameMag_of_value (by simpa using h0) one_ne_zero (by simpa using h0') one_ne_zero (by rw [habs, habs, h])
    rw [if_neg (by simpa using h0), if_neg (by simpa using h0'), hsign, hmag.roundMag_eq]

/-- What adds like a value: of the same kind and sign, and the same number. -/
theorem addRound_fin_congr {s : Bool} {m m' : Nat} {e e' : Int} (h : ratioValue m 1 e = ratioValue m' 1 e') (c : Val) :
    addRound f (.fin s m e) c rnd r = addRound f (.fin s m' e') c rnd r := by
  have hval : dyValue (dyAdd (dyadicOf (.fin s m e)) (dyadicOf c)) = dyValue (dyAdd (dyadicOf (.fin s m' e')) (dyadicOf c)) := by
    rw [ratioValue_one, ratioValue_one] at h
    rw [dyValue_dyAdd, dyValue_dyAdd]
    congr 1
    cases s
    · simpa [dyValue, dyadicOf] using h
    · simpa [dyValue, dyadicOf] using h
  unfold addRound
  dsimp only
  rw [roundDyadic_congr hval]
  rfl

theorem zeroTimesInf_fin (v : Val) (s : Bool) (m : Nat) (e : Int) : zeroTimesInf v (.fin s m e) = false := by
  cases v <;> rfl

/-- FMA of `a`, 1 and `c` is FADD of `a` and `c`. -/
theorem fFma_one {m : Nat} {e : Int} (h : isNaN v = false) (hone : ratioValue m 1 e = 1) :
    fFma f v (.fin false m e) w rnd r = fAdd f v w rnd r := by
  have hflags : snanFlag [v, .fin false m e, w] = snanFlag [v, w] := by
    rw [snanFlag_cons h, snanFlag_cons h, snanFlag_cons rfl]
  have hnone (x : Flags) : x ||| 0 = x := BitVec.or_zero
  unfold fFma fAdd
  dsimp only
  rw [hflags]
  cases v with
  | nan => cases h
  | zero s =>
    have hp : mulVal (.zero s) (.fin false m e) = .zero s := by simp [mulVal, isNaN, isInf, isZero, signOf]
    rw [hp, if_neg (Bool.eq_false_iff.1 (zeroTimesInf_fin _ false m e)), hnone]
    rfl
  | inf s =>
    have hp : mulVal (.inf s) (.fin false m e) = .inf s := by simp [mulVal, isNaN, isInf, isZero, signOf]
    rw [hp, if_neg (Bool.eq_false_iff.1 (zeroTimesInf_fin _ false m e)), hnone]
    rfl
  | fin s k d =>
    have hp : mulVal (.fin s k d) (.fin false m e) = .fin s (k * m) (d + e) := by simp [mulVal, isNaN, isInf, isZero, signOf]
    have hval : ratioValue (k * m) 1 (d + e) = ratioValue k 1 d := by
      rw [ratioValue_one] at hone
      rw [ratioValue_one, ratioValue_one, zpow_add₀ two_ne_zero, Nat.cast_mul, mul_mul_mul_comm, hone, mul_one]
    rw [hp, if_neg (Bool.eq_false_iff.1 (zeroTimesInf_fin _ false m e)), hnone, addRound_fin_congr hval]
    rfl

end

end Sys2Proof.Rounding
end

section
/-! SUPPORT. Exact products divide and take roots back, and conversions to wider formats come back (R159, R163 to R167). -/

namespace Sys2Proof.Rounding

open Machine NumberFormats

section
variable {f g : Fmt} {n x y : Nat} {q : ℚ} {v w : Val} {rnd rnd1 : Rnd} {r r1 : Nat}

/-! Products, quotients and roots. -/

/-- A finite number that is no zero, as its format holds it. -/
theorem Reads.finite (h : Reads f x v) (hinf : isInf v = false) (hzero : isZero v = false) :
    ∃ s m n e, v = .fin s m e ∧ m ≠ 0 ∧ n + b2n s * fmtSign f = x ∧ Holds f n (ratioValue m 1 e) := by
  cases h with
  | zero => cases hzero
  | inf => cases hinf
  | fin hm bits holds => exact ⟨_, _, _, _, rfl, hm, bits, holds⟩

/-- A product that raises no flag is held by its format, and read as that product. -/
theorem fMul_exact (hf : IeeeShaped f) {s t : Bool} {m k : Nat} {d e : Int} (hm : m ≠ 0) (hk : k ≠ 0) (hr : r < 2 ^ 32)
    (h : (fMul f (.fin s m d) (.fin t k e) rnd r).2 = 0) :
    ∃ p c, decodeVal f (fMul f (.fin s m d) (.fin t k e) rnd r).1 = .fin (s != t) p c ∧ p ≠ 0 ∧
      ratioValue p 1 c = ratioValue m 1 d * ratioValue k 1 e := by
  have hout : fMul f (.fin s m d) (.fin t k e) rnd r = roundMag f (s != t) (.ratio (m * k) 1 (d + e)) rnd false r := by
    have hnone (x : Flags) : x ||| 0 ||| 0 = x := by simp
    exact Prod.ext rfl (hnone _)
  rw [hout] at h ⊢
  obtain ⟨n, hn, hbits⟩ := holds_of_exact (mul_ne_zero hm hk) hf hr h
  obtain ⟨p, c, hdec, hp, hval⟩ := hn.decodeVal_bits hf (s != t)
  refine ⟨p, c, by rw [hbits, hdec], hp, ?_⟩
  rw [hval, ratioValue_one, ratioValue_one, Nat.cast_mul, zpow_add₀ two_ne_zero]
  ring

/-- The quotient of an exact product gives back the factor. -/
theorem fDiv_fMul (hf : IeeeShaped f) {s t : Bool} {m k : Nat} {d e : Int} (hm : m ≠ 0) (hk : k ≠ 0) (hr : r < 2 ^ 32)
    (hr1 : r1 < 2 ^ 32) (hn : Holds f n (ratioValue m 1 d)) (h : (fMul f (.fin s m d) (.fin t k e) rnd r).2 = 0) :
    fDiv f (decodeVal f (fMul f (.fin s m d) (.fin t k e) rnd r).1) (.fin t k e) rnd1 r1 = (n + b2n s * fmtSign f, 0) := by
  obtain ⟨p, c, hdec, hp, hval⟩ := fMul_exact hf hm hk hr h
  have hsign : ((s != t) != t) = s := by cases s <;> cases t <;> rfl
  have hquot : ratioValue p k (c - e) = ratioValue m 1 d := by
    have hk0 : ratioValue k 1 e ≠ 0 := by
      rw [ratioValue_one]
      exact mul_ne_zero (Nat.cast_ne_zero.2 hk) (zpow_ne_zero _ two_ne_zero)
    calc ratioValue p k (c - e)
      _ = ratioValue p 1 c / ratioValue k 1 e := by
        rw [ratioValue_one, ratioValue_one, ratioValue, zpow_sub₀ two_ne_zero, div_mul_div_comm]
      _ = ratioValue m 1 d := by rw [hval, mul_div_assoc, div_self hk0, mul_one]
  have hround := hn.roundMag_eq hp hk hquot ((s != t) != t) rnd1 false hr1
  rw [hsign] at hround
  rw [hdec]
  change roundMag f ((s != t) != t) (.ratio p k (c - e)) rnd1 false r1 = _
  rw [hsign, hround]

/-- A number whose root is a quotient is a square. -/
theorem square_of_value {p m : Nat} {a e : Int} (h : (p : ℚ) * 2 ^ (2 * a) = (m * 2 ^ e) * (m * 2 ^ e)) :
    ∃ k : Nat, p = k * k ∧ ratioValue k 1 a = ratioValue m 1 e := by
  have hpos (z : Int) : (0 : ℚ) < 2 ^ z := by positivity
  have hsq : (p : ℚ) = m * 2 ^ (e - a) * (m * 2 ^ (e - a)) := by
    apply mul_right_cancel₀ (hpos (2 * a)).ne'
    rw [h, two_mul, zpow_add₀ two_ne_zero, zpow_sub₀ two_ne_zero]
    have := (hpos a).ne'
    field_simp
  obtain ⟨k, hk⟩ := Rat.isSquare_natCast_iff.1 ⟨_, hsq⟩
  refine ⟨k, hk, ?_⟩
  have hkq : (k : ℚ) * k = m * 2 ^ (e - a) * (m * 2 ^ (e - a)) := by rw [← hsq, hk, Nat.cast_mul]
  have hroot : (k : ℚ) = m * 2 ^ (e - a) := (mul_self_inj (Nat.cast_nonneg k) (by positivity)).1 hkq
  rw [ratioValue_one, ratioValue_one, hroot, mul_assoc, ← zpow_add₀ two_ne_zero, sub_add_cancel]

/-- The root of an even power of two times a square rounds as its base does. -/
theorem roundMag_root {p m : Nat} {a e : Int} (hm : m ≠ 0) (hn : Holds f n (ratioValue m 1 e)) (hr : r < 2 ^ 32)
    (h : (p : ℚ) * 2 ^ (2 * a) = ratioValue m 1 e * ratioValue m 1 e) : roundMag f false (.root p a) rnd false r = (n, 0) := by
  rw [ratioValue_one] at h
  obtain ⟨k, rfl, hk⟩ := square_of_value h
  have hk0 : k ≠ 0 := by
    rintro rfl
    rw [ratioValue_one, ratioValue_one, Nat.cast_zero, zero_mul, eq_comm, mul_eq_zero, Nat.cast_eq_zero] at hk
    exact hk.elim hm (zpow_ne_zero e two_ne_zero)
  rw [(sameMag_root hk0 a).roundMag_eq, hn.roundMag_eq hk0 one_ne_zero hk _ _ _ hr]
  simp [b2n]

/-- The root of an exact square gives back the magnitude. -/
theorem fSqrt_fMul (hf : IeeeShaped f) {s : Bool} {m : Nat} {d : Int} (hm : m ≠ 0) (hr : r < 2 ^ 32)
    (hr1 : r1 < 2 ^ 32) (hn : Holds f n (ratioValue m 1 d)) (h : (fMul f (.fin s m d) (.fin s m d) rnd r).2 = 0) :
    fSqrt f (decodeVal f (fMul f (.fin s m d) (.fin s m d) rnd r).1) rnd1 r1 = (n, 0) := by
  obtain ⟨p, c, hdec, hp, hval⟩ := fMul_exact hf hm hm hr h
  rw [hdec, bne_self_eq_false]
  rw [ratioValue_one] at hval
  unfold fSqrt
  dsimp only
  split
  next heven =>
    have hc : 2 * (c / 2) = c := Int.mul_ediv_cancel' (Int.dvd_of_emod_eq_zero (beq_iff_eq.1 heven))
    exact roundMag_root hm hn hr1 (by rw [hc, hval])
  next hodd =>
    have hc : 2 * ((c - 1) / 2) = c - 1 := by
      have : ¬ c % 2 = 0 := by simpa using hodd
      omega
    refine roundMag_root hm hn hr1 ?_
    rw [hc, ← hval, zpow_sub₀ two_ne_zero]
    push_cast
    ring

/-! Conversions between formats. -/

/-- A format that holds every number of another. -/
structure Widens (f g : Fmt) : Prop where
  shaped : IeeeShaped g
  ones_expw : 2 ≤ ones g.expw
  frac_le : f.frac ≤ g.frac
  low : fmtEmin g - g.frac ≤ fmtEmin f - f.frac
  normal : 1 ≤ fmtMax f / 2 ^ f.frac
  high : ((fmtMax f / 2 ^ f.frac : Nat) : Int) - f.bias + g.bias < ones g.expw

theorem Widens.holds (h : Widens f g) (hn : Holds f n q) : ∃ k, Holds g k q := by
  have hpos := (significand_pos (f := f) hn.ne_zero).ne'
  have hdigits : significand f n < 2 ^ (f.frac + 1) := by
    rw [pow_succ']
    exact significand_lt f n
  have hlog : Nat.log2 (significand f n) ≤ f.frac := Nat.lt_succ_iff.1 ((Nat.log2_lt hpos).2 hdigits)
  have hwide : significand f n < 2 ^ (g.frac + 1) := hdigits.trans_le (Nat.pow_le_pow_right two_pos (by have := h.frac_le; omega))
  have hshift : ulpShift f n + 1 ≤ fmtMax f / 2 ^ f.frac := by
    have hdiv : n / 2 ^ f.frac ≤ fmtMax f / 2 ^ f.frac := Nat.div_le_div_right hn.le_max
    have := h.normal
    unfold ulpShift
    omega
  have hlow := h.low
  have hhigh := h.high
  have hval : q = significand f n * 2 ^ (fmtEmin f - f.frac + ulpShift f n) := by
    rw [← hn.value, ← ratioValue_significand, ratioValue_one]
  rw [hval]
  refine holds_of_digits hpos h.shaped hwide (by omega) h.ones_expw ?_
  have hemin : fmtEmin f = 1 - f.bias := rfl
  omega

/-- A conversion to a format that holds every number of the source is exact, and comes back. -/
theorem fConvert_fConvert (h : Widens f g) (hx : Reads f x v) (sat sat1 : Bool) (hr : r < 2 ^ 32) (hr1 : r1 < 2 ^ 32) :
    (fConvert g v rnd sat r).2 = 0 ∧ fConvert f (decodeVal g (fConvert g v rnd sat r).1) rnd1 sat1 r1 = (x, 0) := by
  cases hx with
  | @zero s bits =>
    have hout : fConvert g (.zero s) rnd sat r = (b2n s * fmtSign g, 0) := rfl
    rw [hout, decodeVal_zero_bits h.shaped, ← bits]
    exact ⟨rfl, rfl⟩
  | @inf s ieee bits =>
    have hout (f : Fmt) (hf : f.ieee = true) (rnd : Rnd) (sat : Bool) (r : Nat) :
        fConvert f (.inf s) rnd sat r = (fmtInf f + b2n s * fmtSign f, 0) := by
      rw [fConvert, if_pos hf]
    rw [hout g h.shaped.ieee, decodeVal_inf_bits h.shaped, hout f ieee, bits]
    exact ⟨rfl, rfl⟩
  | @fin s m n e hm bits holds =>
    obtain ⟨k, hk⟩ := h.holds holds
    have hout : fConvert g (.fin s m e) rnd sat r = (k + b2n s * fmtSign g, 0) := hk.roundMag_eq hm one_ne_zero rfl s rnd sat hr
    obtain ⟨m', e', hdec, hm', hval⟩ := hk.decodeVal_bits h.shaped s
    rw [hout, hdec]
    exact ⟨rfl, (holds.roundMag_eq hm' one_ne_zero hval s rnd1 sat1 hr1).trans (by rw [bits])⟩

/-! Conversions of integers. -/

/-- An integer type read and written again. -/
theorem ofInt_intOf_of_lt {t : Ty} (hx : x < 2 ^ tyWidth t) : ofInt (tyWidth t) (intOf t x) = x := by
  have hmod : ((x : Int) % (2 ^ tyWidth t : Nat)).toNat = x := by
    rw [← Int.natCast_mod, Int.toNat_natCast, Nat.mod_eq_of_lt hx]
  unfold ofInt intOf toSigned
  rw [Nat.one_shiftLeft]
  split
  · split
    · rw [Int.sub_emod_right, hmod]
    · exact hmod
  · exact hmod

/-- An integer type holds the integers of its width. -/
theorem intOf_mem {t : Ty} (ht : intTy t = true) (hx : x < 2 ^ tyWidth t) : intMin t ≤ intOf t x ∧ intOf t x ≤ intMax t := by
  obtain ⟨k, hk⟩ : ∃ k, tyWidth t = k + 1 := by cases t <;> exact ⟨_, rfl⟩
  have hpos := Nat.two_pow_pos k
  rw [hk, pow_succ] at hx
  simp only [intMin, intMax, intOf, hk, Nat.one_shiftLeft, pow_succ, Nat.add_sub_cancel]
  split
  · have hdiv := Nat.div_add_mod' x (2 ^ k)
    have hmod := Nat.mod_lt x hpos
    have hlt : x / 2 ^ k < 2 := Nat.div_lt_of_lt_mul hx
    simp only [toSigned, bit, Nat.shiftRight_eq_div_pow, Nat.one_shiftLeft, pow_succ, Nat.add_sub_cancel]
    generalize 2 ^ k = p at *
    generalize x / p = b at *
    obtain rfl | rfl : b = 0 ∨ b = 1 := by omega
    · rw [if_neg (by simp)]
      omega
    · rw [if_pos (by simp)]
      omega
  · omega

/-- A format that holds every integer of a type. -/
structure WidensInt (t : Ty) (g : Fmt) : Prop extends HoldsIntegers g where
  width_le : tyWidth t ≤ g.frac + 1

theorem WidensInt.digits {t : Ty} (h : WidensInt t g) {z : Int} (hmin : intMin t ≤ z) (hmax : z ≤ intMax t) :
    z.natAbs < 2 ^ (g.frac + 1) := by
  obtain ⟨k, hk⟩ : ∃ k, tyWidth t = k + 1 := by cases t <;> exact ⟨_, rfl⟩
  have hpos := Nat.two_pow_pos k
  refine lt_of_lt_of_le ?_ (Nat.pow_le_pow_right two_pos h.width_le)
  simp only [intMin, intMax, hk, Nat.one_shiftLeft, pow_succ, Nat.add_sub_cancel] at hmin hmax ⊢
  generalize 2 ^ k = p at *
  split at hmin <;> split at hmax <;> omega

theorem floatToInt_back (t : Ty) {z : Int} (hmin : intMin t ≤ z) (hmax : z ≤ intMax t) {m : Nat} {e : Int} (hm : m ≠ 0) (hz : z ≠ 0)
    (hval : ratioValue m 1 e = z.natAbs) (hr : r < 2 ^ 32) :
    floatToInt t (.fin (z < 0) m e) rnd r = (ofInt (tyWidth t) z, 0) := by
  have hint := roundInt_integer (rnd := rnd) hm (Int.natAbs_ne_zero.2 hz) hval (z < 0) hr
  have hsigned : (if decide (z < 0) = true then -(z.natAbs : Int) else (z.natAbs : Int)) = z := by
    simp only [decide_eq_true_eq]
    split <;> omega
  have hclamp : clampInt t z = z := by
    unfold clampInt
    omega
  unfold floatToInt
  simp only [hint, hsigned, hclamp, bne_self_eq_false, Bool.false_eq_true, if_false]

/-- A conversion of an integer to a format that holds every integer of its type is exact, and comes back. -/
theorem floatToInt_roundDyadic {t : Ty} (h : WidensInt t g) {z : Int} (hmin : intMin t ≤ z) (hmax : z ≤ intMax t) (hz : z ≠ 0)
    (sat : Bool) (hr : r < 2 ^ 32) (hr1 : r1 < 2 ^ 32) :
    (roundDyadic g z 0 rnd sat r).2 = 0 ∧
      floatToInt t (decodeVal g (roundDyadic g z 0 rnd sat r).1) rnd1 r1 = (ofInt (tyWidth t) z, 0) := by
  have hz' : z.natAbs ≠ 0 := Int.natAbs_ne_zero.2 hz
  obtain ⟨n, hn⟩ := h.toHoldsIntegers.holds hz' (h.digits hmin hmax)
  have hval : ratioValue z.natAbs 1 0 = z.natAbs := by rw [ratioValue_one, zpow_zero, mul_one]
  have hout : roundDyadic g z 0 rnd sat r = (n + b2n (decide (z < 0)) * fmtSign g, 0) := by
    rw [roundDyadic, if_neg (by simpa using hz), hn.roundMag_eq hz' one_ne_zero hval _ _ _ hr]
  obtain ⟨m, e, hdec, hm, hm'⟩ := hn.decodeVal_bits h.toIeeeShaped (decide (z < 0))
  rw [hout, hdec]
  exact ⟨rfl, floatToInt_back t hmin hmax hm hz hm' hr1⟩

theorem convertElem_back {s t : Ty} (hs : intTy s = true) (ht : fmtOf t = some g) (h : WidensInt s g) (hx : x < 2 ^ tyWidth s)
    (sat sat1 : Bool) (hr : r < 2 ^ 32) (hr1 : r1 < 2 ^ 32) :
    (convertElem s t x rnd sat r).2 = 0 ∧ convertElem t s (convertElem s t x rnd sat r).1 rnd1 sat1 r1 = (x, 0) := by
  obtain ⟨hnone, hpred⟩ : fmtOf s = none ∧ (s == .pred) = false := by
    revert hs
    cases s <;> decide
  have hint := ofInt_intOf_of_lt hx
  obtain ⟨hmin, hmax⟩ := intOf_mem hs hx
  have hto : convertElem s t x rnd sat r = if intOf s x == 0 then zeroOut g false else roundDyadic g (intOf s x) 0 rnd sat r := by
    simp only [convertElem, hnone, ht]
  have hback (b : Nat) : convertElem t s b rnd1 sat1 r1 = floatToInt s (decodeVal g b) rnd1 r1 := by
    simp only [convertElem, hnone, ht, hpred, Bool.false_eq_true, if_false]
  rw [hto, hback]
  split
  next h0 =>
    rw [beq_iff_eq.1 h0] at hint
    have hzero : ofInt (tyWidth s) 0 = 0 := by simp [ofInt]
    rw [zeroOut, decodeVal_zero_bits h.toIeeeShaped, ← hint, hzero]
    exact ⟨rfl, rfl⟩
  next h0 =>
    have hconv := floatToInt_roundDyadic (rnd := rnd) (rnd1 := rnd1) h hmin hmax (by simpa using h0) sat hr hr1
    rwa [hint] at hconv

end

end Sys2Proof.Rounding
end

section
/-! SUPPORT. O12: what a format represents rounds to itself. -/

namespace Sys2Proof.Rounding

open Machine NumberFormats

/-- The wide formats hold the integers of their precision, and 1 (R42). -/
theorem holdsIntegers_of_mem {t : Ty} (ht : t ∈ [Ty.f64, .f32, .bf16, .f16]) :
    HoldsIntegers (fmtOrF32 t) ∧ decodeVal (fmtOrF32 t) ((fmtOrF32 t).bias * 2 ^ (fmtOrF32 t).frac) =
      .fin false (2 ^ (fmtOrF32 t).frac) (-(fmtOrF32 t).frac) := by
  simp only [List.mem_cons, List.not_mem_nil, or_false] at ht
  rcases ht with rfl | rfl | rfl | rfl <;>
    exact ⟨⟨⟨rfl, by decide⟩, by decide, by decide, by decide⟩, by decide⟩

theorem ratioValue_unit (f : Fmt) : ratioValue (2 ^ f.frac) 1 (-f.frac) = 1 := by
  rw [ratioValue_one, zpow_neg, zpow_natCast]
  push_cast
  exact mul_inv_cancel₀ (pow_ne_zero _ two_ne_zero)

theorem mem_formats_of_mem {t : Ty} (ht : t ∈ [Ty.f64, .f32, .bf16, .f16]) : t ∈ [Ty.f64, .f32, .bf16, .f16, .e4m3, .e5m2] :=
  List.mem_append_left [Ty.e4m3, .e5m2] ht

/-- The magnitude of a held value is its pattern below the sign. -/
theorem Holds.mod_sign {f : Fmt} {n : Nat} {q : ℚ} (hf : IeeeShaped f) (h : Holds f n q) (s : Bool) :
    (n + b2n s * fmtSign f) % 2 ^ (fmtWidth f - 1) = n := by
  have hlt := (h.lt_inf hf).trans (fmtInf_lt_sign hf)
  have hw : fmtWidth f - 1 = f.expw + f.frac := by
    unfold fmtWidth
    omega
  rw [fmtSign, Nat.one_shiftLeft] at *
  rw [hw, Nat.add_mul_mod_self_right, Nat.mod_eq_of_lt hlt]

/-- A finite number that is not 0. -/
def IsNumber (v : Val) : Prop := isNaN v = false ∧ isInf v = false ∧ isZero v = false

section
variable {t : Ty} (ht : t ∈ [Ty.f64, .f32, .bf16, .f16]) {x y : Nat} {rnd rnd1 : Rnd} {r r1 : Nat}
include ht

/-- The finite numbers of the wide formats, none of them 0, as they are held. -/
theorem finite_of_mem (hx : x < 2 ^ tyWidth t)
    (h : IsNumber (decodeVal (fmtOrF32 t) x)) :
    ∃ s m n e, decodeVal (fmtOrF32 t) x = .fin s m e ∧ m ≠ 0 ∧ n + b2n s * fmtSign (fmtOrF32 t) = x ∧
      Holds (fmtOrF32 t) n (ratioValue m 1 e) := by
  obtain ⟨hnan, hinf, hzero⟩ := h
  exact (reads_decodeVal (mem_formats_of_mem ht) hx hnan).finite hinf hzero

theorem fDiv_of_exact_product (hx : x < 2 ^ tyWidth t) (hy : y < 2 ^ tyWidth t) (hr : r < 2 ^ 32) (hr1 : r1 < 2 ^ 32)
    (hvx : IsNumber (decodeVal (fmtOrF32 t) x))
    (hvy : IsNumber (decodeVal (fmtOrF32 t) y))
    (h : (fMul (fmtOrF32 t) (decodeVal (fmtOrF32 t) x) (decodeVal (fmtOrF32 t) y) rnd r).2 = 0) :
    fDiv (fmtOrF32 t) (decodeVal (fmtOrF32 t) (fMul (fmtOrF32 t) (decodeVal (fmtOrF32 t) x) (decodeVal (fmtOrF32 t) y) rnd r).1)
      (decodeVal (fmtOrF32 t) y) rnd1 r1 = (x, 0) := by
  obtain ⟨s, m, n, d, hx', hm, hbits, hn⟩ := finite_of_mem ht hx hvx
  obtain ⟨s', k, -, e, hy', hk, -, -⟩ := finite_of_mem ht hy hvy
  rw [hx', hy'] at h ⊢
  rw [fDiv_fMul (holdsIntegers_of_mem ht).1.toIeeeShaped hm hk hr hr1 hn h, hbits]

theorem fSqrt_of_exact_square (hx : x < 2 ^ tyWidth t) (hr : r < 2 ^ 32) (hr1 : r1 < 2 ^ 32)
    (hvx : IsNumber (decodeVal (fmtOrF32 t) x))
    (h : (fMul (fmtOrF32 t) (decodeVal (fmtOrF32 t) x) (decodeVal (fmtOrF32 t) x) rnd r).2 = 0) :
    fSqrt (fmtOrF32 t) (decodeVal (fmtOrF32 t) (fMul (fmtOrF32 t) (decodeVal (fmtOrF32 t) x) (decodeVal (fmtOrF32 t) x) rnd r).1)
      rnd1 r1 = (x % 2 ^ (tyWidth t - 1), 0) := by
  have hf := (holdsIntegers_of_mem ht).1.toIeeeShaped
  obtain ⟨s, m, n, d, hx', hm, hbits, hn⟩ := finite_of_mem ht hx hvx
  rw [hx'] at h ⊢
  rw [fSqrt_fMul hf hm hr hr1 hn h, (ieeeShaped_of_mem ht).2.1, ← hbits, hn.mod_sign hf]

end

/-- Formats, each with one that holds every number of it. -/
def formatPairs : List (Ty × Ty) := [(Ty.bf16, Ty.f32), (.f16, .f32), (.f32, .f64), (.e4m3, .f16), (.e5m2, .f16)]

/-- Integer types, each with a format that holds every integer of it. -/
def integerPairs : List (Ty × Ty) := [(Ty.i8, Ty.bf16), (.u8, .bf16), (.i16, .f32), (.u16, .f32), (.i32, .f64), (.u32, .f64)]

theorem widens_of_mem {p : Ty × Ty} (hp : p ∈ formatPairs) :
    p.1 ∈ [Ty.f64, .f32, .bf16, .f16, .e4m3, .e5m2] ∧ fmtOf p.1 = some (fmtOrF32 p.1) ∧ fmtOf p.2 = some (fmtOrF32 p.2) ∧
      Widens (fmtOrF32 p.1) (fmtOrF32 p.2) := by
  simp only [formatPairs, List.mem_cons, List.not_mem_nil, or_false] at hp
  rcases hp with rfl | rfl | rfl | rfl | rfl <;>
    exact ⟨by decide, rfl, rfl, ⟨rfl, by decide⟩, by decide, by decide, by decide, by decide, by decide⟩

theorem widensInt_of_mem {p : Ty × Ty} (hp : p ∈ integerPairs) :
    intTy p.1 = true ∧ fmtOf p.2 = some (fmtOrF32 p.2) ∧ WidensInt p.1 (fmtOrF32 p.2) := by
  simp only [integerPairs, List.mem_cons, List.not_mem_nil, or_false] at hp
  rcases hp with rfl | rfl | rfl | rfl | rfl | rfl <;>
    exact ⟨rfl, rfl, ⟨⟨rfl, by decide⟩, by decide, by decide, by decide⟩, by decide⟩

theorem convertElem_formats {s t : Ty} {f g : Fmt} (hs : fmtOf s = some f) (ht : fmtOf t = some g) (x : Nat) (rnd : Rnd) (sat : Bool)
    (r : Nat) : convertElem s t x rnd sat r = fConvert g (decodeVal f x) rnd sat r := by
  simp only [convertElem, hs, ht]

end Sys2Proof.Rounding

namespace Sys2Proof
open Machine NumberFormats Rounding

/-- Settles O12: a value that its format holds is found again by every rounding of a magnitude of that value. -/
theorem representableValuesRoundToThemselves : Obligations.RepresentableValuesRoundToThemselves := by
  unfold Obligations.RepresentableValuesRoundToThemselves
  dsimp only
  refine ⟨fun t ht x hx hnan rnd sat r hr => (reads_decodeVal ht hx hnan).roundVal_eq rnd sat hr, ?_, ?_⟩
  · intro t ht x y hx hy rnd rnd1 r r1 hr hr1
    obtain ⟨hf, hone⟩ := holdsIntegers_of_mem ht
    refine ⟨fun hnan => ?_, fun hvx hvy =>
      ⟨fDiv_of_exact_product ht hx hy hr hr1 hvx hvy, fSqrt_of_exact_square ht hx hr hr1 hvx⟩⟩
    have hreads := reads_decodeVal (mem_formats_of_mem ht) hx hnan
    rw [hone]
    exact ⟨hreads.fScale_zero hr, fRint_fRint hf hreads hr1, fFma_one hnan (ratioValue_unit _)⟩
  · intro p hp x hx hor rnd rnd1 sat sat1 r r1 hr hr1
    rcases (List.mem_append (s := formatPairs) (t := integerPairs)).1 hp with h | h
    · obtain ⟨hmem, hs, ht, hw⟩ := widens_of_mem h
      have hnan : isNaN (decodeVal (fmtOrF32 p.1) x) = false := by
        refine hor.resolve_left fun hint => ?_
        revert hint hmem
        cases p.1 <;> decide
      rw [convertElem_formats hs ht, convertElem_formats ht hs]
      exact fConvert_fConvert hw (reads_decodeVal hmem hx hnan) sat sat1 hr hr1
    · obtain ⟨hs, ht, hw⟩ := widensInt_of_mem h
      exact convertElem_back hs ht hw hx sat sat1 hr hr1

end Sys2Proof
end
